-- ==== Sys2Proof/Word.lean ====
section
/-! DEFINITION. Words, and the one sparse map that every large store of the model uses: a list of
(key, value) pairs with strictly rising keys, in which no pair holds the value that an unlisted key reads as. -/

namespace Sys2Proof

/-- A 64-bit register or doubleword. -/
abbrev Word := BitVec 64

/-- A byte of memory. -/
abbrev Byte := BitVec 8

/-- A sparse store: (key, value) pairs, keys strictly rising. -/
abbrev Sparse (α : Type) := List (Nat × α)

/-- The value at key `k`, or `d` where the store lists none. -/
def Sparse.get {α : Type} (d : α) : Sparse α → Nat → α
  | [], _ => d
  | (k', v) :: m, k => if k = k' then v else Sparse.get d m k

/-- The value at key `k`, if the store lists one. -/
def Sparse.find {α : Type} : Sparse α → Nat → Option α
  | [], _ => none
  | (k', v) :: m, k => if k = k' then some v else Sparse.find m k

/-- List `v` at key `k`, whatever `v` is. -/
def Sparse.put {α : Type} : Sparse α → Nat → α → Sparse α
  | [], k, v => [(k, v)]
  | (k', v') :: m, k, v =>
    if k < k' then (k, v) :: (k', v') :: m
    else if k = k' then (k, v) :: m
    else (k', v') :: Sparse.put m k v

/-- List nothing at key `k`. -/
def Sparse.drop {α : Type} (m : Sparse α) (k : Nat) : Sparse α := m.filter fun c => c.1 != k

/-- Store `v` at key `k`, keeping the store free of pairs that hold `d`. -/
def Sparse.set {α : Type} [DecidableEq α] (d : α) (m : Sparse α) (k : Nat) (v : α) : Sparse α :=
  if v = d then Sparse.drop m k else Sparse.put m k v

/-- Every key of the store is above `b`, and the keys rise strictly. -/
def Sparse.above {α : Type} : Nat → Sparse α → Bool
  | _, [] => true
  | b, (k, _) :: m => decide (b < k) && Sparse.above k m

/-- The keys rise strictly. -/
def Sparse.rising {α : Type} : Sparse α → Bool
  | [] => true
  | (k, _) :: m => Sparse.above k m

/-- The canonical form: keys rise strictly and no pair holds the default. -/
def Sparse.canon {α : Type} [DecidableEq α] (d : α) (m : Sparse α) : Bool :=
  Sparse.rising m && m.all fun c => decide (c.2 ≠ d)

/-- `n` read as a signed number of `w` bits. -/
def signed (n w : Nat) : Int := if n % 2 ^ w < 2 ^ (w - 1) then (n % 2 ^ w : Nat) else (n % 2 ^ w : Nat) - (2 ^ w : Nat)

/-- The low `w` bits of an integer. -/
def wrap (z : Int) (w : Nat) : Nat := (z % (2 ^ w : Nat)).toNat

/-- `z` clamped to `[lo, hi]`. -/
def clampInt (z lo hi : Int) : Int := if z < lo then lo else if hi < z then hi else z

/-- The quotient rounded up. -/
def ceilDiv (a b : Nat) : Nat := (a + b - 1) / b

/-- `a` rounded up to a multiple of `b`. -/
def roundUp (a b : Nat) : Nat := ceilDiv a b * b

end Sys2Proof
end

