-- ==== Sys2Proof/Config.lean ====
section
/-! DEFINITION. What one device fixes and the spec leaves open: constants and functions with no body, so that no
proof can lean on a value of them. -/

namespace Sys2Proof.Config

/-- DESIGN CHOICE (entry 4). Arithmetic-clock cycles that pass before the step numbered by the argument. -/
opaque freeCycles : Nat → Nat

/-- DESIGN CHOICE (entry 4). Nanoseconds that pass before the step numbered by the argument. -/
opaque freeNanos : Nat → Nat

/-- Core-counter events of timing (L1 misses, TLB misses; R343) that pass before the step, per core and event code. -/
opaque freeEvents : Nat → Nat → Nat → Nat

/-- A value that the spec leaves open, one for each reading of the model's free-value counter (entry 10). -/
opaque freeValue : Nat → Nat

/-- The product form is the HG-4M rather than the HG-4 (R1). -/
opaque isModule : Bool

/-- DESIGN CHOICE (entry 59). What a byte beyond the ports holds in the step numbered by the first argument, by its place. -/
opaque outerByte : Nat → Nat → Nat

/-- DESIGN CHOICE (entry 59). What the host answers to a Translation Request for a page that a unit of the device needs:
bit 0 grants R, bit 1 grants W, and the rest is the host page (R327); by the number of invalidations so far, interface and page. -/
opaque hostPage : Nat → Nat → Nat → Nat

/-- DESIGN CHOICE (entry 59). Whether a peer package serves a place in a step: 0 it does, 1 no window admits the access,
anything else the package cannot be reached (R330). -/
opaque peerState : Nat → Nat → Nat

/-- The device stepping (R305, R362). -/
opaque stepping : BitVec 32

/-- One entry of the errata catalogue (R362). -/
structure Erratum where
  fixStep : BitVec 32
  sem : Bool
  cp : Bool
  swbit : BitVec 6
  id : BitVec 16
  deriving DecidableEq, Repr

/-- DESIGN CHOICE (entry 8). Whether the errata whose switch bits are set affect an instruction word, and what its legacy behaviour
leaves in a register, by those bits, the model's free-value counter and the number of the register (R363). -/
opaque legacyWord : BitVec 64 → BitVec 32 → Bool
opaque legacyValue : BitVec 64 → Nat → Nat → Nat

/-- What the firmware of a bring-up lists as errata, by the number of the bring-up: the catalogue is fixed from device reset until
the next reset (R362, R368). -/
opaque errata : Nat → List Erratum

/-- The firmware's SHA-384 measurement and security version (R369), by the number of the bring-up that read it from flash, whose
image an update may have replaced (R368). -/
opaque firmwareMeasurement : Nat → BitVec 384
opaque securityVersion : Nat → BitVec 32

/-- Signatures of a report by the RSA and the SLH-DSA identity key, which follow from the measurement (R369). -/
opaque rsaSign : BitVec 384 → List Nat → Nat
opaque slhSign : BitVec 384 → List Nat → Nat

/-- The certificates of the two identity keys, which follow from the measurement (R369). -/
opaque rsaCertificate : BitVec 384 → Nat
opaque slhCertificate : BitVec 384 → Nat

/-- Whether a pooled-memory port of an HG-4 is populated, by its number (R323). -/
opaque portPopulated : Nat → Bool

/-- The stores of a buffer image, in the internal encoding of the device's stepping (R308, R310, entry 9): virtual address, first
bit, bits and data of each. -/
opaque sbEntries : Nat → List (Nat × Nat × Nat × Nat)

/-- What a buffer image says of the open interval (entry 9): whether it touched a device-class page, the tiles that it changed,
and how many times in a row it failed. -/
opaque areaMarks : Nat → Bool × List Nat × Nat

/-- How many page requests the host lets the function of an interface have outstanding (R328, entry 28). -/
opaque pageAllocation : Nat → Nat

end Sys2Proof.Config
end

