-- ==== Sys2Proof/Syntax.lean ====
section
/-! DEFINITION. The instruction set of the HG-4: one constructor of `Instr` for each row of the opcode
table. The 293 words carry the fields of their format (02 R16, R20); the 66 event rows carry the operands
that the event's own rule gives it, as plain data. -/

namespace Sys2Proof

/-- Why a word that reached decode is no instruction: steps 1 to 3 of R27. -/
inductive WordFault where
  /-- OP is unlisted in R24 (ILLEGAL_MAJOR). -/
  | illegalMajor
  /-- The function code is unlisted in R25 (RESERVED_FN). -/
  | reservedFn
  /-- A must-be-zero field is nonzero or a field holds a reserved value (RESERVED_FIELD). -/
  | reservedField
  deriving DecidableEq, Repr

/-- Where a checked block of 64 words lies and what it holds (R335). -/
inductive BlockSite where
  /-- A clean copy in the L1 data cache, instruction cache or translation caches of a core. -/
  | cleanCopy (core : Nat)
  /-- The 512-byte block of home memory numbered `block`, in its die cache. -/
  | dieCache (block : Nat)
  /-- The store-buffer share of a hart. -/
  | storeBuffer (hart : Nat)
  /-- A physical vector register of the hart written in the open interval (span position, rename slot). -/
  | writtenVector (hart position slot : Nat)
  /-- A physical register of the hart that its checkpoint holds. -/
  | heldVector (hart : Nat)
  /-- A tile of the hart. -/
  | tile (hart z : Nat)
  /-- The shadow of a tile of the hart. -/
  | shadow (hart z : Nat)
  /-- The 512-byte block of a core's scratchpad numbered `block`. -/
  | scratch (core block : Nat)
  /-- Both copies of a live scalar register of the hart. -/
  | liveScalar (hart : Nat)
  /-- Both copies of a checkpoint word of the hart. -/
  | checkpointWord (hart : Nat)
  deriving DecidableEq, Repr

/-- What Teasel finds in one block (R334): the words whose horizontal check fails and the columns whose
vertical parity fails, with the macro of the core that holds the block and the number of the block in it. -/
structure BlockFinding where
  site : BlockSite
  core : Nat
  macroUnit : Nat
  words : List Nat
  cols : List Nat
  block : Nat
  deriving DecidableEq, Repr

/-- An element operation that a peer package sends to this device (R330). -/
inductive PeerOp where
  | read (bytes : Nat)
  /-- `mask` names the bits that the write stores (R395). -/
  | write (bytes value mask : Nat)
  /-- A linked read, which sets a scalar tag or a vector tag of the agent (R258). -/
  | link (bytes : Nat) (vector : Bool)
  | storeConditional (bytes : Nat) (vector : Bool) (value : BitVec 64)
  /-- The agent's links of one kind are cleared (R258). -/
  | unlink (vector : Bool)
  /-- A lock word is taken where it is free (R263). -/
  | lock (value : BitVec 64)
  | swap (value : BitVec 64)
  | fadd (value : BitVec 64)
  | fmin (value : BitVec 64)
  | fmax (value : BitVec 64)
  | fand (value : BitVec 64)
  | for_ (value : BitVec 64)
  deriving DecidableEq, Repr

/-- How bring-up ends (R368): the code of the step that fails, or none, and the cores that fail test. -/
structure BringUp where
  failCode : Option (BitVec 8)
  failedCores : List Nat
  deriving DecidableEq, Repr

/-- What the host answers to a request of the device (R238, R256). -/
inductive HostAnswer where
  /-- The data of a read, or the old value of an AtomicOp. -/
  | data (value : Nat)
  /-- A flushing read came back. -/
  | flushed
  /-- The host completed the request as Unsupported Request. -/
  | unsupported
  deriving DecidableEq, Repr

/-- What the debugger's memory view reads (R350): eight bytes through the hart's translation, or one
element of a tile through the tile window. -/
inductive ViewWindow where
  /-- The in-flight table; the address is an offset from 0x3000 of BAR0 (R350). -/
  | table
  /-- Control register `address` of the hart (R347). -/
  | register
  | memory
  | tile (z position : Nat)
  deriving DecidableEq, Repr

/-- A device register that the host writes and that has no row of its own (R5, R313, R316, R325, R339,
R347, R365, R370). -/
inductive RegTarget where
  /-- RELCFG at 0x0800 of the management BAR (R339). -/
  | relcfg
  /-- PWRCFG at 0x0900 of the management BAR (R365). -/
  | pwrcfg
  /-- The doubleword at `offset` of a VI's trust-list page (R370). -/
  | trust (vi offset : Nat)
  /-- LSTAT of a VI's port (R316). -/
  | lstat (vi : Nat)
  /-- EVHEAD of a VI's port (R316). -/
  | evhead (vi : Nat)
  /-- EVLOST of a VI's port (R316). -/
  | evlost (vi : Nat)
  /-- S1ROOT, which the interface's own driver writes (R321). -/
  | s1root (vi : Nat)
  /-- INVA of a VI (R325). -/
  | inva (vi : Nat)
  /-- DSEL of a VI (R347). -/
  | dsel (vi : Nat)
  /-- Control register `number` of the hart that DSEL of the VI selects (R347). -/
  | dbg (vi number : Nat)
  /-- Field `field` (0 base, 1 size, 2 permissions, 3 to 6 the source mask) of inbound window `window` (R330). -/
  | window (window field : Nat)
  /-- Where the driver placed the descriptor of queue `queue` of a VI (R280). -/
  | queueDescriptor (vi queue : Nat)
  /-- The event code of a cluster or die counter (R342). -/
  | sharedCounterEvent (die : Bool) (unit counter : Nat)
  /-- An offset of a BAR that reads zero: the write is ignored (R5, R313). -/
  | zeroRange
  deriving DecidableEq, Repr

/-- The instruction set: one constructor for each row of the opcode table. -/
inductive Instr where
  /-- sop.add (R59). -/
  | sopAdd (d : BitVec 5) (a : BitVec 5) (b : BitVec 5)
  /-- sop.sub (R59). -/
  | sopSub (d : BitVec 5) (a : BitVec 5) (b : BitVec 5)
  /-- sop.and (R59). -/
  | sopAnd (d : BitVec 5) (a : BitVec 5) (b : BitVec 5)
  /-- sop.or (R59). -/
  | sopOr (d : BitVec 5) (a : BitVec 5) (b : BitVec 5)
  /-- sop.xor (R59). -/
  | sopXor (d : BitVec 5) (a : BitVec 5) (b : BitVec 5)
  /-- sop.andn (R59). -/
  | sopAndn (d : BitVec 5) (a : BitVec 5) (b : BitVec 5)
  /-- sop.sll (R59). -/
  | sopSll (d : BitVec 5) (a : BitVec 5) (b : BitVec 5)
  /-- sop.srl (R59). -/
  | sopSrl (d : BitVec 5) (a : BitVec 5) (b : BitVec 5)
  /-- sop.sra (R59). -/
  | sopSra (d : BitVec 5) (a : BitVec 5) (b : BitVec 5)
  /-- sop.slt (R59). -/
  | sopSlt (d : BitVec 5) (a : BitVec 5) (b : BitVec 5)
  /-- sop.sltu (R59). -/
  | sopSltu (d : BitVec 5) (a : BitVec 5) (b : BitVec 5)
  /-- sop.min (R59). -/
  | sopMin (d : BitVec 5) (a : BitVec 5) (b : BitVec 5)
  /-- sop.max (R59). -/
  | sopMax (d : BitVec 5) (a : BitVec 5) (b : BitVec 5)
  /-- sop.minu (R59). -/
  | sopMinu (d : BitVec 5) (a : BitVec 5) (b : BitVec 5)
  /-- sop.maxu (R59). -/
  | sopMaxu (d : BitVec 5) (a : BitVec 5) (b : BitVec 5)
  /-- sop.mul (R59). -/
  | sopMul (d : BitVec 5) (a : BitVec 5) (b : BitVec 5)
  /-- sop.mulh (R59). -/
  | sopMulh (d : BitVec 5) (a : BitVec 5) (b : BitVec 5)
  /-- sop.mulhu (R59). -/
  | sopMulhu (d : BitVec 5) (a : BitVec 5) (b : BitVec 5)
  /-- sop.div (R60). -/
  | sopDiv (d : BitVec 5) (a : BitVec 5) (b : BitVec 5)
  /-- sop.divu (R60). -/
  | sopDivu (d : BitVec 5) (a : BitVec 5) (b : BitVec 5)
  /-- sop.rem (R60). -/
  | sopRem (d : BitVec 5) (a : BitVec 5) (b : BitVec 5)
  /-- sop.remu (R60). -/
  | sopRemu (d : BitVec 5) (a : BitVec 5) (b : BitVec 5)
  /-- sop.clz (R59). -/
  | sopClz (d : BitVec 5) (a : BitVec 5)
  /-- sop.ctz (R59). -/
  | sopCtz (d : BitVec 5) (a : BitVec 5)
  /-- sop.pop (R59). -/
  | sopPop (d : BitVec 5) (a : BitVec 5)
  /-- sopi.addi (R59). -/
  | sopiAddi (d : BitVec 5) (a : BitVec 5) (i : BitVec 12)
  /-- sopi.andi (R59). -/
  | sopiAndi (d : BitVec 5) (a : BitVec 5) (i : BitVec 12)
  /-- sopi.ori (R59). -/
  | sopiOri (d : BitVec 5) (a : BitVec 5) (i : BitVec 12)
  /-- sopi.xori (R59). -/
  | sopiXori (d : BitVec 5) (a : BitVec 5) (i : BitVec 12)
  /-- sopi.slti (R59). -/
  | sopiSlti (d : BitVec 5) (a : BitVec 5) (i : BitVec 12)
  /-- sopi.sltiu (R59). -/
  | sopiSltiu (d : BitVec 5) (a : BitVec 5) (i : BitVec 12)
  /-- sopi.slli (R59). -/
  | sopiSlli (d : BitVec 5) (a : BitVec 5) (i : BitVec 6)
  /-- sopi.srli (R59). -/
  | sopiSrli (d : BitVec 5) (a : BitVec 5) (i : BitVec 6)
  /-- sopi.srai (R59). -/
  | sopiSrai (d : BitVec 5) (a : BitVec 5) (i : BitVec 6)
  /-- sopi.muli (R59). -/
  | sopiMuli (d : BitVec 5) (a : BitVec 5) (i : BitVec 12)
  /-- lui (R61). -/
  | lui (d : BitVec 5) (i : BitVec 21)
  /-- ld.b (R63). -/
  | ldB (d : BitVec 5) (a : BitVec 5) (i : BitVec 12)
  /-- ld.bu (R63). -/
  | ldBu (d : BitVec 5) (a : BitVec 5) (i : BitVec 12)
  /-- ld.h (R63). -/
  | ldH (d : BitVec 5) (a : BitVec 5) (i : BitVec 12)
  /-- ld.hu (R63). -/
  | ldHu (d : BitVec 5) (a : BitVec 5) (i : BitVec 12)
  /-- ld.w (R63). -/
  | ldW (d : BitVec 5) (a : BitVec 5) (i : BitVec 12)
  /-- ld.wu (R63). -/
  | ldWu (d : BitVec 5) (a : BitVec 5) (i : BitVec 12)
  /-- ld.d (R63). -/
  | ldD (d : BitVec 5) (a : BitVec 5) (i : BitVec 12)
  /-- ld.ll (R63). -/
  | ldLl (d : BitVec 5) (a : BitVec 5) (i : BitVec 12)
  /-- ld.acq (R65). -/
  | ldAcq (d : BitVec 5) (a : BitVec 5) (p : BitVec 3)
  /-- st.b (R64). -/
  | stB (b : BitVec 5) (a : BitVec 5) (i : BitVec 12)
  /-- st.h (R64). -/
  | stH (b : BitVec 5) (a : BitVec 5) (i : BitVec 12)
  /-- st.w (R64). -/
  | stW (b : BitVec 5) (a : BitVec 5) (i : BitVec 12)
  /-- st.d (R64). -/
  | stD (b : BitVec 5) (a : BitVec 5) (i : BitVec 12)
  /-- st.rel (R65). -/
  | stRel (b : BitVec 5) (a : BitVec 5) (p : BitVec 3)
  /-- br.eq (R68). -/
  | brEq (a : BitVec 5) (b : BitVec 5) (i : BitVec 12)
  /-- br.ne (R68). -/
  | brNe (a : BitVec 5) (b : BitVec 5) (i : BitVec 12)
  /-- br.lt (R68). -/
  | brLt (a : BitVec 5) (b : BitVec 5) (i : BitVec 12)
  /-- br.ge (R68). -/
  | brGe (a : BitVec 5) (b : BitVec 5) (i : BitVec 12)
  /-- br.ltu (R68). -/
  | brLtu (a : BitVec 5) (b : BitVec 5) (i : BitVec 12)
  /-- br.geu (R68). -/
  | brGeu (a : BitVec 5) (b : BitVec 5) (i : BitVec 12)
  /-- jal (R69). -/
  | jal (d : BitVec 5) (i : BitVec 21)
  /-- jalr (R69). -/
  | jalr (d : BitVec 5) (a : BitVec 5) (i : BitVec 12)
  /-- ctl.crr (R70). -/
  | ctlCrr (d : BitVec 5) (i : BitVec 12)
  /-- ctl.crw (R70). -/
  | ctlCrw (d : BitVec 5) (a : BitVec 5) (i : BitVec 12)
  /-- ctl.crs (R70). -/
  | ctlCrs (d : BitVec 5) (a : BitVec 5) (i : BitVec 12)
  /-- ctl.crc (R70). -/
  | ctlCrc (d : BitVec 5) (a : BitVec 5) (i : BitVec 12)
  /-- sys.svc (R73). -/
  | sysSvc
  /-- sys.tret (R74). -/
  | sysTret
  /-- sys.idle (R75). -/
  | sysIdle
  /-- sys.fence (R242). -/
  | sysFence (k : BitVec 2) (p : BitVec 3)
  /-- sys.brk (R76). -/
  | sysBrk
  /-- sys.ipf (R205). -/
  | sysIpf (a : BitVec 5) (b : BitVec 5)
  /-- sys.scommit (R100). -/
  | sysScommit
  /-- sys.dinv (R77). -/
  | sysDinv (a : BitVec 5) (b : BitVec 5)
  /-- sys.dclean (R77). -/
  | sysDclean (a : BitVec 5) (b : BitVec 5)
  /-- sys.dflush (R77). -/
  | sysDflush (a : BitVec 5) (b : BitVec 5)
  /-- brot (R120). -/
  | brot (a : BitVec 5) (b : BitVec 5) (i : BitVec 12)
  /-- setvl (R83). -/
  | setvl (d : BitVec 5) (a : BitVec 5) (f : Bool) (i : BitVec 8)
  /-- mdset (R116). -/
  | mdset (g : BitVec 2) (n : BitVec 19)
  /-- samo.ll (R260). -/
  | samoLl (d : BitVec 5) (a : BitVec 5) (p : BitVec 3) (q : Bool) (r : Bool)
  /-- samo.sc (R260). -/
  | samoSc (d : BitVec 5) (a : BitVec 5) (b : BitVec 5) (p : BitVec 3) (q : Bool) (r : Bool)
  /-- samo.swap (R260). -/
  | samoSwap (d : BitVec 5) (a : BitVec 5) (b : BitVec 5) (p : BitVec 3) (q : Bool) (r : Bool)
  /-- samo.fadd (R260). -/
  | samoFadd (d : BitVec 5) (a : BitVec 5) (b : BitVec 5) (p : BitVec 3) (q : Bool) (r : Bool)
  /-- samo.fmin (R260). -/
  | samoFmin (d : BitVec 5) (a : BitVec 5) (b : BitVec 5) (p : BitVec 3) (q : Bool) (r : Bool)
  /-- samo.fmax (R260). -/
  | samoFmax (d : BitVec 5) (a : BitVec 5) (b : BitVec 5) (p : BitVec 3) (q : Bool) (r : Bool)
  /-- samo.fand (R260). -/
  | samoFand (d : BitVec 5) (a : BitVec 5) (b : BitVec 5) (p : BitVec 3) (q : Bool) (r : Bool)
  /-- samo.for (R260). -/
  | samoFor (d : BitVec 5) (a : BitVec 5) (b : BitVec 5) (p : BitVec 3) (q : Bool) (r : Bool)
  /-- valu.add (R137). -/
  | valuAdd (d : BitVec 5) (a : BitVec 5) (b : BitVec 5) (x : Bool) (y : Bool) (m : BitVec 2)
  /-- valu.sub (R137). -/
  | valuSub (d : BitVec 5) (a : BitVec 5) (b : BitVec 5) (x : Bool) (y : Bool) (m : BitVec 2)
  /-- valu.rsub (R137). -/
  | valuRsub (d : BitVec 5) (a : BitVec 5) (b : BitVec 5) (x : Bool) (y : Bool) (m : BitVec 2)
  /-- valu.and (R137). -/
  | valuAnd (d : BitVec 5) (a : BitVec 5) (b : BitVec 5) (x : Bool) (y : Bool) (m : BitVec 2)
  /-- valu.or (R137). -/
  | valuOr (d : BitVec 5) (a : BitVec 5) (b : BitVec 5) (x : Bool) (y : Bool) (m : BitVec 2)
  /-- valu.xor (R137). -/
  | valuXor (d : BitVec 5) (a : BitVec 5) (b : BitVec 5) (x : Bool) (y : Bool) (m : BitVec 2)
  /-- valu.andn (R137). -/
  | valuAndn (d : BitVec 5) (a : BitVec 5) (b : BitVec 5) (x : Bool) (y : Bool) (m : BitVec 2)
  /-- valu.sll (R137). -/
  | valuSll (d : BitVec 5) (a : BitVec 5) (b : BitVec 5) (x : Bool) (y : Bool) (m : BitVec 2)
  /-- valu.srl (R137). -/
  | valuSrl (d : BitVec 5) (a : BitVec 5) (b : BitVec 5) (x : Bool) (y : Bool) (m : BitVec 2)
  /-- valu.sra (R137). -/
  | valuSra (d : BitVec 5) (a : BitVec 5) (b : BitVec 5) (x : Bool) (y : Bool) (m : BitVec 2)
  /-- valu.min (R137). -/
  | valuMin (d : BitVec 5) (a : BitVec 5) (b : BitVec 5) (x : Bool) (y : Bool) (m : BitVec 2)
  /-- valu.max (R137). -/
  | valuMax (d : BitVec 5) (a : BitVec 5) (b : BitVec 5) (x : Bool) (y : Bool) (m : BitVec 2)
  /-- valu.minu (R137). -/
  | valuMinu (d : BitVec 5) (a : BitVec 5) (b : BitVec 5) (x : Bool) (y : Bool) (m : BitVec 2)
  /-- valu.maxu (R137). -/
  | valuMaxu (d : BitVec 5) (a : BitVec 5) (b : BitVec 5) (x : Bool) (y : Bool) (m : BitVec 2)
  /-- valu.mul (R137). -/
  | valuMul (d : BitVec 5) (a : BitVec 5) (b : BitVec 5) (x : Bool) (y : Bool) (m : BitVec 2)
  /-- valu.mulh (R137). -/
  | valuMulh (d : BitVec 5) (a : BitVec 5) (b : BitVec 5) (x : Bool) (y : Bool) (m : BitVec 2)
  /-- valu.mulhu (R137). -/
  | valuMulhu (d : BitVec 5) (a : BitVec 5) (b : BitVec 5) (x : Bool) (y : Bool) (m : BitVec 2)
  /-- valu.adds (R137). -/
  | valuAdds (d : BitVec 5) (a : BitVec 5) (b : BitVec 5) (x : Bool) (y : Bool) (m : BitVec 2)
  /-- valu.subs (R137). -/
  | valuSubs (d : BitVec 5) (a : BitVec 5) (b : BitVec 5) (x : Bool) (y : Bool) (m : BitVec 2)
  /-- valu.addsu (R137). -/
  | valuAddsu (d : BitVec 5) (a : BitVec 5) (b : BitVec 5) (x : Bool) (y : Bool) (m : BitVec 2)
  /-- valu.subsu (R137). -/
  | valuSubsu (d : BitVec 5) (a : BitVec 5) (b : BitVec 5) (x : Bool) (y : Bool) (m : BitVec 2)
  /-- valu.abs (R137). -/
  | valuAbs (d : BitVec 5) (a : BitVec 5) (x : Bool) (m : BitVec 2)
  /-- valu.mv (R137). -/
  | valuMv (d : BitVec 5) (a : BitVec 5) (x : Bool) (m : BitVec 2)
  /-- valu.merge (R137). -/
  | valuMerge (d : BitVec 5) (a : BitVec 5) (b : BitVec 5) (x : Bool) (y : Bool) (m : BitVec 2)
  /-- valu.eq (R137). -/
  | valuEq (d : BitVec 4) (a : BitVec 5) (b : BitVec 5) (x : Bool) (y : Bool) (m : BitVec 2)
  /-- valu.ne (R137). -/
  | valuNe (d : BitVec 4) (a : BitVec 5) (b : BitVec 5) (x : Bool) (y : Bool) (m : BitVec 2)
  /-- valu.lt (R137). -/
  | valuLt (d : BitVec 4) (a : BitVec 5) (b : BitVec 5) (x : Bool) (y : Bool) (m : BitVec 2)
  /-- valu.ltu (R137). -/
  | valuLtu (d : BitVec 4) (a : BitVec 5) (b : BitVec 5) (x : Bool) (y : Bool) (m : BitVec 2)
  /-- valu.le (R137). -/
  | valuLe (d : BitVec 4) (a : BitVec 5) (b : BitVec 5) (x : Bool) (y : Bool) (m : BitVec 2)
  /-- valu.leu (R137). -/
  | valuLeu (d : BitVec 4) (a : BitVec 5) (b : BitVec 5) (x : Bool) (y : Bool) (m : BitVec 2)
  /-- valux.add (R137). -/
  | valuxAdd (d : BitVec 5) (a : BitVec 5) (b : BitVec 5) (x : Bool) (m : BitVec 2)
  /-- valux.sub (R137). -/
  | valuxSub (d : BitVec 5) (a : BitVec 5) (b : BitVec 5) (x : Bool) (m : BitVec 2)
  /-- valux.rsub (R137). -/
  | valuxRsub (d : BitVec 5) (a : BitVec 5) (b : BitVec 5) (x : Bool) (m : BitVec 2)
  /-- valux.and (R137). -/
  | valuxAnd (d : BitVec 5) (a : BitVec 5) (b : BitVec 5) (x : Bool) (m : BitVec 2)
  /-- valux.or (R137). -/
  | valuxOr (d : BitVec 5) (a : BitVec 5) (b : BitVec 5) (x : Bool) (m : BitVec 2)
  /-- valux.xor (R137). -/
  | valuxXor (d : BitVec 5) (a : BitVec 5) (b : BitVec 5) (x : Bool) (m : BitVec 2)
  /-- valux.andn (R137). -/
  | valuxAndn (d : BitVec 5) (a : BitVec 5) (b : BitVec 5) (x : Bool) (m : BitVec 2)
  /-- valux.sll (R137). -/
  | valuxSll (d : BitVec 5) (a : BitVec 5) (b : BitVec 5) (x : Bool) (m : BitVec 2)
  /-- valux.srl (R137). -/
  | valuxSrl (d : BitVec 5) (a : BitVec 5) (b : BitVec 5) (x : Bool) (m : BitVec 2)
  /-- valux.sra (R137). -/
  | valuxSra (d : BitVec 5) (a : BitVec 5) (b : BitVec 5) (x : Bool) (m : BitVec 2)
  /-- valux.min (R137). -/
  | valuxMin (d : BitVec 5) (a : BitVec 5) (b : BitVec 5) (x : Bool) (m : BitVec 2)
  /-- valux.max (R137). -/
  | valuxMax (d : BitVec 5) (a : BitVec 5) (b : BitVec 5) (x : Bool) (m : BitVec 2)
  /-- valux.minu (R137). -/
  | valuxMinu (d : BitVec 5) (a : BitVec 5) (b : BitVec 5) (x : Bool) (m : BitVec 2)
  /-- valux.maxu (R137). -/
  | valuxMaxu (d : BitVec 5) (a : BitVec 5) (b : BitVec 5) (x : Bool) (m : BitVec 2)
  /-- valux.mul (R137). -/
  | valuxMul (d : BitVec 5) (a : BitVec 5) (b : BitVec 5) (x : Bool) (m : BitVec 2)
  /-- valux.mulh (R137). -/
  | valuxMulh (d : BitVec 5) (a : BitVec 5) (b : BitVec 5) (x : Bool) (m : BitVec 2)
  /-- valux.mulhu (R137). -/
  | valuxMulhu (d : BitVec 5) (a : BitVec 5) (b : BitVec 5) (x : Bool) (m : BitVec 2)
  /-- valux.adds (R137). -/
  | valuxAdds (d : BitVec 5) (a : BitVec 5) (b : BitVec 5) (x : Bool) (m : BitVec 2)
  /-- valux.subs (R137). -/
  | valuxSubs (d : BitVec 5) (a : BitVec 5) (b : BitVec 5) (x : Bool) (m : BitVec 2)
  /-- valux.addsu (R137). -/
  | valuxAddsu (d : BitVec 5) (a : BitVec 5) (b : BitVec 5) (x : Bool) (m : BitVec 2)
  /-- valux.subsu (R137). -/
  | valuxSubsu (d : BitVec 5) (a : BitVec 5) (b : BitVec 5) (x : Bool) (m : BitVec 2)
  /-- valux.mv (R137). -/
  | valuxMv (d : BitVec 5) (b : BitVec 5) (m : BitVec 2)
  /-- valux.merge (R137). -/
  | valuxMerge (d : BitVec 5) (a : BitVec 5) (b : BitVec 5) (x : Bool) (m : BitVec 2)
  /-- valux.eq (R137). -/
  | valuxEq (d : BitVec 4) (a : BitVec 5) (b : BitVec 5) (x : Bool) (m : BitVec 2)
  /-- valux.ne (R137). -/
  | valuxNe (d : BitVec 4) (a : BitVec 5) (b : BitVec 5) (x : Bool) (m : BitVec 2)
  /-- valux.lt (R137). -/
  | valuxLt (d : BitVec 4) (a : BitVec 5) (b : BitVec 5) (x : Bool) (m : BitVec 2)
  /-- valux.ltu (R137). -/
  | valuxLtu (d : BitVec 4) (a : BitVec 5) (b : BitVec 5) (x : Bool) (m : BitVec 2)
  /-- valux.le (R137). -/
  | valuxLe (d : BitVec 4) (a : BitVec 5) (b : BitVec 5) (x : Bool) (m : BitVec 2)
  /-- valux.leu (R137). -/
  | valuxLeu (d : BitVec 4) (a : BitVec 5) (b : BitVec 5) (x : Bool) (m : BitVec 2)
  /-- vfp.add (R138). -/
  | vfpAdd (d : BitVec 5) (a : BitVec 5) (b : BitVec 5) (x : Bool) (y : Bool) (m : BitVec 2)
  /-- vfp.sub (R138). -/
  | vfpSub (d : BitVec 5) (a : BitVec 5) (b : BitVec 5) (x : Bool) (y : Bool) (m : BitVec 2)
  /-- vfp.mul (R138). -/
  | vfpMul (d : BitVec 5) (a : BitVec 5) (b : BitVec 5) (x : Bool) (y : Bool) (m : BitVec 2)
  /-- vfp.div (R138). -/
  | vfpDiv (d : BitVec 5) (a : BitVec 5) (b : BitVec 5) (x : Bool) (y : Bool) (m : BitVec 2)
  /-- vfp.sqrt (R138). -/
  | vfpSqrt (d : BitVec 5) (a : BitVec 5) (x : Bool) (m : BitVec 2)
  /-- vfp.min (R138). -/
  | vfpMin (d : BitVec 5) (a : BitVec 5) (b : BitVec 5) (x : Bool) (y : Bool) (m : BitVec 2)
  /-- vfp.max (R138). -/
  | vfpMax (d : BitVec 5) (a : BitVec 5) (b : BitVec 5) (x : Bool) (y : Bool) (m : BitVec 2)
  /-- vfp.sgnj (R138). -/
  | vfpSgnj (d : BitVec 5) (a : BitVec 5) (b : BitVec 5) (x : Bool) (y : Bool) (m : BitVec 2)
  /-- vfp.sgnjn (R138). -/
  | vfpSgnjn (d : BitVec 5) (a : BitVec 5) (b : BitVec 5) (x : Bool) (y : Bool) (m : BitVec 2)
  /-- vfp.sgnjx (R138). -/
  | vfpSgnjx (d : BitVec 5) (a : BitVec 5) (b : BitVec 5) (x : Bool) (y : Bool) (m : BitVec 2)
  /-- vfp.eq (R138). -/
  | vfpEq (d : BitVec 4) (a : BitVec 5) (b : BitVec 5) (x : Bool) (y : Bool) (m : BitVec 2)
  /-- vfp.lt (R138). -/
  | vfpLt (d : BitVec 4) (a : BitVec 5) (b : BitVec 5) (x : Bool) (y : Bool) (m : BitVec 2)
  /-- vfp.le (R138). -/
  | vfpLe (d : BitVec 4) (a : BitVec 5) (b : BitVec 5) (x : Bool) (y : Bool) (m : BitVec 2)
  /-- vfp.class (R138). -/
  | vfpClass (d : BitVec 5) (a : BitVec 5) (x : Bool) (m : BitVec 2)
  /-- vfp.rec (R138). -/
  | vfpRec (d : BitVec 5) (a : BitVec 5) (x : Bool) (m : BitVec 2)
  /-- vfp.rsq (R138). -/
  | vfpRsq (d : BitVec 5) (a : BitVec 5) (x : Bool) (m : BitVec 2)
  /-- vfp.exp2 (R138). -/
  | vfpExp2 (d : BitVec 5) (a : BitVec 5) (x : Bool) (m : BitVec 2)
  /-- vfp.log2 (R138). -/
  | vfpLog2 (d : BitVec 5) (a : BitVec 5) (x : Bool) (m : BitVec 2)
  /-- vfpx.add (R138). -/
  | vfpxAdd (d : BitVec 5) (a : BitVec 5) (b : BitVec 5) (x : Bool) (m : BitVec 2)
  /-- vfpx.sub (R138). -/
  | vfpxSub (d : BitVec 5) (a : BitVec 5) (b : BitVec 5) (x : Bool) (m : BitVec 2)
  /-- vfpx.mul (R138). -/
  | vfpxMul (d : BitVec 5) (a : BitVec 5) (b : BitVec 5) (x : Bool) (m : BitVec 2)
  /-- vfpx.div (R138). -/
  | vfpxDiv (d : BitVec 5) (a : BitVec 5) (b : BitVec 5) (x : Bool) (m : BitVec 2)
  /-- vfpx.min (R138). -/
  | vfpxMin (d : BitVec 5) (a : BitVec 5) (b : BitVec 5) (x : Bool) (m : BitVec 2)
  /-- vfpx.max (R138). -/
  | vfpxMax (d : BitVec 5) (a : BitVec 5) (b : BitVec 5) (x : Bool) (m : BitVec 2)
  /-- vfpx.sgnj (R138). -/
  | vfpxSgnj (d : BitVec 5) (a : BitVec 5) (b : BitVec 5) (x : Bool) (m : BitVec 2)
  /-- vfpx.sgnjn (R138). -/
  | vfpxSgnjn (d : BitVec 5) (a : BitVec 5) (b : BitVec 5) (x : Bool) (m : BitVec 2)
  /-- vfpx.sgnjx (R138). -/
  | vfpxSgnjx (d : BitVec 5) (a : BitVec 5) (b : BitVec 5) (x : Bool) (m : BitVec 2)
  /-- vfpx.eq (R138). -/
  | vfpxEq (d : BitVec 4) (a : BitVec 5) (b : BitVec 5) (x : Bool) (m : BitVec 2)
  /-- vfpx.lt (R138). -/
  | vfpxLt (d : BitVec 4) (a : BitVec 5) (b : BitVec 5) (x : Bool) (m : BitVec 2)
  /-- vfpx.le (R138). -/
  | vfpxLe (d : BitVec 4) (a : BitVec 5) (b : BitVec 5) (x : Bool) (m : BitVec 2)
  /-- vfma.madd (R139). -/
  | vfmaMadd (d : BitVec 5) (a : BitVec 5) (b : BitVec 5) (c : BitVec 5) (x : Bool) (y : Bool) (w : Bool) (m : BitVec 2)
  /-- vfma.nmadd (R139). -/
  | vfmaNmadd (d : BitVec 5) (a : BitVec 5) (b : BitVec 5) (c : BitVec 5) (x : Bool) (y : Bool) (w : Bool) (m : BitVec 2)
  /-- vfms.msub (R139). -/
  | vfmsMsub (d : BitVec 5) (a : BitVec 5) (b : BitVec 5) (c : BitVec 5) (x : Bool) (y : Bool) (w : Bool) (m : BitVec 2)
  /-- vfms.nmsub (R139). -/
  | vfmsNmsub (d : BitVec 5) (a : BitVec 5) (b : BitVec 5) (c : BitVec 5) (x : Bool) (y : Bool) (w : Bool) (m : BitVec 2)
  /-- vimac.macc (R139). -/
  | vimacMacc (d : BitVec 5) (a : BitVec 5) (b : BitVec 5) (c : BitVec 5) (x : Bool) (y : Bool) (w : Bool) (m : BitVec 2)
  /-- vimac.nmsac (R139). -/
  | vimacNmsac (d : BitVec 5) (a : BitVec 5) (b : BitVec 5) (c : BitVec 5) (x : Bool) (y : Bool) (w : Bool) (m : BitVec 2)
  /-- vcvt.i2f (R141). -/
  | vcvtI2f (d : BitVec 5) (a : BitVec 5) (x : Bool) (m : BitVec 2)
  /-- vcvt.u2f (R141). -/
  | vcvtU2f (d : BitVec 5) (a : BitVec 5) (x : Bool) (m : BitVec 2)
  /-- vcvt.f2i (R141). -/
  | vcvtF2i (d : BitVec 5) (a : BitVec 5) (x : Bool) (m : BitVec 2)
  /-- vcvt.f2u (R141). -/
  | vcvtF2u (d : BitVec 5) (a : BitVec 5) (x : Bool) (m : BitVec 2)
  /-- vcvt.fwid (R141). -/
  | vcvtFwid (d : BitVec 5) (a : BitVec 5) (x : Bool) (m : BitVec 2)
  /-- vcvt.fnar (R142). -/
  | vcvtFnar (d : BitVec 5) (a : BitVec 5) (x : Bool) (m : BitVec 2)
  /-- vcvt.iwid (R141). -/
  | vcvtIwid (d : BitVec 5) (a : BitVec 5) (x : Bool) (m : BitVec 2)
  /-- vcvt.uwid (R141). -/
  | vcvtUwid (d : BitVec 5) (a : BitVec 5) (x : Bool) (m : BitVec 2)
  /-- vcvt.inar (R141). -/
  | vcvtInar (d : BitVec 5) (a : BitVec 5) (x : Bool) (m : BitVec 2)
  /-- vcvt.bscale (R141). -/
  | vcvtBscale (d : BitVec 5) (a : BitVec 5) (b : BitVec 5) (x : Bool) (y : Bool) (m : BitVec 2)
  /-- vcvt.quant (R143). -/
  | vcvtQuant (d : BitVec 5) (a : BitVec 5) (b : BitVec 5) (x : Bool) (y : Bool) (m : BitVec 2)
  /-- vcvt.dequant (R143). -/
  | vcvtDequant (d : BitVec 5) (a : BitVec 5) (b : BitVec 5) (x : Bool) (y : Bool) (m : BitVec 2)
  /-- vcvt.frnd (R141). -/
  | vcvtFrnd (d : BitVec 5) (a : BitVec 5) (x : Bool) (m : BitVec 2)
  /-- vcvt.pack (R141). -/
  | vcvtPack (d : BitVec 5) (a : BitVec 5) (x : Bool) (m : BitVec 2)
  /-- vcvt.unpack (R141). -/
  | vcvtUnpack (d : BitVec 5) (a : BitVec 5) (x : Bool) (m : BitVec 2)
  /-- vpred.and (R117). -/
  | vpredAnd (d : BitVec 4) (a : BitVec 4) (b : BitVec 4) (m : BitVec 2)
  /-- vpred.or (R117). -/
  | vpredOr (d : BitVec 4) (a : BitVec 4) (b : BitVec 4) (m : BitVec 2)
  /-- vpred.xor (R117). -/
  | vpredXor (d : BitVec 4) (a : BitVec 4) (b : BitVec 4) (m : BitVec 2)
  /-- vpred.andn (R117). -/
  | vpredAndn (d : BitVec 4) (a : BitVec 4) (b : BitVec 4) (m : BitVec 2)
  /-- vpred.not (R117). -/
  | vpredNot (d : BitVec 4) (a : BitVec 4) (m : BitVec 2)
  /-- vpred.set (R117). -/
  | vpredSet (d : BitVec 4) (m : BitVec 2)
  /-- vpred.clr (R117). -/
  | vpredClr (d : BitVec 4) (m : BitVec 2)
  /-- vpred.first (R117). -/
  | vpredFirst (d : BitVec 4) (a : BitVec 4) (m : BitVec 2)
  /-- vpred.cnt (R117). -/
  | vpredCnt (d : BitVec 4) (a : BitVec 4) (m : BitVec 2)
  /-- vpred.mv (R117). -/
  | vpredMv (d : BitVec 4) (a : BitVec 4) (m : BitVec 2)
  /-- vperm.perm (R150). -/
  | vpermPerm (d : BitVec 5) (a : BitVec 5) (b : BitVec 5) (x : Bool) (y : Bool) (m : BitVec 2)
  /-- vperm.slup (R150). -/
  | vpermSlup (d : BitVec 5) (a : BitVec 5) (b : BitVec 5) (x : Bool) (m : BitVec 2)
  /-- vperm.sldn (R150). -/
  | vpermSldn (d : BitVec 5) (a : BitVec 5) (b : BitVec 5) (x : Bool) (m : BitVec 2)
  /-- vperm.sl1up (R150). -/
  | vpermSl1up (d : BitVec 5) (a : BitVec 5) (b : BitVec 5) (x : Bool) (m : BitVec 2)
  /-- vperm.sl1dn (R150). -/
  | vpermSl1dn (d : BitVec 5) (a : BitVec 5) (b : BitVec 5) (x : Bool) (m : BitVec 2)
  /-- vperm.rshp (R151). -/
  | vpermRshp (d : BitVec 5) (a : BitVec 5) (b : BitVec 5) (x : Bool) (y : Bool) (m : BitVec 2)
  /-- vperm.xch (R152). -/
  | vpermXch (d : BitVec 5) (a : BitVec 5) (b : BitVec 5) (x : Bool) (y : Bool) (m : BitVec 2)
  /-- vperm.bcast (R150). -/
  | vpermBcast (d : BitVec 5) (b : BitVec 5) (m : BitVec 2)
  /-- vperm.ext (R150). -/
  | vpermExt (d : BitVec 5) (a : BitVec 5) (b : BitVec 5) (x : Bool) (m : BitVec 2)
  /-- vperm.ins (R150). -/
  | vpermIns (d : BitVec 5) (a : BitVec 5) (b : BitVec 5) (m : BitVec 2)
  /-- vred.sum (R154). -/
  | vredSum (d : BitVec 5) (a : BitVec 5) (b : BitVec 5) (x : Bool) (m : BitVec 2)
  /-- vred.fsum (R155). -/
  | vredFsum (d : BitVec 5) (a : BitVec 5) (b : BitVec 5) (x : Bool) (m : BitVec 2)
  /-- vred.min (R154). -/
  | vredMin (d : BitVec 5) (a : BitVec 5) (b : BitVec 5) (x : Bool) (m : BitVec 2)
  /-- vred.max (R154). -/
  | vredMax (d : BitVec 5) (a : BitVec 5) (b : BitVec 5) (x : Bool) (m : BitVec 2)
  /-- vred.minu (R154). -/
  | vredMinu (d : BitVec 5) (a : BitVec 5) (b : BitVec 5) (x : Bool) (m : BitVec 2)
  /-- vred.maxu (R154). -/
  | vredMaxu (d : BitVec 5) (a : BitVec 5) (b : BitVec 5) (x : Bool) (m : BitVec 2)
  /-- vred.fmin (R154). -/
  | vredFmin (d : BitVec 5) (a : BitVec 5) (b : BitVec 5) (x : Bool) (m : BitVec 2)
  /-- vred.fmax (R154). -/
  | vredFmax (d : BitVec 5) (a : BitVec 5) (b : BitVec 5) (x : Bool) (m : BitVec 2)
  /-- vred.and (R154). -/
  | vredAnd (d : BitVec 5) (a : BitVec 5) (b : BitVec 5) (x : Bool) (m : BitVec 2)
  /-- vred.or (R154). -/
  | vredOr (d : BitVec 5) (a : BitVec 5) (b : BitVec 5) (x : Bool) (m : BitVec 2)
  /-- vred.xor (R154). -/
  | vredXor (d : BitVec 5) (a : BitVec 5) (b : BitVec 5) (x : Bool) (m : BitVec 2)
  /-- vscan.sum (R157). -/
  | vscanSum (d : BitVec 5) (a : BitVec 5) (b : BitVec 5) (x : Bool) (m : BitVec 2) (h : Bool)
  /-- vscan.fsum (R157). -/
  | vscanFsum (d : BitVec 5) (a : BitVec 5) (b : BitVec 5) (x : Bool) (m : BitVec 2) (h : Bool)
  /-- vscan.min (R157). -/
  | vscanMin (d : BitVec 5) (a : BitVec 5) (b : BitVec 5) (x : Bool) (m : BitVec 2) (h : Bool)
  /-- vscan.max (R157). -/
  | vscanMax (d : BitVec 5) (a : BitVec 5) (b : BitVec 5) (x : Bool) (m : BitVec 2) (h : Bool)
  /-- vscan.fmin (R157). -/
  | vscanFmin (d : BitVec 5) (a : BitVec 5) (b : BitVec 5) (x : Bool) (m : BitVec 2) (h : Bool)
  /-- vscan.fmax (R157). -/
  | vscanFmax (d : BitVec 5) (a : BitVec 5) (b : BitVec 5) (x : Bool) (m : BitVec 2) (h : Bool)
  /-- vsel.cmpr (R159). -/
  | vselCmpr (d : BitVec 5) (a : BitVec 5) (x : Bool) (m : BitVec 2)
  /-- vsel.expd (R159). -/
  | vselExpd (d : BitVec 5) (a : BitVec 5) (x : Bool) (m : BitVec 2)
  /-- vsel.topk (R160). -/
  | vselTopk (d : BitVec 5) (a : BitVec 5) (b : BitVec 5) (x : Bool) (m : BitVec 2)
  /-- vsel.topkm (R160). -/
  | vselTopkm (d : BitVec 4) (a : BitVec 5) (b : BitVec 5) (x : Bool) (m : BitVec 2)
  /-- vsel.iota (R159). -/
  | vselIota (d : BitVec 5) (m : BitVec 2)
  /-- vsel.isect (R161). -/
  | vselIsect (d : BitVec 5) (a : BitVec 5) (b : BitVec 5) (x : Bool) (y : Bool) (m : BitVec 2)
  /-- vsel.eqsplit (R162). -/
  | vselEqsplit (d : BitVec 5) (a : BitVec 5) (b : BitVec 5) (x : Bool) (y : Bool) (m : BitVec 2)
  /-- vrng.bits (R144). -/
  | vrngBits (d : BitVec 5) (m : BitVec 2)
  /-- vrng.unif (R144). -/
  | vrngUnif (d : BitVec 5) (m : BitVec 2)
  /-- vld.unit (R189). -/
  | vldUnit (d : BitVec 5) (a : BitVec 5) (m : BitVec 2)
  /-- vld.strd (R189). -/
  | vldStrd (d : BitVec 5) (a : BitVec 5) (b : BitVec 5) (m : BitVec 2)
  /-- vld.idx (R208). -/
  | vldIdx (d : BitVec 5) (a : BitVec 5) (b : BitVec 5) (y : Bool) (m : BitVec 2)
  /-- vld.seg (R187). -/
  | vldSeg (d : BitVec 5) (a : BitVec 5) (m : BitVec 2) (u : BitVec 3)
  /-- vld.tile (R194). -/
  | vldTile (d : BitVec 5) (a : BitVec 5) (b : BitVec 5) (m : BitVec 2)
  /-- vld.sp (R195). -/
  | vldSp (d : BitVec 5) (a : BitVec 5) (m : BitVec 2)
  /-- vld.spx (R196). -/
  | vldSpx (d : BitVec 5) (a : BitVec 5) (b : BitVec 5) (m : BitVec 2)
  /-- vld.fill (R122). -/
  | vldFill (d : BitVec 5) (a : BitVec 5)
  /-- vld.prb (R211). -/
  | vldPrb (d : BitVec 5) (a : BitVec 5) (b : BitVec 5) (y : Bool) (m : BitVec 2)
  /-- vst.unit (R189). -/
  | vstUnit (d : BitVec 5) (a : BitVec 5) (x : Bool) (m : BitVec 2)
  /-- vst.strd (R189). -/
  | vstStrd (d : BitVec 5) (a : BitVec 5) (b : BitVec 5) (x : Bool) (m : BitVec 2)
  /-- vst.idx (R208). -/
  | vstIdx (d : BitVec 5) (a : BitVec 5) (b : BitVec 5) (x : Bool) (y : Bool) (m : BitVec 2)
  /-- vst.seg (R187). -/
  | vstSeg (d : BitVec 5) (a : BitVec 5) (x : Bool) (m : BitVec 2) (u : BitVec 3)
  /-- vst.tile (R194). -/
  | vstTile (d : BitVec 5) (a : BitVec 5) (b : BitVec 5) (x : Bool) (m : BitVec 2)
  /-- vst.sp (R197). -/
  | vstSp (d : BitVec 5) (a : BitVec 5) (x : Bool) (m : BitVec 2)
  /-- vst.spx (R196). -/
  | vstSpx (d : BitVec 5) (a : BitVec 5) (b : BitVec 5) (x : Bool) (m : BitVec 2)
  /-- vst.spill (R122). -/
  | vstSpill (d : BitVec 5) (a : BitVec 5) (x : Bool)
  /-- vstr.sbind (R202). -/
  | vstrSbind (d : BitVec 2) (a : BitVec 5) (m : BitVec 2)
  /-- vstr.sunbind (R202). -/
  | vstrSunbind (d : BitVec 5) (m : BitVec 2)
  /-- vstr.sadv (R202). -/
  | vstrSadv (d : BitVec 5) (b : BitVec 5) (m : BitVec 2)
  /-- vatom.gld (R262). -/
  | vatomGld (d : BitVec 5) (a : BitVec 5) (b : BitVec 5) (y : Bool) (m : BitVec 2)
  /-- vatom.scc (R262). -/
  | vatomScc (d : BitVec 5) (a : BitVec 5) (b : BitVec 5) (x : Bool) (y : Bool) (m : BitVec 2)
  /-- vatom.lock (R263). -/
  | vatomLock (a : BitVec 5) (b : BitVec 5) (y : Bool)
  /-- vatom.unlock (R264). -/
  | vatomUnlock (a : BitVec 5) (b : BitVec 5) (y : Bool)
  /-- mop.mop (R177). -/
  | mopMop (z : BitVec 3) (a : BitVec 5) (b : BitVec 5) (s : BitVec 5) (t : BitVec 5) (x : Bool) (y : Bool)
  /-- mop.mopu (R175). -/
  | mopMopu (z : BitVec 3) (a : BitVec 5) (b : BitVec 5) (s : BitVec 5) (t : BitVec 5) (y : Bool)
  /-- mctl.mzero (R179). -/
  | mctlMzero (z : BitVec 3)
  /-- mctl.mdrain (R180). -/
  | mctlMdrain (d : BitVec 5) (a : BitVec 5) (z : BitVec 3) (m : BitVec 2)
  /-- mctl.mld (R181). -/
  | mctlMld (a : BitVec 5) (z : BitVec 3)
  /-- mctl.mst (R181). -/
  | mctlMst (a : BitVec 5) (z : BitVec 3)
  /-- mctl.mset (R179). -/
  | mctlMset (a : BitVec 5)
  /-- mctl.zwset (R169). -/
  | mctlZwset (a : BitVec 5) (z : BitVec 3)
  /-- eng.gsp (R217). -/
  | engGsp (d : BitVec 5) (a : BitVec 5) (b : BitVec 5) (c : BitVec 5) (o : BitVec 2) (e : BitVec 2)
  /-- eng.ssp (R217). -/
  | engSsp (d : BitVec 5) (a : BitVec 5) (b : BitVec 5) (c : BitVec 5) (o : BitVec 2) (e : BitVec 2)
  /-- eng.sadd (R220). -/
  | engSadd (d : BitVec 5) (a : BitVec 5) (b : BitVec 5) (c : BitVec 5) (o : BitVec 2) (e : BitVec 2)
  /-- eng.bapply (R221). -/
  | engBapply (d : BitVec 5) (a : BitVec 5) (b : BitVec 5) (c : BitVec 5) (o : BitVec 2) (e : BitVec 2)
  /-- cpe.cpy (R228). -/
  | cpeCpy (d : BitVec 5) (a : BitVec 5) (b : BitVec 5) (c : BitVec 4) (o : BitVec 2) (e : BitVec 2)
  /-- cpe.cwait (R230). -/
  | cpeCwait (d : BitVec 5) (a : BitVec 5) (o : Bool) (e : BitVec 2)
  /-- cpe.cptr (R230). -/
  | cpeCptr (d : BitVec 5) (a : BitVec 5)
  /-- cpe.cdrain (R230). -/
  | cpeCdrain (d : BitVec 5) (o : Bool) (e : BitVec 2)
  /-- bar.wait (R267). -/
  | barWait (d : BitVec 5) (a : BitVec 5) (b : BitVec 5) (o : BitVec 2) (e : BitVec 2)
  /-- bar.init (R268). -/
  | barInit (d : BitVec 5) (a : BitVec 5) (b : BitVec 5) (c : BitVec 5) (o : Bool) (e : BitVec 2)
  /-- bar.inv (R268). -/
  | barInv (a : BitVec 5) (o : Bool) (e : BitVec 2)
  /-- wl.push (R271). -/
  | wlPush (d : BitVec 5) (a : BitVec 5) (b : BitVec 5) (c : BitVec 5) (o : Bool) (e : BitVec 2)
  /-- wl.popb (R271). -/
  | wlPopb (d : BitVec 5) (a : BitVec 5) (b : BitVec 5) (c : BitVec 5) (o : Bool) (e : BitVec 2)
  /-- wl.dins (R271). -/
  | wlDins (d : BitVec 5) (a : BitVec 5) (b : BitVec 5) (c : BitVec 5) (o : Bool) (e : BitVec 2)
  /-- wl.cnt (R270). -/
  | wlCnt (d : BitVec 5) (a : BitVec 5) (o : Bool) (e : BitVec 2)
  /-- task.spawn (R287). -/
  | taskSpawn (d : BitVec 5) (a : BitVec 5) (b : BitVec 5) (c : BitVec 4) (o : Bool) (e : BitVec 2)
  /-- task.join (R288). -/
  | taskJoin (a : BitVec 5) (b : BitVec 5) (o : Bool) (e : BitVec 2)
  /-- task.dep (R289). -/
  | taskDep (d : BitVec 5) (a : BitVec 5) (b : BitVec 5)
  /-- task.exit (R290). -/
  | taskExit
  /-- trc.mark (R345). -/
  | trcMark (a : BitVec 5) (b : BitVec 5)
  /-- trc.latch (R345). -/
  | trcLatch (d : BitVec 5)
  /-- trc.ctrr (R345). -/
  | trcCtrr (d : BitVec 5) (a : BitVec 5) (b : BitVec 5)
  /-- SETVL_STREAM_GRANT (R83). -/
  | setvlStreamGrant (hart : Nat)
  /-- CODE_FILL_COMPLETE (R42). -/
  | codeFillComplete (obj : Nat) (page : Nat) (content : Option (List (BitVec 8)))
  /-- IDX_LINE_ARRIVAL (R208). -/
  | idxLineArrival (hart : Nat)
  /-- ARRAY_ACCEPT (R183). -/
  | arrayAccept (core : Nat)
  /-- ARRAY_RETIRE (R178). -/
  | arrayRetire (core : Nat) (mismatch : Bool)
  /-- CINCH_LANE_CHECK (R331). -/
  | cinchLaneCheck (hart : Nat) (mismatch : Bool)
  /-- TEASEL_SCRUB (R334). -/
  | teaselScrub (found : List BlockFinding)
  /-- TEASEL_BLOCK_REPAIR (R334). -/
  | teaselBlockRepair (found : BlockFinding)
  /-- DISTRIBUTOR_CHOICE (R282). -/
  | distributorChoice
  /-- SLICE_END (R283). -/
  | sliceEnd (hart : Nat)
  /-- VI_SLICE_END (R314). -/
  | viSliceEnd (hart : Nat)
  /-- PRE_WIN_EXPIRY (R301). -/
  | preWinExpiry (hart : Nat)
  /-- SAVE_COMPLETE (R302). -/
  | saveComplete (hart : Nat)
  /-- VECTOR_SEQUENCER_CHOICE (R285). -/
  | vectorSequencerChoice (core : Nat) (ready : List Nat)
  /-- JOIN_PUSH_RETRY (R279). -/
  | joinPushRetry (held : Nat)
  /-- LAUNCH_END (R274). -/
  | launchEnd (launch : Nat)
  /-- COPY_BURST (R225). -/
  | copyBurst (engine : Nat) (bytes : Nat)
  /-- COPY_COMPLETE (R228). -/
  | copyComplete (copy : Nat)
  /-- ENGINE_COMMAND_COMPLETE (R214). -/
  | engineCommandComplete (command : Nat)
  /-- STREAM_REFILL (R232). -/
  | streamRefill (hart : Nat) (stream : Nat) (count : Nat)
  /-- CPE_WAIT_RETURN (R230). -/
  | cpeWaitReturn (hart : Nat)
  /-- BARRIER_WAKE (R267). -/
  | barrierWake (hart : Nat)
  /-- LOCK_WORD_TAKE (R263). -/
  | lockWordTake (hart : Nat)
  /-- IDLE_WAKE (R75). -/
  | idleWake (hart : Nat)
  /-- IDLE_TIMEOUT (R75). -/
  | idleTimeout (hart : Nat)
  /-- ATS_TRANSLATION_COMPLETION (R327). -/
  | atsTranslationCompletion (vi : Nat) (page : Nat) (log2size : Nat) (host : Nat) (canRead : Bool) (canWrite : Bool)
  /-- PAGE_REQUEST_RESPONSE (R328). -/
  | pageRequestResponse (hart : Nat) (success : Bool)
  /-- PAGE_REQUEST_TIMEOUT (R328). -/
  | pageRequestTimeout (hart : Nat)
  /-- ATS_INVALIDATE_REQUEST (R326). -/
  | atsInvalidateRequest (vi : Nat) (page : Nat) (log2size : Nat)
  /-- INVALIDATION_COMPLETE (R326). -/
  | invalidationComplete (index : Nat)
  /-- HOST_POSTED_WRITE (R257). -/
  | hostPostedWrite (address : Nat) (bytes : List (BitVec 8))
  /-- PEER_ACCESS (R330). -/
  | peerAccess (package : Nat) (agent : Nat) (op : PeerOp) (address : Nat)
  /-- PEER_TIMEOUT (R330). -/
  | peerTimeout (request : Nat)
  /-- LATCH_TAKE (R344). -/
  | latchTake (index : Nat)
  /-- TRACE_SAMPLE (R346). -/
  | traceSample (hart : Nat) (slip : BitVec 2)
  /-- POWER_MANAGER_TICK (R365). -/
  | powerManagerTick (watts : Nat) (junctions : List Int)
  /-- CLOCK_STEP_UP (R365). -/
  | clockStepUp
  /-- THERMAL_TRIP (R367). -/
  | thermalTrip
  /-- POWER_LOSS (R368). -/
  | powerLoss
  /-- WAKE_N (R368). -/
  | wakeN (result : BringUp)
  /-- LATCH_N (R344). -/
  | latchN
  /-- TSYNC (R371). -/
  | tsync
  /-- ATTEST (R369). -/
  | attest (nonce : BitVec 256)
  /-- CERTS (R369). -/
  | certs
  /-- RESET (R368). -/
  | reset
  /-- TIMESET (R371). -/
  | timeset (value : BitVec 64)
  /-- STATUS (R371). -/
  | status
  /-- POWER (R371). -/
  | power (write : Option (BitVec 16 × BitVec 16))
  /-- LOAD_OBJECT (R50). -/
  | loadObject (vi : Nat) (image : List (BitVec 8)) (places : List Nat)
  /-- UNLOAD_OBJECT (R43). -/
  | unloadObject (vi : Nat) (obj : Nat)
  /-- LREC (R273). -/
  | lrec (vi : Nat) (address : BitVec 64)
  /-- KILLT (R316). -/
  | killt (vi : Nat) (task : BitVec 64)
  /-- TLB_INVALIDATE (R325). -/
  | tlbInvalidate (vi : Nat) (target : Nat) (size : BitVec 2) (stage2 : Bool)
  /-- TLB_INVALIDATE_VI (R325). -/
  | tlbInvalidateVi (vi : Nat) (target : Nat) (stage2 : Bool)
  /-- DEBUG_STOP (R348). -/
  | debugStop (vi : Nat) (hart : Nat)
  /-- STEP (R349). -/
  | step (vi : Nat) (hart : Nat)
  /-- RESUME (R347). -/
  | resume (vi : Nat) (hart : Nat)
  /-- DEBUG_MEMORY_VIEW_READ (R350). -/
  | debugMemoryViewRead (vi : Nat) (hart : Nat) (window : ViewWindow) (address : Nat)
  /-- DEBUG_MEMORY_VIEW_WRITE (R350). -/
  | debugMemoryViewWrite (vi : Nat) (hart : Nat) (address : Nat) (value : BitVec 64)
  /-- INTERFACE_TABLE_WRITE (R311). -/
  | interfaceTableWrite (vi : Nat) (offset : Nat) (value : BitVec 64)
  /-- FUNCTION_LEVEL_RESET (R317). -/
  | functionLevelReset (vi : Nat)
  /-- REGISTER_WRITE (R5). -/
  | registerWrite (target : RegTarget) (value : BitVec 64)
  /-- NOT_AN_INSTRUCTION (R27). -/
  | notAnInstruction (w : BitVec 32) (why : WordFault)
  /-- STIRRUP_ELEMENT_SERVICE (R217). -/
  | stirrupElementService (unit : Nat) (count : Nat)
  /-- HOST_PORT_COMPLETION (R238). -/
  | hostPortCompletion (request : Nat) (answer : HostAnswer)
  /-- PEER_ELEMENT_COMPLETION (R330). -/
  | peerElementCompletion (request : Nat) (answer : Option Nat)
  deriving DecidableEq, Repr

end Sys2Proof
end

