-- ==== Sys2Proof/Machine/State.lean ====
section
/-! DEFINITION. The state of one HG-4: every hart, core, virtual interface, queue, object, launch, engine
command, cache and device register that the spec names, as plain data, and the state after reset. -/

namespace Sys2Proof.Machine

/-- Why the machine stops. -/
inductive Fault where
  /-- Raised by `step` when the device is in FAULT and no event is due: the clock is stopped and every task is
  lost (R367). Safe: the hardware takes no step either. -/
  | clockStopped
  deriving DecidableEq, Repr

/-- Why an instruction has no meaning. -/
inductive Refusal where
  /-- Raised by an arm of `exec` whose instruction has no meaning yet. Safe: the model stops. -/
  | notModelled (mnemonic : String)
  deriving DecidableEq, Repr

/-! ## Where bytes live, and page classes -/

/-- The ordering class ORD of a page (R234). -/
inductive PageOrd where
  | releaseConsistent | strong | unordered
  deriving DecidableEq, Repr

/-- The place of one byte: the offset of a local home (space · 2^48 + offset, R322), host memory behind the host
port (R327), another package (R330), or a core's scratchpad (R195). -/
inductive Loc where
  | home (addr : Nat)
  | host (vi addr : Nat)
  | peer (package addr : Nat)
  | scratch (core offset : Nat)
  deriving DecidableEq, Repr

/-- A translated address with the attributes of its page (R234, R319, R327). -/
structure Page where
  loc : Loc
  ord : PageOrd
  device : Bool
  sysat : Bool
  canRead : Bool
  canWrite : Bool
  deriving DecidableEq, Repr

/-- What one package carries (R2). A package of the known-good-die kit carries other counts; the defaults are those of
the HG-4 (R1, R8, R10). No step changes it. -/
structure Build where
  /-- Compute dies. -/
  dies : Nat := 4
  /-- I/O dies, each with four copy engines, an instance of Stirrup and two pooled-memory ports; the host port is on the
  first (R10, R224). -/
  ioDies : Nat := 2
  /-- HBM4E stacks, three on each compute die (R322). -/
  hbmStacks : Nat := 12
  /-- Bytes of second tier, or of pooled memory (R1, R322). -/
  tier2 : Nat := 1024 * 10 ^ 9
  /-- The package's number, bits 59:52 of its own physical addresses (R322, entry 61). -/
  package : Nat := 0
  deriving DecidableEq, Repr

/-- Compute cores: 256 on a die (R8). -/
def Build.cores (b : Build) : Nat := 256 * b.dies

/-- Hart slots: four on a core (R8). -/
def Build.harts (b : Build) : Nat := 4 * b.cores

/-- Clusters: sixteen on a die (R8). -/
def Build.clusters (b : Build) : Nat := 16 * b.dies

/-- How many instances of Stirrup a package has: one for each HBM4E stack and one for each I/O die (R10, R206). -/
def Build.stirrups (b : Build) : Nat := b.hbmStacks + b.ioDies

/-- Copy engines, numbered from those of the compute dies: six on each, and four on each I/O die (R10, R224). -/
def Build.engines (b : Build) : Nat := 6 * b.dies + 4 * b.ioDies

/-- The populated pooled-memory ports in port order: two on each I/O die (R10, R323). -/
def Build.pooledPorts (b : Build) : List Nat := (List.range (2 * b.ioDies)).filter Config.portPopulated

/-- The package power limit that PWRCFG.PLIM resets to (R12, R365). DESIGN CHOICE (entry 61): for another count of cores, stacks or
I/O dies, the parts of R12's budget scale with the count that each is of. -/
def Build.powerLimit (b : Build) : Nat :=
  1680 * b.cores / 1024 + 420 * b.hbmStacks / 12 + 300 * b.ioDies / 2 + (if Config.isModule then 200 else 0)

/-- Home memory: the bytes of the HBM4E stacks and the second tier, the modified bytes that the die caches hold
over them (R10, R77), and the poisoned 64-byte blocks by number, in memory and among the die-cache copies (R335). An
unlisted byte reads 0 (entry 3). -/
structure Memory where
  cells : List Host.Cell := []
  cache : Sparse Byte := []
  poison : Sparse Bool := []
  cachePoison : Sparse Bool := []
  deriving DecidableEq, Repr

/-! ## The task on a hart slot -/

/-- The registers of the open strip that a checkpoint holds (R71, R98, R101). -/
structure Strip where
  vl : Word := 0
  vtype : BitVec 12 := 0
  sord : Word := 0
  saddr : Word := 0
  gvl : Word := 0
  trimc : BitVec 8 := 0
  trimi : Word := 0
  fflags : BitVec 5 := 0
  rngs : Word := 0
  deriving DecidableEq, Repr

/-- The trap registers (R71, R293); `handler` is TSTAT.HM. -/
structure Trap where
  tcause : BitVec 8 := 0
  tpc : Word := 0
  tvstart : Word := 0
  tval : Word := 0
  tvec : Word := 0
  tscratch : Word := 0
  handler : Bool := false
  deriving DecidableEq, Repr

/-- The rename map and what it names: the rotation offsets (R119), the vector registers by span position · 32 +
rename slot, each as one number of VLENB · 8 bits (R107), and the predicates by span position · 16 + slot (R111). -/
structure Files where
  vrot : BitVec 4 := 0
  prot : BitVec 3 := 0
  v : Sparse Nat := []
  p : Sparse Nat := []
  deriving DecidableEq, Repr

/-- The hart's side of the matrix array (R165 to R168, R174): MVL, ZW by tile, UFD by number, and tile elements by
((span position · 8 + tile) · 64 + row) · 64 + column. -/
structure Matrix where
  mvl : BitVec 7 := 64
  zw : Sparse Word := []
  ufd : Sparse Word := []
  tiles : Sparse (BitVec 32) := []
  deriving DecidableEq, Repr

/-- An operation in the hart's array queue (R177, R178): the registers as read at issue, one number for each k-slice
of each span position; for `mopu` x[A] and the descriptor; the state that acceptance fixes once `accepted`, with the row that the Cinch row checks
on each span core (R332). `reported` names the cores whose share is done; a later `zwset` has replaced the ZW that the
entry reports to when `replaced` is set (R179). -/
structure ArrayEntry where
  pc : Word
  sord : Word
  tile : Nat
  slices : Nat
  unfold : Option (Word × Word × Word)
  a : List Nat
  b : List Nat
  scaleA : Option (List Nat)
  scaleB : Option (List Nat)
  rm : BitVec 3
  buffered : Nat
  accepted : Bool
  zw : Word
  mvl : Nat
  padding : List Nat
  rows : List Nat := []
  reported : List Nat := []
  replaced : Bool := false
  /-- INSTRET at issue: the place in the in-flight table (R350). -/
  age : Word := 0
  deriving DecidableEq, Repr

/-- One buffered store of one element, or of one part of an element that crosses a page (R94, R191, R395): `bits`
bits of `data` from bit `bit` of the byte at `loc`, stored through virtual address `va`. -/
structure SbEntry where
  loc : Loc
  bit : Nat
  bits : Nat
  data : Nat
  ord : PageOrd
  device : Bool
  va : Nat
  /-- A Stirrup instance performs it at the commit (R208). -/
  served : Bool := false
  deriving DecidableEq, Repr

/-- A bound stream (R201, R203, R232): group base register, descriptor address and fields, position, the elements filled
from pattern index `first` on, and the causes that filling met, by pattern index. `age` is the number of the next command
when it was bound: its place among the items that wait for a copy engine (R225, entry 65). -/
structure Stream where
  group : Nat
  desc : Word
  base : Word
  count : Nat
  ext0 : Nat
  ext1 : Nat
  str0 : Word
  str1 : Word
  str2 : Word
  ewc : Nat
  pos : Nat
  first : Nat
  filled : List Nat
  faults : List (Nat × BitVec 8)
  age : Nat := 0
  deriving DecidableEq, Repr

/-- What makes an interval fail (R333, R335, R338). -/
inductive Failure where
  /-- A Cinch mismatch. -/
  | mismatch
  /-- A lost block that held work of the interval. -/
  | lostBlock
  /-- A lost block that held checkpoint state. -/
  | lostCheckpoint
  /-- A lost scratchpad block that the array read (R335). -/
  | lostScratch
  deriving DecidableEq, Repr

/-- A gather whose lines have not all arrived (R208, R350): PC and SORD of its instruction, whether it is a probe,
the vector register slots that its group fills, and INSTRET at issue. Its elements [`from_`, `to_`) of `width` bits, `share` on
each core in registers of `bits` bits, are still to come; they come one element group at a time. `old` and `new` hold what each slot
of each span position, by position · 32 + slot, held before it and holds with it (R209). -/
structure Gather where
  pc : Word
  sord : Word
  probe : Bool
  slots : List Nat
  age : Word := 0
  from_ : Nat := 0
  to_ : Nat := 0
  width : Nat := 8
  share : Nat := 1
  bits : Nat := 0
  old : List (Nat × Nat) := []
  new : List (Nat × Nat) := []
  deriving DecidableEq, Repr

/-- Marks of the open commit interval (R99, R109, R110, R331, R338): slots written first in it, whether it touched a
device-class page, the tiles that it changed, its failure, checks outstanding as (span position, lane), and how many times in
a row it failed from the same checkpoint. -/
structure Marks where
  vFirst : List Nat := []
  pFirst : List Nat := []
  device : Bool := false
  tiles : List Nat := []
  failed : Option Failure := none
  checks : List (Nat × Nat) := []
  failures : Nat := 0
  deriving DecidableEq, Repr

/-- The checkpoint of R98, R185, R204 and R295. -/
structure Ckpt where
  mask : BitVec 32 := 0
  x : Sparse Word := []
  pc : Word := 0
  vstart : Word := 0
  strip : Strip := {}
  modes : Sparse (BitVec 24) := []
  files : Files := {}
  matrix : Matrix := {}
  trap : Trap := {}
  streams : List Stream := []
  deriving DecidableEq, Repr

/-- The start attributes of a task (R276). -/
structure Start where
  ckmask : BitVec 32 := 0xFFFFFFFE
  poolpart : BitVec 32 := 0
  tiles : Nat := 0
  span : BitVec 8 := 0
  flags : BitVec 3 := 0
  errata : Word := 0
  rtbase : Word := 0
  deriving DecidableEq, Repr

/-- An entry of the completion table (R226): `n` is the achieved length, and WPTR of a running copy (R229). For the in-flight
table (R350) it keeps PC, SORD and INSTRET at issue, and whether a `cwait` or `cptr` has read the record. -/
structure Completion where
  seq : Nat
  copy : Bool
  n : Nat
  cause : BitVec 8
  complete : Bool
  pc : Word := 0
  sord : Word := 0
  age : Word := 0
  read : Bool := false
  deriving DecidableEq, Repr

/-- The task of a hart slot: identity, origin, queue, engine sequence, locks and save area (R226, R264, R276, R284,
R304). `launch` names its launch when it is a launched task and `root` the launch that it descends from (R43). -/
structure Task where
  id : Word := 0
  vi : Nat := 0
  queue : Nat := 0
  prio : Nat := 0
  weight : Nat := 1
  frame : Word := 0
  joinp : Word := 0
  level : Nat := 0
  lpath : Sparse (BitVec 32) := []
  spawnk : Nat := 0
  start : Start := {}
  launch : Option Nat := none
  root : Option Nat := none
  seq : Nat := 0
  seqBase : Nat := 0
  ctab : Sparse Completion := []
  locks : List Nat := []
  /-- The barrier and the phase of a pending `bar.wait`: its arrival is recorded (R267, R307). -/
  pending : Option (Word × Word) := none
  /-- The barrier of the pending `bar.wait` broke while the hart waited: it resumes with -1 (R268). -/
  broke : Bool := false
  /-- The address of the save area that the task holds (R304). -/
  area : Option Nat := none
  /-- The task has been resumed from its save area, which so holds what the registers held then (R308). -/
  resumed : Bool := false
  deriving DecidableEq, Repr

/-- What a hart waits for; `run` is none of these. -/
inductive Wait where
  | run
  /-- `setvl` in step 4 of R83: its fields. -/
  | streams (d a : BitVec 5) (first : Bool) (vtype : BitVec 8)
  /-- `cpe.cwait` for command `s` (R230). -/
  | cwait (d : BitVec 5) (s : Word) (acquire : Bool)
  /-- `cpe.cdrain` (R230). -/
  | cdrain (d : BitVec 5) (acquire : Bool)
  /-- `bar.wait` at phase `s` on the object at `va`, whose home line is `line`; `broken` once it broke (R267). -/
  | barrier (d : BitVec 5) (va : Word) (line : Loc) (s : Word) (acquire : Bool) (broken : Bool)
  /-- `sys.idle` since a value of CYCLE; `woken` once a store reached the linked line (R75). -/
  | idle (line : Option Loc) (woken : Bool) (since : Word)
  /-- `vatom.lock` in step 4 of R263: words to take, ascending, as (address, home), the trim that a cause asks for, the
  base address and the index register. -/
  | lock (todo : List (Nat × Loc)) (cause : Option (Nat × BitVec 8)) (base : Nat) (index : BitVec 5)
  /-- A fetch from a page whose fill is in progress (R42). -/
  | fetch (obj page : Nat)
  /-- Parked on a page of the host (R328) by the element at `ea`; `sent` once a page request slot was found, at the value of TIME
  `since`. -/
  | parked (va : Word) (sent : Bool) (since : Word) (ea : Word)
  /-- An answer of the host or of a peer package (R238, R327, R330). -/
  | answer
  /-- The completion of an engine or copy command of the task; the instruction is then performed again (R226, R288,
  R290). -/
  | command
  /-- The save of the context (R301, R302): STATE, SWC, and CYCLE at the request. -/
  | save (boundary : Bool) (swc : BitVec 8) (since : Word)
  deriving DecidableEq, Repr

/-- An answer that the hart's instruction, performed again, consumes (R238, R256, R330): the bytes asked for and
their value, or the cause. `kind`: 0 read, 1 atomic, 2 flush, 3 write. `tag` tells the accesses of one instruction to
one place apart. -/
structure Answer where
  kind : Nat
  loc : Loc
  bytes : Nat
  value : Nat
  cause : BitVec 8
  tag : Nat := 0
  deriving DecidableEq, Repr

/-- What has been written since task start or the last restore (R303): HWMB by span position · 48 + slot, and the
dirty predicate slots (position · 24 + slot), tiles and shadows. -/
structure Dirty where
  hwmb : Sparse Nat := []
  preds : Sparse Bool := []
  tiles : Sparse Bool := []
  shadows : Sparse Bool := []
  deriving DecidableEq, Repr

/-- Counters of a hart slot (R341, R342) and their shadows by counter number. -/
structure Counters where
  slips : Word := 0
  slipv : Word := 0
  slipm : Word := 0
  slotcyc : Word := 0
  beats : Word := 0
  arrcyc : Word := 0
  strips : Word := 0
  trims : Word := 0
  rewinds : Word := 0
  shadow : Sparse Word := []
  deriving DecidableEq, Repr

/-- Debug registers of a hart slot (R347). -/
structure Debug where
  claim : Bool := false
  trace : Bool := false
  sample : Bool := false
  haltReq : Bool := false
  /-- DCTL bit 0 as it was last written (R347). -/
  haltBit : Bool := false
  /-- CYCLE at the halt request (R348). -/
  haltSince : Word := 0
  /-- The element at which the running vector instruction meets the halt request, when it meets it (R88, R348). -/
  haltElement : Option Nat := none
  halted : Bool := false
  cause : BitVec 8 := 0
  stepping : Bool := false
  /-- The instruction of the debugger's step is over but for its acceptance by the array or the end of its wait (R349). -/
  stepped : Bool := false
  /-- A stop that waits until the earlier instructions and the checks of the interval are over (R348). -/
  stop : Option (BitVec 8) := none
  /-- The stop at the `setvl` at PC has been reported: it is not reported a second time (R348). -/
  passed : Bool := false
  trbase : Word := 0
  trcap : Word := 0
  trhead : Word := 0
  trtail : Word := 0
  trlost : Word := 0
  sper : Word := 0
  /-- SLOTCYC at the last sample (R346). -/
  sampledAt : Word := 0
  bps : Sparse Word := []
  bpo : Sparse Word := []
  deriving DecidableEq, Repr

/-- A pre-emption request raised against a hart (R299): its switch cause, the element at which the running vector
instruction meets it, when it meets one (R88), and CYCLE at the request. -/
structure Preempt where
  swc : BitVec 8
  element : Option Nat
  since : Word
  deriving DecidableEq, Repr

/-- One hart slot (R8). -/
structure Hart where
  live : Bool := false
  wait : Wait := .run
  x : Sparse Word := []
  pc : Word := 0
  vstart : Word := 0
  strip : Strip := {}
  achr : Word := 0
  achc : Word := 0
  ckmask : BitVec 32 := 0xFFFFFFFE
  ftrim : BitVec 5 := 0
  trap : Trap := {}
  modes : Sparse (BitVec 24) := []
  files : Files := {}
  matrix : Matrix := {}
  array : List ArrayEntry := []
  gathers : List Gather := []
  sb : List SbEntry := []
  sbused : Nat := 0
  ckpt : Ckpt := {}
  marks : Marks := {}
  streams : List Stream := []
  instret : Word := 0
  /-- Home core and the other cores of the span, in span position order (R277). -/
  span : List Nat := []
  /-- Hart slots of the span, in span position order. -/
  slots : List Nat := []
  task : Task := {}
  answers : List Answer := []
  /-- The line of the most recent `ld.ll` or `samo.ll` (R75). -/
  llLine : Option Loc := none
  dirty : Dirty := {}
  counters : Counters := {}
  dbg : Debug := {}
  preempt : Option Preempt := none
  /-- SLOTCYC at the start of the task's time slice (R283). -/
  slice : Word := 0
  /-- The class of R341 of the cycles in which the hart's next instruction waits, when a rule names one. -/
  stall : Option Nat := none
  /-- The instruction that waits is one that never trims (R147). -/
  whole : Bool := false
  /-- Register slots of the file that Teasel found lost while nothing read them, as (position, slot); slots from 48 on are
  those of held registers (R334, R335). -/
  lost : List (Nat × Nat) := []
  /-- The least span position that has left since the strip opened (R91, R98). -/
  shrunk : Option Nat := none
  /-- Step 3 of a commit is under way: some of its stores have been performed (R93). -/
  committing : Bool := false
  /-- That commit is an implicit one: the instruction at PC is no commit point (R94). -/
  implicit : Bool := false
  /-- The instruction at PC is a store that has placed its elements below VSTART (R94, R98). -/
  placing : Bool := false
  /-- The instruction at PC has issued and waits (R57). -/
  issued : Bool := false
  /-- Answers from outside that the refills of the hart's streams consume (R232). -/
  streamAnswers : List Answer := []
  deriving DecidableEq, Repr

/-- One core (R8): pool partition (R106), scratchpad (R195), lane selector (R331), array operations taken, the
panel that runs, and the array cycles charged to each queue by its weight, by VI · 256 + queue (R163, R183, R332), core counters (R343), and the vector sequencer (R285). -/
structure Core where
  poolpart : BitVec 32 := 0
  scratch : Sparse Byte := []
  /-- The 512-byte blocks of the scratchpad that Teasel marked lost (R334, R335). -/
  lost : List Nat := []
  laneSel : Nat := 0
  arrayOps : Nat := 0
  panel : Option (Nat × Nat × Nat) := none
  arrayV : Sparse Rat := []
  csel : Sparse (BitVec 8) := []
  ccnt : Sparse Word := []
  shadow : Sparse Word := []
  ltime : Word := 0
  lseq : Word := 0
  chosen : Option Nat := none
  used : Nat := 0
  /-- Harts in the order of their last issue, least recent first (R57). -/
  issued : List Nat := []
  /-- The harts that were candidates at the last choice (R285). -/
  ready : List Nat := []
  vh : Sparse Rat := []
  deriving DecidableEq, Repr

/-! ## Virtual interfaces, queues, objects and launches -/

/-- One virtual interface: the doublewords of its interface-table entry (R311, R321) and of its trust-list page
(R370), its port registers (R316, R325), its virtual time (R314), the addresses of the save areas in use (R304), where its queues'
descriptors lie (R280), and DSEL (R347). -/
structure Vi where
  table : Sparse Word := []
  /-- The entry as VI 0 has written it: the next distributor choice takes it (R311). -/
  staged : Sparse Word := []
  trust : Sparse Word := []
  status : BitVec 8 := 0
  /-- The address written to LREC, while the launch unit has not judged the record: BUSY (R316). -/
  lrec : Option Word := none
  dropped : Bool := false
  accepted : BitVec 32 := 0
  evhead : Word := 0
  evtail : Word := 0
  evlost : Word := 0
  inva : Word := 0
  invsDone : BitVec 32 := 0
  vtime : Rat := 0
  areas : List Nat := []
  descs : Sparse Word := []
  dsel : Word := 0
  nextTask : Nat := 1
  /-- The interface was a candidate at the last choice (R314). -/
  candidate : Bool := false
  /-- How many invalidations have covered the interface: what the host answers to a unit of the device holds between two (R327, entry
  59). -/
  atsEpoch : Nat := 0
  /-- OOS as it stood at the interface's last launch, by which its core ranks count (R315, R340). -/
  oosSeen : BitVec 1024 := 0
  deriving DecidableEq, Repr

/-- States of a loaded object (R43). -/
inductive ObjState where
  | loaded | refused
  deriving DecidableEq, Repr

/-- A mapped section (R38): virtual address, size, permissions, and the home address that the loader placed it at. -/
structure Section where
  addr : Nat
  size : Nat
  canRead : Bool
  canWrite : Bool
  place : Nat
  deriving DecidableEq, Repr

/-- A scratch section (R38): pool offset and size. -/
structure Scratch where
  addr : Nat
  size : Nat
  deriving DecidableEq, Repr

/-- A kernel of an object (R46): entry and SCRSIZE. -/
structure Kernel where
  entry : Nat
  scrsize : Nat
  deriving DecidableEq, Repr

/-- An object of a virtual interface (R36 to R50): its code region, page hashes, pages filled and being filled, the
words of its code frames by word number from CODEBASE, sections, kernels, and ERRATA switch bits. `warm` names the
harts whose `sys.ipf` started a fill (R205). -/
structure Object where
  id : Nat
  vi : Nat
  state : ObjState
  codebase : Nat
  npage : Nat
  hashes : List Nat
  filled : List Nat
  filling : List Nat
  words : Sparse (BitVec 32)
  sections : List Section
  scratches : List Scratch
  kernels : List Kernel
  errata : Word
  deriving DecidableEq, Repr

/-- An instance binding of a launch (R275): level, index prefix, and the unit's first core, core count and slot
(a hart domain binds one slot). -/
structure Binding where
  level : Nat
  path : List Nat
  firstCore : Nat
  cores : Nat
  slot : Option Nat
  deriving DecidableEq, Repr

/-- The launch unit's copy of an accepted launch (R272, R274): the record by doubleword, the queue entry it occupies,
how many tasks it has supplied and how many ended, its bindings and the first kill cause. -/
structure Launch where
  id : Nat
  vi : Nat
  record : Sparse Word
  errata : Word
  queue : Nat
  supplied : Nat
  ended : Nat
  poison : Option (BitVec 8)
  bindings : List Binding
  /-- The address of the page of the object at ENTRY that failed its hash: tasks of this descent that have not started are
  killed (R43). -/
  refused : Option Nat := none
  /-- The launch has ended (R274); it is still the descent of its tasks (R43). -/
  closed : Bool := false
  deriving DecidableEq, Repr

/-- A continuation held at its counter's home until its queue has room (R279): the slot by doubleword, x10, and the
launch that it descends from. -/
structure HeldPush where
  vi : Nat
  slot : Sparse Word
  status : BitVec 8
  root : Option Nat
  deriving DecidableEq, Repr

/-- What a queued slot hands to its start beside its 128 bytes (R43, R279): keyed by VI, queue and entry number (queue
256 with the counter's address for a continuation still on its counter), x10 and the launch that it descends from. -/
structure SlotNote where
  vi : Nat
  queue : Nat
  entry : Nat
  status : BitVec 8
  root : Option Nat
  deriving DecidableEq, Repr

/-- What a switched-out task keeps beside its save area: the stores of its buffer and the marks of its interval, which
the area holds in the device's own encoding (R308, entry 9), the CKMASK of its checkpoint, whether it was halted, its
origin (R43, R275), its area's address, the least span position that left its open interval (R98), and what a kill needs of
it where the area cannot be read (R296). A task that another package saved has none (R310). -/
structure Saved where
  vi : Nat
  task : Word
  sb : List SbEntry
  marks : Marks
  halted : Bool
  cause : BitVec 8
  launch : Option Nat
  root : Option Nat
  path : List Nat
  area : Nat
  mask : BitVec 32
  shrunk : Option Nat
  queue : Nat
  joinp : Word
  locks : List Nat
  handler : Bool
  pc : Word
  /-- VSTART of its checkpoint where it left at a commit (R98). -/
  ckvs : Word
  /-- The barrier of its pending `bar.wait` broke while it waited (R268). -/
  broke : Bool
  /-- Its completion table as it left (R350). -/
  ctab : Sparse Completion
  /-- The debugger's step was under way: the task halts with STEP after the instruction that it resumes at (R349). -/
  stepping : Bool
  /-- Some of the stores of its buffer have been performed by an invalidation (R394). -/
  committing : Bool := false
  deriving DecidableEq, Repr

/-! ## Engines -/

/-- The party that issued a command: interface, task, hart, core, and the values that tag its records (R218). -/
structure Issuer where
  vi : Nat
  task : Word
  hart : Nat
  core : Nat
  queue : Nat
  sord : Word
  lpath : Sparse (BitVec 32)
  spBytes : Nat
  deriving DecidableEq, Repr

/-- The four Stirrup functions with their descriptors (R215 to R220). -/
inductive EngKind where
  | gsp (tbase : Nat) (rowb nrow : Nat) (idxa spoff spitch swz : Nat)
  | ssp (tbase : Nat) (rowb nrow : Nat) (idxa spoff spitch swz : Nat)
  | sadd (tbase nrow rowe fmt log2br qbase qcap : Nat) (idxa vala vpitch : Nat) (vsp : Bool)
  | bapply (tbase nrow rowe fmt log2br qbase qcap bin : Nat)
  deriving DecidableEq, Repr

/-- A Stirrup command in flight (R212 to R214). `order` holds, for a started apply, the slots of its records in key
order; `started` is set once it took its bin. -/
structure Command where
  id : Nat
  by_ : Issuer
  pc : Word
  seq : Nat
  kind : EngKind
  count : Nat
  acquire : Bool
  release : Bool
  scope : BitVec 2
  joinp : Word
  done : Nat
  cause : Option (BitVec 8)
  started : Bool
  order : List Nat
  answers : List Answer
  /-- When it was last tried it waited, and so holds no request slot (R222). -/
  blocked : Bool := false
  deriving DecidableEq, Repr

/-- A destination line of a copy on its way to a peer: its bytes, their value and place, the cause that ends the copy behind it and the
source unit held then. It has been read and sent, and is neither again (R229). -/
structure CopyLine where
  bytes : Nat
  value : Nat
  loc : Loc
  cause : Option (BitVec 8)
  unit : Option (Nat × Nat)
  deriving DecidableEq, Repr

/-- A copy in flight (R228, R229); `engine` once a first burst bound it. `unit` is the aligned 8-byte unit of the source that
the last destination line ended inside, by its number, with its bytes: a unit is read once (R229). -/
structure Copy where
  id : Nat
  by_ : Issuer
  pc : Word
  seq : Nat
  dst : Nat
  src : Nat
  len : Nat
  acquire : Bool
  release : Bool
  scope : BitVec 2
  joinp : Word
  wptr : Nat
  cause : Option (BitVec 8)
  engine : Option Nat
  answers : List Answer
  unit : Option (Nat × Nat) := none
  line : Option CopyLine := none
  deriving DecidableEq, Repr

/-- Who waits for an answer from outside. The writes of a hart are its task's, wherever the task goes on (R239), and
`device` is a unit of the device that acts for an interface and waits for nothing. -/
inductive Owner where
  | hart (n : Nat)
  /-- The refills of the streams of a hart (R232). -/
  | stream (n : Nat)
  | task (vi : Nat) (id : Word)
  | device (vi : Nat)
  | command (id : Nat)
  | copy (id : Nat)
  deriving DecidableEq, Repr

/-- A request sent to the host or to a peer package (R238, R256, R330): `kind` 0 read, 1 atomic, 2 flush, 3 write,
4 translation, whose `value` says what it needs and whose `op` is 1 once an invalidation has covered it (R387), 5 the clearing of the
tags of hart `value`, scalar or (`op` 1) vector ones (R258). Of a write
`op` is the mask of the bits it stores (R395), and `strong` says that a later strongly ordered access waits for it (R240).
`broken` says that another write took the link which the port holds for an atomic operation (R256). `also` names the others that
wait for the same translation (R387). -/
structure ExtReq where
  id : Nat
  owner : Owner
  kind : Nat
  loc : Loc
  bytes : Nat
  value : Nat
  op : Nat
  strong : Bool := false
  broken : Bool := false
  also : List Owner := []
  deriving DecidableEq, Repr

/-- A write posted to host memory (R238, R257); `seq` is the number of the next request when it was posted, and `strong`
says that a later strongly ordered access of its owner waits for it (R240). -/
structure Posted where
  seq : Nat := 0
  owner : Owner
  vi : Nat
  addr : Nat
  bit : Nat
  bits : Nat
  data : Nat
  relaxed : Bool
  strong : Bool
  deriving DecidableEq, Repr

/-! ## Links, translation caches and the rest of the device -/

/-- A link tag at a home (R258): the agent (a hart, or a peer agent), the place of its 64-byte line, whether it belongs
to the vector set, and the place and value that the link read (R256). Of a tag that a peer package holds (R330) it is the hart's own
note. -/
structure Link where
  agent : Nat
  line : Loc
  vector : Bool
  place : Loc
  value : Nat
  deriving DecidableEq, Repr

/-- An entry of a core's TLB, or of a Stirrup instance's (numbered from 1,024) (R324). -/
structure TlbEntry where
  unit : Nat
  vi : Nat
  base : Nat
  size : Nat
  page : Page
  deriving DecidableEq, Repr

/-- An entry of IOD0's address translation cache (R327). -/
structure AtcEntry where
  vi : Nat
  base : Nat
  size : Nat
  host : Nat
  canRead : Bool
  canWrite : Bool
  deriving DecidableEq, Repr

/-- An invalidation in progress (R325, R326): from INVC of a VI, or from the host. -/
structure Inval where
  port : Option Nat
  vi : Nat
  base : Nat
  size : Nat
  whole : Bool
  stage2 : Bool
  deriving DecidableEq, Repr

/-- An inbound window for peers (R330). -/
structure Window where
  base : Word := 0
  size : Word := 0
  perms : Word := 0
  mask : Sparse Word := []
  deriving DecidableEq, Repr

/-- A unit whose fault events are counted (R339). -/
inductive FaultUnit where
  | lane (core n : Nat) | row (core n : Nat) | cinchLane (core : Nat) | cinchRow (core : Nat) | ram (core n : Nat)
  deriving DecidableEq, Repr

/-- A pending latch (R344): its time and the interface whose cores it covers, or every counter. -/
structure Latch where
  time : Nat
  vi : Option Nat
  deriving DecidableEq, Repr

/-- Replies to management commands and to the debugger (R350, R369, R371). -/
inductive Reply where
  | attest (nonce : BitVec 256) (measurement : BitVec 384) (version step : BitVec 32) (oos : BitVec 1024)
      (rsa slh : Nat)
  | certs (rsa slh : Nat)
  | status (state : Nat) (code : BitVec 8) (mhz : Nat) (junctions : List Int)
  | power (plim fmax : BitVec 16)
  | load (vi : Nat) (status : BitVec 8) (obj : Nat)
  | unload (vi : Nat) (status : BitVec 8)
  | view (value : Option Nat)
  | peer (package agent : Nat) (cause : BitVec 8) (value : Nat)
  | hostWrite (done : Bool)
  deriving DecidableEq, Repr

/-- Device states (R367, R368). -/
inductive PowerState where
  | off | ready | fault
  deriving DecidableEq, Repr

/-- Power, clock and management (R365 to R371). -/
structure Power where
  state : PowerState := .off
  code : BitVec 8 := 0
  alert : Bool := false
  thl : Bool := false
  pwl : Bool := false
  fcur : Nat := 3000
  fmax : Nat := 3000
  plim : Nat
  junctions : List Int := []
  /-- Nanoseconds since which power and every junction have been below their limits, or since the last step up (R365). -/
  calm : Nat := 0
  /-- The last reading was below every limit (R365). -/
  below : Bool := true
  /-- CYCLE and the value of the last write of PWRCFG by VI 0 (R371). -/
  written : Option (Word × Nat × Nat) := none
  timeset : Word := 0
  /-- Bring-ups so far: each reads the firmware anew, which an update may have replaced (R362, R368). -/
  boots : Nat := 0
  deriving DecidableEq, Repr

/-- `n` nanoseconds pass for the power manager, which count while the last reading was below the limits (R365). -/
def Power.pass (p : Power) (n : Nat) : Power := if p.below then { p with calm := p.calm + n } else p

/-- RELCFG (R339), each field as written. -/
structure RelCfg where
  window : BitVec 32 := 600
  rwlim : BitVec 4 := 4
  thresh : BitVec 8 := 4
  deriving DecidableEq, Repr

/-- Counters of a cluster or die (R342): values, event codes and shadows by counter, with their latch registers. -/
structure SharedCounters where
  values : Sparse Word := []
  events : Sparse Word := []
  shadow : Sparse Word := []
  ltime : Word := 0
  lseq : Word := 0
  deriving DecidableEq, Repr

/-- The MODEL'S OWN schedule (entry 2): which agent takes its turn next. -/
inductive Turn where
  /-- The hart performs its next instruction. -/
  | hart (n : Nat)
  /-- A core issues: of the harts named, which timing has made ready, the one that issued least recently (R57). -/
  | issue (ready : List Nat)
  /-- The event takes place. -/
  | event (i : Instr)
  /-- The launch unit judges the record that a write to LREC of an interface named (R316). -/
  | judge (vi : Nat)
  /-- A pooled-memory port reports a 64-byte block of the second tier as poisoned (R323). -/
  | portPoison (block : Nat)
  /-- A code frame of an object is taken for other use: its page is filled and checked again when it is next fetched (R42). -/
  | evict (obj page : Nat)
  /-- A core's TLB (or a Stirrup instance's cache) takes the translation of an address into its cache, or drops it. -/
  | tlbFill (unit vi va : Nat)
  | tlbDrop (unit vi va : Nat)
  /-- A core's L1 data cache takes a line, as a load that misses does, or drops one (R200). -/
  | l1Fill (core line : Nat)
  | l1Drop (core line : Nat)
  /-- A die cache writes a modified line back by itself. -/
  | writeBack (line : Nat)
  /-- A pending pre-emption request meets the hart's running vector instruction at an element (R88). -/
  | meet (hart element : Nat)
  deriving DecidableEq, Repr

/-- The state of one device. `agenda`, `cur`, `ir` and `free` are the MODEL'S OWN (entries 2, 4, 10): what acts
next, the hart whose instruction runs, the word that it runs, and the free-value counter. So are `steps` and `outer`
(entry 59): the number of the step, and the bytes beyond the ports that the step itself has written. -/
structure State where
  build : Build := {}
  power : Power
  cycle : Word := 0
  time : Word := 0
  agenda : List Turn := []
  cur : Nat := 0
  ir : BitVec 32 := 0
  free : Nat := 0
  steps : Nat := 0
  /-- Nanoseconds since reset by the device's own clock, which TSYNC does not set (R328, R339). -/
  uptime : Nat := 0
  outer : Sparse Byte := []
  harts : Sparse Hart := []
  cores : Sparse Core := []
  mem : Memory := {}
  vis : Sparse Vi := []
  queueV : Sparse Rat := []
  objects : List Object := []
  nextObj : Nat := 0
  launches : List Launch := []
  nextLaunch : Nat := 0
  held : List HeldPush := []
  notes : List SlotNote := []
  saves : List Saved := []
  commands : List Command := []
  copies : List Copy := []
  nextCmd : Nat := 0
  /-- Bytes that each copy engine has moved (R225), and elements that each Stirrup instance, numbered behind the engines, has accepted
  (R222), by unit · 2^16 + VI · 256 + queue. -/
  moved : Sparse Nat := []
  links : List Link := []
  tlb : List TlbEntry := []
  /-- The lines that the L1 data caches hold, byte by byte, by core · 2^52 + home address (R77, R200). -/
  l1 : Sparse Byte := []
  atc : List AtcEntry := []
  invals : List Inval := []
  windows : Sparse Window := []
  out : List ExtReq := []
  nextReq : Nat := 0
  posted : List Posted := []
  replies : List Reply := []
  latches : List Latch := []
  relcfg : RelCfg := {}
  oos : BitVec 1024 := 0
  events : List (FaultUnit × Nat) := []
  /-- The words that Teasel corrected, as (macro, block · 64 + word), each with the time (R335). -/
  corrections : List (FaultUnit × Nat × Nat) := []
  clusters : Sparse SharedCounters := []
  dies : Sparse SharedCounters := []
  deriving DecidableEq, Repr

/-- The machine right after reset: OFF, with every register at its reset value and nothing listed (R365, R368). -/
def State.reset : State := { power := { plim := ({} : Build).powerLimit } }

/-- The hart numbered `n`. -/
def State.hart (s : State) (n : Nat) : Hart := Sparse.get {} s.harts n

/-- The core numbered `n`. -/
def State.core (s : State) (n : Nat) : Core := Sparse.get {} s.cores n

/-- The virtual interface numbered `n`. -/
def State.vi (s : State) (n : Nat) : Vi := Sparse.get {} s.vis n

/-- The hart whose instruction runs. -/
def State.h (s : State) : Hart := s.hart s.cur

/-- Replace the hart numbered `n`. -/
def State.setHart (s : State) (n : Nat) (h : Hart) : State := { s with harts := Sparse.put s.harts n h }

/-- Replace the hart whose instruction runs. -/
def State.setH (s : State) (h : Hart) : State := s.setHart s.cur h

/-- Replace the core numbered `n`. -/
def State.setCore (s : State) (n : Nat) (c : Core) : State := { s with cores := Sparse.put s.cores n c }

/-- Replace the virtual interface numbered `n`. -/
def State.setVi (s : State) (n : Nat) (v : Vi) : State := { s with vis := Sparse.put s.vis n v }

end Sys2Proof.Machine
end

