-- ==== Sys2Proof/Machine/Memory.lean ====
section
/-! DEFINITION. Bytes at their homes: reads, writes, poison, die-cache copies, scratchpads, and what a write at a
home does to links, barriers and idle harts (R77, R238, R258, R268, R395). -/

namespace Sys2Proof.Machine

/-- The cause codes of R298. -/
def Cause.none : BitVec 8 := 0x00
def Cause.illegalMajor : BitVec 8 := 0x01
def Cause.reservedFn : BitVec 8 := 0x02
def Cause.reservedField : BitVec 8 := 0x03
def Cause.illegalType : BitVec 8 := 0x04
def Cause.illegalMode : BitVec 8 := 0x05
def Cause.privileged : BitVec 8 := 0x06
def Cause.tileUnallocated : BitVec 8 := 0x07
def Cause.fetchFault : BitVec 8 := 0x08
def Cause.codeHash : BitVec 8 := 0x09
def Cause.break_ : BitVec 8 := 0x0A
def Cause.svc : BitVec 8 := 0x0B
def Cause.renameLimit : BitVec 8 := 0x0C
def Cause.streamLimit : BitVec 8 := 0x0D
def Cause.handlerIllegal : BitVec 8 := 0x0E
def Cause.pageAbsent : BitVec 8 := 0x20
def Cause.pagePerm : BitVec 8 := 0x21
def Cause.misaligned : BitVec 8 := 0x22
def Cause.bound : BitVec 8 := 0x23
def Cause.deviceClassMisuse : BitVec 8 := 0x24
def Cause.poison : BitVec 8 := 0x25
def Cause.pageRequestFailed : BitVec 8 := 0x26
def Cause.noncanonical : BitVec 8 := 0x27
def Cause.fpNv : BitVec 8 := 0x40
def Cause.fpDz : BitVec 8 := 0x41
def Cause.fpOf : BitVec 8 := 0x42
def Cause.fpUf : BitVec 8 := 0x43
def Cause.fpNx : BitVec 8 := 0x44
def Cause.binRegionFull : BitVec 8 := 0x60
def Cause.wlSpillFull : BitVec 8 := 0x61
def Cause.copyPoison : BitVec 8 := 0x62
def Cause.seqUnknown : BitVec 8 := 0x63
def Cause.queueFull : BitVec 8 := 0x64
def Cause.joinUnderflow : BitVec 8 := 0x65
def Cause.cmdPending : BitVec 8 := 0x66
def Cause.binMalformed : BitVec 8 := 0x67
def Cause.checkUnrecoverable : BitVec 8 := 0x80
def Cause.sramUnrecoverable : BitVec 8 := 0x81
def Cause.coreRetired : BitVec 8 := 0x82
def Cause.checkpointLost : BitVec 8 := 0x83
def Cause.barrierBroken : BitVec 8 := 0xA0
def Cause.lockTableFull : BitVec 8 := 0xA1
def Cause.debugStop : BitVec 8 := 0xC0
def Cause.step : BitVec 8 := 0xC1
def Cause.stripBreak : BitVec 8 := 0xC2
def Cause.preempt : BitVec 8 := 0xE0
def Cause.sliceEnd : BitVec 8 := 0xE1
def Cause.spanShrink : BitVec 8 := 0xE2
def Cause.viReset : BitVec 8 := 0xE3
def Cause.saveFault : BitVec 8 := 0xE4
def Cause.killed : BitVec 8 := 0xE5

/-! ## Home memory -/

/-- The home is a die cache in front of HBM4E; other homes have no die-cache copy (R10, R77). -/
def isHbm (a : Nat) : Bool := a < 2 ^ 48

/-- The byte at home address `a`: the die cache's modified copy, else memory; an unlisted byte reads 0 (entry 3). -/
def Memory.byte (m : Memory) (a : Nat) : Byte :=
  if isHbm a then (Sparse.find m.cache a).getD (Sparse.get 0 m.cells a) else Sparse.get 0 m.cells a

/-- Write a byte at its home (R238). -/
def Memory.setByte (m : Memory) (a : Nat) (b : Byte) : Memory :=
  if isHbm a then { m with cache := Sparse.put m.cache a b } else { m with cells := Sparse.set 0 m.cells a b }

/-- `n` bytes from `a` up, little-endian (R3). -/
def Memory.read (m : Memory) (a : Nat) : Nat → Nat
  | 0 => 0
  | n + 1 => (m.byte a).toNat + 256 * Memory.read m (a + 1) n

/-- Write the low `n` bytes of `v` from `a` up, little-endian (R3). -/
def Memory.write (m : Memory) (a : Nat) (v : Nat) : Nat → Memory
  | 0 => m
  | n + 1 => Memory.write (m.setByte a (BitVec.ofNat 8 v)) (a + 1) (v / 256) n

/-- Merge `bits` bits of `data` from bit `bit` of the byte at `a` up, leaving every other bit as it is (R395). -/
def Memory.merge (m : Memory) (a bit bits data : Nat) : Memory :=
  if bit = 0 ∧ bits % 8 = 0 then m.write a data (bits / 8)
  else
    let n := ceilDiv (bit + bits) 8
    let old := m.read a n
    let keep := old % 2 ^ bit + old / 2 ^ (bit + bits) * 2 ^ (bit + bits)
    m.write a (keep + data % 2 ^ bits * 2 ^ bit) n

/-- One of the 64-byte blocks that `[a, a + n)` touches is poisoned, in memory or as a die-cache copy (R335). -/
def Memory.poisoned (m : Memory) (a n : Nat) : Bool :=
  n != 0 && (m.poison ++ m.cachePoison).any fun c => c.2 && (decide (a / 64 ≤ c.1) && decide (c.1 ≤ (a + n - 1) / 64))

/-- Poison the modified die-cache copy of the 64-byte block that holds `a` (R335). -/
def Memory.poisonCopy (m : Memory) (a : Nat) : Memory :=
  { m with cachePoison := Sparse.set false m.cachePoison (a / 64) true }

/-- The die cache holds a modified copy of the 64-byte block that holds `a`. -/
def Memory.modified (m : Memory) (a : Nat) : Bool := m.cache.any fun c => c.1 / 64 == a / 64

/-- Discard the die-cache copy of a line without writing it back, a poisoned copy included (R77). -/
def Memory.discardLine (m : Memory) (line : Nat) : Memory :=
  { m with
    cache := m.cache.filter fun c => c.1 / 64 != line / 64
    cachePoison := Sparse.drop m.cachePoison (line / 64) }

/-- Write the modified die-cache copy of a line to its memory, its poison with it (R77). -/
def Memory.cleanLine (m : Memory) (line : Nat) : Memory :=
  { cells := (m.cache.filter fun c => c.1 / 64 == line / 64).foldl (fun cs c => Sparse.set 0 cs c.1 c.2) m.cells
    cache := m.cache.filter fun c => c.1 / 64 != line / 64
    poison := if Sparse.get false m.cachePoison (line / 64) then Sparse.set false m.poison (line / 64) true else m.poison
    cachePoison := Sparse.drop m.cachePoison (line / 64) }

/-- The memory's canonical form: each list has strictly rising keys, and no listed cell reads as an unlisted one does. -/
def Memory.wf (m : Memory) : Bool :=
  Sparse.canon 0 m.cells && Sparse.rising m.cache && Sparse.canon false m.poison && Sparse.canon false m.cachePoison

/-! ## Places -/

/-- One number for every byte place, with the bytes of one space in a row. -/
def Loc.key : Loc → Nat
  | .home a => a
  | .scratch c o => 2 ^ 60 + c * 2 ^ 24 + o
  | .host v a => 2 ^ 72 + v * 2 ^ 64 + a
  | .peer p a => 2 ^ 80 + p * 2 ^ 64 + a

/-- The place `n` bytes further on. -/
def Loc.plus : Loc → Nat → Loc
  | .home a, n => .home (a + n)
  | .scratch c o, n => .scratch c (o + n)
  | .host v a, n => .host v (a + n)
  | .peer p a, n => .peer p (a + n)

/-- The place `n` bytes before. -/
def Loc.minus : Loc → Nat → Loc
  | .home a, n => .home (a - n)
  | .scratch c o, n => .scratch c (o - n)
  | .host v a, n => .host v (a - n)
  | .peer p a, n => .peer p (a - n)

/-- The pooled-memory port of a unit of 4 KiB of an HG-4's second tier: they go round the populated ports in port order (R323). -/
def Build.poolPort (b : Build) (u : Nat) : Nat := b.pooledPorts.getD (u % max 1 b.pooledPorts.length) 0

/-- The I/O die of a place (R11, R323, R327): the host port is on IOD0; second-tier units of 4 KiB alternate between the
I/O dies of an HG-4M, and go round the populated ports of an HG-4, of which ports 2 and 3 are on IOD1. DEDUCED (entry 60): a
peer is reached through the last I/O die, IOD1, whose Stirrup instance serves it (R206). -/
def Loc.ioDie (b : Build) : Loc → Nat
  | .home a =>
    let u := (a - 2 ^ 48) / 4096
    if Config.isModule then u % max 1 b.ioDies else b.poolPort u / 2
  | .peer .. => b.ioDies - 1
  | _ => 0

/-- The home that keeps the tags of a place: the die cache of a compute die for the lines of its three stacks (R10,
R322), the second-tier controller or pooled-memory port of a second-tier line (R323), the host port, a peer package's home
(R258, R330). -/
def Loc.homeUnit (b : Build) : Loc → Nat
  | .home a =>
    if isHbm a then a / 2 ^ 36 / 3
    else
      let u := (a - 2 ^ 48) / 4096
      2 ^ 19 + (if Config.isModule then u % max 1 b.ioDies else b.poolPort u)
  | .host .. => 2 ^ 20
  | .peer p _ => 2 ^ 21 + p
  | .scratch c _ => 2 ^ 22 + c

/-- The places whose tags the home sets while it serves the request, rather than the hart: those beyond a port. -/
def Loc.remote : Loc → Bool
  | .host .. => true
  | .peer .. => true
  | _ => false

/-- The package of a place in peer memory. -/
def Loc.package : Loc → Option Nat
  | .peer p _ => some p
  | _ => none

/-- The 64-byte line of a place. -/
def Loc.line : Loc → Loc
  | .home a => .home (a / 64 * 64)
  | .scratch c o => .scratch c (o / 64 * 64)
  | .host v a => .host v (a / 64 * 64)
  | .peer p a => .peer p (a / 64 * 64)

/-! ## Scratchpads -/

/-- `n` bytes of a core's scratchpad from offset `o` up. -/
def readScratch (sp : Sparse Byte) (o : Nat) : Nat → Nat
  | 0 => 0
  | n + 1 => (Sparse.get 0 sp o).toNat + 256 * readScratch sp (o + 1) n

/-- Write the low `n` bytes of `v` into a scratchpad from offset `o` up. -/
def writeScratch (sp : Sparse Byte) (o : Nat) (v : Nat) : Nat → Sparse Byte
  | 0 => sp
  | n + 1 => writeScratch (Sparse.set 0 sp o (BitVec.ofNat 8 v)) (o + 1) (v / 256) n

/-- Merge bits into a scratchpad byte run (R395). -/
def mergeScratch (sp : Sparse Byte) (o bit bits data : Nat) : Sparse Byte :=
  let n := ceilDiv (bit + bits) 8
  let old := readScratch sp o n
  let keep := old % 2 ^ bit + old / 2 ^ (bit + bits) * 2 ^ (bit + bits)
  writeScratch sp o (keep + data % 2 ^ bits * 2 ^ bit) n

/-! ## L1 data caches (R77, R200) -/

/-- The core of an L1 byte, and its home address. -/
def l1Core (k : Nat) : Nat := k / 2 ^ 52
def l1Home (k : Nat) : Nat := k % 2 ^ 52

/-- The byte at a home address as core `core` reads it: from its L1 data cache where that holds the line. DESIGN CHOICE (entry 79): the
model caches lines of local homes only, for loads of pages that are neither strongly ordered nor of device class. -/
def State.homeByte (s : State) (core : Option Nat) (a : Nat) : Byte :=
  (core.bind fun c => Sparse.find s.l1 (c * 2 ^ 52 + a)).getD (s.mem.byte a)

/-- `n` bytes from home address `a` up, as core `core` reads them, or as the home holds them. -/
def State.homeRead (s : State) (core : Option Nat) (a : Nat) : Nat → Nat
  | 0 => 0
  | n + 1 => (s.homeByte core a).toNat + 256 * s.homeRead core (a + 1) n

/-- The copies of a line that a write performed at its home leaves: those of the writer's own core, which the write updates
(R200, R238). -/
def dropCopies (l1 : Sparse Byte) (line : Loc) (keep : Option Nat) : Sparse Byte :=
  match line with
  | .home a => l1.filter fun c => l1Home c.1 / 64 != a / 64 || keep.any fun n => n / 4 == l1Core c.1
  | _ => l1

/-- A commit of hart `n` updates the copies that its core holds of the bytes `[a, a + k)` (R200). -/
def updateCopies (l1 : Sparse Byte) (m : Memory) (n : Option Nat) (a k : Nat) : Sparse Byte :=
  l1.map fun c =>
    if n.any (fun n => n / 4 == l1Core c.1) && decide (a ≤ l1Home c.1) && decide (l1Home c.1 < a + k) then (c.1, m.byte (l1Home c.1))
    else c

/-- Core `core` discards its copy of the line of a home address (R77). -/
def State.dropL1 (s : State) (core a : Nat) : State :=
  { s with l1 := s.l1.filter fun c => !(l1Core c.1 == core && l1Home c.1 / 64 == a / 64) }

/-! ## Writes performed at a home -/

/-- Clear the link tags and the L1 copies of a line; a commit of a hart's own buffered stores leaves that hart's tags (R258) and its
core's copy (R200). The tags of a line of a peer are its home's to clear (R330). -/
def clearLinks (s : State) (line : Loc) (keep : Option Nat) : State :=
  { s with
    links := s.links.filter fun l => l.line != line || keep == some l.agent || line.package.isSome
    l1 := dropCopies s.l1 line keep }

/-! ## The interface-table entry -/

/-- Doubleword `i` of the interface-table entry (R311). -/
def Vi.dw (v : Vi) (i : Nat) : Nat := (Sparse.get 0 v.table i).toNat

/-- The `bytes`-byte field at `off` of the entry. -/
def Vi.field (v : Vi) (off bytes : Nat) : Nat := v.dw (off / 8) / 2 ^ (off % 8 * 8) % 2 ^ (bytes * 8)

/-- TFLAGS (R321). -/
def Vi.tflags (v : Vi) : Nat := v.field 0xE4 1

/-- The ordering class that a 2-bit ORD value names; 3 is not allowed (R319). -/
def ordOf (n : Nat) : Option PageOrd :=
  match n with
  | 0 => some .releaseConsistent
  | 1 => some .strong
  | 2 => some .unordered
  | _ => none

/-- The ordering class of the host window's pages (R321, R327). -/
def Vi.windowOrd (v : Vi) : PageOrd := (ordOf (v.tflags / 32 % 4)).getD .releaseConsistent

/-- The ordering class under which a write of the device leaves for a place beyond the ports (R383). -/
def State.ordAt (s : State) (l : Loc) : PageOrd :=
  match l with
  | .host vi _ => (s.vi vi).windowOrd
  | _ => .unordered

/-! ## Links, barriers and writes -/

/-- A hart waits on the barrier whose line is `line`. -/
def Hart.waitsOn (h : Hart) (line : Loc) : Bool :=
  match h.wait with
  | .barrier _ _ l _ _ broken => h.live && l == line && !broken
  | _ => false

/-- Wake the harts that idle on the line (R75, R259). -/
def wakeIdle (s : State) (line : Loc) : State :=
  { s with harts := s.harts.map fun c =>
      match c.2.wait with
      | .idle (some l) _ t => if l = line then (c.1, { c.2 with wait := .idle (some l) true t }) else c
      | _ => c }

/-- A byte beyond the ports as this step finds it: what the step wrote there, else what the outside holds (entry 59). -/
def State.outerByte (s : State) (l : Loc) : Byte :=
  (Sparse.find s.outer l.key).getD (BitVec.ofNat 8 (Config.outerByte s.steps l.key))

/-- `n` bytes beyond the ports from place `l` up. -/
def State.outerRead (s : State) (l : Loc) : Nat → Nat
  | 0 => 0
  | n + 1 => (s.outerByte l).toNat + 256 * s.outerRead (l.plus 1) n

/-- The step has written `n` bytes beyond the ports from place `l` up. -/
def writeOuter (m : Sparse Byte) (l : Loc) (v : Nat) : Nat → Sparse Byte
  | 0 => m
  | n + 1 => writeOuter (Sparse.put m l.key (BitVec.ofNat 8 v)) (l.plus 1) (v / 256) n

/-- `n` bytes as the place holds them now (R238); beyond the ports, as this step finds them (entry 59). -/
def State.peek (s : State) (l : Loc) (n : Nat) : Nat :=
  match l with
  | .home a => s.mem.read a n
  | .scratch c o => readScratch (s.core c).scratch o n
  | _ => s.outerRead l n

/-- Send a request to a party outside for its owner. -/
def sendRequest (s : State) (o : Owner) (kind : Nat) (loc : Loc) (bytes value op : Nat) : State :=
  { s with out := s.out ++ [{ id := s.nextReq, owner := o, kind, loc, bytes, value, op }], nextReq := s.nextReq + 1 }

/-- The packages that hold tags of hart `n` among the links that satisfy `p`, with the kind of the tags. -/
def tagHolders (s : State) (n : Nat) (p : Link → Bool) : List (Nat × Bool) :=
  ((s.links.filter fun l => l.agent == n && p l).filterMap fun l => l.place.package.map fun k => (k, l.vector)).eraseDups

/-- Clear the tags of an agent that satisfy `p`; the packages that hold tags of a hart are told to clear them (R258, R330). -/
def dropTags (s : State) (n : Nat) (p : Link → Bool) : State :=
  (tagHolders s n p).foldl
    (fun s k => sendRequest s (.device (s.hart n).task.vi) 5 (.peer k.1 0) 0 n k.2.toNat)
    { s with links := s.links.filter fun l => !(l.agent == n && p l) }

/-- Clear both links of an agent (R258). -/
def dropLinks (s : State) (n : Nat) : State := dropTags s n fun _ => true

/-- A package has not yet cleared the tags of hart `n` that it was told to. -/
def unlinkPending (s : State) (n : Nat) : Bool := s.out.any fun r => r.kind == 5 && r.value == n

/-- A Translation Request of an owner for a page of the host window: the misses on it that are outstanding together share one
(R387). -/
def askTranslation (s : State) (o : Owner) (vi page need : Nat) : State :=
  let mine (r : ExtReq) : Bool := r.kind == 4 && r.loc == .host vi page
  if s.out.any mine then
    { s with out := s.out.map fun r =>
        if mine r then
          { r with value := r.value ||| need, also := if r.owner = o ∨ o ∈ r.also then r.also else r.also ++ [o] }
        else r }
  else sendRequest s o 4 (.host vi page) 4096 need 0

/-- The request once an owner waits for it no longer: a translation that others wait for stays. -/
def ExtReq.without (o : Owner) (r : ExtReq) : Option ExtReq :=
  let also := r.also.filter (· != o)
  if r.owner ≠ o then some { r with also }
  else match also with
    | [] => none
    | x :: rest => some { r with owner := x, also := rest }

/-- An owner waits for no answer any more. -/
def forget (s : State) (o : Owner) : State := { s with out := s.out.filterMap (ExtReq.without o) }

/-- A request of the lock unit for a word beyond the ports (R256, R263). -/
def ExtReq.locks (r : ExtReq) : Bool := r.kind == 1 && (r.op == 8 || r.op == 24)

/-- The lock requests of hart `n` in flight at the places that satisfy `p` are the device's from here on: a word that one still takes is
given back (R263). -/
def orphanLocks (s : State) (n : Nat) (p : Loc → Bool := fun _ => true) : State :=
  let o := Owner.device (s.hart n).task.vi
  { s with out := s.out.map fun r => if r.owner = .hart n ∧ r.locks = true ∧ p r.loc = true then { r with owner := o } else r }

/-- Hart `n` waits for no answer any more: its requests in flight end without effect on it (R336). -/
def forgetHart (s : State) (n : Nat) : State := forget (forget (orphanLocks s n) (.hart n)) (.stream n)

/-- A write on the line takes the link that the host port holds for an atomic operation on it (R256). -/
def breakClaims (s : State) (line : Loc) : State :=
  { s with out := s.out.map fun r => if r.kind = 1 ∧ r.loc.line = line then { r with broken := true } else r }

/-- A write of `bits` bits from bit `bit` of the byte at `l`, on a page of class `ord`, leaves for a place beyond the ports: a
posted write to host memory (R238, R257), with Relaxed Ordering on a release-consistent page (R383), or a request with its
bit mask to a peer (R330, R395). -/
def sendWrite (s : State) (o : Owner) (ord : PageOrd) (l : Loc) (bit bits data : Nat) : State :=
  let n := ceilDiv (bit + bits) 8
  let old := s.outerRead l n
  let keep := old % 2 ^ bit + old / 2 ^ (bit + bits) * 2 ^ (bit + bits)
  let s := { s with outer := writeOuter s.outer l (keep + data % 2 ^ bits * 2 ^ bit) n }
  match l with
  | .host vi addr => { s with
      posted := s.posted ++ [{ seq := s.nextReq, owner := o, vi, addr, bit, bits, data
                               relaxed := ord == .releaseConsistent, strong := ord == .strong }] }
  | .peer .. => { s with
      out := s.out ++ [{ id := s.nextReq, owner := o, kind := 3, loc := l, bytes := n, value := data % 2 ^ bits * 2 ^ bit
                         op := (2 ^ bits - 1) * 2 ^ bit, strong := ord == .strong }]
      nextReq := s.nextReq + 1 }
  | _ => s

/-- Release every waiter of the barrier with result -1 and set its STATUS (R268). -/
def breakBarrier (s : State) (line : Loc) : State :=
  let s := { s with
    harts := s.harts.map fun c =>
      match c.2.wait with
      | .barrier d va l p q _ => if l = line then (c.1, { c.2 with wait := .barrier d va l p q true }) else c
      | _ => c }
  match line with
  | .home a => { s with mem := s.mem.setByte (a + 5) Cause.barrierBroken }
  | l => sendWrite s (.device 0) (s.ordAt l) (l.plus 5) 0 8 Cause.barrierBroken.toNat

/-- A write to the line breaks a barrier that has waiters (R268). -/
def breakIfWaited (s : State) (line : Loc) : State :=
  if s.harts.any fun c => c.2.waitsOn line then breakBarrier s line else s

/-- What a write performed at home does to one line beside the bytes: it clears links, wakes idle harts and breaks a
barrier that has waiters (R75, R258, R268). -/
def touchLine (s : State) (keep : Option Nat) (line : Loc) : State :=
  breakIfWaited (wakeIdle (clearLinks s line keep) line) line

/-- The same for `n` lines from `line` up. -/
def touchLines (s : State) (keep : Option Nat) (line : Loc) : Nat → State
  | 0 => s
  | k + 1 => touchLines (touchLine s keep line) keep (line.plus 64) k

/-- The lines that `[a, a + n)` covers. -/
def lineCount (a n : Nat) : Nat := if n = 0 then 0 else (a + n - 1) / 64 - a / 64 + 1

/-- A write beyond the ports, with what it does to the lines at the port (R238, R256, R258, R268, R330). -/
def State.writeOut (s : State) (o : Owner) (keep : Option Nat) (ord : PageOrd) (l : Loc) (bit bits data : Nat) : State :=
  let s := breakClaims (sendWrite s o ord l bit bits data) l.line
  touchLines s keep l.line (lineCount (l.key % 64) (ceilDiv (bit + bits) 8))

/-- Perform a write of `n` bytes at home address `a` (R238, R258, R268). -/
def State.writeHome (s : State) (keep : Option Nat) (a v n : Nat) : State :=
  let mem := s.mem.write a v n
  touchLines { s with mem, l1 := updateCopies s.l1 mem keep a n } keep (.home (a / 64 * 64)) (lineCount a n)

/-- Perform a write of bits at home address `a` (R395). -/
def State.mergeHome (s : State) (keep : Option Nat) (a bit bits data : Nat) : State :=
  let mem := s.mem.merge a bit bits data
  touchLines { s with mem, l1 := updateCopies s.l1 mem keep a (ceilDiv (bit + bits) 8) } keep (.home (a / 64 * 64)) (lineCount a (ceilDiv (bit + bits) 8))

/-- Write `n` bytes at a place, wherever its home is, past every store buffer (R238, R271). -/
def State.poke (s : State) (o : Owner) (ord : PageOrd) (l : Loc) (v n : Nat) : State :=
  match l with
  | .home a => s.writeHome none a v n
  | .scratch .. => s
  | _ => s.writeOut o none ord l 0 (8 * n) v

/-- A write by an action of a `bar` command on its own object: links and idle harts see it, the barrier does not
break by it (R258, R268). -/
def State.writeBarrier (s : State) (o : Owner) (l : Loc) (v n : Nat) : State :=
  let s := match l with
    | .home a => { s with mem := s.mem.write a v n }
    | l => sendWrite s o (s.ordAt l) l 0 (8 * n) v
  wakeIdle (clearLinks s l.line none) l.line

end Sys2Proof.Machine
end

