-- ==== Sys2Proof/Machine/Translate.lean ====
section
/-! DEFINITION. Translation of an address to its home with the attributes of its page: code regions, the host
window, loader sections, the two-stage walk, translation caches and physical spaces (R42, R318 to R330). -/

namespace Sys2Proof.Machine

/-- The answer to an access: its value, a cause, or what it must wait for. -/
inductive Res (α : Type) where
  | ok (a : α)
  | cause (c : BitVec 8)
  /-- A Translation Request to the host for a page of the window; bit 0 of `need` asks for R, bit 1 for W (R327). -/
  | ats (vi page need : Nat)
  /-- A failed translation on the host page of an address (R328). -/
  | hostFault (va : Nat)
  /-- A request to the host or a peer: kind, place, bytes, value, operation (R238, R256, R330). -/
  | ext (kind : Nat) (loc : Loc) (bytes value op : Nat)
  deriving DecidableEq, Repr

/-- Go on with the value of an access. -/
def Res.bind {α β : Type} : Res α → (α → Res β) → Res β
  | .ok a, f => f a
  | .cause c, _ => .cause c
  | .ats v p k, _ => .ats v p k
  | .hostFault va, _ => .hostFault va
  | .ext k l b v o, _ => .ext k l b v o

/-- Apply a function to the value of an access. -/
def Res.map {α β : Type} (f : α → β) (r : Res α) : Res β := r.bind fun a => .ok (f a)

/-! ## The interface-table entry -/

/-- COREMASK holds physical core `c` (R311). -/
def Vi.hasCore (v : Vi) (c : Nat) : Bool := (v.dw (c / 64)).testBit (c % 64)

/-- QMASK holds hardware queue `q` (R311). -/
def Vi.hasQueue (v : Vi) (q : Nat) : Bool := (v.dw (16 + q / 64)).testBit (q % 64)

/-- PRE_WIN, where 0 reads as 12,288 (R311). -/
def Vi.preWin (v : Vi) : Nat := if v.field 0xA8 4 = 0 then 12288 else v.field 0xA8 4

def Vi.tsw (v : Vi) : Nat := v.field 0xA0 2
def Vi.ces (v : Vi) : Nat := v.field 0xA2 2
def Vi.sts (v : Vi) : Nat := v.field 0xA4 2
def Vi.viq (v : Vi) : Nat := v.field 0xAC 4
def Vi.csaBase (v : Vi) : Nat := v.dw 0x16
def Vi.csaSize (v : Vi) : Nat := v.field 0xB8 4
def Vi.csaCount (v : Vi) : Nat := v.field 0xBC 4
def Vi.evBase (v : Vi) : Nat := v.dw 0x18
def Vi.evCap (v : Vi) : Nat := v.field 0xC8 4
def Vi.s1root (v : Vi) : Nat := v.dw 0x1A
def Vi.s2root (v : Vi) : Nat := v.dw 0x1B

def Vi.s1en (v : Vi) : Bool := v.tflags.testBit 0
def Vi.s2en (v : Vi) : Bool := v.tflags.testBit 1
def Vi.ats (v : Vi) : Bool := v.tflags.testBit 2
def Vi.pri (v : Vi) : Bool := v.tflags.testBit 3
def Vi.windowSysat (v : Vi) : Bool := v.tflags.testBit 4
def Vi.hwBase (v : Vi) : Nat := v.dw 0x1D
def Vi.hwSize (v : Vi) : Nat := v.dw 0x1E

/-- The stronger of two ordering classes (R235). -/
def PageOrd.stronger : PageOrd → PageOrd → PageOrd
  | .strong, _ => .strong
  | _, .strong => .strong
  | .releaseConsistent, _ => .releaseConsistent
  | _, .releaseConsistent => .releaseConsistent
  | .unordered, .unordered => .unordered

/-! ## Canonical addresses and physical spaces -/

/-- Bits 63:55 are all equal (R62, R318). -/
def canonical (va : Nat) : Bool := va % 2 ^ 64 / 2 ^ 55 == 0 || va % 2 ^ 64 / 2 ^ 55 == 511

/-- The local physical offset exists: inside a stack's 64 · 10^9 bytes, or below 1,024 GB of second tier (R322). -/
def homeExists (b : Build) (a : Nat) : Bool :=
  if a < 2 ^ 48 then decide (a / 2 ^ 36 < b.hbmStacks) && decide (a % 2 ^ 36 < 64 * 10 ^ 9)
  else decide (a - 2 ^ 48 < b.tier2)

/-! ## The walk -/

/-- What one stage's walk gives: the output address, the bytes that the leaf maps and its attributes. -/
structure Leaf where
  out : Nat
  size : Nat
  tier : Nat
  sysat : Bool
  device : Bool
  ord : PageOrd
  canWrite : Bool
  canRead : Bool
  deriving DecidableEq, Repr

/-- The sixteen entries of a 64 KiB page agree: C set, equal bits 11:0, addresses that run on from a 64 KiB-aligned
start (R319). `es` are the entries in index order. -/
def groupOk (es : List Nat) : Bool :=
  match es with
  | [] => false
  | e0 :: _ =>
    decide ((e0 / 2 ^ 12 % 2 ^ 48) % 16 = 0) &&
    (es.zipIdx.all fun c =>
      c.1 % 2 ^ 12 == e0 % 2 ^ 12 && c.1 / 2 ^ 12 % 2 ^ 48 == e0 / 2 ^ 12 % 2 ^ 48 + c.2 && c.1 / 2 ^ 60 == 0)

/-- The leaf that entry `e` is at a level whose index begins at bit `shift` (R319, R320). `group` is the run of the
sixteen entries that a C bit names. -/
def leafOf (e shift addr : Nat) (group : Res (List Nat)) : Res Leaf :=
  let out := e / 2 ^ 12 % 2 ^ 48 * 2 ^ 12
  let tier := e / 2 ^ 10 % 4
  match ordOf (e / 2 ^ 6 % 4) with
  | none => .cause Cause.pageAbsent
  | some ord =>
    let leaf : Leaf :=
      { out := out + addr % 2 ^ shift, size := if e.testBit 5 then 2 ^ 16 else 2 ^ shift, tier, sysat := e.testBit 9, device := e.testBit 8, ord
        canWrite := e.testBit 3, canRead := e.testBit 2 }
    if tier = 2 ∨ out % 2 ^ shift ≠ 0 ∨ (tier < 2 ∧ out / 2 ^ 48 ≠ 0) ∨ (shift ≠ 12 ∧ e.testBit 5 = true) then
      .cause Cause.pageAbsent
    else if e.testBit 5 then group.bind fun es => if groupOk es then .ok leaf else .cause Cause.pageAbsent
    else .ok leaf

/-- Walk the tables from `table` for a `addr` of 56 bits, through the levels whose index shifts are listed (R318,
R320). `rd` reads the doubleword at a table address. -/
def walk (rd : Nat → Res Nat) (addr : Nat) : Nat → List Nat → Res Leaf
  | _, [] => .cause Cause.pageAbsent
  | table, shift :: rest =>
    let idx := addr / 2 ^ shift % (if shift = 48 then 256 else 512)
    (rd (table + 8 * idx)).bind fun e =>
      if e.testBit 0 = false ∨ e / 2 ^ 60 ≠ 0 then .cause Cause.pageAbsent
      else if shift = 12 then
        if e.testBit 1 then .cause Cause.pageAbsent
        else leafOf e shift addr ((List.range 16).foldl (fun acc k =>
          acc.bind fun es => (rd (table + 8 * (idx / 16 * 16 + k))).map fun x => es ++ [x]) (.ok []))
      else if e.testBit 1 then
        if e / 4 % 2 ^ 10 ≠ 0 then .cause Cause.pageAbsent
        else walk rd addr (e / 2 ^ 12 % 2 ^ 48 * 2 ^ 12) rest
      else if 30 < shift then .cause Cause.pageAbsent
      else leafOf e shift addr (.ok [])

/-- The index shifts of L4 to L0 (R318). -/
def levels : List Nat := [48, 39, 30, 21, 12]

/-- Whether a place beyond the Rein ports refuses an access in this step (R330, entry 59). -/
def State.refuses (s : State) (l : Loc) : Option (BitVec 8) :=
  match l with
  | .peer .. => match Config.peerState s.steps l.key with
    | 0 => none
    | 1 => some Cause.pagePerm
    | _ => some Cause.poison
  | _ => none

/-- A store to a place beyond the Rein ports that no window admits, or whose package is out of reach, ends its element with the
cause (R330). -/
def State.refusesStore (s : State) (r w : Bool) (l : Loc) : Option (BitVec 8) := if w && !r then s.refuses l else none

/-- A doubleword of a table as its home holds it (R318, R238, R330). -/
def readTableWord (s : State) (l : Loc) : Res Nat :=
  match s.refuses l with
  | some c => .cause c
  | none => .ok (s.peek l 8)

/-- A table entry read at its home by physical address: in this package, or in the one that bits 59:52 name (R318, R322). -/
def readEntry (s : State) (a : Nat) : Res Nat :=
  if a / 2 ^ 52 % 256 = s.build.package then
    if homeExists s.build (a % 2 ^ 52) = true then .ok (s.mem.read (a % 2 ^ 52) 8) else .cause Cause.pagePerm
  else readTableWord s (.peer (a / 2 ^ 52 % 256) (a % 2 ^ 52))

/-- Stage 2: an intermediate address to a physical one; the identity onto TIER 0 when it is disabled (R318, R321). -/
def stage2 (s : State) (v : Vi) (ipa : Nat) : Res (Option Leaf) :=
  if v.s2en then (walk (readEntry s) (ipa % 2 ^ 56) v.s2root levels).map some else .ok none

/-- The place that a leaf names: TIER 0 and 1 in the local package, TIER 3 in another (R322, R330). -/
def leafLoc (b : Build) (tier out : Nat) : Res Loc :=
  match tier with
  | 0 => if homeExists b out ∧ out < 2 ^ 48 then .ok (.home out) else .cause Cause.pagePerm
  | 1 => if homeExists b (2 ^ 48 + out) then .ok (.home (2 ^ 48 + out)) else .cause Cause.pagePerm
  | _ => .ok (.peer (out / 2 ^ 52 % 256) (out % 2 ^ 52))

/-- The stage-1 table read at an intermediate address, itself translated by stage 2 (R318). With stage 2 disabled it is a
physical address, whose bits 59:52 name the package (R322). -/
def readTable (s : State) (v : Vi) (ipa : Nat) : Res Nat :=
  (stage2 s v ipa).bind fun l =>
    match l with
    | none => readEntry s (ipa % 2 ^ 60)
    | some leaf => (leafLoc s.build leaf.tier leaf.out).bind (readTableWord s)

/-- The walk of both stages: attributes combined by R320, and the bytes that the leaf maps in both of them (R324). -/
def walkSized (s : State) (v : Vi) (va : Nat) : Res (Page × Nat) :=
  let one (l : Leaf) : Res (Page × Nat) := (leafLoc s.build l.tier l.out).map fun loc =>
    ({ loc, ord := if l.device then .strong else l.ord, device := l.device, sysat := l.sysat
       canRead := l.canRead, canWrite := l.canWrite }, l.size)
  let addr := va % 2 ^ 56
  if v.s1en then
    (walk (readTable s v) addr v.s1root levels).bind fun l1 =>
      if v.s2en then
        if l1.tier ≠ 0 then .cause Cause.pageAbsent
        else
          (stage2 s v l1.out).bind fun l2 =>
            match l2 with
            | none => one l1
            | some l2 => one
                { l2 with
                  size := min l1.size l2.size
                  ord := l1.ord.stronger l2.ord, device := l1.device || l2.device
                  canRead := l1.canRead && l2.canRead, canWrite := l1.canWrite && l2.canWrite }
      else one l1
  else
    (stage2 s v addr).bind fun l2 =>
      match l2 with
      | some l2 => one l2
      | none => one { out := addr, size := 4096, tier := 0, sysat := false, device := false, ord := .releaseConsistent
                      canWrite := true, canRead := true }

/-- The page that the walk of both stages finds (R318, R320). -/
def walkBoth (s : State) (v : Vi) (va : Nat) : Res Page := (walkSized s v va).map (·.1)

/-! ## Precedence: code regions, the host window, loader sections, cached translations -/

/-- The address lies in the code region of the object (R42). -/
def Object.covers (o : Object) (va : Nat) : Bool :=
  decide (o.codebase ≤ va) && decide (va < o.codebase + o.npage * 65536)

/-- The object of the interface whose code region holds the address (R42). -/
def codeObject (s : State) (vi va : Nat) : Option Object := s.objects.find? fun o => o.vi == vi && o.covers va

/-- The loader section that holds the address (R38). -/
def loadedSection (s : State) (vi va : Nat) : Option Section :=
  s.objects.findSome? fun o =>
    if o.vi = vi then o.sections.find? fun c => decide (c.addr ≤ va) && decide (va < c.addr + c.size) else none

/-- The cached translation that a TLB unit holds for the address (R324). -/
def cached (s : State) (unit vi va : Nat) : Option Page :=
  (s.tlb.find? fun t => t.unit == unit && t.vi == vi && decide (t.base ≤ va) && decide (va < t.base + t.size)).map
    fun t => { t.page with loc := t.page.loc.plus (va - t.base) }

/-- A place in a cached leaf exists: a leaf may map offsets beyond what its stack or its second tier holds (R322). -/
def pageExists (b : Build) (p : Page) : Bool :=
  match p.loc with
  | .home a => homeExists b a
  | _ => true

/-- The address lies in the host window (R327). -/
def Vi.inWindow (v : Vi) (va : Nat) : Bool := decide (v.hwBase ≤ va) && decide (va < v.hwBase + v.hwSize)

/-- IOD0's cached translation of a window address (R327). -/
def atcHit (s : State) (vi va : Nat) : Option AtcEntry :=
  s.atc.find? fun e => e.vi == vi && decide (e.base ≤ va) && decide (va < e.base + e.size)

/-- The page of an address whatever the access needs, except in the host window: loader sections, then the unit's
cached translation, then a walk (R38, R320, R324). DESIGN CHOICE (entry 62): R38 gives a mapped section its address and its
permissions only; the model makes its pages idempotent and release-consistent, and lets them go before the tables. -/
def pageOf (s : State) (unit vi va : Nat) : Res Page :=
  match loadedSection s vi va with
  | some c => .ok { loc := .home (c.place + (va - c.addr)), ord := .releaseConsistent, device := false, sysat := false
                    canRead := c.canRead, canWrite := c.canWrite }
  | none =>
    match cached s unit vi va with
    | some p => if pageExists s.build p then .ok p else .cause Cause.pagePerm
    | none => walkBoth s (s.vi vi) va

/-- Translate an address for an access that needs `r` and `w` (R42, R320, R327). `failed` is a page whose Translation
Completion carried no permission that the requester may use. -/
def translate (s : State) (unit vi va : Nat) (r w : Bool) (failed : Option Nat) : Res Page :=
  let v := s.vi vi
  if (codeObject s vi va).isSome then .cause Cause.pagePerm
  else if v.inWindow va then
    if v.ats = false then .cause Cause.pageAbsent
    else
      match atcHit s vi va with
      | some e =>
        if (r && !e.canRead) || (w && !e.canWrite) then .hostFault va
        else .ok { loc := .host vi (e.host + (va - e.base)), ord := v.windowOrd
                   device := false, sysat := v.windowSysat, canRead := e.canRead, canWrite := e.canWrite }
      | none => if failed = some (va / 4096) then .hostFault va else .ats vi (va / 4096 * 4096) (r.toNat + 2 * w.toNat)
  else
    (pageOf s unit vi va).bind fun p =>
      if (r && !p.canRead) || (w && !p.canWrite) then .cause Cause.pagePerm else .ok p

/-- The Stirrup instance that serves a place: that of its stack or of its I/O die; of a host or peer page that of the I/O
die which reaches it: IOD0 for the host port, IOD1 for the Rein ports (R206). -/
def stirrupOf (b : Build) (l : Loc) : Nat :=
  match l with
  | .home a => if isHbm a then a / 2 ^ 36 else b.hbmStacks + l.ioDie b
  | .peer .. => b.hbmStacks + l.ioDie b
  | _ => b.hbmStacks

/-- The TLB unit of a core's accesses is the core's number; Stirrup instances are numbered from 1,024 (R324). -/
def stirrupUnit (k : Nat) : Nat := 1024 + k

/-- The units of the device that keep no translation (R324): the launch unit, the distributor and the copy engines. -/
def deviceUnit : Nat := 2 ^ 16

/-- The cache that translates an address for Stirrup: that of the instance which serves the element and holds its
translation, or none, and then a walk (R206, R207). -/
def stirrupUnitFor (s : State) (vi va : Nat) : Nat :=
  match (List.range s.build.stirrups).find? fun k => match cached s (stirrupUnit k) vi va with
    | some p => stirrupOf s.build p.loc == k
    | none => false with
  | some k => stirrupUnit k
  | none => deviceUnit

/-- Translate an address for a unit of the device. What the host answers to a Translation Request comes within the step, and holds
until an invalidation (R327, R328, entry 59). -/
def translateNow (s : State) (unit vi va : Nat) (r w : Bool) : Res Page :=
  match translate s unit vi va r w none with
  | .ats vi page need =>
    let v := s.vi vi
    let g := Config.hostPage v.atsEpoch vi page
    if need.testBit 0 && !g.testBit 0 || need.testBit 1 && !g.testBit 1 then .cause Cause.pageAbsent
    else
      .ok { loc := .host vi (g / 4 % 2 ^ 52 * 4096 + va % 4096), ord := v.windowOrd
            device := false, sysat := v.windowSysat, canRead := g.testBit 0, canWrite := g.testBit 1 }
  | .hostFault _ => .cause Cause.pageAbsent
  | r => r

/-- A block of home memory that `[l, l + n)` touches is poisoned. -/
def placePoisoned (s : State) (loc : Loc) (n : Nat) : Bool :=
  match loc with
  | .home a => s.mem.poisoned a n
  | _ => false

/-- The place of a byte that a unit of the device itself reads or writes for an interface (rings, descriptors, areas): it
must translate, lie on no device-class page and not be refused by a peer; `check` refuses a poisoned block. -/
def deviceHome (s : State) (vi va : Nat) (r w check : Bool) : Res Loc :=
  if canonical va = false then .cause Cause.noncanonical
  else
    (translateNow s deviceUnit vi (va % 2 ^ 64) r w).bind fun p =>
      if p.device then .cause Cause.deviceClassMisuse
      else if check && placePoisoned s p.loc 1 then .cause Cause.poison
      else match s.refuses p.loc with
        | some c => .cause c
        | none => .ok p.loc

/-- Read `n` bytes for the device at a virtual address of the interface. -/
def deviceRead (s : State) (vi va : Nat) : Nat → Res Nat
  | 0 => .ok 0
  | n + 1 => (deviceHome s vi va true false true).bind fun l =>
      (deviceRead s vi (va + 1) n).map fun rest => s.peek l 1 + 256 * rest

/-- Every byte of `[va, va + n)` can be written by the device for the interface: the places, lowest first. -/
def deviceHomes (s : State) (vi va : Nat) (check : Bool) : Nat → Res (List Loc)
  | 0 => .ok []
  | n + 1 => (deviceHome s vi va false true check).bind fun l => (deviceHomes s vi (va + 1) check n).map fun rest => l :: rest

/-- Write the bytes of `v` at the given places for an owner. -/
def pokeAll (s : State) (o : Owner) (ls : List Loc) (v : Nat) : State :=
  ls.zipIdx.foldl (fun s c => s.poke o (s.ordAt c.1) c.1 (v / 256 ^ c.2 % 256) 1) s

/-- Write `n` bytes for the device at a virtual address of the interface, or nothing where a byte fails or is poisoned. -/
def deviceWrite (s : State) (vi va v n : Nat) : Res State :=
  (deviceHomes s vi va true n).map fun ls => pokeAll s (.device vi) ls v

/-- A store of `n` bytes for an owner, which poison does not stop (R62 step 5, R190 step 8). -/
def deviceStore (s : State) (o : Owner) (vi va v n : Nat) : Res State :=
  (deviceHomes s vi va false n).map fun ls => pokeAll s o ls v

end Sys2Proof.Machine
end

