-- ==== Sys2Proof/Machine/Tasks.lean ====
section
/-! DEFINITION. Tasks and what their ends do: event-ring records, queues and their slots, join counters, lock
release, the trace ring, kills, and the freeing of a hart slot (R264, R278 to R281, R290, R296, R297, R346, R396). -/

namespace Sys2Proof.Machine

/-! ## Register images -/

/-- x[r]; x0 reads zero (R56). -/
def Hart.rx (h : Hart) (r : BitVec 5) : Word := if r = 0 then 0 else Sparse.get 0 h.x r.toNat

/-- Write x[r]; a write of x0 is discarded (R56). -/
def Hart.wx (h : Hart) (r : BitVec 5) (v : Word) : Hart := if r = 0 then h else { h with x := Sparse.set 0 h.x r.toNat v }

/-! ## Numbers that an interface reads -/

/-- How many of the cores below `n` satisfy `f`. -/
def countBelow (f : Nat → Bool) : Nat → Nat
  | 0 => 0
  | n + 1 => countBelow f n + (f n).toNat

/-- COREID of a physical core as an interface reads it: the physical number for VI 0, else its rank in COREMASK (R315). -/
def coreIdFor (s : State) (vi core : Nat) : Nat :=
  if vi = 0 then core
  else countBelow (fun c => (s.vi vi).hasCore c && !(s.vi vi).oosSeen.getLsbD c) core

/-- HARTID as an interface reads it (R315). -/
def hartIdFor (s : State) (vi hart : Nat) : Nat := 4 * coreIdFor s vi (hart / 4) + hart % 4

/-- The physical core that an interface names by `id` (R315, R345). -/
def coreOfId (s : State) (vi id : Nat) : Option Nat :=
  if vi = 0 then if id < s.build.cores then some id else none
  else (List.range s.build.cores).find? fun c =>
    (s.vi vi).hasCore c && !(s.vi vi).oosSeen.getLsbD c && coreIdFor s vi c == id

/-- The hardware queue that an interface numbers `q`: the `q`-th set bit of QMASK (R280, R311). -/
def hwQueue (s : State) (vi q : Nat) : Option Nat :=
  (List.range 256).find? fun k => (s.vi vi).hasQueue k && countBelow (s.vi vi).hasQueue k == q

/-! ## The event ring -/

/-- Write one record to the interface's event ring, or count it as lost (R297). -/
def eventRecord (s : State) (vi : Nat) (task tpc tval : Word) (cause : BitVec 8) (flags queue hartid : Nat) : State :=
  let v := s.vi vi
  let lost := s.setVi vi { v with evlost := v.evlost + 1 }
  let cap := v.evCap
  if v.evtail - v.evhead = BitVec.ofNat 64 cap ∨ v.evBase = 0 ∨ cap < 16 ∨ 2 ^ 20 < cap ∨ cap &&& (cap - 1) ≠ 0 then lost
  else
    let va := v.evBase + 32 * (v.evtail.toNat % cap)
    let rec_ := task.toNat + tpc.toNat * 2 ^ 64 + tval.toNat * 2 ^ 128 + cause.toNat * 2 ^ 192 + flags * 2 ^ 200
      + queue % 2 ^ 16 * 2 ^ 208 + hartid % 2 ^ 32 * 2 ^ 224
    match deviceWrite s vi va rec_ 32 with
    | .ok s' => s'.setVi vi { v with evtail := v.evtail + 1 }
    | _ => lost

/-! ## The trace ring -/

/-- Write one record to the trace ring of hart `n` (R346): dropped when the ring is full or the write faults. -/
def traceRecord (s : State) (n kind : Nat) (code : BitVec 8) (value pc : Word) : State :=
  let h := s.hart n
  let d := h.dbg
  if d.trace = false ∧ kind ≠ 7 ∨ d.trcap = 0 then s
  else
    let lost := s.setHart n { h with dbg := { d with trlost := d.trlost + 1 } }
    if d.trtail - d.trhead = d.trcap then lost
    else
      let va := d.trbase.toNat + 48 * (d.trtail.toNat % d.trcap.toNat)
      let gvl := min h.strip.gvl.toNat (2 ^ 32 - 1)
      let rec_ := s.time.toNat + h.strip.saddr.toNat * 2 ^ 64 + h.strip.sord.toNat * 2 ^ 128 + gvl * 2 ^ 192
        + hartIdFor s h.task.vi n % 2 ^ 16 * 2 ^ 224 + kind * 2 ^ 240 + code.toNat * 2 ^ 248 + value.toNat * 2 ^ 256
        + pc.toNat * 2 ^ 320
      match deviceStore s (.device h.task.vi) h.task.vi va rec_ 48 with
      | .ok s' =>
        let h' := s'.hart n
        s'.setHart n { h' with dbg := { h'.dbg with trtail := d.trtail + 1 } }
      | _ => lost

/-! ## Queues -/

/-- A queue slot by doubleword (R281). -/
abbrev Slot := Sparse Word

def slotDw (c : Slot) (i : Nat) : Nat := (Sparse.get 0 c i).toNat
def slotField (c : Slot) (off bytes : Nat) : Nat := slotDw c (off / 8) / 2 ^ (off % 8 * 8) % 2 ^ (bytes * 8)

/-- The 128 bytes of a slot as one number. -/
def slotImage (c : Slot) : Nat := (List.range 16).foldl (fun acc i => acc + slotDw c i * 2 ^ (64 * i)) 0

/-- A slot from its 128 bytes. -/
def slotOf (n : Nat) : Slot :=
  (List.range 16).foldl (fun c i => Sparse.set 0 c i (BitVec.ofNat 64 (n / 2 ^ (64 * i)))) []

/-- A queue's descriptor in memory (R280). -/
structure QueueDesc where
  va : Nat
  rbase : Nat
  rcap : Nat
  quantum : Nat
  head : Nat
  tail : Nat
  prio : Nat
  weight : Nat
  deriving DecidableEq, Repr

/-- Read the descriptor of an interface's queue, which must be assigned to it (R280). -/
def queueDesc (s : State) (vi q : Nat) : Option QueueDesc :=
  if (hwQueue s vi q).isNone then none
  else
    let va := (Sparse.get 0 (s.vi vi).descs q).toNat
    match deviceRead s vi va 64 with
    | .ok d => some
        { va, rbase := d % 2 ^ 64, rcap := d / 2 ^ 64 % 2 ^ 32, quantum := d / 2 ^ 96 % 2 ^ 32, head := d / 2 ^ 128 % 2 ^ 64
          tail := d / 2 ^ 192 % 2 ^ 64, prio := d / 2 ^ 256 % 8, weight := d / 2 ^ 264 % 256 }
    | _ => none

/-- The queue has no entry (R282). -/
def QueueDesc.empty (d : QueueDesc) : Bool := d.head == d.tail

/-- Virtual time V of a hardware queue (R282). -/
def State.qv (s : State) (hw : Nat) : Rat := Sparse.get 0 s.queueV hw

/-- The least V among the non-empty queues of one priority (R282). -/
def leastV (s : State) (vi prio : Nat) : Option Rat :=
  (List.range 256).foldl (fun acc q =>
    match queueDesc s vi q, hwQueue s vi q with
    | some d, some hw =>
      if d.empty || d.prio != prio then acc
      else match acc with
        | none => some (s.qv hw)
        | some m => some (min m (s.qv hw))
    | _, _ => acc) none

/-- Append a slot to an interface's queue, or nothing when the queue is full or cannot be reached. A queue that
becomes non-empty raises its virtual time to the least of its priority (R280 to R282). -/
def pushSlot (s : State) (vi q : Nat) (c : Slot) (status : BitVec 8) (root : Option Nat) : Option State :=
  match queueDesc s vi q, hwQueue s vi q with
  | some d, some hw =>
    if d.tail - d.head = d.rcap then none
    else
      let v := if d.empty then max (s.qv hw) ((leastV s vi d.prio).getD (s.qv hw)) else s.qv hw
      match (deviceWrite s vi (d.rbase + 128 * (d.tail % d.rcap)) (slotImage c) 128).bind fun s1 =>
          deviceWrite s1 vi (d.va + 0x18) (d.tail + 1) 8 with
      | .ok s2 => some
          { s2 with queueV := Sparse.put s2.queueV hw v, notes := { vi, queue := q, entry := d.tail, status, root } :: s2.notes }
      | _ => none
  | _, _ => none

/-! ## Join counters -/

/-- Drop a decrement and report it on the interface's event ring (R396). -/
def lostDecrement (s : State) (vi : Nat) (task : Word) (queue : Nat) (addr : Word) (cause : BitVec 8) : State :=
  eventRecord s vi task 0 addr cause 4 queue (2 ^ 32 - 1)

/-- Push a continuation, or hold it at its counter's home until its queue has room (R279). -/
def pushOrHold (s : State) (vi q : Nat) (c : Slot) (status : BitVec 8) (root : Option Nat) : State :=
  match pushSlot s vi q c status root with
  | some s' => s'
  | none => { s with held := s.held ++ [{ vi, slot := c, status, root }] }

/-- The launch that the continuation on a counter descends from (R43). -/
def counterRoot (s : State) (vi addr : Nat) : Option Nat :=
  (s.notes.find? fun n => n.vi == vi && n.queue == 256 && n.entry == addr).bind fun n => n.root

/-- Decrement the join counter at `addr`, with a poison or none (R279), for the task and queue that a failure reports
(R396). The chain of poisoned continuations that never run is followed for `fuel` counters; each of them has its slot
emptied, so a chain never returns to one. -/
def decrement : Nat → State → Nat → Word → Nat → Word → Option (BitVec 8) → State
  | 0, s, _, _, _, _, _ => s
  | fuel + 1, s, vi, task, queue, addr, poison =>
    let a := addr.toNat
    match (deviceHome s vi a true true true).bind fun _ => deviceRead s vi a 192 with
    | .ok img =>
      let count := img % 2 ^ 64
      let st0 := img / 2 ^ 64 % 256
      let st := match poison with
        | some p => if st0 = 0 then p.toNat else st0
        | none => st0
      let put (s : State) (off v n : Nat) : State := match deviceWrite s vi (a + off) v n with
        | .ok s' => s'
        | _ => s
      if count = 0 then put s 8 (if st = 0 then Cause.joinUnderflow.toNat else st) 1
      else
        let s1 := put (put s 0 (count - 1) 8) 8 st 1
        let slot := slotOf (img / 2 ^ 512)
        if count - 1 ≠ 0 ∨ slotDw slot 0 = 0 then s1
        else
          let slot := Sparse.set 0 slot 8 (BitVec.ofNat 64 (img / 2 ^ 128))
          let root := counterRoot s1 vi a
          let s2 := put s1 0x40 0 8
          if st = 0 ∨ (img / 2 ^ 72).testBit 0 then
            pushOrHold s2 vi (slotField slot 0x18 2) slot (BitVec.ofNat 8 st) root
          else if slotDw slot 2 = 0 then s2
          else decrement fuel s2 vi task queue (BitVec.ofNat 64 (slotDw slot 2)) (some (BitVec.ofNat 8 st))
    | .cause c => lostDecrement s vi task queue addr c
    | _ => lostDecrement s vi task queue addr Cause.pageAbsent

/-- How many poisoned continuations one decrement follows: more than there are counters. -/
def chainFuel : Nat := 2 ^ 64

/-- Decrement a counter unless its address is 0 (R214, R279). -/
def decrementAt (s : State) (vi : Nat) (task : Word) (queue : Nat) (addr : Word) (poison : Option (BitVec 8)) : State :=
  if addr = 0 then s else decrement chainFuel s vi task queue addr poison

/-! ## Locks -/

/-- The value of a held lock word (R263). -/
def holderValue (s : State) (n : Nat) : Nat :=
  let vi := (s.hart n).task.vi
  2 ^ 63 + vi * 2 ^ 32 + hartIdFor s vi n

/-- Write 0 at its home to a lock word that task `id` of interface `vi` holds (R264). A word that no longer translates
keeps its value. -/
def freeWord (s : State) (vi : Nat) (id : Word) (w : Nat) : State :=
  match translateNow s deviceUnit vi (w % 2 ^ 64) false true with
  | .ok p => s.poke (.task vi id) p.ord p.loc 0 8
  | _ => s

/-- Hart `n`, which takes lock words, gives up those at the places that satisfy `p` and are not in its list yet: a word that its request
has taken is free again, and a request in flight is the device's (R263). -/
def giveUpWords (s : State) (n : Nat) (p : Loc → Bool) : State :=
  let h := s.hart n
  match h.wait with
  | .lock .. =>
    let mine (a : Answer) : Bool := a.kind == 1 && p a.loc
    let s := orphanLocks (s.setHart n { h with answers := h.answers.filter fun a => !mine a }) n p
    (h.answers.filter fun a => mine a && a.cause == 0 && a.value == 0).foldl
      (fun s a => s.poke (.task h.task.vi h.task.id) (s.ordAt a.loc) a.loc 0 8) s
  | _ => s

/-- Release lock words of hart `n` in descending address order (R264). `words` is ascending. -/
def releaseLocks (s : State) (n : Nat) (words : List Nat) : State :=
  words.reverse.foldl (fun s w => freeWord s (s.hart n).task.vi (s.hart n).task.id w) s

/-! ## Freeing a hart slot -/

/-- A hart slot that holds no task: its debug registers stay with the slot (R347), and so do its shadows. DESIGN CHOICE (entry 86):
R106 discards the contents of the vector and predicate registers and R276 lists no value for a start, where they read zero. -/
def Hart.vacant (h : Hart) : Hart :=
  { dbg := { h.dbg with halted := false, stepping := false, stepped := false, stop := none, haltReq := false, haltElement := none, passed := false, sampledAt := 0 }
    counters := { shadow := h.counters.shadow } }

/-- Charge the slot-cycles of `k` slots of the task on hart `n` to its queue and its interface (R282, R314). -/
def chargeSlots (s : State) (n k : Nat) : State :=
  let h := s.hart n
  let cyc : Rat := (h.counters.slotcyc.toNat * k : Nat)
  let s1 := match hwQueue s h.task.vi h.task.queue with
    | some hw => { s with queueV := Sparse.put s.queueV hw (s.qv hw + cyc / (max 1 h.task.weight : Nat)) }
    | none => s
  let v := s1.vi h.task.vi
  s1.setVi h.task.vi { v with vtime := v.vtime + cyc / (max 1 v.tsw : Nat) }

/-- Charge every slot that the task on hart `n` still holds; one that left earlier was charged then (R277). -/
def chargeSlot (s : State) (n : Nat) : State := chargeSlots s n (s.hart n).slots.length

/-- Every panel of a hart ends on the cores of its span: its array queue is empty (R163). -/
def endPanels (s : State) (n : Nat) : State :=
  (s.hart n).span.foldl (fun s core =>
    let c := s.core core
    match c.panel with
    | some (hart, _, _) => if hart = n then s.setCore core { c with panel := none } else s
    | none => s) s

/-- Free the hart slots of the task on hart `n`. -/
def freeSlot (s : State) (n : Nat) : State :=
  let s := giveUpWords (dropLinks (chargeSlot (endPanels s n) n) n) n fun _ => true
  let s := forgetHart s n
  { s with harts := s.harts.map fun c => if c.1 = n ∨ c.1 ∈ (s.hart n).slots then (c.1, c.2.vacant) else c }

/-- Free the context save area of a task (R304). -/
def freeArea (s : State) (vi : Nat) (area : Option Nat) : State :=
  match area with
  | none => s
  | some k => let v := s.vi vi; s.setVi vi { v with areas := v.areas.filter (· != k) }

/-- Count the end of a launched task, with the cause that killed it if one did (R274, R296). -/
def countEnd (s : State) (launch : Nat) (poison : Option (BitVec 8)) : State :=
  { s with launches := s.launches.map fun l =>
      if l.id = launch then { l with ended := l.ended + 1, poison := l.poison.or poison } else l }

/-- The end of a task as its counter sees it: its launch counts it, or JOINP is decremented (R274, R290, R296). -/
def signalEnd (s : State) (t : Task) (poison : Option (BitVec 8)) : State :=
  match t.launch with
  | some l => countEnd s l poison
  | none => decrementAt s t.vi t.id t.queue t.joinp poison

/-- Kill the task on hart `n` (R296): its interval and array entries are dropped, its locks released, its record
written, its counter poisoned, and its slot and save area freed. -/
def kill (s : State) (n : Nat) (cause : BitVec 8) (tpc tval : Word) (inHandler : Bool) : State :=
  let t := (s.hart n).task
  let s := s.setHart n { s.hart n with array := [], gathers := [], sb := [], sbused := 0 }
  let s := releaseLocks s n t.locks
  let s := eventRecord s t.vi t.id tpc tval cause inHandler.toNat t.queue (hartIdFor s t.vi n)
  let s := signalEnd s t (some cause)
  freeArea (freeSlot s n) t.vi t.area

end Sys2Proof.Machine
end

