-- ==== Sys2Proof/Machine/Access.lean ====
section
/-! DEFINITION. Reading data for a hart: its buffered stores over what the home holds (R67), answers of the host
and of peers, and the checks that the access rules make on a translated page. -/

namespace Sys2Proof.Machine

/-- `base` holds `8 · n` bits from byte place `loc` up; lay the buffered stores over it in order, each with its own bits
only (R67, R395). -/
def overlay (sb : List SbEntry) (loc : Loc) (n base : Nat) : Nat :=
  let lo0 := loc.key * 8
  let hi0 := lo0 + 8 * n
  sb.foldl (fun v e =>
    let b := e.loc.key * 8 + e.bit
    let lo := max lo0 b
    let hi := min hi0 (b + e.bits)
    if lo < hi then
      let part := e.data / 2 ^ (lo - b) % 2 ^ (hi - lo)
      v % 2 ^ (lo - lo0) + part * 2 ^ (lo - lo0) + v / 2 ^ (hi - lo0) * 2 ^ (hi - lo0)
    else v) base

/-- The buffered stores cover every bit of the `n` bytes at `loc`. -/
def covered (sb : List SbEntry) (loc : Loc) (n : Nat) : Bool :=
  overlay sb loc n (2 ^ (8 * n) - 1) == overlay sb loc n 0

/-- The answer of an outside party that the hart's instruction already holds. -/
def findAnswer (as : List Answer) (kind : Nat) (loc : Loc) (n : Nat) : Option Answer :=
  as.find? fun a => a.kind == kind && a.loc == loc && a.bytes == n

/-- The answers that an access numbered `tag` within its instruction may use, for a place that is read once for each
access (R193, R234). -/
def taggedAnswers (as : List Answer) (tag : Nat) : List Answer := as.filter fun a => a.tag == tag

/-- How a request carries the number of its access beside its operation. -/
def tagUnit (kind : Nat) : Nat := if kind = 0 then 16 else 64

/-- The request of the access numbered `tag`. -/
def Res.tagged {α : Type} (tag : Nat) : Res α → Res α
  | .ext k loc n v op => .ext k loc n v (op + tagUnit k * tag)
  | r => r

/-- The bytes at a place as the home holds them, or as a core's L1 data cache does where `core` loads them (R200); host and peer
places need an answer (R238, R330). -/
def readPlace (s : State) (as : List Answer) (loc : Loc) (n : Nat) (core : Option Nat := none) : Res Nat :=
  match loc with
  | .home a => .ok (s.homeRead core a n)
  | .scratch c o => .ok (readScratch (s.core c).scratch o n)
  | _ =>
    match findAnswer as 0 loc n with
    | some a => if a.cause = 0 then .ok a.value else .cause a.cause
    | none => .ext 0 loc n 0 0

/-- The same for a place that is read once in an instruction: what it has read there already stays (R193, R234). -/
def readOncePlace (s : State) (as : List Answer) (loc : Loc) (n : Nat) (core : Option Nat := none) : Res Nat :=
  match findAnswer as 0 loc n with
  | some a => if a.cause = 0 then .ok a.value else .cause a.cause
  | none => readPlace s as loc n core

/-- A byte of `[o, o + n)` of a core's scratchpad lies in a lost block (R335). -/
def scratchLost (s : State) (core o n : Nat) : Bool :=
  (s.core core).lost.any fun b => decide (b * 512 < o + n) && decide (o < b * 512 + 512)

/-- The place lies in a lost scratchpad block. -/
def placeLost (s : State) (loc : Loc) (n : Nat) : Bool :=
  match loc with
  | .scratch c o => scratchLost s c o n
  | _ => false

/-- Load `n` bytes from a place: POISON when a block read is poisoned, then the buffered stores over the home's bytes
(R62, R67, R190). -/
def loadPlace (s : State) (sb : List SbEntry) (as : List Answer) (loc : Loc) (n : Nat) (core : Option Nat := none)
    (once : Bool := false) : Res Nat :=
  if placePoisoned s loc n then .cause Cause.poison
  else if placeLost s loc n then .cause Cause.sramUnrecoverable
  else (if once then readOncePlace s as loc n core else readPlace s as loc n core).map fun v => overlay sb loc n v

/-- The core whose L1 data cache a load of the running hart goes through: none for a strongly ordered or a device-class page, whose
accesses are each performed at the home (entry 79). -/
def State.reader (s : State) (ord : PageOrd) (device : Bool) : Option Nat :=
  if ord = .strong ∨ device = true then none else some (s.cur / 4)

/-- The page of a failed Translation Completion among the answers (R327). -/
def failedPage (as : List Answer) (va : Nat) : Option Nat :=
  if as.any (fun a => a.kind == 4 && a.loc == .host 0 (va / 4096)) then some (va / 4096) else none

/-- Translate `va` for hart `n` (R62 step 3, R190 step 3). -/
def translateFor (s : State) (n va : Nat) (r w : Bool) : Res Page :=
  let h := s.hart n
  translate s (n / 4) h.task.vi (va % 2 ^ 64) r w (failedPage h.answers (va % 2 ^ 64))

/-- A read of scratchpad bits by the matrix unit: earlier buffered stores of the hart lie over the pool (R176). -/
def scratchBits (s : State) (sb : List SbEntry) (core bit width : Nat) : Nat :=
  let o := bit / 8
  let n := ceilDiv (bit % 8 + width) 8
  overlay sb (.scratch core o) n (readScratch (s.core core).scratch o n) / 2 ^ (bit % 8) % 2 ^ width

/-- Add `k` to every core counter that counts event `code` (R343). -/
def countEvent (s : State) (core code k : Nat) : State :=
  let c := s.core core
  let ccnt := (List.range 8).foldl (fun m i =>
    if Sparse.get 0 c.csel i = BitVec.ofNat 8 code ∧ code ≠ 0 then
      Sparse.set 0 m i (Sparse.get 0 m i + BitVec.ofNat 64 k) else m) c.ccnt
  s.setCore core { c with ccnt }

end Sys2Proof.Machine
end

