-- ==== Sys2Proof/Machine/Float.lean ====
section
/-! DEFINITION. The element formats and their values (R125 to R127), rounding and its flags (R129, R130, R142), and
the floating-point operations of the lanes, each computed exactly and rounded once (R138, R139). -/

namespace Sys2Proof.Machine

/-- Flags NV DZ OF UF NX in bits 4:0 (R131). -/
abbrev Flags := BitVec 5
def Flags.nv : Flags := 0b10000
def Flags.dz : Flags := 0b01000
def Flags.of : Flags := 0b00100
def Flags.uf : Flags := 0b00010
def Flags.nx : Flags := 0b00001

/-- A float layout: exponent bits, fraction bits, bias, bits below the fraction, and which special values exist:
IEEE infinities and NaNs, or the single NaN of E4M3 (R125, R126). -/
structure Fmt where
  eb : Nat
  mb : Nat
  bias : Nat
  low : Nat
  ieee : Bool
  e4m3 : Bool
  deriving DecidableEq, Repr

def fp64 : Fmt := ⟨11, 52, 1023, 0, true, false⟩
def fp32 : Fmt := ⟨8, 23, 127, 0, true, false⟩
def fp16 : Fmt := ⟨5, 10, 15, 0, true, false⟩
def bf16 : Fmt := ⟨8, 7, 127, 0, true, false⟩

/-- The float format of a format code 8 to 19 (R125); the block-scaled codes are taken as their element formats. -/
def fmtOf (code : Nat) : Fmt :=
  match code with
  | 8 | 9 => ⟨2, 1, 1, 0, false, false⟩
  | 10 => ⟨2, 3, 1, 0, false, false⟩
  | 11 => ⟨3, 2, 3, 0, false, false⟩
  | 12 | 14 => ⟨4, 3, 7, 0, false, true⟩
  | 13 | 15 => ⟨5, 2, 15, 0, true, false⟩
  | 16 => bf16
  | 17 => fp16
  | 18 => ⟨8, 10, 127, 13, true, false⟩
  | _ => fp32

/-- A value: NaN (signalling or quiet), an infinity, or ± m · 2^e. -/
inductive FVal where
  | nan (signalling : Bool)
  | inf (neg : Bool)
  | fin (neg : Bool) (m : Nat) (e : Int)
  deriving DecidableEq, Repr

/-- The value of an encoding (R126). -/
def Fmt.value (f : Fmt) (n : Nat) : FVal :=
  let m := n / 2 ^ f.low % 2 ^ f.mb
  let e := n / 2 ^ (f.low + f.mb) % 2 ^ f.eb
  let neg := n.testBit (f.low + f.mb + f.eb)
  if f.ieee ∧ e = 2 ^ f.eb - 1 then
    if m = 0 then .inf neg else .nan (!m.testBit (f.mb - 1))
  else if f.e4m3 ∧ e = 2 ^ f.eb - 1 ∧ m = 2 ^ f.mb - 1 then .nan false
  else if e = 0 then .fin neg m (1 - (f.bias : Int) - f.mb)
  else .fin neg (2 ^ f.mb + m) ((e : Int) - f.bias - f.mb)

/-- The canonical NaN (R127); E2M1, E2M3 and E3M2 have none and take +0 (R142). -/
def Fmt.canonNan (f : Fmt) : Nat :=
  if f.ieee then (2 ^ f.eb - 1) * 2 ^ (f.low + f.mb) + 2 ^ (f.low + f.mb - 1)
  else if f.e4m3 then 2 ^ (f.eb + f.mb) - 1
  else 0

/-- Infinity of a format that has one. -/
def Fmt.infBits (f : Fmt) (neg : Bool) : Nat :=
  neg.toNat * 2 ^ (f.low + f.mb + f.eb) + (2 ^ f.eb - 1) * 2 ^ (f.low + f.mb)

/-- The largest finite significand and its exponent. -/
def Fmt.maxFin (f : Fmt) : Nat × Int :=
  let etop := if f.ieee then 2 ^ f.eb - 2 else 2 ^ f.eb - 1
  (2 ^ (f.mb + 1) - 1 - f.e4m3.toNat, (etop : Int) - f.bias - f.mb)

/-- The encoding of the largest finite value (R125). -/
def Fmt.maxBits (f : Fmt) (neg : Bool) : Nat :=
  let etop := if f.ieee then 2 ^ f.eb - 2 else 2 ^ f.eb - 1
  neg.toNat * 2 ^ (f.low + f.mb + f.eb) + etop * 2 ^ (f.low + f.mb) + (2 ^ f.mb - 1 - f.e4m3.toNat) * 2 ^ f.low

/-- The encoding of ± n · 2^q, which the format holds: q is the exponent of the last place. -/
def Fmt.finBits (f : Fmt) (neg : Bool) (n : Nat) (q : Int) : Nat :=
  let n' := if 2 ^ (f.mb + 1) ≤ n then n / 2 else n
  let q' := if 2 ^ (f.mb + 1) ≤ n then q + 1 else q
  let e := if n' < 2 ^ f.mb then 0 else (q' + f.bias + f.mb).toNat
  neg.toNat * 2 ^ (f.low + f.mb + f.eb) + e * 2 ^ (f.low + f.mb) + n' % 2 ^ f.mb * 2 ^ f.low

/-- An exact value to be rounded: it lies at ± m · 2^e, or strictly above that in magnitude and below
± (m + 1) · 2^e when `sticky`. With `sticky`, m has at least 40 bits more than any target. -/
structure Exact where
  neg : Bool
  m : Nat
  e : Int
  sticky : Bool
  deriving DecidableEq, Repr

/-- How many bits a number has. -/
def bitLen (n : Nat) : Nat := if n = 0 then 0 else n.log2 + 1

/-- Does the magnitude round up past `lo`, with `k` bits `r` below the last place (R129, R130)? `u` is the draw. -/
def roundsUp (rm : Nat) (neg : Bool) (odd : Bool) (r k : Nat) (sticky : Bool) (u : Nat) : Bool :=
  let inexact := r != 0 || sticky
  let half := 2 ^ k / 2
  match rm with
  | 0 => decide (half < r) || (r == half && k != 0 && (sticky || odd))
  | 1 => false
  | 2 => neg && inexact
  | 3 => !neg && inexact
  | 4 => decide (half ≤ r) && k != 0
  | _ =>
    if !inexact then false
    else if neg then
      let f := r * 2 ^ 32 / 2 ^ k
      let up := f + (if r * 2 ^ 32 % 2 ^ k != 0 || sticky then 1 else 0)
      !decide (u < 2 ^ 32 - up)
    else decide (u < r * 2 ^ 32 / 2 ^ k)

/-- Round `x` at the last place 2^q: the significand, and whether that was inexact. -/
def roundAt (rm : Nat) (x : Exact) (q : Int) (u : Nat) : Nat × Bool :=
  if q ≤ x.e then (x.m * 2 ^ (x.e - q).toNat, x.sticky)
  else
    let k := (q - x.e).toNat
    let lo := x.m / 2 ^ k
    let r := x.m % 2 ^ k
    (lo + (roundsUp rm x.neg (lo % 2 == 1) r k x.sticky u).toNat, r != 0 || x.sticky)

/-- n · 2^q exceeds the format's largest finite value. -/
def Fmt.overflows (f : Fmt) (n : Nat) (q : Int) : Bool :=
  let (mm, me) := f.maxFin
  if q ≤ me then decide (mm * 2 ^ (me - q).toNat < n) else decide (mm < n * 2 ^ (q - me).toNat)

/-- What becomes of an overflow: IEEE 754 for the mode, or the largest finite value where the target has no infinity or
`sat` holds (R129, R142). -/
def Fmt.overflowBits (f : Fmt) (rm : Nat) (neg sat : Bool) : Nat :=
  if !f.ieee || sat then f.maxBits neg
  else match rm with
    | 1 => f.maxBits neg
    | 2 => if neg then f.infBits neg else f.maxBits neg
    | 3 => if neg then f.maxBits neg else f.infBits neg
    | _ => f.infBits neg

/-- Round a nonzero exact value to a format: the encoding and the flags OF, UF, NX (R129, R130, R142). The overflow
case is judged by the rounding with the exponent unbounded, under RM 5 as under RNE. -/
def Fmt.round (f : Fmt) (rm : Nat) (x : Exact) (sat : Bool) (u : Nat) : Nat × Flags :=
  if x.m = 0 ∧ x.sticky = false then (f.finBits x.neg 0 (1 - (f.bias : Int) - f.mb), 0)
  else
    let top := x.e + bitLen x.m - 1
    let emin := 1 - (f.bias : Int)
    let qu := top - f.mb
    let q := if qu < emin - f.mb then emin - f.mb else qu
    let rmo := if rm = 5 then 0 else rm
    let (no, _) := roundAt rmo x qu u
    let beyond := (f.overflows x.m x.e || (x.sticky && f.overflows (x.m + 1) x.e))
    if f.overflows no qu || (rm = 5 && beyond && f.overflows no qu) then
      (f.overflowBits rmo x.neg sat, Flags.of ||| Flags.nx)
    else
      let (n, inexact) := if rm = 5 && beyond then roundAt 0 x q u else roundAt rm x q u
      let (nu, _) := roundAt rm x qu u
      let tiny := decide (top < emin) && !(decide (top + 1 = emin) && decide (2 ^ (f.mb + 1) ≤ nu))
      let flags := (if inexact then Flags.nx else 0) ||| (if inexact && tiny then Flags.uf else 0)
      if f.overflows n q then (f.overflowBits rmo x.neg sat, Flags.of ||| Flags.nx)
      else (f.finBits x.neg n q, flags)

/-- Round a value that may be special to the lane format; a NaN becomes canonical. -/
def Fmt.roundVal (f : Fmt) (rm : Nat) (v : FVal) (u : Nat) : Nat × Flags :=
  match v with
  | .nan _ => (f.canonNan, 0)
  | .inf neg => (f.infBits neg, 0)
  | .fin neg m e => f.round rm ⟨neg, m, e, false⟩ false u

/-! ## Exact sums and products -/

/-- The exact value of ± m · 2^e as an integer at the common exponent `q` ≤ e. -/
def atExp (neg : Bool) (m : Nat) (e q : Int) : Int :=
  let n : Int := (m * 2 ^ (e - q).toNat : Nat)
  if neg then -n else n

/-- The sum of two finite values, with the sign of an exact zero by IEEE 754 (R139). -/
def addFin (rm : Nat) (na : Bool) (ma : Nat) (ea : Int) (nb : Bool) (mb : Nat) (eb : Int) : Exact :=
  let q := min ea eb
  let t := atExp na ma ea q + atExp nb mb eb q
  let neg := if t = 0 then (if na == nb then na else rm == 2) else decide (t < 0)
  ⟨neg, t.natAbs, q, false⟩

/-- a + b of two values (R138). -/
def addVal (f : Fmt) (rm : Nat) (a b : FVal) (u : Nat) : Nat × Flags :=
  match a, b with
  | .nan s, .nan t => (f.canonNan, if s || t then Flags.nv else 0)
  | .nan s, _ => (f.canonNan, if s then Flags.nv else 0)
  | _, .nan t => (f.canonNan, if t then Flags.nv else 0)
  | .inf x, .inf y => if x == y then (f.infBits x, 0) else (f.canonNan, Flags.nv)
  | .inf x, _ => (f.infBits x, 0)
  | _, .inf y => (f.infBits y, 0)
  | .fin na ma ea, .fin nb mb eb => f.round rm (addFin rm na ma ea nb mb eb) false u

/-- The value with its sign flipped. -/
def FVal.negate : FVal → FVal
  | .nan s => .nan s
  | .inf n => .inf !n
  | .fin n m e => .fin (!n) m e

/-- The sign that an operation gives a product or quotient. -/
def FVal.isNeg : FVal → Bool
  | .nan _ => false
  | .inf n => n
  | .fin n _ _ => n

def FVal.isZero : FVal → Bool
  | .fin _ m _ => m == 0
  | _ => false

def FVal.isNan : FVal → Bool
  | .nan _ => true
  | _ => false

def FVal.isSignalling : FVal → Bool
  | .nan s => s
  | _ => false

def FVal.isInf : FVal → Bool
  | .inf _ => true
  | _ => false

/-- The exact product; 0 · ∞ is a NaN. -/
def mulVal (a b : FVal) : FVal :=
  match a, b with
  | .nan s, .nan t => .nan (s || t)
  | .nan s, _ => .nan s
  | _, .nan t => .nan t
  | .inf x, y => if y.isZero then .nan true else .inf (x != y.isNeg)
  | x, .inf y => if x.isZero then .nan true else .inf (x.isNeg != y)
  | .fin na ma ea, .fin nb mb eb => .fin (na != nb) (ma * mb) (ea + eb)

/-- a · b rounded (R138): NV for a signalling NaN or 0 · ∞. -/
def mulRound (f : Fmt) (rm : Nat) (a b : FVal) (u : Nat) : Nat × Flags :=
  let p := mulVal a b
  let (r, fl) := f.roundVal rm p u
  (r, if p.isSignalling then Flags.nv else fl)

/-- ± (a · b) ± c with one rounding (R139). `np` and `nc` negate the addends. -/
def fmaRound (f : Fmt) (rm : Nat) (np nc : Bool) (a b c : FVal) (u : Nat) : Nat × Flags :=
  let p := mulVal a b
  let nvIn := a.isSignalling || b.isSignalling || c.isSignalling
  if p.isSignalling && !(a.isNan || b.isNan) then (f.canonNan, Flags.nv)
  else if a.isNan || b.isNan || c.isNan then (f.canonNan, if nvIn then Flags.nv else 0)
  else addVal f rm (if np then p.negate else p) (if nc then c.negate else c) u

/-- Bits of extra precision that every quotient, root and transcendental carries. -/
def extraBits : Nat := 120

/-- a / b (R138). -/
def divVal (f : Fmt) (rm : Nat) (a b : FVal) (u : Nat) : Nat × Flags :=
  match a, b with
  | .nan s, .nan t => (f.canonNan, if s || t then Flags.nv else 0)
  | .nan s, _ => (f.canonNan, if s then Flags.nv else 0)
  | _, .nan t => (f.canonNan, if t then Flags.nv else 0)
  | .inf _, .inf _ => (f.canonNan, Flags.nv)
  | .inf x, y => (f.infBits (x != y.isNeg), 0)
  | .fin na _ _, .inf y => (f.finBits (na != y) 0 0, 0)
  | .fin na ma ea, .fin nb mb eb =>
    if mb = 0 then
      if ma = 0 then (f.canonNan, Flags.nv) else (f.infBits (na != nb), Flags.dz)
    else
      let k := extraBits + bitLen mb
      f.round rm ⟨na != nb, ma * 2 ^ k / mb, ea - eb - k, ma * 2 ^ k % mb != 0⟩ false u

/-- The integer square root, by `fuel` bits from the top. -/
def isqrtGo (n : Nat) : Nat → Nat → Nat
  | 0, r => r
  | k + 1, r => let t := r + 2 ^ k; if t * t ≤ n then isqrtGo n k t else isqrtGo n k r

/-- The integer square root. -/
def isqrt (n : Nat) : Nat := isqrtGo n (bitLen n / 2 + 1) 0

/-- sqrt (R138). -/
def sqrtVal (f : Fmt) (rm : Nat) (a : FVal) (u : Nat) : Nat × Flags :=
  match a with
  | .nan s => (f.canonNan, if s then Flags.nv else 0)
  | .inf n => if n then (f.canonNan, Flags.nv) else (f.infBits false, 0)
  | .fin n m e =>
    if m = 0 then (f.finBits n 0 0, 0)
    else if n then (f.canonNan, Flags.nv)
    else
      let k := 2 * extraBits + (e % 2).toNat
      let r := isqrt (m * 2 ^ k)
      f.round rm ⟨false, r, (e - k) / 2, r * r != m * 2 ^ k⟩ false u

/-- 1 / a (R138). -/
def recVal (f : Fmt) (rm : Nat) (a : FVal) (u : Nat) : Nat × Flags := divVal f rm (.fin false 1 0) a u

/-- 1 / sqrt a (R138). -/
def rsqVal (f : Fmt) (rm : Nat) (a : FVal) (u : Nat) : Nat × Flags :=
  match a with
  | .nan s => (f.canonNan, if s then Flags.nv else 0)
  | .inf n => if n then (f.canonNan, Flags.nv) else (f.finBits false 0 0, 0)
  | .fin n m e =>
    if m = 0 then (f.infBits n, Flags.dz)
    else if n then (f.canonNan, Flags.nv)
    else
      let m' := m * 2 ^ (e % 2).toNat
      let e' := e - e % 2
      let k := extraBits + bitLen m'
      let r := isqrt (2 ^ (2 * k) / m')
      f.round rm ⟨false, r, -(e' / 2) - k, r * r * m' != 2 ^ (2 * k)⟩ false u

/-! ## exp2 and log2, correctly rounded -/

/-- An interval product at `p` fractional bits over the bits of the fraction `fr` (from bit `k - 1` down): `cl` and `ch`
enclose 2^(2^-i). -/
def exp2Go (p fr : Nat) : Nat → Nat → Nat → Nat × Nat → Nat × Nat
  | 0, _, _, acc => acc
  | k + 1, cl, ch, acc =>
    let cl' := isqrt (cl * 2 ^ p)
    let ch' := isqrt (ch * 2 ^ p) + 1
    exp2Go p fr k cl' ch'
      (if fr.testBit k then (acc.1 * cl' / 2 ^ p, acc.2 * ch' / 2 ^ p + 1) else acc)

/-- 2^(fr / 2^k) as an integer part at `q` bits that both ends of the interval agree on; the precision doubles until they
do, which an irrational value reaches. -/
def exp2Frac (fr k q : Nat) : Nat → Nat → Nat
  | 0, p => 2 ^ q + p * 0
  | fuel + 1, p =>
    let (lo, hi) := exp2Go p fr k (2 * 2 ^ p) (2 * 2 ^ p) (2 ^ p, 2 ^ p)
    if lo / 2 ^ (p - q) = hi / 2 ^ (p - q) then lo / 2 ^ (p - q) else exp2Frac fr k q fuel (2 * p)

/-- 2^a, correctly rounded, exact for an integer a (R138). DESIGN CHOICE (entry 73): a signalling NaN raises NV here as in `rec`,
`rsq` and `log2`, whose rows list no flag for it. -/
def exp2Val (f : Fmt) (rm : Nat) (a : FVal) (u : Nat) : Nat × Flags :=
  match a with
  | .nan s => (f.canonNan, if s then Flags.nv else 0)
  | .inf n => if n then (f.finBits false 0 0, 0) else (f.infBits false, 0)
  | .fin n m e =>
    if m = 0 then f.round rm ⟨false, 1, 0, false⟩ false u
    else if 20 < e + bitLen m then
      f.round rm ⟨false, 1, if n then -16384 else 16384, false⟩ false u
    else if e + bitLen m < -100 then
      f.round rm (if n then ⟨false, 2 ^ extraBits - 1, -extraBits, true⟩ else ⟨false, 2 ^ extraBits, -extraBits, true⟩) false u
    else if 0 ≤ e then
      f.round rm ⟨false, 1, if n then -((m * 2 ^ e.toNat : Nat) : Int) else ((m * 2 ^ e.toNat : Nat) : Int), false⟩ false u
    else
      let k := (-e).toNat
      let t : Int := if n then -(m : Int) else m
      let ip := t.fdiv (2 ^ k)
      let fr := (t.fmod (2 ^ k)).toNat
      if fr = 0 then f.round rm ⟨false, 1, ip, false⟩ false u
      else f.round rm ⟨false, exp2Frac fr k extraBits 8 400, ip - extraBits, true⟩ false u

/-- Bits of log2 y by repeated squaring of the enclosure `lo`, `hi` of y in [1, 2) at `p` fractional bits; none where the
enclosure does not decide a bit. -/
def log2Go (p : Nat) : Nat → Nat → Nat → Nat → Option Nat
  | 0, _, _, acc => some acc
  | k + 1, lo, hi, acc =>
    let l2 := lo * lo / 2 ^ p
    let h2 := hi * hi / 2 ^ p + 1
    if 2 * 2 ^ p ≤ l2 then log2Go p k (l2 / 2) (h2 / 2 + 1) (2 * acc + 1)
    else if h2 < 2 * 2 ^ p then log2Go p k l2 h2 (2 * acc)
    else none

/-- `q` bits of log2 of m / 2^(len - 1), with the precision doubled until every bit is decided. -/
def log2Frac (m q : Nat) : Nat → Nat → Nat
  | 0, p => p * 0
  | fuel + 1, p =>
    let y := m * 2 ^ p / 2 ^ (bitLen m - 1)
    match log2Go p q y (y + 1) 0 with
    | some r => r
    | none => log2Frac m q fuel (2 * p)

/-- log2 a, correctly rounded, exact for a power of two (R138). -/
def log2Val (f : Fmt) (rm : Nat) (a : FVal) (u : Nat) : Nat × Flags :=
  match a with
  | .nan s => (f.canonNan, if s then Flags.nv else 0)
  | .inf n => if n then (f.canonNan, Flags.nv) else (f.infBits false, 0)
  | .fin n m e =>
    if m = 0 then (f.infBits true, Flags.dz)
    else if n then (f.canonNan, Flags.nv)
    else
      let top : Int := e + bitLen m - 1
      if m = 2 ^ (bitLen m - 1) then f.round rm ⟨decide (top < 0), top.natAbs, 0, false⟩ false u
      else
        let q := 2 * extraBits
        let t : Int := top * 2 ^ q + (log2Frac m q 8 800 : Nat)
        if t < 0 then f.round rm ⟨true, t.natAbs - 1, -q, true⟩ false u
        else f.round rm ⟨false, t.natAbs, -q, true⟩ false u

/-! ## Comparison, minimum and maximum, class -/

/-- a < b of two numbers, with −0 = +0. -/
def FVal.lt (a b : FVal) : Bool :=
  match a, b with
  | .nan _, _ => false
  | _, .nan _ => false
  | .inf x, .inf y => x && !y
  | .inf x, .fin .. => x
  | .fin .., .inf y => !y
  | .fin na ma ea, .fin nb mb eb =>
    let q := min ea eb
    decide (atExp na ma ea q < atExp nb mb eb q)

/-- a = b of two numbers, with −0 = +0. -/
def FVal.eq (a b : FVal) : Bool := !a.isNan && !b.isNan && !a.lt b && !b.lt a

/-- min or max (R138): −0 below +0; one NaN gives the other input, two the canonical NaN; NV for a signalling NaN. -/
def minMax (f : Fmt) (isMax : Bool) (a b : Nat) : Nat × Flags :=
  let x := f.value a
  let y := f.value b
  let fl : Flags := if x.isSignalling || y.isSignalling then Flags.nv else 0
  if x.isNan && y.isNan then (f.canonNan, fl)
  else if x.isNan then (b, fl)
  else if y.isNan then (a, fl)
  else
    let aLess := x.lt y || (x.eq y && x.isNeg && !y.isNeg)
    (if aLess != isMax then a else b, fl)

/-- The class mask (R138). -/
def classBits (f : Fmt) (a : Nat) : Nat :=
  match f.value a with
  | .inf n => if n then 1 else 2 ^ 7
  | .nan s => if s then 2 ^ 8 else 2 ^ 9
  | .fin n m _ =>
    if m = 0 then (if n then 2 ^ 3 else 2 ^ 4)
    else if m < 2 ^ f.mb then (if n then 2 ^ 2 else 2 ^ 5)
    else if n then 2 else 2 ^ 6

end Sys2Proof.Machine
end

