-- ==== Sys2Proof/Machine/Convert.lean ====
section
/-! DEFINITION. Narrow formats and the conversion functions of `vcvt` (R125, R128, R140 to R143). -/

namespace Sys2Proof.Machine

/-- The narrow storage width N of format code `fx` at `sew` (R140). -/
def narrowWidth (fx sew : Nat) : Nat :=
  if fx < 2 then sew / 2
  else match fx with
    | 2 => 1
    | 3 => 2
    | 4 | 6 | 8 | 9 => 4
    | 5 | 7 | 10 | 11 | 12 | 13 | 14 | 15 => 8
    | 16 | 17 => 16
    | _ => 32

/-- The lane float of R123: FP64, FP32, or at 16 bits BF16 for FX 16 and FP16 for FX 17. -/
def laneFmt (sew fx : Nat) : Fmt :=
  match sew with
  | 64 => fp64
  | 32 => fp32
  | _ => if fx = 16 then bf16 else fp16

/-- The lane float of the functions that name a narrow format: FP16 at 16 bits (R140). -/
def wideFmt (sew : Nat) : Fmt := laneFmt sew 17

/-- The integer that a code of formats 0 to 7 stands for, without scale or zero point (R125). -/
def intCode (code w n : Nat) : Int :=
  match code with
  | 0 | 4 | 5 => (n % 2 ^ w : Nat)
  | 2 => if n % 2 = 0 then 1 else -1
  | 3 => match n % 4 with
    | 1 => 1
    | 3 => -1
    | _ => 0
  | _ => signed n w

/-- The scale element of a block (R128): its FP16 scale and its zero point. A scale that is zero, infinite or NaN is
bad. -/
structure ScaleElt where
  val : FVal
  zp : Nat
  deriving DecidableEq, Repr

def scaleElt (n : Nat) : ScaleElt := ⟨fp16.value (n % 2 ^ 16), n / 2 ^ 16 % 256⟩

def ScaleElt.bad (s : ScaleElt) : Bool := s.val.isNan || s.val.isInf || s.val.isZero

/-- Width of a scale element: 32 bits for the asymmetric codes, else 16 (R128). -/
def scaleWidth (code : Nat) : Nat := if code = 4 ∨ code = 5 then 32 else 16

/-- The code takes scales: block-scaled or asymmetric (R17, R128). -/
def scaledCode (code : Nat) : Bool := code ∈ [4, 5, 6, 7, 9, 14, 15]

/-- Round an exact value to an integer (R141, R143). -/
def roundInt (rm : Nat) (x : Exact) (u : Nat) : Int × Bool :=
  let (n, inexact) := roundAt rm x 0 u
  (if x.neg then -(n : Int) else n, inexact)

/-- An integer as a lane float (R141, i2f and u2f). -/
def intToFloat (f : Fmt) (rm : Nat) (z : Int) (u : Nat) : Nat × Flags := f.round rm ⟨decide (z < 0), z.natAbs, 0, false⟩ false u

/-- A lane float as an integer in [lo, hi], judged after rounding (R141, f2i and f2u). -/
def floatToInt (f : Fmt) (rm : Nat) (lo hi : Int) (a u : Nat) : Int × Flags :=
  match f.value a with
  | .nan _ => (0, Flags.nv)
  | .inf n => (if n then lo else hi, Flags.nv)
  | .fin n m e =>
    let (v, inexact) := roundInt rm ⟨n, m, e, false⟩ u
    if v < lo then (lo, Flags.nv) else if hi < v then (hi, Flags.nv) else (v, if inexact then Flags.nx else 0)

/-- Widen a narrow float exactly (R141, fwid). -/
def widen (nf lf : Fmt) (a : Nat) : Nat × Flags :=
  match nf.value a with
  | .nan s => (lf.canonNan, if s then Flags.nv else 0)
  | v => lf.roundVal 0 v 0

/-- Narrow a lane float (R142). -/
def narrow (lf nf : Fmt) (rm : Nat) (sat : Bool) (a u : Nat) : Nat × Flags :=
  match lf.value a with
  | .nan s => (nf.canonNan, if s || !(nf.ieee || nf.e4m3) then Flags.nv else 0)
  | .inf n => (if nf.ieee && !sat then nf.infBits n else nf.maxBits n, 0)
  | .fin n m e => nf.round rm ⟨n, m, e, false⟩ sat u

/-- The quotient of two finite values, the divisor nonzero, with room for every rounding. -/
def quotient (na : Bool) (ma : Nat) (ea : Int) (nb : Bool) (mb : Nat) (eb : Int) : Exact :=
  let k := extraBits + bitLen mb
  ⟨na != nb, ma * 2 ^ k / mb, ea - eb - k, ma * 2 ^ k % mb != 0⟩

/-- Quantise (R143). `n` is the narrow width. DESIGN CHOICE (entry 76): a zero point too large for a narrow format enters it modulo
2^`n`. -/
def quant (lf : Fmt) (fx n rm : Nat) (sat : Bool) (s : ScaleElt) (a u : Nat) : Nat × Flags :=
  let asym := decide (fx = 4 ∨ fx = 5)
  match lf.value a, s.val with
  | .fin na ma ea, .fin nb mb eb =>
    if mb = 0 then (if asym then s.zp % 2 ^ n else 0, Flags.nv)
    else
      let q := quotient na ma ea nb mb eb
      if fx = 9 ∨ fx = 14 ∨ fx = 15 then (fmtOf fx).round rm q sat u
      else
        let (v, inexact) := roundInt rm q u
        let r := if asym then clampInt (v + s.zp) 0 (2 ^ n - 1) else clampInt v (-2 ^ (n - 1)) (2 ^ (n - 1) - 1)
        (wrap r n, if inexact then Flags.nx else 0)
  | _, _ => (if asym then s.zp % 2 ^ n else 0, Flags.nv)

/-- The value of a narrow element before its scale (R143, R172). -/
def elementValue (fx w n : Nat) (zp : Nat) : FVal :=
  if fx < 8 then
    let z := intCode fx w n - zp
    .fin (decide (z < 0)) z.natAbs 0
  else (fmtOf fx).value n

/-- Dequantise (R143). DESIGN CHOICE (entry 77): an infinite E5M2 element under a valid scale gives infinity and no flag. DESIGN CHOICE
(entry 91): the product of an integer value 0 with a negative scale is -0, as that of two numbers of unlike sign is. -/
def dequant (lf : Fmt) (fx n rm : Nat) (s : ScaleElt) (a u : Nat) : Nat × Flags :=
  if s.bad then (lf.canonNan, Flags.nv)
  else
    let v := elementValue fx n (a % 2 ^ n) (if fx = 4 ∨ fx = 5 then s.zp else 0)
    if v.isNan then (lf.canonNan, 0) else lf.roundVal rm (mulVal v s.val) u

/-- Scale one lane element (R141, bscale). -/
def bscale (lf : Fmt) (rm : Nat) (s : ScaleElt) (a u : Nat) : Nat × Flags :=
  let v := lf.value a
  if s.bad then (lf.canonNan, Flags.nv)
  else if v.isNan then (lf.canonNan, if v.isSignalling then Flags.nv else 0)
  else lf.roundVal rm (mulVal v s.val) u

end Sys2Proof.Machine
end

