-- ==== Sys2Proof/Machine/ArrayOps.lean ====
section
/-! DEFINITION. The bit-serial array: what acceptance and retirement of an operation do (R163 to R178, R183, R332). -/

namespace Sys2Proof.Machine

/-- Bits `hi` to `lo` of a ZW image (R168). -/
def zwBits (zw : Word) (hi lo : Nat) : Nat := zw.toNat / 2 ^ lo % 2 ^ (hi + 1 - lo)

/-- The serial width of a format code with width field `w` (R125, R163). -/
def serialWidth (code w : Nat) : Nat :=
  match code with
  | 0 | 1 => w
  | 2 | 3 => 1
  | 4 | 6 => 4
  | 5 | 7 => 8
  | 8 | 9 => 2
  | 10 => 4
  | 11 => 3
  | 12 | 14 => 4
  | 13 | 15 => 3
  | 16 => 8
  | 17 | 18 => 11
  | _ => 24

/-- The storage width of an element in an array operand (R167). -/
def storageWidth (code w : Nat) : Nat := if code < 2 then w else narrowWidth code 0

/-- What ZW says of one operand: format code, width, fraction, whether zero points are subtracted (R168). -/
structure ZwSide where
  code : Nat
  w : Nat
  q : Nat
  zp : Bool
  deriving DecidableEq, Repr

def zwA (zw : Word) : ZwSide := ⟨zwBits zw 4 0, zwBits zw 8 5 + 1, zwBits zw 24 20, zw.getLsbD 36⟩
def zwB (zw : Word) : ZwSide := ⟨zwBits zw 13 9, zwBits zw 17 14 + 1, zwBits zw 29 25, zw.getLsbD 37⟩
def zwAcct (zw : Word) : Nat := zwBits zw 19 18
def zwQz (zw : Word) : Nat := zwBits zw 35 30

/-- The key of a tile element (R165). -/
def tileKey (q z row col : Nat) : Nat := ((q * 8 + z) * 64 + row) * 64 + col

/-- The element `e` of a slice (R167). -/
def sliceElt (side : ZwSide) (slice e : Nat) : Nat :=
  slice / 2 ^ (e * storageWidth side.code side.w) % 2 ^ storageWidth side.code side.w

/-- The zero point of row or column `e`, subtracted when ZP is set (R170, R172). -/
def zeroPoint (side : ZwSide) (scales : Option (List Nat)) (q e : Nat) : Nat :=
  if side.zp then
    match scales with
    | some rs => (rs.getD q 0) / 2 ^ (e * scaleWidth side.code) / 2 ^ 16 % 256
    | none => 0
  else 0

/-- The integer of an operand element for an integer accumulator (R170). -/
def intOperand (side : ZwSide) (scales : Option (List Nat)) (q e raw : Nat) : Int :=
  intCode side.code (storageWidth side.code side.w) raw - zeroPoint side scales q e

/-- The exact value of an operand element for an FP32 accumulator (R172). A bad scale makes it a quiet NaN. -/
def floatOperand (side : ZwSide) (scales : Option (List Nat)) (q e raw : Nat) : FVal :=
  let v := elementValue side.code (storageWidth side.code side.w) raw (zeroPoint side scales q e)
  let v := if side.code < 4 then
      match v with
      | .fin n m x => .fin n m (x - side.q)
      | v => v
    else v
  if scaledCode side.code then
    match scales with
    | some rs =>
      let s := scaleElt ((rs.getD q 0) / 2 ^ (e * scaleWidth side.code) % 2 ^ 32)
      if s.bad then .nan false else mulVal v s.val
    | none => v
  else v

/-- One integer update of a position (R170): the new element and whether it overflowed or lost bits. -/
def intUpdate (zw : Word) (old : BitVec 32) (sum : Int) : BitVec 32 × Bool × Bool :=
  let d : Int := (zwA zw).q + (zwB zw).q - zwQz zw
  let s' := if 0 < d then sum.fdiv (2 ^ d.toNat) else sum * 2 ^ (-d).toNat
  let loss := decide (0 < d) && decide (s' * 2 ^ d.toNat ≠ sum)
  let t := old.toInt + s'
  let ovf := decide (t < -2 ^ 31) || decide (2 ^ 31 - 1 < t)
  let t' := if ovf && zwAcct zw != 0 then (if 0 < t then 2 ^ 31 - 1 else -2 ^ 31) else t
  (BitVec.ofInt 32 t', ovf, loss)

/-- floor(log2 |t|) of a nonzero finite term. -/
def topBit (m : Nat) (e : Int) : Int := e + bitLen m - 1

/-- A term truncated toward zero to a multiple of 2^q. -/
def truncTerm (m : Nat) (e q : Int) : Nat × Bool :=
  if q ≤ e then (m * 2 ^ (e - q).toNat, false) else (m / 2 ^ (q - e).toNat, m % 2 ^ (q - e).toNat != 0)

/-- One FP32 update of a position (R173): the new element and OVF, LOSS, NV. `signalling`: an operand or the tile
element is a signalling NaN. -/
def floatUpdate (rm : Nat) (terms : List FVal) (zeroTimesInf signalling : Bool) : BitVec 32 × Bool × Bool × Bool :=
  let mixed := terms.any (fun t => t.isInf && t.isNeg) && terms.any (fun t => t.isInf && !t.isNeg)
  if terms.any FVal.isNan || mixed then
    (0x7FC00000, false, false, zeroTimesInf || mixed || signalling)
  else match terms.find? FVal.isInf with
    | some i => (BitVec.ofNat 32 (fp32.infBits i.isNeg), false, false, false)
    | none =>
      let fins := terms.filterMap fun t => match t with
        | .fin n m e => if m = 0 then none else some (n, m, e)
        | _ => none
      let top := match fins.map fun t => topBit t.2.1 t.2.2 with
        | [] => 0
        | t :: rest => rest.foldl max t
      let q := top - 79
      let parts := fins.map fun t => (t.1, truncTerm t.2.1 t.2.2 q)
      let loss := parts.any fun p => p.2.2
      let sum := parts.foldl (fun acc p => acc + (if p.1 then -(p.2.1 : Int) else p.2.1)) (0 : Int)
      let rm' := if rm = 5 then 0 else rm
      if sum = 0 then
        let neg := terms.all FVal.isNeg || rm' = 2
        (BitVec.ofNat 32 (fp32.finBits neg 0 0), false, loss, false)
      else
        let r := (fp32.round rm' ⟨decide (sum < 0), sum.natAbs, q, false⟩ false 0).1
        (BitVec.ofNat 32 r, (fp32.value r).isInf, loss, false)

/-- What one operation adds to a tile: elements written, and OVF, LOSS and NV. -/
structure ArrayOut where
  tiles : Sparse (BitVec 32)
  ovf : Bool
  loss : Bool
  nv : Bool

/-- The update of position (row, col) on span position `q` by an accepted entry (R170, R173, R175, R177). -/
def positionUpdate (e : ArrayEntry) (old : BitVec 32) (q row col : Nat) : BitVec 32 × Bool × Bool × Bool :=
  let a := zwA e.zw
  let b := zwB e.zw
  let ks := List.range e.slices
  let slice (k : Nat) : Nat := q * e.slices + k
  let pad (k : Nat) : Bool := (e.padding.getD (slice k) 0).testBit row
  let ra (k : Nat) : Nat := sliceElt a (e.a.getD (slice k) 0) row
  let rb (k : Nat) : Nat := sliceElt b (e.b.getD (slice k) 0) col
  if zwAcct e.zw = 2 then
    let va (k : Nat) := floatOperand a e.scaleA q row (ra k)
    let vb (k : Nat) := floatOperand b e.scaleB q col (rb k)
    let used := ks.filter fun k => !pad k
    let prods := ks.map fun k => if pad k then .fin false 0 0 else mulVal (va k) (vb k)
    let z := fp32.value old.toNat
    let raw (s : ZwSide) (n : Nat) : Bool := decide (8 ≤ s.code) && ((fmtOf s.code).value n).isSignalling
    let sig := z.isSignalling || used.any fun k => raw a (ra k) || raw b (rb k)
    let zi := used.any fun k => !(va k).isNan && !(vb k).isNan && (mulVal (va k) (vb k)).isNan
    floatUpdate e.rm.toNat (prods ++ [z]) zi sig
  else
    let sum := ks.foldl (fun acc k =>
      if pad k then acc
      else acc + intOperand a e.scaleA q row (ra k) * intOperand b e.scaleB q col (rb k)) (0 : Int)
    let (t, o, l) := intUpdate e.zw old sum
    (t, o, l, false)

/-- The effect of an accepted entry on every active position of every span position (R177). -/
def arrayEffect (e : ArrayEntry) (positions : Nat) (tiles : Sparse (BitVec 32)) : ArrayOut :=
  (List.range (positions * e.mvl * e.mvl)).foldl (fun o i =>
    let q := i / (e.mvl * e.mvl)
    let row := i / e.mvl % e.mvl
    let col := i % e.mvl
    let key := tileKey q e.tile row col
    let (t, ovf, loss, nv) := positionUpdate e (Sparse.get 0 tiles key) q row col
    ⟨Sparse.set 0 o.tiles key t, o.ovf || ovf, o.loss || loss, o.nv || nv⟩) ⟨tiles, false, false, false⟩

/-! ## The unfolding unit -/

/-- Bits of a descriptor register (R174). -/
def ufdBits (w : Word) (hi lo : Nat) : Nat := w.toNat / 2 ^ lo % 2 ^ (hi + 1 - lo)

/-- The descriptor is in range and its zero field is zero (R174, R176). -/
def ufdOk (even odd : Word) : Bool :=
  ufdBits even 63 52 != 0 && ufdBits even 51 40 != 0 && ufdBits even 39 24 != 0 && ufdBits odd 43 32 != 0
    && ufdBits odd 63 44 == 0

/-- The tensor's end as a bit offset (R176). -/
def ufdEnd (even : Word) (n : Nat) : Nat :=
  ufdBits even 23 0 * 8 + ufdBits even 51 40 * ufdBits even 63 52 * ufdBits even 39 24 * n

/-- The bit offset of the element of k-slice `k'` at row `m`, or none for a padding position (R175). -/
def unfoldBit (even odd : Word) (n k' m : Nat) : Option Nat :=
  let w := ufdBits even 63 52
  let h := ufdBits even 51 40
  let c := ufdBits even 39 24
  let base := ufdBits even 23 0
  let ow := ufdBits odd 43 32
  let kw := ufdBits odd 7 4 + 1
  let kh := ufdBits odd 3 0 + 1
  if kh * kw * c ≤ k' then none
  else
    let ch := k' % c
    let o := k' / c
    let iy : Int := (m / ow * (ufdBits odd 11 8 + 1) : Nat) - (ufdBits odd 27 24 : Nat) + (o / kw * (ufdBits odd 19 16 + 1) : Nat)
    let ix : Int := (m % ow * (ufdBits odd 15 12 + 1) : Nat) - (ufdBits odd 31 28 : Nat) + (o % kw * (ufdBits odd 23 20 + 1) : Nat)
    if iy < 0 ∨ (h : Int) ≤ iy ∨ ix < 0 ∨ (w : Int) ≤ ix then none
    else some (base * 8 + ((iy.toNat * w + ix.toNat) * c + ch) * n)

/-- One k-slice of the unfolded A on one span core, and its padding rows (R175). -/
def unfoldSlice (s : State) (sb : List SbEntry) (core : Nat) (xa even odd : Word) (n mvl k : Nat) : Nat × Nat :=
  let k0 := xa.toNat % 2 ^ 32
  let m0 := xa.toNat / 2 ^ 32 % 2 ^ 30
  (List.range mvl).foldl (fun acc r =>
    match unfoldBit even odd n (k0 + k) (m0 + r) with
    | some b => (acc.1 + scratchBits s sb core b n * 2 ^ (r * n), acc.2)
    | none => (acc.1, acc.2 + 2 ^ r)) (0, 0)

/-! ## Acceptance and retirement -/

/-- The place of a task's queue among the charges of a core's array. -/
def Task.queueKey (t : Task) : Nat := t.vi * 256 + t.queue

/-- What a core's array has done for the queue of hart `n`, by the queue's weight (R183). -/
def arrayCharge (s : State) (core n : Nat) : Rat := Sparse.get 0 (s.core core).arrayV (s.hart n).task.queueKey

/-- Charge array cycles on one span core to the queue of hart `n` (R183, R343). -/
def chargeArrayOn (s : State) (n core cycles : Nat) : State :=
  let c := s.core core
  let v := arrayCharge s core n + (cycles : Rat) / (max 1 (s.hart n).task.weight : Nat)
  countEvent (s.setCore core { c with arrayV := Sparse.put c.arrayV (s.hart n).task.queueKey v }) core 3 cycles

/-- Count array cycles of the home core in ARRCYC (R342). -/
def countArrayCycles (s : State) (n cycles : Nat) : State :=
  let h := s.hart n
  s.setHart n { h with counters := { h.counters with arrcyc := h.counters.arrcyc + BitVec.ofNat 64 cycles } }

/-- The array of a core performs an operation that is no `mop` or `mopu`: the panel that ran there, of whatever hart and tile, ends
(R163). -/
def breakPanel (s : State) (core cycles : Nat) : State :=
  if cycles = 0 then s else s.setCore core { s.core core with panel := none }

/-- Charge the array cycles of a function on a tile on every span core, by span position; ARRCYC counts those of the home core (R163,
R179, R180, R342). -/
def chargeArrayBy (s : State) (n : Nat) (cycles : Nat → Nat) : State :=
  (s.hart n).span.zipIdx.foldl (fun s c => chargeArrayOn (breakPanel s c.1 (cycles c.2)) n c.1 (cycles c.2))
    (countArrayCycles s n (cycles 0))

/-- Charge `cycles` array cycles on every span core (R179). -/
def chargeArray (s : State) (n cycles : Nat) : State := chargeArrayBy s n fun _ => cycles

/-- The bit-pair slots in the panel that a core runs for a hart's tile (R163). -/
def Core.panelSlots (c : Core) (n tile : Nat) : Nat :=
  match c.panel with
  | some (hart, z, slots) => if hart = n ∧ z = tile then slots else 0
  | none => 0

/-- Add the operation's slots to the panel of each span core and charge the cycles that they complete (R163, R183). -/
def chargePanel (s : State) (n : Nat) (e : ArrayEntry) (zw : Word) : State :=
  let add := e.slices * serialWidth (zwA zw).code (zwA zw).w * serialWidth (zwB zw).code (zwB zw).w
  (s.hart n).span.foldl (fun s core =>
    let c := s.core core
    let before := c.panelSlots n e.tile
    let cycles := ceilDiv (before + add) 32 - ceilDiv before 32
    let s := s.setCore core { c with panel := some (n, e.tile, before + add), arrayOps := c.arrayOps + 1 }
    let s := chargeArrayOn s n core cycles
    if core = n / 4 then countArrayCycles s n cycles else s) s

/-- The panel of a hart on a tile ends on every span core (R163). -/
def endPanel (s : State) (n tile : Nat) : State :=
  (s.hart n).span.foldl (fun s core =>
    let c := s.core core
    match c.panel with
    | some (hart, z, _) => if hart = n ∧ z = tile then s.setCore core { c with panel := none } else s
    | none => s) s

/-- The unfolded operand of an entry reads a lost scratchpad block (R335). -/
def unfoldLost (s : State) (h : Hart) (e : ArrayEntry) (width mvl : Nat) : Bool :=
  match e.unfold with
  | none => false
  | some (xa, even, odd) => h.span.any fun core => (List.range (e.slices * mvl)).any fun j =>
    match unfoldBit even odd width (xa.toNat % 2 ^ 32 + j / mvl) (xa.toNat / 2 ^ 32 % 2 ^ 30 + j % mvl) with
    | some b => scratchLost s core (b / 8) (ceilDiv (b % 8 + width) 8)
    | none => false

/-- The array takes the hart's oldest entry: it reads ZW, MVL and, for `mopu`, the scratchpad as they stand (R166, R175,
R177, R183), and fixes the row that the Cinch row checks on each core (R332). -/
def acceptEntry (s : State) (n : Nat) : State :=
  let h := s.hart n
  match h.array with
  | [] => s
  | e :: rest =>
    if e.accepted then s
    else
      let zw := Sparse.get 0 h.matrix.zw e.tile
      let mvl := h.matrix.mvl.toNat
      let width := storageWidth (zwA zw).code (zwA zw).w
      let lost := unfoldLost s h e width mvl
      let (a, padding) := match e.unfold with
        | none => (e.a, [])
        | some (xa, even, odd) =>
          let ss := h.span.flatMap fun core => (List.range e.slices).map fun k =>
            unfoldSlice s (h.sb.take e.buffered) core xa even odd width mvl k
          (ss.map (·.1), ss.map (·.2))
      let rows := h.span.map fun core => (s.core core).arrayOps % max 1 mvl
      let s1 := s.setHart n { h with
        array := { e with accepted := true, zw, mvl, a, padding, rows } :: rest
        marks := { h.marks with failed := if lost then some .lostScratch else h.marks.failed } }
      chargePanel s1 n e zw

/-- The accepted entry retires (R173, R178): the tile, OVF, LOSS and NV become visible; a `zwset` that followed it on the
tile keeps its own image (R179). An empty queue ends the panel (R163). -/
def retireEntry (s : State) (n : Nat) : State :=
  let h := s.hart n
  match h.array with
  | [] => s
  | e :: rest =>
    if !e.accepted then s
    else
      let o := arrayEffect e h.span.length h.matrix.tiles
      let zw0 := Sparse.get 0 h.matrix.zw e.tile
      let zw := if e.replaced then zw0 else zw0 ||| (if o.ovf then 1#64 <<< 63 else 0) ||| (if o.loss then 1#64 <<< 62 else 0)
      let h' := { h with
        array := rest
        matrix := { h.matrix with tiles := o.tiles, zw := Sparse.set 0 h.matrix.zw e.tile zw }
        strip := { h.strip with fflags := h.strip.fflags ||| (if o.nv then Flags.nv else 0) }
        marks := { h.marks with tiles := e.tile :: h.marks.tiles }
        dirty := { h.dirty with tiles := Sparse.set false h.dirty.tiles e.tile true } }
      let s1 := s.setHart n h'
      if rest.isEmpty then endPanel s1 n e.tile else s1

/-- The share of one span core of the accepted entry is done, its Cinch row check included; a mismatch marks the interval
(R333). The entry retires when every span core's share is done. -/
def reportShare (s : State) (n core : Nat) (mismatch : Bool) : State :=
  let h := s.hart n
  match h.array with
  | [] => s
  | e :: rest =>
    let e := { e with reported := core :: e.reported }
    let failed := if mismatch then h.marks.failed.or (some .mismatch) else h.marks.failed
    let s := s.setHart n { h with array := e :: rest, marks := { h.marks with failed } }
    if h.span.all (· ∈ e.reported) then retireEntry s n else s

/-- Harts whose array operations a core performs, in hart order. -/
def arrayUsers (s : State) (core : Nat) : List Nat :=
  (s.harts.filter fun c => c.2.live && core ∈ c.2.span && !c.2.array.isEmpty).map (·.1)

/-- The oldest entry of the hart has been taken. -/
def Hart.taken (h : Hart) : Bool := (h.array.head?.map (·.accepted)).getD false

/-- The array of a core is free. -/
def arrayFree (s : State) (core : Nat) : Bool := !((arrayUsers s core).any fun n => (s.hart n).taken)

/-- Every entry of the hart that satisfies `on` has been taken (R179). -/
def Hart.allTaken (h : Hart) (on : ArrayEntry → Bool) : Bool := (h.array.filter on).all (·.accepted)

/-- No entry of the hart satisfies `on`: each has retired (R178, R184). -/
def Hart.allRetired (h : Hart) (on : ArrayEntry → Bool) : Bool := !h.array.any on

end Sys2Proof.Machine
end

