-- ==== Sys2Proof/Machine/Elements.lean ====
section
/-! DEFINITION. The places of elements as the engines check and read them, the instance of Stirrup that serves an element, and
the shares by which an instance divides its request slots (R190, R191, R206, R207, R212 to R214, R218, R222). -/

namespace Sys2Proof.Machine

/-! ## Places -/

/-- A run of bytes that an element accesses, with the class of its page. -/
structure Spot where
  loc : Loc
  bytes : Nat
  ord : PageOrd
  device : Bool
  sysat : Bool
  va : Nat
  /-- The access processor reads the run, and so through the L1 data cache; Stirrup serves its elements at their homes (R200, R207). -/
  cached : Bool := false

/-- The parts of `n` bytes at `ea` on each side of a page boundary (R191). -/
def pageParts (ea n : Nat) : List (Nat × Nat) :=
  let ea := ea % 2 ^ 64
  let room := 4096 - ea % 4096
  if n ≤ room then [(ea, n)] else [(ea, room), ((ea + room) % 2 ^ 64, n - room)]

/-- The parts of `n` bytes at `va` on each page (R191); `fuel` bounds how many pages they cover. -/
def pageRuns : Nat → Nat → Nat → List (Nat × Nat)
  | 0, _, _ => []
  | fuel + 1, va, n =>
    let va := va % 2 ^ 64
    let room := 4096 - va % 4096
    if n ≤ room then [(va, n)] else (va, room) :: pageRuns fuel (va + room) (n - room)

/-- Translate every part for an engine of interface `vi`; `unit` is the translation cache that an address goes through
(R207, R324). -/
def engineParts (s : State) (unit : Nat → Nat) (vi : Nat) (as : List Answer) (r w : Bool) : List (Nat × Nat) → Res (List Spot)
  | [] => .ok []
  | (va, k) :: rest =>
    (translate s (unit va) vi va r w (failedPage as va)).bind fun p =>
      (engineParts s unit vi as r w rest).map fun l =>
        { loc := p.loc, bytes := k, ord := p.ord, device := p.device, sysat := p.sysat, va } :: l

/-- Steps 1 to 6 of R190 on `n` bytes of an engine element; `ordered` under ORD 1, 2 or 3 (R239). The parts have the
strongest class among them (R191, R235, R246). -/
def enginePlaces (s : State) (unit : Nat → Nat) (vi : Nat) (as : List Answer) (ordered : Bool) (va n : Nat) (r w : Bool) :
    Res (List Spot) :=
  let parts := pageRuns (n / 4096 + 2) va n
  if parts.any fun p => !canonical p.1 then .cause Cause.noncanonical
  else
    (engineParts s unit vi as r w parts).bind fun l =>
      let ord := l.foldl (fun o p => o.stronger p.ord) .unordered
      if ordered && ord == .unordered then .cause Cause.illegalMode
      else if l.any (·.device) then .cause Cause.deviceClassMisuse
      else .ok (l.map fun p => { p with ord })

/-- Some part of the places is poisoned (R335). -/
def spotsPoisoned (s : State) (l : List Spot) : Bool := l.any fun p => placePoisoned s p.loc p.bytes

/-- The checks of R190 on `n` bytes of a Stirrup element. -/
def engineSpots (s : State) (vi : Nat) (as : List Answer) (ordered : Bool) (va n : Nat) (r w : Bool) : Res (List Spot) :=
  (enginePlaces s (stirrupUnitFor s vi) vi as ordered va n r w).bind fun l =>
    if r && spotsPoisoned s l then .cause Cause.poison else .ok l

/-- Read the runs of an element, lowest byte first (R67, R190); `own` for a load of the running hart, which goes through its L1 data
cache, and reads a strongly ordered place once (R193, R200, R234). -/
def readSpots (s : State) (sb : List SbEntry) (as : List Answer) (l : List Spot) (own : Bool := false) : Res Nat :=
  match l with
  | [] => .ok 0
  | p :: rest =>
    (loadPlace s sb as p.loc p.bytes (if own && p.cached then s.reader p.ord p.device else none) (own && p.ord == .strong)).bind fun v =>
      (readSpots s sb as rest own).map fun r => v + r * 2 ^ (8 * p.bytes)

/-- Some run belongs to a strongly ordered page, or to a device-class one (R235). -/
def strongRuns (l : List Spot) : Bool := l.any fun p => p.ord == .strong

/-- What access `tag` of the running instruction reads from its runs: of a strongly ordered page once and in order (R193, R234). -/
def readAccess (s : State) (tag : Nat) (l : List Spot) : Res Nat :=
  let as := s.h.answers
  if strongRuns l then (readSpots s s.h.sb (taggedAnswers as tag) l true).tagged tag else readSpots s s.h.sb as l true

/-- The runs of an access, each with its number. -/
def numbered (tag : Nat) (l : List Spot) : List (Nat × Spot) := l.map fun p => (tag, p)

/-- The running instruction has read a run already, or reads it at once. -/
def runRead (h : Hart) (r : Nat × Spot) : Bool :=
  let as := if r.2.ord == .strong then taggedAnswers h.answers r.1 else h.answers
  !r.2.loc.remote || (findAnswer as 0 r.2.loc r.2.bytes).isSome

/-- An instruction waits at one of the accesses `reads`, which are in order: what it has read of strongly ordered places before it is
kept until it is performed again (R193, R234, R240). -/
def rememberReads (s : State) (reads : List (Nat × Spot)) : State :=
  let h := s.h
  s.setH { h with answers := h.answers ++ (reads.takeWhile (runRead h)).filterMap fun r =>
    match r.2.loc with
    | .home a =>
      if r.2.ord == .strong && (findAnswer (taggedAnswers h.answers r.1) 0 r.2.loc r.2.bytes).isNone then
        some { kind := 0, loc := r.2.loc, bytes := r.2.bytes, value := s.mem.read a r.2.bytes, cause := 0, tag := r.1 }
      else none
    | _ => none }

/-- The places of a bin, which its home serves in one action: of a host or peer page, in this step (R206, R220, R330, entry
59). -/
def binSpots (s : State) (r : Res (List Spot)) : Res (List Spot) :=
  r.bind fun l => match l.findSome? fun p => s.refuses p.loc with
    | some c => .cause c
    | none => .ok l

/-- The bytes of a bin's places as their homes hold them. -/
def peekSpots (s : State) : List Spot → Nat
  | [] => 0
  | p :: rest => s.peek p.loc p.bytes + peekSpots s rest * 2 ^ (8 * p.bytes)

/-! ## Elements of commands -/

/-- The `bytes`-byte field at offset `off` of a descriptor held as one number. -/
def descField (v off bytes : Nat) : Nat := v / 2 ^ (8 * off) % 2 ^ (8 * bytes)

/-- The element size of FMT, if it names a format (R218). -/
def addSize (fmt : Nat) : Option Nat :=
  match fmt with
  | 0 => some 4
  | 1 => some 8
  | 2 => some 4
  | 3 => some 8
  | 4 => some 2
  | 5 => some 2
  | _ => none

/-- ORD of the command is not 0. -/
def Command.ordered (c : Command) : Bool := c.acquire || c.release

/-- Checked places of a command's element. -/
def Command.spots (c : Command) (s : State) (va n : Nat) (r w : Bool) : Res (List Spot) :=
  engineSpots s c.by_.vi c.answers c.ordered va n r w

/-- Read `n` bytes for a command's element. -/
def Command.load (c : Command) (s : State) (va n : Nat) : Res Nat :=
  (c.spots s va n true false).bind fun l => readSpots s [] c.answers l

/-- The bytes of a row's values. -/
def rowBytes (rowe fmt : Nat) : Nat := rowe * (addSize fmt).getD 1

/-- RECB (R218). -/
def recordBytes (rowe fmt : Nat) : Nat := 64 + roundUp (rowBytes rowe fmt) 16

/-- The address of a bin's header (R218). -/
def binAddress (qbase qcap recb b : Nat) : Nat := qbase + b * (64 + qcap * recb)

/-- Read and write access to a record of a bin. -/
def recordSpots (s : State) (c : Command) (hdr recb slot : Nat) : Res (List Spot) :=
  binSpots s (c.spots s (hdr + 64 + slot * recb) recb true true)

/-- Every element of the command is performed, or a cause ended it (R214). -/
def Command.finished (c : Command) : Bool :=
  c.cause.isSome || match c.kind with
    | .bapply .. => c.started && decide (c.order.length ≤ c.done)
    | _ => decide (c.count ≤ c.done)

/-- The address that the next element of a command acts on: its row, or the header of its bin; where that is not to be known,
the entry of the index list. -/
def Command.target (c : Command) (s : State) : Nat :=
  let e := c.done
  match c.kind with
  | .gsp tbase rowb _ idxa _ _ _ => match c.load s (idxa + 4 * e) 4 with
    | .ok idx => tbase + idx * rowb
    | _ => idxa + 4 * e
  | .ssp tbase rowb _ idxa _ _ _ => match c.load s (idxa + 4 * e) 4 with
    | .ok idx => tbase + idx * rowb
    | _ => idxa + 4 * e
  | .sadd _ _ rowe fmt log2br qbase qcap idxa _ _ _ => match c.load s (idxa + 4 * e) 4 with
    | .ok r => binAddress qbase qcap (recordBytes rowe fmt) (r / 2 ^ log2br)
    | _ => idxa + 4 * e
  | .bapply tbase _ rowe fmt _ qbase qcap bin =>
    let recb := recordBytes rowe fmt
    let hdr := binAddress qbase qcap recb bin
    if c.started then
      match recordSpots s c hdr recb (c.order.getD e 0) with
      | .ok l => tbase + descField (peekSpots s l) 0 4 * rowBytes rowe fmt
      | _ => hdr
    else hdr

/-- The instance that serves the next element of a command: the one at its home (R206). An element whose home is not to be
known, which ends in a cause or asks the host, any instance may take. -/
def Command.servedAt (c : Command) (s : State) (k : Nat) : Bool :=
  match enginePlaces s (stirrupUnitFor s c.by_.vi) c.by_.vi c.answers c.ordered (c.target s % 2 ^ 64) 1 false false with
  | .ok (p :: _) => stirrupOf s.build p.loc == k
  | _ => true

/-! ## Shares (R222, R225, R312) -/

/-- The place of a unit's count for a queue of an interface. -/
def movedKey (unit vi queue : Nat) : Nat := unit * 2 ^ 16 + vi * 256 + queue

/-- What a unit has done for a queue of an interface grows by `n`. -/
def chargeUnit (s : State) (unit vi queue n : Nat) : State :=
  let k := movedKey unit vi queue
  { s with moved := Sparse.set 0 s.moved k (Sparse.get 0 s.moved k + n) }

/-- What a unit has done for an interface, by the interface's share. -/
def viServed (s : State) (share : Vi → Nat) (unit vi : Nat) : Rat :=
  let n : Nat := (s.moved.filter fun c => c.1 / 256 == unit * 256 + vi).foldl (fun acc c => acc + c.2) 0
  (n : Rat) / (max 1 (share (s.vi vi)) : Nat)

/-- What a unit has done for a queue, by its weight. -/
def queueServed (s : State) (unit vi queue : Nat) : Rat :=
  let w := match queueDesc s vi queue with
    | some d => d.weight
    | none => 1
  (Sparse.get 0 s.moved (movedKey unit vi queue) : Nat) / (max 1 w : Nat)

/-- An item that waits for a unit: its interface, its queue and its age. -/
structure Claim where
  vi : Nat
  queue : Nat
  age : Nat

/-- Item `a` goes before item `b` on a unit: by interface, then queue, then age (R222, R225). -/
def claimBefore (s : State) (share : Vi → Nat) (unit : Nat) (a b : Claim) : Bool :=
  let wa := viServed s share unit a.vi
  let wb := viServed s share unit b.vi
  if a.vi ≠ b.vi then if wa ≠ wb then decide (wa < wb) else decide (a.vi < b.vi)
  else if a.queue ≠ b.queue then
    let va := queueServed s unit a.vi a.queue
    let vb := queueServed s unit b.vi b.queue
    if va ≠ vb then decide (va < vb) else decide (a.queue < b.queue)
  else decide (a.age < b.age)

/-- The claim of a command at a Stirrup instance. -/
def Command.claim (c : Command) : Claim := { vi := c.by_.vi, queue := c.by_.queue, age := c.id }

/-- Hart `n` has elements at instance `k` of Stirrup, and its share there is spent: an element of a command of another interface
or queue goes first (R222). -/
def shareSpent (s : State) (n k : Nat) : Bool :=
  let t := (s.hart n).task
  let mine : Claim := { vi := t.vi, queue := t.queue, age := s.nextCmd }
  s.commands.any fun c =>
    !c.finished && !c.blocked && !(c.by_.vi == t.vi && c.by_.queue == t.queue) && c.servedAt s k
      && claimBefore s Vi.sts (s.build.engines + k) c.claim mine

/-- The instance of Stirrup that serves a place accepts an element there for hart `n`: it counts to its queue's deficit (R222). -/
def chargeServed (s : State) (n : Nat) (l : Loc) : State :=
  let t := (s.hart n).task
  chargeUnit s (s.build.engines + stirrupOf s.build l) t.vi t.queue 1

/-- The same for each of the given places. -/
def chargeSpots (s : State) (n : Nat) (l : List Spot) : State := l.foldl (fun s p => chargeServed s n p.loc) s

end Sys2Proof.Machine
end

