-- ==== Sys2Proof/Machine/Ops.lean ====
section
/-! DEFINITION. The shared operations of a hart: taking an exception and returning from one (R28, R58, R73, R74,
R292), commit points, checkpoints and rewinds (R93 to R98, R336 to R338), the strip store buffer (R94), releases
(R238, R239), and what an access that cannot finish makes the hart wait for (R327, R328). -/

namespace Sys2Proof.Machine

/-- What an instruction answers. -/
abbrev Out := Host.Outcome State Fault Refusal

/-! ## Free values and objects -/

/-- A value that the spec leaves open (entry 10). -/
def State.draw (s : State) : Nat × State := (Config.freeValue s.free, { s with free := s.free + 1 })

/-- Replace the object numbered `id`. -/
def State.mapObject (s : State) (id : Nat) (f : Object → Object) : State :=
  { s with objects := s.objects.map fun o => if o.id = id then f o else o }

/-- The instruction of hart `n` cannot go on yet: the hart performs it again, and its cycles until then fall into the
class that a rule names, if one does. -/
def stalled (s : State) (n : Nat) (cls : Option Nat) : State := s.setHart n { s.hart n with stall := cls }

/-- A source of the running hart's instruction is not there yet: the hart waits for data (R203, R208). -/
def awaitSource (s : State) : State := stalled s s.cur (some 2)

/-- The instruction of the running hart that waits is one that never trims (R147). -/
def markWhole (s : State) : State := s.setH { s.h with whole := true }

/-! ## Exceptions -/

/-- The entry to an exception (R292): the trap registers are written, both links are cleared, and the hart enters its
handler, or its task is killed when it is already in one or has none. The trace record names the instruction (R346). -/
def trapNow (s : State) (cause : BitVec 8) (tpc tvstart tval : Word) : State :=
  let n := s.cur
  let s := traceRecord s n 4 cause 0 s.h.pc
  let h := s.h
  let t := h.trap
  let h := { h with answers := [], placing := false, issued := false, trap := { t with tcause := cause, tpc, tvstart, tval } }
  let s := dropLinks (s.setH h) n
  if t.handler then kill s n cause tpc tval true
  else if t.tvec = 0 then kill s n cause tpc tval false
  else s.setH { s.h with pc := t.tvec, trap := { s.h.trap with handler := true } }

/-- Take an exception on the hart whose instruction runs, once every earlier instruction has completed: its array entries
have retired (R29, R93, R178). Until then the hart waits at the instruction. -/
def trapEntry (s : State) (cause : BitVec 8) (tpc tvstart tval : Word) : State :=
  if s.h.array.isEmpty then trapNow s cause tpc tvstart tval else stalled s s.cur none

/-- A whole-instruction trap that the word or a register's value decides (R28): TVAL is the word. -/
def wordTrap (s : State) (cause : BitVec 8) : State :=
  trapEntry s cause s.h.pc s.h.vstart (s.ir.setWidth 64)

/-- A trap of a memory cause at effective address `ea` (R58, R88). -/
def memTrap (s : State) (cause : BitVec 8) (ea : Nat) : State :=
  trapEntry s cause s.h.pc s.h.vstart (BitVec.ofNat 64 ea)

/-- The return from a handler (R74): PC and VSTART come back and the hart is in task mode. -/
def trapReturn (s : State) : State :=
  let h := s.h
  s.setH { h with
    pc := h.trap.tpc, vstart := h.trap.tvstart, instret := h.instret + 1, trap := { h.trap with handler := false }
    answers := [], placing := false, issued := false }

/-! ## Scheduling requests that meet an instruction -/

/-- The element at which a pending request meets the running vector instruction, when it meets one (R88, R300, R348). -/
def Hart.meetElement (h : Hart) : Option Nat :=
  match h.preempt with
  | some p => p.element
  | none => if h.dbg.haltReq then h.dbg.haltElement else none

/-- A pending request has met this instruction, or passed it by. -/
def Hart.metRequest (h : Hart) : Hart :=
  { h with
    preempt := h.preempt.map fun p => { p with element := none }
    dbg := { h.dbg with haltElement := none } }

/-! ## Completing an instruction -/

/-- The instruction is complete: the hart goes on at `pc` and INSTRET counts it (R71). -/
def retireTo (s : State) (pc : Word) : State :=
  let h := s.h
  s.setH { h with pc, instret := h.instret + 1, answers := [], placing := false, issued := false }

/-- The instruction is complete and the hart goes on at the next word. -/
def retire (s : State) : State := retireTo s (s.h.pc + 4)

/-- Write x[d] and complete (R56). -/
def writeX (s : State) (d : BitVec 5) (v : Word) : State := retire (s.setH (s.h.wx d v))

/-- A function of a major that R294 forbids in handler mode: HANDLER_ILLEGAL there, else `k` (R27 step 4). -/
def taskMode (s : State) (k : State) : State := if s.h.trap.handler then wordTrap s Cause.handlerIllegal else k

/-! ## Checkpoints and rewinds -/

/-- The launch asked for rewindable accumulators (R165). -/
def Hart.rewindable (h : Hart) : Bool := h.task.start.flags.getLsbD 0

/-- The launch asked that hints be ignored (R19). -/
def Hart.ignoresHints (h : Hart) : Bool := h.task.start.flags.getLsbD 2

/-- The x registers that a CKMASK names (R96). -/
def maskedX (mask : BitVec 32) (x : Sparse Word) : Sparse Word := x.filter fun c => mask.getLsbD c.1

/-- The stream with nothing filled beyond its position. -/
def Stream.bare (t : Stream) : Stream := { t with filled := [], faults := [], first := t.pos }

/-- The checkpoint of the hart's present state (R98, R185, R204, R295): with VSTART 0, but inside a store whose elements below VSTART are
placed. -/
def Hart.checkpoint (h : Hart) : Ckpt :=
  { mask := h.ckmask, x := maskedX h.ckmask h.x, pc := h.pc, vstart := if h.placing then h.vstart else 0, strip := h.strip, modes := h.modes
    files := h.files, trap := h.trap, streams := h.streams.map Stream.bare
    matrix := if h.rewindable then h.matrix else { mvl := h.matrix.mvl, ufd := h.matrix.ufd } }

/-- The stream at position `p`; what it has filled from there on stays (R204). -/
def Stream.moveTo (t : Stream) (p : Nat) : Stream :=
  if p < t.first ∨ t.first + t.filled.length < p then { t with pos := p, first := p, filled := [], faults := [] }
  else { t with pos := p }

/-- Elements popped before a checkpoint are never read again. -/
def Stream.settled (t : Stream) : Stream :=
  { t with filled := t.filled.drop (t.pos - t.first), first := t.pos }

/-- The hart as it takes a checkpoint: a new commit interval opens (R93 step 4, R98), the registers that the last checkpoint held
are free (R109), and the shadow of each tile changed since it holds the tile (R185, R303). That a span position has left since the
strip opened still holds (R91, R98). -/
def Hart.checkpointed (h : Hart) : Hart :=
  { h with
    ckpt := h.checkpoint, marks := {}, committing := false, implicit := false, streams := h.streams.map Stream.settled
    lost := h.lost.filter fun x => decide (x.2 < 48)
    dirty := { h.dirty with
      hwmb := h.dirty.hwmb.filter fun c => decide (c.1 % 48 < 32)
      shadows := if h.rewindable then
          h.marks.tiles.foldl (fun m z => Sparse.set false m z true)
            (h.dirty.tiles.foldl (fun m c => Sparse.set false m c.1 true) h.dirty.shadows)
        else h.dirty.shadows } }

/-- Take a checkpoint of hart `n`. -/
def takeCheckpoint (s : State) (n : Nat) : State := s.setHart n (s.hart n).checkpointed

/-- The x registers after a rewind: those that the checkpoint's CKMASK names come back, the others keep (R97, R336). -/
def restoredX (c : Ckpt) (x : Sparse Word) : Sparse Word :=
  (List.range 32).foldl (fun m r => if c.mask.getLsbD r then Sparse.set 0 m r (Sparse.get 0 c.x r) else m) x

/-- A hart that is taking lock words gives back those that it holds (R263). -/
def giveLocksBack (s : State) (n : Nat) : State :=
  match (s.hart n).wait with
  | .lock .. =>
    let s := releaseLocks (giveUpWords s n fun _ => true) n (s.hart n).task.locks
    let h := s.hart n
    s.setHart n { h with task := { h.task with locks := [] } }
  | _ => s

/-- Report a stop of hart `n` to the debugger (R348). -/
def reportHalt (s : State) (n : Nat) (cause : BitVec 8) : State :=
  let s := traceRecord s n 8 cause 0 (s.hart n).pc
  let h := s.hart n
  s.setHart n { h with
    dbg := { h.dbg with halted := true, haltReq := false, haltElement := none, stepping := false, stepped := false, stop := none, cause } }

/-- A request that was pending during a rewind is taken at the restored point (R336, R348). -/
def takeAfterRewind (s : State) (n : Nat) : State :=
  let h := s.hart n
  match h.preempt with
  | some p => s.setHart n { h with wait := .save false p.swc p.since, preempt := none }
  | none => if h.dbg.haltReq then reportHalt s n Cause.debugStop else s

/-- Restore the checkpoint of hart `n` (R336): what it has in flight ends without effect. A save that was under way is the commit
save of the restored point (R301), and a waiter whose barrier broke still resumes with -1 (R268). DESIGN CHOICE (entry 88): the rule
restores the positions of streams; the bindings are the checkpoint's too. -/
def restoreCheckpoint (s : State) (n : Nat) : State :=
  let s := forgetHart (endPanels (giveLocksBack s n) n) n
  let s := dropLinks (traceRecord s n 3 0 0 (s.hart n).pc) n
  let h := s.hart n
  let c := h.ckpt
  s.setHart n { h with
    wait := .run
    preempt := match h.wait with
      | .save _ swc since => some { swc, element := none, since }
      | _ => h.preempt
    task := match h.wait with
      | .barrier _ _ _ _ _ true => { h.task with broke := true }
      | _ => h.task
    x := restoredX c h.x, pc := c.pc, vstart := c.vstart, strip := c.strip, modes := c.modes, files := c.files, trap := c.trap
    matrix := if h.rewindable then c.matrix else { h.matrix with mvl := c.matrix.mvl, ufd := c.matrix.ufd }
    array := [], gathers := [], sb := [], sbused := 0, answers := [], streamAnswers := [], stall := none, whole := false
    committing := false, implicit := false, placing := c.vstart != 0, issued := false
    marks := { failures := h.marks.failures + 1 }
    streams := c.streams.map fun t => match h.streams.find? fun x => x.group == t.group && x.desc == t.desc with
      | some x => x.moveTo t.pos
      | none => t
    lost := h.lost.filter fun c => c.2 < 48 && !(c.2 ∈ h.marks.vFirst)
    counters := { h.counters with rewinds := h.counters.rewinds + 1 } }

/-- Rewind hart `n` to its checkpoint (R336). -/
def rewind (s : State) (n : Nat) : State := takeAfterRewind (restoreCheckpoint s n) n

/-- RWLIM, where 0 reads as 4 (R339). -/
def RelCfg.limit (r : RelCfg) : Nat := if r.rwlim = 0 then 4 else r.rwlim.toNat

/-- The cause that kills a failed interval instead of a rewind, if one does, in the order of R338. DESIGN CHOICE (entry 82): an
interval some of whose stores its commit has performed is killed like one that touched a device-class page, since no store is visible
from an interval that is rewound (R95). -/
def killCause (s : State) (n : Nat) (f : Failure) : Option (BitVec 8) :=
  let h := s.hart n
  let c := match f with
    | .mismatch => Cause.checkUnrecoverable
    | _ => Cause.sramUnrecoverable
  if f = .lostCheckpoint ∨ h.lost.any (fun x => decide (48 ≤ x.2)) = true then some Cause.checkpointLost
  else if f = .lostScratch then some c
  else if h.marks.device || h.committing then some c
  else if !h.marks.tiles.isEmpty && !h.rewindable then some c
  else if s.relcfg.limit ≤ h.marks.failures then some c
  else none

/-- What becomes of a failed interval (R336, R338). -/
def failInterval (s : State) (n : Nat) (f : Failure) : State :=
  match killCause s n f with
  | some c => kill s n c (s.hart n).pc 0 (s.hart n).trap.handler
  | none => rewind s n

/-- Every earlier instruction of the hart has completed, and every check of the open interval is over (R300, R301, R348). -/
def Hart.quiet (h : Hart) : Bool := h.array.isEmpty && h.gathers.isEmpty && h.marks.checks.isEmpty

/-- Halt hart `n` for the debugger (R348): earlier instructions and the checks of the open interval complete first, until when it stays
where it is, and a failed check rewinds. -/
def halt (s : State) (n : Nat) (cause : BitVec 8) : State :=
  if !(s.hart n).quiet then s.setHart n { s.hart n with dbg := { (s.hart n).dbg with stop := some cause } }
  else
    let s := match (s.hart n).marks.failed with
      | some f => failInterval s n f
      | none => s
    if (s.hart n).live && !(s.hart n).dbg.halted then reportHalt s n cause else s

/-- At a commit point, a pending pre-emption request switches the hart out and a pending halt request halts it (R102,
R300, R348). -/
def switchIfAsked (s : State) (n : Nat) : State :=
  let h := s.hart n
  match h.preempt with
  | some p => s.setHart n { h with wait := .save false p.swc p.since, preempt := none }
  | none => if h.dbg.haltReq then halt s n Cause.debugStop else s

/-! ## Waits and their slip classes -/

/-- The class of R341 that a rule names for a wait: 0 scalar, 1 vector, 2 memory, 3 other. -/
def Wait.slipClass : Wait → Option Nat
  | .streams .. => some 2
  | .cwait .. => some 2
  | .cdrain .. => some 2
  | .command => some 2
  | .parked .. => some 2
  | .barrier .. => some 3
  | .lock .. => some 3
  | _ => none

/-- The oldest unfinished instruction of a hart is a gather or a probe in flight. -/
def Hart.gatherOldest (h : Hart) : Bool :=
  match h.array, h.gathers with
  | _, [] => false
  | [], _ :: _ => true
  | e :: _, g :: _ => decide (g.age < e.age)

/-- The class that the steps of R341 give the cycles of a hart now, where they do: a rule names one for a wait or for an instruction
that cannot go on (R178, R198, R203, R208), or the oldest unfinished instruction waits for gathered lines. -/
def Hart.slipClass (h : Hart) : Option Nat :=
  (match h.wait with
  | .run => h.stall
  | .answer => h.stall
  | w => w.slipClass).or (if h.gatherOldest then some 2 else none)

/-! ## Waiting for a party outside -/

/-- The harts that hold a page request slot of the device (R328). -/
def requesters (s : State) : List (Nat × Hart) :=
  s.harts.filter fun c => match c.2.wait with | .parked _ sent _ _ => sent | _ => false

/-- A page request slot is free for interface `vi`: the device has 4,096, and a function keeps within its allocation (R328). -/
def pageSlotFree (s : State) (vi : Nat) : Bool :=
  decide ((requesters s).length < 4096)
    && decide (((requesters s).filter fun c => c.2.task.vi == vi).length < Config.pageAllocation vi)

/-- Park hart `n` on the host page of `va`, which its element at `ea` touches, and send a Page Request when a slot is free (R328). -/
def park (s : State) (n va ea : Nat) : State :=
  s.setHart n { s.hart n with
    wait := .parked (BitVec.ofNat 64 va) (pageSlotFree s (s.hart n).task.vi) (BitVec.ofNat 64 s.uptime) (BitVec.ofNat 64 ea) }

/-- Make hart `n` wait for an answer; `loads` says that it waits for data (R341). -/
def awaitAnswer (s : State) (n : Nat) (loads : Bool) : State :=
  s.setHart n { s.hart n with wait := .answer, stall := if loads then some 2 else none }

/-- What becomes of a leading access of the running hart at `ea`: its value goes to `k`; a cause traps; a failed host page
parks or traps; a missing answer is asked for, and the instruction is performed again once it is there. -/
def settle {α : Type} (s : State) (ea : Nat) (r : Res α) (k : α → State) : State :=
  let n := s.cur
  match r with
  | .ok a => k a
  | .cause c => memTrap s c ea
  | .hostFault va => if (s.vi s.h.task.vi).pri then park s n va ea else memTrap s Cause.pageAbsent ea
  | .ats vi page need => awaitAnswer (askTranslation s (.hart n) vi page need) n (need.testBit 0)
  | .ext kind loc bytes value op => awaitAnswer (sendRequest s (.hart n) kind loc bytes value op) n (kind < 2)

/-! ## Commits -/

/-- The party that the writes of hart `n` belong to: its task (R239). -/
def Hart.owner (h : Hart) : Owner := .task h.task.vi h.task.id

/-- Perform one buffered store for an owner: at its home, in its scratchpad, or as a write sent to the host or a peer; the links
of agent `keep` on its line stay (R95, R197, R238, R258, R330). -/
def performAs (s : State) (o : Owner) (keep : Option Nat) (e : SbEntry) : State :=
  match e.loc with
  | .home a => s.mergeHome keep a e.bit e.bits e.data
  | .scratch c o => let k := s.core c; s.setCore c { k with scratch := mergeScratch k.scratch o e.bit e.bits e.data }
  | l => s.writeOut o keep (if e.device then .strong else e.ord) l e.bit e.bits e.data

/-- Perform one buffered store of hart `n`; an instance of Stirrup accepts the element of a scatter (R208, R222). -/
def performStore (s : State) (n : Nat) (e : SbEntry) : State :=
  performAs (if e.served then chargeServed s n e.loc else s) (s.hart n).owner (some n) e

/-- A strongly ordered write of a task is on its way to the host or a peer (R240). -/
def strongPending (s : State) (o : Owner) : Bool :=
  s.posted.any (fun w => w.strong && w.owner == o) || s.out.any fun r => r.strong && r.owner == o

/-- The store is to a strongly ordered or a device-class page (R235). -/
def SbEntry.strongly (e : SbEntry) : Bool := e.device || e.ord == .strong

/-- The store is to a scratchpad. -/
def SbEntry.scratchpad (e : SbEntry) : Bool :=
  match e.loc with
  | .scratch .. => true
  | _ => false

/-- The store cannot be performed yet: it is strongly ordered and the one before it has not been performed at system scope (R240), or
the instance of Stirrup that serves it serves others first (R222). -/
def SbEntry.held (e : SbEntry) (s : State) (n : Nat) : Bool :=
  e.strongly && strongPending s (s.hart n).owner || e.served && shareSpent s n (stirrupOf s.build e.loc)

/-- Perform stores of hart `n` in program order up to one that cannot be performed yet: the stores from there on remain (R95,
R208, R240). -/
def performInOrder (n : Nat) : List SbEntry → State → State × List SbEntry
  | [], s => (s, [])
  | e :: rest, s => if e.held s n then (s, e :: rest) else performInOrder n rest (performStore s n e)

/-- The hart's interval touches a device-class page, where one of its stores does (R99). -/
def Hart.touching (h : Hart) : Hart := { h with marks := { h.marks with device := h.marks.device || h.sb.any (·.device) } }

/-- Step 3 of a commit begins: the stores to the scratchpads are performed, at once (R93, R197). What remains is in program order. -/
def performScratch (s : State) (n : Nat) : State :=
  let h := (s.hart n).touching
  let s := (h.sb.filter (·.scratchpad)).foldl (fun s e => performStore s n e) (s.setHart n h)
  s.setHart n { s.hart n with sb := h.sb.filter fun e => !e.scratchpad }

/-- Step 3 of a commit of hart `n`, or its continuation (R93): its buffered stores are performed (R95); while one of them waits, the commit
is under way. An empty buffer has no byte in use. -/
def performStores (s : State) (n : Nat) : State :=
  let s := if (s.hart n).committing then s else performScratch s n
  let (s, rest) := performInOrder n (s.hart n).sb s
  let h := s.hart n
  s.setHart n { h with sb := rest, sbused := if rest.isEmpty then 0 else h.sbused, committing := !rest.isEmpty }

/-- Make hart `n` wait for the flushing read behind the writes posted to the host (R238, R257). -/
def awaitFlush (s : State) (n : Nat) : State :=
  awaitAnswer (sendRequest s (.hart n) 2 (.host (s.hart n).task.vi 0) 0 0 0) n false

/-- Make hart `n` wait until its strongly ordered write has been performed at system scope (R240). -/
def awaitStrong (s : State) (n : Nat) : State :=
  if s.posted.any (fun w => w.strong && w.owner == (s.hart n).owner) then awaitFlush s n else awaitAnswer s n false

/-- A strongly ordered access of the running hart begins once the one before it has been performed at system scope (R240). -/
def afterStrong (s : State) (k : State → State) : State :=
  if strongPending s s.h.owner then awaitStrong s s.cur else k s

/-- A write of a task to a peer is not yet acknowledged (R238, R330). -/
def peerWritePending (s : State) (vi : Nat) (id : Word) : Bool := s.out.any fun r => r.owner == .task vi id && r.kind == 3

/-- Steps 1 and 2 of a commit of hart `n` (R93): what it waits for, its array entries, its gathers and the checks of its interval; a
failed check rewinds or kills instead. None where the stores may be performed. -/
def beforeStores (s : State) (n : Nat) : Option State :=
  let h := s.hart n
  if !h.array.isEmpty then some (stalled s n none)
  else if !h.gathers.isEmpty then some (stalled s n (some 2))
  else match h.marks.failed with
    | some f => some (failInterval s n f)
    | none => if h.marks.checks.isEmpty then none else some (stalled s n none)

/-- Hart `n` waits until the next of its stores can be performed: a strongly ordered one has been performed at system scope, or its
share of an instance of Stirrup lets it (R222, R240). -/
def awaitStore (s : State) (n : Nat) : State :=
  if strongPending s (s.hart n).owner then awaitStrong s n else stalled s n (some 2)

/-- A commit of hart `n` (R93), or the rest of one that is under way. `error` is the state of a hart whose interval did not commit: its
instruction is performed again, or the interval has failed. -/
def commitHart (s : State) (n : Nat) : Except State State :=
  match if (s.hart n).committing then none else beforeStores s n with
  | some s => .error s
  | none =>
    let s := performStores s n
    if (s.hart n).sb.isEmpty then .ok (takeCheckpoint s n) else .error (awaitStore s n)

/-- A commit point of the running hart, and then `k`. -/
def committed (s : State) (k : State → State) : State :=
  match commitHart s s.cur with
  | .ok s' => k s'
  | .error s' => s'

/-- A request waits for the hart's next commit point (R102, R348). -/
def Hart.asked (h : Hart) : Bool := h.preempt.isSome || h.dbg.haltReq

/-- An implicit commit before an access of the running hart (R66, R94): a pending request takes the hart there, and the
instruction is performed when it goes on. -/
def implicitCommit (s : State) (k : State → State) : State :=
  match commitHart s s.cur with
  | .ok s => if s.h.asked then switchIfAsked s s.cur else k s
  | .error s => s.setH { s.h with implicit := s.h.committing }

/-- The rest of a commit that is under way at the running hart, and then `k`; after an implicit commit a pending request takes the
hart (R93, R94, R102). -/
def resumeCommit (s : State) (k : State → State) : State :=
  if s.h.committing then
    if s.h.implicit then implicitCommit s k else committed s k
  else k s

/-- The implicit commit inside a store in flight, whose elements below `v` are placed: a rewind and the instruction performed again resume
it there (R94, R98). -/
def committedAt (s : State) (v : Word) (k : State → State) : State :=
  implicitCommit (s.setH { s.h with vstart := v, placing := true }) k

/-- The end of a commit-point instruction: the checkpoint holds the state after its own effect (R98), and then a
pending request takes the hart (R102). -/
def finishCommit (s : State) : State :=
  let n := s.cur
  switchIfAsked (takeCheckpoint (retire s) n) n

/-! ## The strip store buffer -/

/-- The bytes of the hart's share of the store buffer (R94, R104). -/
def Hart.sbCap (h : Hart) : Nat := h.task.start.poolpart.toNat / 2 ^ 24 * 4096

/-- Put the entries of one store of `bytes` bytes into the buffer, after an implicit commit when they do not fit (R94). -/
def enterStore (s : State) (es : List SbEntry) (bytes : Nat) (k : State → State) : State :=
  let put (s : State) : State :=
    let h := s.h
    k (s.setH { h with sb := h.sb ++ es, sbused := h.sbused + bytes })
  if s.h.sbused + bytes ≤ s.h.sbCap then put s else implicitCommit s put

/-- Put as many whole elements as fit into the buffer: the rest, the entries taken and their bits. -/
def takeFitting (cap : Nat) : List (Nat × List SbEntry × Nat) → List SbEntry → Nat →
    List (Nat × List SbEntry × Nat) × List SbEntry × Nat
  | [], es, b => ([], es, b)
  | (i, e, w) :: rest, es, b =>
    if ceilDiv (b + w) 8 ≤ cap then takeFitting cap rest (es ++ e) (b + w) else ((i, e, w) :: rest, es, b)

/-- Feed the elements of a store larger than the whole buffer through it: an implicit commit at each element that does not
fit, whose checkpoint resumes the store there (R94, R98). -/
def feedStore : Nat → State → List (Nat × List SbEntry × Nat) → (State → State) → State
  | 0, s, _, k => k s
  | fuel + 1, s, items, k =>
    let (rest, es, bits) := takeFitting s.h.sbCap items [] 0
    let place (es : List SbEntry) (bits : Nat) : State :=
      let h := s.h
      s.setH { h with sb := h.sb ++ es, sbused := h.sbused + ceilDiv bits 8 }
    match rest with
    | [] => k (place es bits)
    | (i, e, w) :: more =>
      if es.isEmpty then
        match more with
        | [] => k (place e w)
        | (j, _, _) :: _ => committedAt (place e w) (BitVec.ofNat 64 j) fun s => feedStore fuel s more k
      else committedAt (place es bits) (BitVec.ofNat 64 i) fun s => feedStore fuel s rest k

/-- Enter the performed elements of a vector store, each with its index, entries and bits (R94). -/
def enterElements (s : State) (items : List (Nat × List SbEntry × Nat)) (k : State → State) : State :=
  let bits := items.foldl (fun acc c => acc + c.2.2) 0
  let put (s : State) : State :=
    if ceilDiv bits 8 ≤ s.h.sbCap - s.h.sbused then
      let h := s.h
      k (s.setH { h with sb := h.sb ++ items.flatMap (·.2.1), sbused := h.sbused + ceilDiv bits 8 })
    else feedStore (2 * items.length + 1) s items k
  if items.isEmpty then k s
  else if s.h.sbused + ceilDiv bits 8 ≤ s.h.sbCap then put s
  else if s.h.sbused = 0 then put s
  else committedAt s s.h.vstart put

/-! ## Releases -/

/-- A release of the running hart at a scope code (R238, R239), and then `k`. Every committed store has reached its home;
at system scope a flushing read must come back behind the writes posted to the host, with none of the task's posted since, and peers must
have answered. -/
def released (s : State) (scope : Nat) (k : State → State) : State :=
  let n := s.cur
  if scope < 5 then k s
  else if peerWritePending s s.h.task.vi s.h.task.id then awaitAnswer s n false
  else if s.posted.isEmpty || s.h.answers.any (fun a => a.kind == 2) && !s.posted.any (fun w => w.owner == s.h.owner) then k s
  else awaitFlush s n

/-- The scope code of a format-E SC (R16): cluster, die, device, system. -/
def scopeOfSc (sc : BitVec 2) : Nat := sc.toNat + 2

/-! ## Scalar accesses -/

/-- The checks of R62 up to step 4 for a scalar access of `size` bytes, and a peer's refusal of a store (R330). `ordering`: an
acquire or release names the page. -/
def scalarPage (s : State) (n ea size : Nat) (r w ordering : Bool) : Res Page :=
  if canonical ea = false then .cause Cause.noncanonical
  else if ea % size ≠ 0 then .cause Cause.misaligned
  else (translateFor s n ea r w).bind fun p =>
    if ordering && p.ord == .unordered then .cause Cause.illegalMode
    else match s.refusesStore r w p.loc with
      | some c => .cause c
      | none => .ok p

/-- Mark the running hart's open interval as one that touched a device-class page (R66, R99). -/
def markDevice (s : State) : State := s.setH { s.h with marks := { s.h.marks with device := true } }

/-- The accesses of the running instruction have begun: one of them has its answer, so that it is not repeated (R193). -/
def Hart.reading (h : Hart) : Bool := h.answers.any fun a => a.kind == 0

/-- The implicit commit that precedes a load: always for a device-class page, and for a strongly ordered page when the
buffer holds a store to one (R66, R192, R240). -/
def beforeLoad (s : State) (p : Page) (k : State → State) : State :=
  if p.device then (if s.h.reading then k s else implicitCommit s fun s => afterStrong s fun s => k (markDevice s))
  else if p.ord = .strong ∧ s.h.sb.any (fun e => e.ord == .strong) then implicitCommit s fun s => afterStrong s k
  else if p.ord = .strong then afterStrong s k
  else k s

/-- A scalar load of `size` bytes at `ea`; `k` receives the value and its place (R62, R66). -/
def scalarLoad (s : State) (ea size : Nat) (ordering : Bool) (k : State → Nat → Loc → State) : State :=
  settle s ea (scalarPage s s.cur ea size true false ordering) fun p =>
    beforeLoad s p fun s =>
      settle s ea (loadPlace s s.h.sb s.h.answers p.loc size (s.reader p.ord p.device)) fun v => k s v p.loc

/-- The store-buffer entry of a scalar store (R64). -/
def scalarEntry (p : Page) (ea size v : Nat) : SbEntry :=
  { loc := p.loc, bit := 0, bits := 8 * size, data := v % 2 ^ (8 * size), ord := p.ord, device := p.device, va := ea }

end Sys2Proof.Machine
end

