-- ==== Sys2Proof/Machine/Atomics.lean ====
section
/-! DEFINITION. Links and the atomic operations of `samo`, `vatom.gld` and `vatom.scc` at a line's home (R256, R258 to
R262). -/

namespace Sys2Proof.Machine

/-! ## Links -/

/-- How many vector tags a home keeps (R258). -/
def vectorTags : Nat := 65536

/-- The tags of hart `n` on a place beyond a port hold the value that the link read (R256). -/
def setTagValue (s : State) (n : Nat) (vector : Bool) (loc : Loc) (v : Nat) : State :=
  { s with links := s.links.map fun l => if l.agent = n ∧ l.vector = vector ∧ l.place = loc then { l with value := v } else l }

/-- Set the scalar link of hart `n`, which has none, on the line of a place, with the value that it read (R256, R258). A place beyond a
port has its tag already, set where the read was served. -/
def setScalarLink (s : State) (n : Nat) (loc : Loc) (v : Nat) : State :=
  let s := s.setHart n { s.hart n with llLine := some loc.line }
  if loc.remote then setTagValue s n false loc v
  else { s with links := { agent := n, line := loc.line, vector := false, place := loc, value := v } :: s.links }

/-- Add a vector tag of an agent, unless every tag of the home is in use (R258). -/
def addVectorLink (s : State) (n : Nat) (loc : Loc) (v : Nat) : State :=
  let used := (s.links.filter fun l => l.vector && l.place.homeUnit s.build == loc.homeUnit s.build).length
  if vectorTags ≤ used then s
  else { s with links := s.links ++ [{ agent := n, line := loc.line, vector := true, place := loc, value := v }] }

/-- Clear the scalar link, or the vector link set, of an agent. -/
def dropLinkKind (s : State) (n : Nat) (vector : Bool) : State := dropTags s n fun l => l.vector == vector

/-- The tag of hart `n` on the line of a place, the one set by reading that very place first. -/
def linkOn (s : State) (n : Nat) (vector : Bool) (loc : Loc) : Option Link :=
  let mine := s.links.filter fun l => l.agent == n && l.vector == vector && l.line == loc.line
  (mine.find? fun l => l.place == loc).or mine.head?

/-! ## Operations -/

/-- The new value that operation `op` of `samo` stores over `old` (R260): 1 sc, 2 swap, 3 fadd, 4 fmin, 5 fmax, 6 fand,
7 for; 8 is the lock unit's write of a free word (R263). -/
def atomicNew (op n old b : Nat) : Nat :=
  let w := 8 * n
  match op with
  | 3 => (old + b) % 2 ^ w
  | 4 => if signed b w < signed old w then b else old
  | 5 => if signed old w < signed b w then b else old
  | 6 => old &&& b
  | 7 => old ||| b
  | 8 => if old = 0 then b else old
  | _ => b

/-- Requests for an atomic operation carry 16 more for a page with SYSAT set (R256). -/
def atomicCode (op : Nat) (sysat : Bool) : Nat := op + (if sysat then 16 else 0)

/-- An unconditional atomic operation of `n` bytes at a place: the old value, and the state after the write (R256, R260). -/
def atomicAt (s : State) (as : List Answer) (loc : Loc) (sysat : Bool) (n op b : Nat) : Res (Nat × State) :=
  match loc with
  | .home a =>
    let old := s.mem.read a n
    .ok (old, s.writeHome none a (atomicNew op n old b) n)
  | .scratch .. => .cause Cause.pagePerm
  | _ =>
    match findAnswer as 1 loc n with
    | some r => if r.cause = 0 then .ok (r.value, s) else .cause r.cause
    | none => .ext 1 loc n b (atomicCode op sysat)

/-- A linked read of a peer's memory goes out once the package has cleared the hart's older tags (R258, R330). -/
def afterUnlink (s : State) (loc : Loc) (k : State → State) : State :=
  if loc.package.isSome && unlinkPending s s.cur then awaitAnswer s s.cur true else k s

/-- The next linked read clears the scalar link of the running hart (R258), and then `k` reads at `loc`; a tag there that the read itself
sets anew stays. -/
def clearScalarLink (s : State) (loc : Loc) (k : State → State) : State :=
  afterUnlink (dropTags s s.cur fun l => !l.vector && !(loc.remote && l.place == loc)) loc k

/-- A linked read of `n` bytes at a place (R256, R258). -/
def linkedRead (s : State) (as : List Answer) (loc : Loc) (n : Nat) (vector : Bool) : Res Nat :=
  match readPlace s as loc n with
  | .ext k l m v _ => .ext k l m v (if vector then 2 else 1)
  | r => r

/-- The compare-and-swap of a conditional store on a page with SYSAT set: it compares with what the link read (R256). -/
def casValue (expected b : Nat) : Nat := expected * 2 ^ 64 + b

/-- A conditional store of `n` bytes by hart `hn` at a place of class `ord`: the status and the state after it (R256, R259,
R260, R262). The links of the hart stay for the caller to clear. A peer's home judges the tag that it holds (R330); its operation is 1 for
the scalar link and 9 for the vector set. -/
def conditionalStore (s : State) (hn : Nat) (as : List Answer) (loc : Loc) (ord : PageOrd) (sysat vector : Bool) (n b : Nat) :
    Res (Nat × State) :=
  match loc with
  | .home a =>
    if (linkOn s hn vector loc).isSome then .ok (0, s.writeHome none a b n) else .ok (1, s)
  | .scratch .. => .cause Cause.pagePerm
  | .host .. =>
    match findAnswer as 1 loc n with
    | some r => if r.cause = 0 then .ok (r.value, s) else .cause r.cause
    | none =>
      match linkOn s hn vector loc with
      | none => .ok (1, s)
      | some l =>
        if sysat then .ext 1 loc n (casValue l.value b) (atomicCode 1 true)
        else .ok (0, s.writeOut (s.hart hn).owner none ord loc 0 (8 * n) b)
  | .peer .. =>
    match findAnswer as 1 loc n with
    | some r => if r.cause = 0 then .ok (r.value, s) else .cause r.cause
    | none => if (linkOn s hn vector loc).isSome then .ext 1 loc n b (if vector then 9 else 1) else .ok (1, s)

/-! ## samo -/

/-- The checks that `samo` makes before its commit point: R62, then the device-class check (R260). `sc` reads no data, so
that poison does not stop it (R62 step 5). -/
def samoPage (s : State) (ea : Nat) (r w ordering : Bool) : Res Page :=
  (scalarPage s s.cur ea 8 r w ordering).bind fun p =>
    if r && placePoisoned s p.loc 8 then .cause Cause.poison
    else if p.device then .cause Cause.deviceClassMisuse
    else .ok p

/-- `samo` around its action at the home (R260): checks, commit, release, action, checkpoint. On a strongly ordered page AQ and RL add
nothing. -/
def samo (s : State) (a : BitVec 5) (p : BitVec 3) (aq rl r w : Bool) (act : State → Page → Res (Word × State)) (d : BitVec 5) :
    Out :=
  let ea := (s.h.rx a).toNat
  .next (settle s ea (samoPage s ea r w (aq || rl)) fun page =>
    committed s fun s =>
      let go (s : State) : State :=
        let done (s : State) : State := settle s ea (act s page) fun c => finishCommit (c.2.setH (c.2.h.wx d c.1))
        let done (s : State) : State := if w then done s else clearScalarLink s page.loc done
        if page.ord = .strong ∧ !s.h.answers.any (·.kind == 1) then afterStrong s done else done s
      if rl && page.ord != .strong then released s p.toNat go else go s)

/-- The unconditional operations of `samo` (R260). -/
def samoOp (s : State) (d a b : BitVec 5) (p : BitVec 3) (aq rl : Bool) (op : Nat) : Out :=
  let v := (s.h.rx b).toNat
  samo s a p aq rl true true (fun s page =>
    (atomicAt s s.h.answers page.loc page.sysat 8 op v).map fun c => (BitVec.ofNat 64 c.1, c.2)) d

/-- `samo.ll` (R260). -/
def execSamoLl (d a : BitVec 5) (p : BitVec 3) (q r : Bool) (s : State) : Out :=
  samo s a p q r true false (fun s page =>
    (linkedRead s s.h.answers page.loc 8 false).map fun v => (BitVec.ofNat 64 v, setScalarLink s s.cur page.loc v)) d

/-- `samo.sc` (R260). -/
def execSamoSc (d a b : BitVec 5) (p : BitVec 3) (q r : Bool) (s : State) : Out :=
  let v := (s.h.rx b).toNat
  samo s a p q r false true (fun s page =>
    (conditionalStore s s.cur s.h.answers page.loc page.ord page.sysat false 8 v).map fun c =>
      (BitVec.ofNat 64 c.1, dropLinkKind c.2 s.cur false)) d

/-- `samo.swap` (R260). -/
def execSamoSwap (d a b : BitVec 5) (p : BitVec 3) (q r : Bool) (s : State) : Out := samoOp s d a b p q r 2

/-- `samo.fadd` (R260). -/
def execSamoFadd (d a b : BitVec 5) (p : BitVec 3) (q r : Bool) (s : State) : Out := samoOp s d a b p q r 3

/-- `samo.fmin` (R260). -/
def execSamoFmin (d a b : BitVec 5) (p : BitVec 3) (q r : Bool) (s : State) : Out := samoOp s d a b p q r 4

/-- `samo.fmax` (R260). -/
def execSamoFmax (d a b : BitVec 5) (p : BitVec 3) (q r : Bool) (s : State) : Out := samoOp s d a b p q r 5

/-- `samo.fand` (R260). -/
def execSamoFand (d a b : BitVec 5) (p : BitVec 3) (q r : Bool) (s : State) : Out := samoOp s d a b p q r 6

/-- `samo.for` (R260). -/
def execSamoFor (d a b : BitVec 5) (p : BitVec 3) (q r : Bool) (s : State) : Out := samoOp s d a b p q r 7

end Sys2Proof.Machine
end

