-- ==== Sys2Proof/Machine/Operands.lean ====
section
/-! DEFINITION. Vector operands: the register files and their rename slots, element places, mode fields, predicates,
narrow groups and bound streams (R79, R80, R107 to R113, R119, R140, R201 to R203, R303). -/

namespace Sys2Proof.Machine

/-! ## Slots -/

/-- VLENB of a pool partition (R107). -/
def vlenbOf (poolpart : BitVec 32) : Nat := poolpart.toNat % 256 * 16384 / 4 / 48 / 256 * 256

/-- VLENB of the hart. -/
def Hart.vlenb (h : Hart) : Nat := vlenbOf h.task.start.poolpart

/-- The rename slot of an architectural vector register (R119). -/
def Files.vslot (f : Files) (k : Nat) : Nat := if k < 16 then k else 16 + (k - 16 + f.vrot.toNat) % 16

/-- The predicate slot of an architectural predicate (R119). -/
def Files.pslot (f : Files) (k : Nat) : Nat := if k < 8 then k else 8 + (k - 8 + f.prot.toNat) % 8

/-- The marks after first writes of the given slots, or none beyond 16 vector or 8 predicate registers in one interval
(R110). -/
def Marks.claim (m : Marks) (vs ps : List Nat) : Option Marks :=
  let vFirst := vs.foldl (fun l k => if k ∈ l then l else k :: l) m.vFirst
  let pFirst := ps.foldl (fun l k => if k ∈ l then l else k :: l) m.pFirst
  if 16 < vFirst.length ∨ 8 < pFirst.length then none else some { m with vFirst, pFirst }

/-- Write predicate slot `slot` on span position `q`, marking it dirty (R111, R303). -/
def Hart.putPred (h : Hart) (q slot v : Nat) : Hart :=
  { h with
    files := { h.files with p := Sparse.set 0 h.files.p (q * 16 + slot) v }
    dirty := { h.dirty with preds := Sparse.set false h.dirty.preds (q * 24 + slot) true } }

/-- One vector register on one span position, as a number of VLENB · 8 bits. -/
def Hart.vreg (h : Hart) (q k : Nat) : Nat := Sparse.get 0 h.files.v (q * 32 + h.files.vslot k)

/-- One predicate register on one span position; p0 reads all ones (R111). -/
def Hart.preg (h : Hart) (q k : Nat) : Nat :=
  if k = 0 then 2 ^ h.vlenb - 1 else Sparse.get 0 h.files.p (q * 16 + h.files.pslot k)

/-- Replace a vector register on a span position; bytes below `top` of the slot count as written (R303). -/
def Hart.putReg (h : Hart) (q k v top : Nat) : Hart :=
  let slot := h.files.vslot k
  let key := q * 48 + slot
  { h with
    files := { h.files with v := Sparse.set 0 h.files.v (q * 32 + slot) v }
    dirty := { h.dirty with hwmb := Sparse.set 0 h.dirty.hwmb key (max (Sparse.get 0 h.dirty.hwmb key) (roundUp top 256)) } }

/-! ## The type and mode of a vector instruction -/

/-- What a vector instruction reads of VTYPE, the pool, the span and m[MS] (R79, R80, R112). -/
structure Vc where
  vl : Nat
  start : Nat
  sew : Nat
  grp : Nat
  bl : Nat
  vlenb : Nat
  cores : Nat
  gp : Nat
  gi : Bool
  ip : Bool
  tp : Bool
  dt : Bool
  fam : Nat
  rm : Nat
  fx : Nat
  sat : Bool

/-- Element width in bits of a VTYPE (R79). -/
def vtypeSew (t : BitVec 12) : Nat := 2 ^ (t.toNat / 2 ^ 9)

/-- Registers per group (R79). -/
def vtypeGrp (t : BitVec 12) : Nat := 2 ^ (t.toNat / 2 ^ 7 % 4)

/-- Block length (R79). -/
def vtypeBl (t : BitVec 12) : Nat := match t.toNat / 2 ^ 5 % 4 with
  | 0 => 0
  | n => 2 ^ (n + 4)

/-- The context of an instruction that selects mode register `ms` (R34, R112). Launch FLAGS bit 2 clears DT (R114). -/
def Hart.vc (h : Hart) (ms : BitVec 2) : Vc :=
  let m := (Sparse.get 0 h.modes ms.toNat).toNat
  { vl := h.strip.vl.toNat, start := h.vstart.toNat
    sew := vtypeSew h.strip.vtype, grp := vtypeGrp h.strip.vtype, bl := vtypeBl h.strip.vtype
    vlenb := h.vlenb, cores := h.span.length
    gp := m / 2 ^ 20 % 16, gi := m.testBit 19, ip := m.testBit 18, tp := m.testBit 17
    dt := m.testBit 16 && !h.ignoresHints
    fam := m / 2 ^ 14 % 4, rm := m / 2 ^ 11 % 8, fx := m / 2 ^ 6 % 32, sat := m.testBit 5 }

/-- The per-core share L (R80). -/
def Vc.share (c : Vc) : Nat := c.vlenb * 8 / c.sew * c.grp

/-- The registers of a narrow group of `n`-bit elements (R140). -/
def Vc.narrowRegs (c : Vc) (n : Nat) : Nat := max 1 (c.grp * n / c.sew)

/-- Every register named is a multiple of the group size `g` (R108). -/
def alignedTo (g : Nat) (rs : List (BitVec 5)) : Bool := rs.all fun r => r.toNat % g == 0

/-- The guard reads a predicate (R111). -/
def Vc.guarded (c : Vc) : Bool := c.gp != 0 || c.gi

/-- The capacity rule of R111, for an instruction that reads the guard or, with `pred`, any predicate. -/
def Vc.predOk (c : Vc) (pred : Bool) : Bool := !(c.guarded || pred) || decide (c.share ≤ c.vlenb)

/-! ## Elements -/

/-- Where element `i` of `w` bits of the group at `base` lies: span position, register and bit (R80, R108). -/
def Vc.place (c : Vc) (base w i : Nat) : Nat × Nat × Nat :=
  let bit := i % c.share * w
  (i / c.share, base + bit / (c.vlenb * 8), bit % (c.vlenb * 8))

/-- Element `i` of `w` bits of the group at `base`. -/
def Hart.element (h : Hart) (c : Vc) (base w i : Nat) : Nat :=
  let (q, r, bit) := c.place base w i
  h.vreg q r / 2 ^ bit % 2 ^ w

/-- Replace `w` bits of `old` at `bit`. -/
def patch (old bit w v : Nat) : Nat :=
  old % 2 ^ bit + v % 2 ^ w * 2 ^ bit + old / 2 ^ (bit + w) * 2 ^ (bit + w)

/-- Write element `i` of `w` bits of the group at `base`. -/
def Hart.putElement (h : Hart) (c : Vc) (base w i v : Nat) : Hart :=
  let (q, r, bit) := c.place base w i
  h.putReg q r (patch (h.vreg q r) bit w v) (ceilDiv (bit + w) 8)

/-- Bit of element `i` of a predicate register (R111). -/
def Hart.pbit (h : Hart) (c : Vc) (k i : Nat) : Bool := (h.preg (i / c.share) k).testBit (i % c.share)

/-- Write the bit of element `i` of a predicate register; bits written to p0 are discarded (R111). -/
def Hart.putBit (h : Hart) (c : Vc) (k i : Nat) (b : Bool) : Hart :=
  if k = 0 then h
  else h.putPred (i / c.share) (h.files.pslot k) (patch (h.preg (i / c.share) k) (i % c.share) 1 b.toNat)

/-- Element `i` is active under the guard (R113). Without a guard every element is, also where a predicate has no bit for it
(R111). -/
def Hart.active (h : Hart) (c : Vc) (i : Nat) : Bool := !c.guarded || h.pbit c c.gp i != c.gi

/-- Zero the tail of a data group of `w`-bit elements from element `from_` on, when TP is set (R113). -/
def Hart.zeroTail (h : Hart) (c : Vc) (base w from_ : Nat) : Hart :=
  if c.tp then
    (List.range (c.share * c.cores - from_)).foldl (fun h k => h.putElement c base w (from_ + k) 0) h
  else h

/-- Zero the tail of a predicate from element `from_` on, when TP is set: on each core every bit that is no element below
`from_` (R111, R113). -/
def Hart.zeroPredTail (h : Hart) (c : Vc) (k from_ : Nat) : Hart :=
  if c.tp && k != 0 then
    (List.range c.cores).foldl (fun h q =>
      h.putPred q (h.files.pslot k) (h.preg q k % 2 ^ min c.share (from_ - q * c.share))) h
  else h

/-! ## Streams (R201 to R203) -/

/-- The stream whose group holds one of the registers `[r, r + n)`. -/
def Hart.streamOver (h : Hart) (r n : Nat) : Option Stream :=
  h.streams.find? fun t => decide (r < t.group + 4) && decide (t.group < r + n)

/-- A read of the `n` registers at `r`, `w` bits an element, is legal: no bound group, or one read through its first
register with GRP at most 4 at the stream's width (R203). -/
def Hart.readOk (h : Hart) (c : Vc) (r n w : Nat) : Bool :=
  match h.streamOver r n with
  | none => true
  | some t => t.group == r && decide (c.grp ≤ 4) && w == c.sew && c.sew == 2 ^ t.ewc

/-- A write of the `n` registers at `r` is legal: it touches no bound group (R203). -/
def Hart.writeOk (h : Hart) (r n : Nat) : Bool := (h.streamOver r n).isNone

/-- The address of pattern element `j` (R201). -/
def Stream.address (t : Stream) (j : Nat) : Nat :=
  let j0 : Int := (j % t.ext0 : Nat)
  let j1 : Int := (j / t.ext0 % t.ext1 : Nat)
  let j2 : Int := (j / (t.ext0 * t.ext1) : Nat)
  wrap (t.base.toNat + j0 * t.str0.toInt + j1 * t.str1.toInt + j2 * t.str2.toInt) 64

/-- A vector source: its elements, the cause that reading one raises, whether one is not yet there, and whether its register
lies in a lost block. -/
structure Source where
  get : Nat → Nat
  cause : Nat → Option (BitVec 8 × Nat)
  missing : Nat → Bool
  lost : Nat → Option Failure := fun _ => none

/-- The gather still fills some of the `w` bits at `bit` of register slot `slot` on span position `q`. -/
def Gather.fills (g : Gather) (q slot bit w : Nat) : Bool :=
  let at_ := g.slots.idxOf slot * g.bits + bit
  slot ∈ g.slots && decide (q * g.share + at_ / g.width < g.to_) && decide (g.from_ ≤ q * g.share + (at_ + w - 1) / g.width)

/-- A gather in flight still fills some of the `w` bits at a place, a span position, register and bit: a reader waits (R208). -/
def Hart.filling (h : Hart) (p : Nat × Nat × Nat) (w : Nat) : Bool :=
  h.gathers.any fun g => g.fills p.1 (h.files.vslot p.2.1) p.2.2 w

/-- How the interval fails when register `r` on span position `q` is read, where Teasel found it lost (R335). -/
def Hart.lostReg (h : Hart) (q r : Nat) : Option Failure :=
  let slot := h.files.vslot r
  if (q, slot) ∈ h.lost then some (if slot ∈ h.marks.vFirst then .lostBlock else .lostCheckpoint) else none

/-- The source of `w`-bit elements at `base`: a register group, or a bound stream that pops (R203, R208, R233). -/
def Hart.source (h : Hart) (c : Vc) (base w : Nat) : Source :=
  match h.streams.find? fun t => t.group == base with
  | some t =>
    let at_ (i : Nat) : Nat := t.pos + i
    { get := fun i => if t.count ≤ at_ i then 0 else t.filled.getD (at_ i - t.first) 0
      cause := fun i => (t.faults.find? fun f => f.1 == at_ i).map fun f => (f.2, t.address f.1)
      missing := fun i => decide (at_ i < t.count) && decide (t.first + t.filled.length ≤ at_ i) }
  | none =>
    { get := fun i => h.element c base w i, cause := fun _ => none
      missing := fun i => !h.gathers.isEmpty && h.filling (c.place base w i) w
      lost := fun i => if h.lost.isEmpty then none else h.lostReg (c.place base w i).1 (c.place base w i).2.1 }

/-- What holds an instruction back at element `i` of its sources: a lost register fails the interval, and a missing element
is waited for (R203, R208, R335). -/
def heldBack (srcs : List Source) (i : Nat) : Option (State → State) :=
  match srcs.findSome? fun t => t.lost i with
  | some f => some fun s => failInterval s s.cur f
  | none => if srcs.any fun t => t.missing i then some awaitSource else none

/-- Streams read through the named registers advance by `k` elements; a fault raised at element `k` is dropped, and
filling resumes there (R203, R232). -/
def Hart.pop (h : Hart) (rs : List Nat) (k : Nat) (raised : Bool) : Hart :=
  { h with streams := h.streams.map fun t =>
      if t.group ∈ rs then
        let p := min t.count (t.pos + k)
        let t1 := if raised && t.faults.any (fun f => f.1 == t.pos + k) then
            { t with filled := t.filled.take (t.pos + k - t.first), faults := t.faults.filter fun f => decide (f.1 < t.pos + k) }
          else t
        { t1 with pos := p }
      else t }

end Sys2Proof.Machine
end

