-- ==== Sys2Proof/Machine/Flags.lean ====
section
/-! DEFINITION. Floating-point flags, their causes, and the random draws (R131, R132, R135, R136). -/

namespace Sys2Proof.Machine

/-- The cause of an element that raises an enabled flag, in the order NV, DZ, OF, UF, NX (R88, R131, R132). -/
def flagCause (raised enabled : Flags) : Option (BitVec 8) :=
  let f := raised &&& enabled
  if f.getLsbD 4 then some Cause.fpNv
  else if f.getLsbD 3 then some Cause.fpDz
  else if f.getLsbD 2 then some Cause.fpOf
  else if f.getLsbD 1 then some Cause.fpUf
  else if f.getLsbD 0 then some Cause.fpNx
  else none

/-- OR flags into FFLAGS (R132). -/
def Hart.raise (h : Hart) (f : Flags) : Hart := { h with strip := { h.strip with fflags := h.strip.fflags ||| f } }

/-- The step of the random counter (R136). -/
def gamma : Word := 0x9E3779B97F4A7C15

/-- draw(c) (R136). -/
def draw (rngs : Word) (c : Nat) : Word :=
  let z := rngs + BitVec.ofNat 64 c * gamma
  let z := (z ^^^ (z >>> 30)) * 0xBF58476D1CE4E5B9
  let z := (z ^^^ (z >>> 27)) * 0x94D049BB133111EB
  z ^^^ (z >>> 31)

/-- The fraction that stochastic rounding compares with: bits 63:32 of the draw (R130). -/
def drawFraction (rngs : Word) (c : Nat) : Nat := (draw rngs c).toNat / 2 ^ 32

/-- RNGS after `n` draws (R136). -/
def Hart.drawn (h : Hart) (n : Nat) : Hart :=
  { h with strip := { h.strip with rngs := h.strip.rngs + BitVec.ofNat 64 n * gamma } }

end Sys2Proof.Machine
end

