-- ==== Sys2Proof/Machine/Vector.lean ====
section
/-! DEFINITION. How a vector instruction runs: the checks before its first element, the element loop with its trap or
trim, the classes of destination elements, its charge and its Cinch checks (R27, R87 to R91, R110, R113 to R115, R133,
R148, R331). -/

namespace Sys2Proof.Machine

/-! ## Checks before the first element -/

/-- The checks of steps 4 and 5 of R27 for an instruction that reads m[MS]: handler mode, RM, then the type rules. -/
def vectorGuard (s : State) (c : Vc) (typeOk : Bool) (k : State) : State :=
  taskMode s (if 6 ≤ c.rm then wordTrap s Cause.illegalMode else if typeOk then k else wordTrap s Cause.illegalType)

/-- Slots of `n` registers from `r` on. -/
def Hart.slotsOf (h : Hart) (r n : Nat) : List Nat := (List.range n).map fun k => h.files.vslot (r + k)

/-- The slot of a destination predicate; p0 takes none. -/
def Hart.predSlots (h : Hart) (k : Nat) : List Nat := if k = 0 then [] else [h.files.pslot k]

/-- The instruction writes some element of its destination: one performed, or one of the tail. -/
def Vc.writes (c : Vc) : Bool := decide (c.start < c.vl) || c.tp

/-- The physical registers of the destination must be there, where the instruction writes any element (R109, R110). -/
def claimed (s : State) (c : Vc) (vs ps : List Nat) (k : State) : State :=
  if c.writes && (s.h.marks.claim vs ps).isNone then wordTrap s Cause.renameLimit else k

/-- The registers of the slots first written in this interval are held by the checkpoint from now on: held slot 32 + j takes
the mark of the slot that it backs (R109, R303), and a lost one is lost as a held one (R335). `old` are the slots written
before. -/
def Hart.held (h : Hart) (old : List Nat) : Hart :=
  let new := (h.marks.vFirst.reverse.zipIdx).drop old.length
  { h with
    lost := h.lost.map fun x => if new.any (fun c => c.1 == x.2) then (x.1, x.2 + 48) else x
    dirty := { h.dirty with
      hwmb := new.foldl (fun m c => (List.range h.span.length).foldl (fun m q =>
        Sparse.set 0 m (q * 48 + 32 + c.2) (Sparse.get 0 m (q * 48 + c.1))) m) h.dirty.hwmb } }

/-- The instruction writes every element of its destination (R113). -/
def Vc.writesWhole (c : Vc) : Bool := c.start == 0 && (!c.guarded || c.ip) && (decide (c.share * c.cores ≤ c.vl) || c.tp)

/-- The destination's slots count as written in this interval (R109). A register of the interval that Teasel found lost is gone once
the slot is written anew as a whole, which takes another physical register (R109, R335). -/
def Hart.marked (h : Hart) (c : Vc) (vs ps : List Nat) : Hart :=
  if c.writes then
    let h' := { h with marks := (h.marks.claim vs ps).getD h.marks }.held h.marks.vFirst
    { h' with lost := if c.writesWhole then h'.lost.filter fun x => !(x.2 ∈ vs && x.2 ∈ h.marks.vFirst) else h'.lost }
  else h

/-! ## The element loop -/

/-- What one element gives: a value with its flags, a cause with its TVAL, or a wait. -/
inductive Elt (α : Type) where
  | ok (a : α) (fl : Flags)
  | stop (cause : BitVec 8) (tval : Nat)
  | hold (k : State → State)

/-- What the loop found: the values of performed active elements, latest first, their flags, and how it ended. -/
structure Run (α : Type) where
  vals : List (Nat × α)
  flags : Flags
  stop : Option (Nat × BitVec 8 × Nat)
  hold : Option (State → State)

/-- How many active elements were performed. -/
def Run.count {α : Type} (r : Run α) : Nat := r.vals.length

/-- PREEMPT and SPAN_SHRINK are no faults (R87). -/
def isFault (c : BitVec 8) : Bool := c != Cause.preempt && c != Cause.spanShrink

/-- The element at which the span ends that the strip's VL still reaches: a core has left, and a rewind has restored VL (R91, R98). -/
def Hart.shrunkAt (h : Hart) (c : Vc) : Option Nat := h.shrunk.bind fun q =>
  let i := max c.start (q * c.share)
  if i < c.vl then some i else none

/-- The running instruction has begun the elements below this one: they are not begun a second time (R193). Accesses are numbered by
their element plus 1, and by 2^48 more for each field. -/
def Hart.begun (h : Hart) : Nat :=
  h.answers.foldl (fun m a => max m (match a.kind with
    | 0 => a.tag % 2 ^ 48
    | 1 => a.tag % 2 ^ 48
    | 5 => a.bytes + 1
    | _ => 0)) 0

/-- The element at which a scheduling cause meets an instruction that trims, and the cause (R88, R91, R98). -/
def Hart.cut (h : Hart) (c : Vc) : Option (Nat × BitVec 8) :=
  let shrink : Option (Nat × BitVec 8) := (h.shrunkAt c).map fun i => (i, Cause.spanShrink)
  match h.meetElement.map (max h.begun) with
  | none => shrink
  | some i => match shrink with
    | some (j, k) => if i < j then some (i, Cause.preempt) else some (j, k)
    | none => some (i, Cause.preempt)

/-- Elements `i` on, `fuel` of them. `elt r i` gives active element `i` after what `r` holds; `cut` is the element at
which a scheduling cause meets the instruction (R87, R88, R132). -/
def elements {α : Type} (active : Nat → Bool) (elt : Run α → Nat → Elt α) (ftrim : Flags) (cut : Option (Nat × BitVec 8)) :
    Nat → Nat → Run α → Run α
  | 0, _, r => r
  | fuel + 1, i, r =>
    let pre (r' : Run α) : Run α :=
      match cut with
      | some (j, k) =>
        if j = i then { r with stop := some (i, k, i) } else elements active elt ftrim cut fuel (i + 1) r'
      | none => elements active elt ftrim cut fuel (i + 1) r'
    if active i then
      match elt r i with
      | .hold k => { r with hold := some k }
      | .stop c t => { r with stop := some (i, c, t) }
      | .ok a fl =>
        match flagCause fl ftrim with
        | some c => { r with stop := some (i, c, i) }
        | none => pre { r with vals := (i, a) :: r.vals, flags := r.flags ||| fl }
    else pre r

/-- What a trim at element `i` records (R88, R346). -/
def trimMark (s : State) (i : Nat) (cause : BitVec 8) : State :=
  let s := traceRecord s s.cur 2 cause (BitVec.ofNat 64 i) s.h.pc
  let h := s.h
  s.setH { h with
    strip := { h.strip with trimc := cause, trimi := BitVec.ofNat 64 i }
    counters := { h.counters with trims := h.counters.trims + 1 } }

/-- VL := n. -/
def State.setVl (s : State) (n : Nat) : State :=
  let h := s.h
  s.setH { h with strip := { h.strip with vl := BitVec.ofNat 64 n } }

/-- A trim at element `i` (R88). DESIGN CHOICE (entry 64): a stream's cause at an element above VSTART trims a function that
otherwise never trims too, since R203 raises it by R88. -/
def trimAt (s : State) (i : Nat) (cause : BitVec 8) : State := (trimMark s i cause).setVl i

/-- What keeps a function that never trims from running: the strip reaches elements beyond the span. The strip is trimmed there, and
the function runs at the shorter VL (R91, R98, R147). -/
def withinSpan (s : State) (c : Vc) : Option (State → State) := (s.h.shrunkAt c).map fun i s => trimAt s i Cause.spanShrink

/-- Run the loop over [VSTART, VL). `trims` says that scheduling causes trim the function (R147). -/
def runElements {α : Type} (s : State) (c : Vc) (active : Nat → Bool) (trims : Bool) (elt : Run α → Nat → Elt α) : Run α :=
  let h := s.h
  let cut := if trims then h.cut c else none
  let r := elements active elt h.ftrim cut (c.vl - c.start) c.start { vals := [], flags := 0, stop := none, hold := none }
  if trims then r else { r with hold := (withinSpan s c).or (r.hold.map fun k s => k (markWhole s)) }

/-- Element `i` of the source numbered `k`. -/
def elementOf (srcs : List Source) (k i : Nat) : Nat := (srcs[k]?.map fun t => t.get i).getD 0

/-- An element of vector sources: their causes come first, and then its value (R88, R203). -/
def fromSources {α : Type} (srcs : List Source) (f : Run α → Nat → α × Flags) (r : Run α) (i : Nat) : Elt α :=
  match srcs.findSome? fun t => t.cause i with
  | some (c, ea) => .stop c ea
  | none => match heldBack srcs i with
    | some k => .hold k
    | none => let (v, fl) := f r i; .ok v fl

/-! ## Completion -/

/-- The instruction ends: VSTART := 0 and the hart goes on (R88). -/
def vectorRetire (s : State) : State := retire (s.setH { s.h with vstart := 0 }.metRequest)

/-- End a loop (R88): a wait, a trap at the leading element, or `fin` of the state after `put r e` performs the elements
below the achieved end `e`, with a trim when a cause ended it. `rs` names the source registers, whose streams pop. -/
def endRunBy {α : Type} (fin : State → State) (s : State) (c : Vc) (rs : List Nat) (r : Run α) (put : State → Nat → State) : State :=
  match r.hold with
  | some k => k s
  | none =>
    match r.stop with
    | some (i, cause, tval) =>
      if isFault cause && i == c.start then
        trapEntry (s.setH (s.h.pop rs 0 true)) cause s.h.pc s.h.vstart (BitVec.ofNat 64 tval)
      else
        let s := trimAt s i cause
        fin (put (s.setH ((s.h.pop rs i true).raise r.flags)) i)
    | none => fin (put (s.setH ((s.h.pop rs c.vl false).raise r.flags)) c.vl)

/-- End a loop that is no commit point. -/
def endRun {α : Type} (s : State) (c : Vc) (rs : List Nat) (r : Run α) (put : State → Nat → State) : State :=
  endRunBy vectorRetire s c rs r put

/-- End a vector instruction that is a commit point: its checkpoint holds the state after it (R98, R102). -/
def vectorCommitted (s : State) : State := switchIfAsked (takeCheckpoint (vectorRetire s) s.cur) s.cur

/-- Write the elements of a data group: values, zeros of inactive elements under IP, and the tail (R113). -/
def Hart.writeGroup (h : Hart) (c : Vc) (active : Nat → Bool) (base w e : Nat) (vals : List (Nat × Nat)) : Hart :=
  let h := vals.foldl (fun h v => h.putElement c base w v.1 v.2) h
  let h := if c.ip then
      (List.range (e - c.start)).foldl (fun h k =>
        if active (c.start + k) then h else h.putElement c base w (c.start + k) 0) h
    else h
  h.zeroTail c base w (max e c.start)

/-- Write the bits of a predicate in the same classes (R113). -/
def Hart.writePred (h : Hart) (c : Vc) (active : Nat → Bool) (k e : Nat) (vals : List (Nat × Bool)) : Hart :=
  let h := vals.foldl (fun h v => h.putBit c k v.1 v.2) h
  let h := if c.ip then
      (List.range (e - c.start)).foldl (fun h j =>
        if active (c.start + j) then h else h.putBit c k (c.start + j) false) h
    else h
  h.zeroPredTail c k (max e c.start)

/-! ## Charges (R114, R115, R133, R148) -/

/-- The groups of `w`-bit elements on span position `q` that hold an element of [s, e): how many are executed, and how
many density time skips (R114). -/
def Vc.groupsOn (c : Vc) (active : Nat → Bool) (w q s e : Nat) : Nat × Nat :=
  let lo := max s (q * c.share)
  let hi := min e ((q + 1) * c.share)
  let g := max 1 (2048 / w)
  if hi ≤ lo then (0, 0)
  else
    let a := (lo - q * c.share) / g
    let n := (hi - 1 - q * c.share) / g - a + 1
    if c.dt then
      let live := ((List.range n).filter fun k =>
        (List.range g).any fun j =>
          let x := q * c.share + (a + k) * g + j
          decide (lo ≤ x) && decide (x < hi) && active x).length
      (live, n - live)
    else (n, 0)

/-- Charge `beats q` on each span core, with `skipped q` beats passed over (R115, R285, R342, R343); they are used up of
the sequencer's time where the hart holds it. -/
def chargeBeats (s : State) (beats skipped : Nat → Nat) : State :=
  let n := s.cur
  let w := max 1 s.h.task.weight
  let s := s.h.span.zipIdx.foldl (fun s qc =>
    let (core, q) := qc
    let s := countEvent (countEvent s core 1 (beats q)) core 2 (skipped q)
    let k := s.core core
    s.setCore core { k with
      vh := Sparse.put k.vh n (Sparse.get 0 k.vh n + (beats q : Rat) / (w : Nat))
      used := if k.chosen = some n then k.used + beats q else k.used }) s
  let h := s.h
  s.setH { h with counters := { h.counters with beats := h.counters.beats + BitVec.ofNat 64 (beats 0) } }

/-- The charge of an instruction over [VSTART, e): `k` beats a group of `w`-bit elements and `more` besides, and one beat
where no element is active and DT is set; `least` is the least charge (R115, R133, R148). With no active element `more`
is not charged (R115). -/
def charge (s : State) (c : Vc) (active : Nat → Bool) (w k more least e : Nat) : State :=
  let some_ := (List.range (e - c.start)).any fun j => active (c.start + j)
  let floor := if c.dt && !some_ then max 1 least else least
  let more := if some_ then more else 0
  chargeBeats s (fun q => max floor (k * (c.groupsOn active w q c.start e).1 + more)) (fun q => k * (c.groupsOn active w q c.start e).2)

/-! ## The Cinch lane (R331) -/

/-- The lanes of span position `q` that compute an active element of [s, e). -/
def Vc.lanesOn (c : Vc) (active : Nat → Bool) (w q s e : Nat) : List Nat :=
  let lo := max s (q * c.share)
  let hi := min e ((q + 1) * c.share)
  ((List.range (hi - lo)).filter fun k => active (lo + k)).map fun k => (lo + k - q * c.share) * w % 2048 / 64

/-- The lane checked: CL, or the first after it that computes. -/
def checkedLane (cl : Nat) (lanes : List Nat) : Option Nat :=
  ((List.range 32).map fun k => (cl + k) % 32).find? fun l => l ∈ lanes

/-- The Cinch lane of each span core takes the instruction for a check (R331). -/
def startChecks (s : State) (c : Vc) (active : Nat → Bool) (w e : Nat) : State :=
  s.h.span.zipIdx.foldl (fun s qc =>
    let k := s.core qc.1
    match checkedLane k.laneSel (c.lanesOn active w qc.2 c.start e) with
    | none => s
    | some l =>
      let s := s.setCore qc.1 { k with laneSel := (l + 1) % 32 }
      let h := s.h
      s.setH { h with marks := { h.marks with checks := h.marks.checks ++ [(qc.2, l)] } }) s

/-- What a lane instruction leaves beside its destination: its charge and its checks. -/
def laneEnd (s : State) (c : Vc) (active : Nat → Bool) (w k more least e : Nat) : State :=
  startChecks (charge s c active w k more least e) c active w e

/-! ## Lane instructions -/

/-- What a lane instruction is made of: source registers with their widths and register counts, the destination group, the
charge of a group, and whether each active element takes a draw (R124, R130). -/
structure Lane where
  srcs : List (Nat × Nat × Nat)
  dest : Nat
  width : Nat
  regs : Nat
  beats : Nat
  draws : Bool

/-- The legality of a lane instruction's registers: alignment and streams (R108, R203). -/
def Lane.regsOk (l : Lane) (h : Hart) (c : Vc) : Bool :=
  l.srcs.all (fun t => t.1 % t.2.2 == 0 && h.readOk c t.1 t.2.2 t.2.1)
    && l.dest % l.regs == 0 && h.writeOk l.dest l.regs

/-- Run a lane instruction into a data group. `f` gives a value and flags from the source elements and the draw's
fraction; `all` ignores the guard. -/
def laneGroup (s : State) (ms : BitVec 2) (typeOk : Vc → Bool) (lane : Vc → Lane) (all : Bool)
    (f : Vc → (Nat → Nat) → Nat → Nat → Nat × Flags) : Out :=
  let h := s.h
  let c := h.vc ms
  let l := lane c
  .next (vectorGuard s c (typeOk c && l.regsOk h c && c.predOk false)
    (claimed s c (h.slotsOf l.dest l.regs) [] <|
      let srcs := l.srcs.map fun t => h.source c t.1 t.2.1
      let active := if all then fun _ => true else h.active c
      let r := runElements s c active true (fromSources srcs fun r i =>
        f c (fun k => elementOf srcs k i) (if l.draws then drawFraction h.strip.rngs r.count else 0) i)
      endRun s c (l.srcs.map (·.1)) r fun s e =>
        let h1 := (s.h.marked c (h.slotsOf l.dest l.regs) []).writeGroup c active l.dest l.width e r.vals
        laneEnd (s.setH (if l.draws then h1.drawn r.count else h1)) c active c.sew l.beats 0 0 e))

/-- Run a compare into a predicate. -/
def lanePred (s : State) (ms : BitVec 2) (typeOk : Vc → Bool) (srcs : Vc → List (Nat × Nat × Nat)) (dest : BitVec 4)
    (f : Vc → (Nat → Nat) → Bool × Flags) : Out :=
  let h := s.h
  let c := h.vc ms
  let k := dest.toNat
  .next (vectorGuard s c (typeOk c && ((srcs c).all fun t => t.1 % t.2.2 == 0 && h.readOk c t.1 t.2.2 t.2.1) && c.predOk true)
    (claimed s c [] (h.predSlots k) <|
      let ss := (srcs c).map fun t => h.source c t.1 t.2.1
      let active := h.active c
      let r := runElements s c active true (fromSources ss fun _ i =>
        f c fun j => elementOf ss j i)
      endRun s c ((srcs c).map (·.1)) r fun s e =>
        laneEnd (s.setH ((s.h.marked c [] (h.predSlots k)).writePred c active k e r.vals)) c active c.sew 1 0 0 e))

end Sys2Proof.Machine
end

