-- ==== Sys2Proof/Machine/LaneInt.lean ====
section
/-! DEFINITION. Integer lane operations: valu, valux and vimac (R123, R137, R139). -/

namespace Sys2Proof.Machine

/-- The types of the integer majors (R123). -/
def Vc.intType (c : Vc) : Bool := decide (8 ≤ c.sew) && decide (c.fam < 2)

/-- An operand as FAM reads it: signed under 0, unsigned under 1. -/
def Vc.int (c : Vc) (a : Nat) : Int := if c.fam = 0 then signed a c.sew else (a % 2 ^ c.sew : Nat)

/-- Clamp to the signed, or the unsigned, range of `w` bits. -/
def clampTo (sign : Bool) (w : Nat) (z : Int) : Nat :=
  if sign then wrap (clampInt z (-2 ^ (w - 1)) (2 ^ (w - 1) - 1)) w else wrap (clampInt z 0 (2 ^ w - 1)) w

/-- A result wrapped to SEW bits, or clamped by FAM when SAT is set (R137). -/
def Vc.result (c : Vc) (z : Int) : Nat := if c.sat then clampTo (c.fam == 0) c.sew z else wrap z c.sew

/-- |s(a)|, where SMIN gives SMIN, or SMAX when SAT is set (R137). -/
def Vc.abs (c : Vc) (a : Nat) : Nat :=
  let z : Int := (signed a c.sew).natAbs
  if c.sat then clampTo true c.sew z else wrap z c.sew

/-- A register group at SEW as a source. -/
def Vc.group (c : Vc) (r : BitVec 5) : Nat × Nat × Nat := (r.toNat, c.sew, c.grp)

/-- A lane instruction from SEW-wide groups to a SEW-wide group, one beat a group. -/
def Vc.plain (c : Vc) (srcs : List (BitVec 5)) (d : BitVec 5) : Lane :=
  { srcs := srcs.map c.group, dest := d.toNat, width := c.sew, regs := c.grp, beats := 1, draws := false }

/-- The low SEW bits of an x register. -/
def Vc.scalar (c : Vc) (s : State) (r : BitVec 5) : Nat := (s.h.rx r).toNat % 2 ^ c.sew

/-- A `valu` function of two vector operands (R137). -/
def valuOp (s : State) (d a b : BitVec 5) (m : BitVec 2) (op : Vc → Nat → Nat → Nat) : Out :=
  laneGroup s m Vc.intType (fun c => c.plain [a, b] d) false fun c g _ _ => (op c (g 0) (g 1), 0)

/-- A `valu` function of one vector operand. -/
def valuUn (s : State) (d a : BitVec 5) (m : BitVec 2) (op : Vc → Nat → Nat) : Out :=
  laneGroup s m Vc.intType (fun c => c.plain [a] d) false fun c g _ _ => (op c (g 0), 0)

/-- A `valux` function, whose second operand is x[B] (R137). -/
def valuxOp (s : State) (d a b : BitVec 5) (m : BitVec 2) (op : Vc → Nat → Nat → Nat) : Out :=
  laneGroup s m Vc.intType (fun c => c.plain [a] d) false fun c g _ _ => (op c (g 0) (c.scalar s b), 0)

/-- A `valu` compare (R137). -/
def valuCmp (s : State) (d : BitVec 4) (a b : BitVec 5) (m : BitVec 2) (op : Vc → Nat → Nat → Bool) : Out :=
  lanePred s m Vc.intType (fun c => [c.group a, c.group b]) d fun c g => (op c (g 0) (g 1), 0)

/-- A `valux` compare. -/
def valuxCmp (s : State) (d : BitVec 4) (a b : BitVec 5) (m : BitVec 2) (op : Vc → Nat → Nat → Bool) : Out :=
  lanePred s m Vc.intType (fun c => [c.group a]) d fun c g => (op c (g 0) (c.scalar s b), 0)

/-! ## The functions of R137 -/

/-- `add` on the elements of one lane (R137). -/
def laneIAdd (c : Vc) (a b : Nat) : Nat := c.result (c.int a + c.int b)

/-- `sub` on the elements of one lane (R137). -/
def laneISub (c : Vc) (a b : Nat) : Nat := c.result (c.int a - c.int b)

/-- `rsub` on the elements of one lane (R137). -/
def laneIRsub (c : Vc) (a b : Nat) : Nat := c.result (c.int b - c.int a)

/-- `and` on the elements of one lane (R137). -/
def laneIAnd (_ : Vc) (a b : Nat) : Nat := a &&& b

/-- `or` on the elements of one lane (R137). -/
def laneIOr (_ : Vc) (a b : Nat) : Nat := a ||| b

/-- `xor` on the elements of one lane (R137). -/
def laneIXor (_ : Vc) (a b : Nat) : Nat := a ^^^ b

/-- `andn` on the elements of one lane (R137). -/
def laneIAndn (c : Vc) (a b : Nat) : Nat := a &&& (2 ^ c.sew - 1 - b)

/-- `sll` on the elements of one lane (R137). -/
def laneISll (c : Vc) (a b : Nat) : Nat := a * 2 ^ (b % c.sew) % 2 ^ c.sew

/-- `srl` on the elements of one lane (R137). -/
def laneISrl (c : Vc) (a b : Nat) : Nat := a / 2 ^ (b % c.sew)

/-- `sra` on the elements of one lane (R137). -/
def laneISra (c : Vc) (a b : Nat) : Nat := wrap ((signed a c.sew).fdiv (2 ^ (b % c.sew))) c.sew

/-- `min` on the elements of one lane (R137). -/
def laneIMin (c : Vc) (a b : Nat) : Nat := if signed b c.sew < signed a c.sew then b else a

/-- `max` on the elements of one lane (R137). -/
def laneIMax (c : Vc) (a b : Nat) : Nat := if signed a c.sew < signed b c.sew then b else a

/-- `minu` on the elements of one lane (R137). -/
def laneIMinu (_ : Vc) (a b : Nat) : Nat := min a b

/-- `maxu` on the elements of one lane (R137). -/
def laneIMaxu (_ : Vc) (a b : Nat) : Nat := max a b

/-- `mul` on the elements of one lane (R137). -/
def laneIMul (c : Vc) (a b : Nat) : Nat := c.result (c.int a * c.int b)

/-- `mulh` on the elements of one lane (R137). -/
def laneIMulh (c : Vc) (a b : Nat) : Nat := wrap ((signed a c.sew * signed b c.sew).fdiv (2 ^ c.sew)) c.sew

/-- `mulhu` on the elements of one lane (R137). -/
def laneIMulhu (c : Vc) (a b : Nat) : Nat := a * b / 2 ^ c.sew

/-- `adds` on the elements of one lane (R137). -/
def laneIAdds (c : Vc) (a b : Nat) : Nat := clampTo true c.sew (signed a c.sew + signed b c.sew)

/-- `subs` on the elements of one lane (R137). -/
def laneISubs (c : Vc) (a b : Nat) : Nat := clampTo true c.sew (signed a c.sew - signed b c.sew)

/-- `addsu` on the elements of one lane (R137). -/
def laneIAddsu (c : Vc) (a b : Nat) : Nat := clampTo false c.sew ((a : Int) + b)

/-- `subsu` on the elements of one lane (R137). -/
def laneISubsu (c : Vc) (a b : Nat) : Nat := clampTo false c.sew ((a : Int) - b)

/-- `eq` on the elements of one lane (R137). -/
def laneIEq (_ : Vc) (a b : Nat) : Bool := a == b

/-- `ne` on the elements of one lane (R137). -/
def laneINe (_ : Vc) (a b : Nat) : Bool := a != b

/-- `lt` on the elements of one lane (R137). -/
def laneILt (c : Vc) (a b : Nat) : Bool := decide (signed a c.sew < signed b c.sew)

/-- `ltu` on the elements of one lane (R137). -/
def laneILtu (_ : Vc) (a b : Nat) : Bool := decide (a < b)

/-- `le` on the elements of one lane (R137). -/
def laneILe (c : Vc) (a b : Nat) : Bool := decide (signed a c.sew ≤ signed b c.sew)

/-- `leu` on the elements of one lane (R137). -/
def laneILeu (_ : Vc) (a b : Nat) : Bool := decide (a ≤ b)

/-! ## valu -/

/-- `valu.add` (R137). -/
def execValuAdd (d a b : BitVec 5) (_x _y : Bool) (m : BitVec 2) (s : State) : Out := valuOp s d a b m laneIAdd

/-- `valu.sub` (R137). -/
def execValuSub (d a b : BitVec 5) (_x _y : Bool) (m : BitVec 2) (s : State) : Out := valuOp s d a b m laneISub

/-- `valu.rsub` (R137). -/
def execValuRsub (d a b : BitVec 5) (_x _y : Bool) (m : BitVec 2) (s : State) : Out := valuOp s d a b m laneIRsub

/-- `valu.and` (R137). -/
def execValuAnd (d a b : BitVec 5) (_x _y : Bool) (m : BitVec 2) (s : State) : Out := valuOp s d a b m laneIAnd

/-- `valu.or` (R137). -/
def execValuOr (d a b : BitVec 5) (_x _y : Bool) (m : BitVec 2) (s : State) : Out := valuOp s d a b m laneIOr

/-- `valu.xor` (R137). -/
def execValuXor (d a b : BitVec 5) (_x _y : Bool) (m : BitVec 2) (s : State) : Out := valuOp s d a b m laneIXor

/-- `valu.andn` (R137). -/
def execValuAndn (d a b : BitVec 5) (_x _y : Bool) (m : BitVec 2) (s : State) : Out := valuOp s d a b m laneIAndn

/-- `valu.sll` (R137). -/
def execValuSll (d a b : BitVec 5) (_x _y : Bool) (m : BitVec 2) (s : State) : Out := valuOp s d a b m laneISll

/-- `valu.srl` (R137). -/
def execValuSrl (d a b : BitVec 5) (_x _y : Bool) (m : BitVec 2) (s : State) : Out := valuOp s d a b m laneISrl

/-- `valu.sra` (R137). -/
def execValuSra (d a b : BitVec 5) (_x _y : Bool) (m : BitVec 2) (s : State) : Out := valuOp s d a b m laneISra

/-- `valu.min` (R137). -/
def execValuMin (d a b : BitVec 5) (_x _y : Bool) (m : BitVec 2) (s : State) : Out := valuOp s d a b m laneIMin

/-- `valu.max` (R137). -/
def execValuMax (d a b : BitVec 5) (_x _y : Bool) (m : BitVec 2) (s : State) : Out := valuOp s d a b m laneIMax

/-- `valu.minu` (R137). -/
def execValuMinu (d a b : BitVec 5) (_x _y : Bool) (m : BitVec 2) (s : State) : Out := valuOp s d a b m laneIMinu

/-- `valu.maxu` (R137). -/
def execValuMaxu (d a b : BitVec 5) (_x _y : Bool) (m : BitVec 2) (s : State) : Out := valuOp s d a b m laneIMaxu

/-- `valu.mul` (R137). -/
def execValuMul (d a b : BitVec 5) (_x _y : Bool) (m : BitVec 2) (s : State) : Out := valuOp s d a b m laneIMul

/-- `valu.mulh` (R137). -/
def execValuMulh (d a b : BitVec 5) (_x _y : Bool) (m : BitVec 2) (s : State) : Out := valuOp s d a b m laneIMulh

/-- `valu.mulhu` (R137). -/
def execValuMulhu (d a b : BitVec 5) (_x _y : Bool) (m : BitVec 2) (s : State) : Out := valuOp s d a b m laneIMulhu

/-- `valu.adds` (R137). -/
def execValuAdds (d a b : BitVec 5) (_x _y : Bool) (m : BitVec 2) (s : State) : Out := valuOp s d a b m laneIAdds

/-- `valu.subs` (R137). -/
def execValuSubs (d a b : BitVec 5) (_x _y : Bool) (m : BitVec 2) (s : State) : Out := valuOp s d a b m laneISubs

/-- `valu.addsu` (R137). -/
def execValuAddsu (d a b : BitVec 5) (_x _y : Bool) (m : BitVec 2) (s : State) : Out := valuOp s d a b m laneIAddsu

/-- `valu.subsu` (R137). -/
def execValuSubsu (d a b : BitVec 5) (_x _y : Bool) (m : BitVec 2) (s : State) : Out := valuOp s d a b m laneISubsu

/-- `valu.abs` (R137). -/
def execValuAbs (d a : BitVec 5) (_x : Bool) (m : BitVec 2) (s : State) : Out := valuUn s d a m Vc.abs

/-- `valu.mv` (R137). -/
def execValuMv (d a : BitVec 5) (_x : Bool) (m : BitVec 2) (s : State) : Out := valuUn s d a m fun _ a => a

/-- `valu.merge` (R137): the guard selects, and every element is active. -/
def execValuMerge (d a b : BitVec 5) (_x _y : Bool) (m : BitVec 2) (s : State) : Out :=
  laneGroup s m Vc.intType (fun c => c.plain [a, b] d) true fun c g _ i => (if s.h.active c i then g 1 else g 0, 0)

/-- `valu.eq` (R137). -/
def execValuEq (d : BitVec 4) (a b : BitVec 5) (_x _y : Bool) (m : BitVec 2) (s : State) : Out := valuCmp s d a b m laneIEq

/-- `valu.ne` (R137). -/
def execValuNe (d : BitVec 4) (a b : BitVec 5) (_x _y : Bool) (m : BitVec 2) (s : State) : Out := valuCmp s d a b m laneINe

/-- `valu.lt` (R137). -/
def execValuLt (d : BitVec 4) (a b : BitVec 5) (_x _y : Bool) (m : BitVec 2) (s : State) : Out := valuCmp s d a b m laneILt

/-- `valu.ltu` (R137). -/
def execValuLtu (d : BitVec 4) (a b : BitVec 5) (_x _y : Bool) (m : BitVec 2) (s : State) : Out := valuCmp s d a b m laneILtu

/-- `valu.le` (R137). -/
def execValuLe (d : BitVec 4) (a b : BitVec 5) (_x _y : Bool) (m : BitVec 2) (s : State) : Out := valuCmp s d a b m laneILe

/-- `valu.leu` (R137). -/
def execValuLeu (d : BitVec 4) (a b : BitVec 5) (_x _y : Bool) (m : BitVec 2) (s : State) : Out := valuCmp s d a b m laneILeu

/-! ## valux -/

/-- `valux.add` (R137). -/
def execValuxAdd (d a b : BitVec 5) (_x : Bool) (m : BitVec 2) (s : State) : Out := valuxOp s d a b m laneIAdd

/-- `valux.sub` (R137). -/
def execValuxSub (d a b : BitVec 5) (_x : Bool) (m : BitVec 2) (s : State) : Out := valuxOp s d a b m laneISub

/-- `valux.rsub` (R137). -/
def execValuxRsub (d a b : BitVec 5) (_x : Bool) (m : BitVec 2) (s : State) : Out := valuxOp s d a b m laneIRsub

/-- `valux.and` (R137). -/
def execValuxAnd (d a b : BitVec 5) (_x : Bool) (m : BitVec 2) (s : State) : Out := valuxOp s d a b m laneIAnd

/-- `valux.or` (R137). -/
def execValuxOr (d a b : BitVec 5) (_x : Bool) (m : BitVec 2) (s : State) : Out := valuxOp s d a b m laneIOr

/-- `valux.xor` (R137). -/
def execValuxXor (d a b : BitVec 5) (_x : Bool) (m : BitVec 2) (s : State) : Out := valuxOp s d a b m laneIXor

/-- `valux.andn` (R137). -/
def execValuxAndn (d a b : BitVec 5) (_x : Bool) (m : BitVec 2) (s : State) : Out := valuxOp s d a b m laneIAndn

/-- `valux.sll` (R137). -/
def execValuxSll (d a b : BitVec 5) (_x : Bool) (m : BitVec 2) (s : State) : Out := valuxOp s d a b m laneISll

/-- `valux.srl` (R137). -/
def execValuxSrl (d a b : BitVec 5) (_x : Bool) (m : BitVec 2) (s : State) : Out := valuxOp s d a b m laneISrl

/-- `valux.sra` (R137). -/
def execValuxSra (d a b : BitVec 5) (_x : Bool) (m : BitVec 2) (s : State) : Out := valuxOp s d a b m laneISra

/-- `valux.min` (R137). -/
def execValuxMin (d a b : BitVec 5) (_x : Bool) (m : BitVec 2) (s : State) : Out := valuxOp s d a b m laneIMin

/-- `valux.max` (R137). -/
def execValuxMax (d a b : BitVec 5) (_x : Bool) (m : BitVec 2) (s : State) : Out := valuxOp s d a b m laneIMax

/-- `valux.minu` (R137). -/
def execValuxMinu (d a b : BitVec 5) (_x : Bool) (m : BitVec 2) (s : State) : Out := valuxOp s d a b m laneIMinu

/-- `valux.maxu` (R137). -/
def execValuxMaxu (d a b : BitVec 5) (_x : Bool) (m : BitVec 2) (s : State) : Out := valuxOp s d a b m laneIMaxu

/-- `valux.mul` (R137). -/
def execValuxMul (d a b : BitVec 5) (_x : Bool) (m : BitVec 2) (s : State) : Out := valuxOp s d a b m laneIMul

/-- `valux.mulh` (R137). -/
def execValuxMulh (d a b : BitVec 5) (_x : Bool) (m : BitVec 2) (s : State) : Out := valuxOp s d a b m laneIMulh

/-- `valux.mulhu` (R137). -/
def execValuxMulhu (d a b : BitVec 5) (_x : Bool) (m : BitVec 2) (s : State) : Out := valuxOp s d a b m laneIMulhu

/-- `valux.adds` (R137). -/
def execValuxAdds (d a b : BitVec 5) (_x : Bool) (m : BitVec 2) (s : State) : Out := valuxOp s d a b m laneIAdds

/-- `valux.subs` (R137). -/
def execValuxSubs (d a b : BitVec 5) (_x : Bool) (m : BitVec 2) (s : State) : Out := valuxOp s d a b m laneISubs

/-- `valux.addsu` (R137). -/
def execValuxAddsu (d a b : BitVec 5) (_x : Bool) (m : BitVec 2) (s : State) : Out := valuxOp s d a b m laneIAddsu

/-- `valux.subsu` (R137). -/
def execValuxSubsu (d a b : BitVec 5) (_x : Bool) (m : BitVec 2) (s : State) : Out := valuxOp s d a b m laneISubsu

/-- `valux.mv` (R137): D[i] := x[B]. -/
def execValuxMv (d b : BitVec 5) (m : BitVec 2) (s : State) : Out :=
  laneGroup s m Vc.intType (fun c => c.plain [] d) false fun c _ _ _ => (c.scalar s b, 0)

/-- `valux.merge` (R137). -/
def execValuxMerge (d a b : BitVec 5) (_x : Bool) (m : BitVec 2) (s : State) : Out :=
  laneGroup s m Vc.intType (fun c => c.plain [a] d) true fun c g _ i => (if s.h.active c i then c.scalar s b else g 0, 0)

/-- `valux.eq` (R137). -/
def execValuxEq (d : BitVec 4) (a b : BitVec 5) (_x : Bool) (m : BitVec 2) (s : State) : Out := valuxCmp s d a b m laneIEq

/-- `valux.ne` (R137). -/
def execValuxNe (d : BitVec 4) (a b : BitVec 5) (_x : Bool) (m : BitVec 2) (s : State) : Out := valuxCmp s d a b m laneINe

/-- `valux.lt` (R137). -/
def execValuxLt (d : BitVec 4) (a b : BitVec 5) (_x : Bool) (m : BitVec 2) (s : State) : Out := valuxCmp s d a b m laneILt

/-- `valux.ltu` (R137). -/
def execValuxLtu (d : BitVec 4) (a b : BitVec 5) (_x : Bool) (m : BitVec 2) (s : State) : Out := valuxCmp s d a b m laneILtu

/-- `valux.le` (R137). -/
def execValuxLe (d : BitVec 4) (a b : BitVec 5) (_x : Bool) (m : BitVec 2) (s : State) : Out := valuxCmp s d a b m laneILe

/-- `valux.leu` (R137). -/
def execValuxLeu (d : BitVec 4) (a b : BitVec 5) (_x : Bool) (m : BitVec 2) (s : State) : Out := valuxCmp s d a b m laneILeu

/-! ## vimac -/

/-- A `vimac` function of three vector operands (R139). -/
def vimacOp (s : State) (d a b e : BitVec 5) (m : BitVec 2) (op : Vc → Nat → Nat → Nat → Nat) : Out :=
  laneGroup s m Vc.intType (fun c => c.plain [a, b, e] d) false fun c g _ _ => (op c (g 0) (g 1) (g 2), 0)

/-- `vimac.macc` (R139). -/
def execVimacMacc (d a b c : BitVec 5) (_x _y _w : Bool) (m : BitVec 2) (s : State) : Out :=
  vimacOp s d a b c m fun k a b c => k.result (k.int c + k.int a * k.int b)

/-- `vimac.nmsac` (R139). -/
def execVimacNmsac (d a b c : BitVec 5) (_x _y _w : Bool) (m : BitVec 2) (s : State) : Out :=
  vimacOp s d a b c m fun k a b c => k.result (k.int c - k.int a * k.int b)

end Sys2Proof.Machine
end

