-- ==== Sys2Proof/Machine/LaneFloat.lean ====
section
/-! DEFINITION. Floating-point lane operations: vfp, vfpx, vfma and vfms (R123, R138, R139). -/

namespace Sys2Proof.Machine

/-- The types of the float majors (R123). -/
def Vc.floatType (c : Vc) : Bool :=
  c.fam == 2 && (c.sew == 32 || c.sew == 64 || (c.sew == 16 && (c.fx == 16 || c.fx == 17)))

/-- The lane format (R123). -/
def Vc.fmt (c : Vc) : Fmt := laneFmt c.sew c.fx

/-- Beats a group of the slow functions (R133). -/
def Vc.slow (c : Vc) : Nat := c.sew / 8

/-- A function that rounds takes a draw under RM 5 (R130). -/
def Vc.rounding (c : Vc) (l : Lane) : Lane := { l with draws := c.rm == 5 }

/-- A `vfp` function of two vector operands; `round` when it rounds, `slow` when it takes more beats. -/
def vfpOp (s : State) (d a b : BitVec 5) (m : BitVec 2) (round slow : Bool) (op : Vc → Nat → Nat → Nat → Nat × Flags) : Out :=
  laneGroup s m Vc.floatType (fun c =>
    let l := { c.plain [a, b] d with beats := if slow then c.slow else 1 }
    if round then c.rounding l else l) false fun c g u _ => op c (g 0) (g 1) u

/-- A `vfp` function of one vector operand. -/
def vfpUn (s : State) (d a : BitVec 5) (m : BitVec 2) (round slow : Bool) (op : Vc → Nat → Nat → Nat × Flags) : Out :=
  laneGroup s m Vc.floatType (fun c =>
    let l := { c.plain [a] d with beats := if slow then c.slow else 1 }
    if round then c.rounding l else l) false fun c g u _ => op c (g 0) u

/-- A `vfpx` function, whose second operand is the low SEW bits of x[B]. -/
def vfpxOp (s : State) (d a b : BitVec 5) (m : BitVec 2) (round : Bool) (op : Vc → Nat → Nat → Nat → Nat × Flags) : Out :=
  laneGroup s m Vc.floatType (fun c =>
    let l := c.plain [a] d
    if round then c.rounding l else l) false fun c g u _ => op c (g 0) (c.scalar s b) u

/-- A `vfp` compare. -/
def vfpCmp (s : State) (d : BitVec 4) (a b : BitVec 5) (m : BitVec 2) (op : Vc → Nat → Nat → Bool × Flags) : Out :=
  lanePred s m Vc.floatType (fun c => [c.group a, c.group b]) d fun c g => op c (g 0) (g 1)

/-- A `vfpx` compare. -/
def vfpxCmp (s : State) (d : BitVec 4) (a b : BitVec 5) (m : BitVec 2) (op : Vc → Nat → Nat → Bool × Flags) : Out :=
  lanePred s m Vc.floatType (fun c => [c.group a]) d fun c g => op c (g 0) (c.scalar s b)

/-! ## The functions of R138 -/

/-- `add` (R138). -/
def laneFAdd (c : Vc) (a b u : Nat) : Nat × Flags := addVal c.fmt c.rm (c.fmt.value a) (c.fmt.value b) u

/-- `sub` (R138). -/
def laneFSub (c : Vc) (a b u : Nat) : Nat × Flags := addVal c.fmt c.rm (c.fmt.value a) (c.fmt.value b).negate u

/-- `mul` (R138). -/
def laneFMul (c : Vc) (a b u : Nat) : Nat × Flags := mulRound c.fmt c.rm (c.fmt.value a) (c.fmt.value b) u

/-- `div` (R138). -/
def laneFDiv (c : Vc) (a b u : Nat) : Nat × Flags := divVal c.fmt c.rm (c.fmt.value a) (c.fmt.value b) u

/-- `min` (R138). -/
def laneFMin (c : Vc) (a b _u : Nat) : Nat × Flags := minMax c.fmt false a b

/-- `max` (R138). -/
def laneFMax (c : Vc) (a b _u : Nat) : Nat × Flags := minMax c.fmt true a b

/-- The magnitude of `a` under a sign bit. -/
def Vc.withSign (c : Vc) (a : Nat) (neg : Bool) : Nat := a % 2 ^ (c.sew - 1) + neg.toNat * 2 ^ (c.sew - 1)

/-- `sgnj` (R138). -/
def laneFSgnj (c : Vc) (a b _u : Nat) : Nat × Flags := (c.withSign a (b.testBit (c.sew - 1)), 0)

/-- `sgnjn` (R138). -/
def laneFSgnjn (c : Vc) (a b _u : Nat) : Nat × Flags := (c.withSign a (!b.testBit (c.sew - 1)), 0)

/-- `sgnjx` (R138). -/
def laneFSgnjx (c : Vc) (a b _u : Nat) : Nat × Flags :=
  (c.withSign a (a.testBit (c.sew - 1) != b.testBit (c.sew - 1)), 0)

/-- NV of a compare: for a signalling NaN, or for any NaN when `any` (R138). -/
def compareNv (any : Bool) (x y : FVal) : Flags :=
  if (if any then x.isNan || y.isNan else x.isSignalling || y.isSignalling) then Flags.nv else 0

/-- `eq` (R138). -/
def laneFEq (c : Vc) (a b : Nat) : Bool × Flags :=
  let x := c.fmt.value a
  let y := c.fmt.value b
  (x.eq y, compareNv false x y)

/-- `lt` (R138). -/
def laneFLt (c : Vc) (a b : Nat) : Bool × Flags :=
  let x := c.fmt.value a
  let y := c.fmt.value b
  (x.lt y, compareNv true x y)

/-- `le` (R138). -/
def laneFLe (c : Vc) (a b : Nat) : Bool × Flags :=
  let x := c.fmt.value a
  let y := c.fmt.value b
  (x.lt y || x.eq y, compareNv true x y)

/-! ## vfp -/

/-- `vfp.add` (R138). -/
def execVfpAdd (d a b : BitVec 5) (_x _y : Bool) (m : BitVec 2) (s : State) : Out := vfpOp s d a b m true false laneFAdd

/-- `vfp.sub` (R138). -/
def execVfpSub (d a b : BitVec 5) (_x _y : Bool) (m : BitVec 2) (s : State) : Out := vfpOp s d a b m true false laneFSub

/-- `vfp.mul` (R138). -/
def execVfpMul (d a b : BitVec 5) (_x _y : Bool) (m : BitVec 2) (s : State) : Out := vfpOp s d a b m true false laneFMul

/-- `vfp.div` (R138). -/
def execVfpDiv (d a b : BitVec 5) (_x _y : Bool) (m : BitVec 2) (s : State) : Out := vfpOp s d a b m true true laneFDiv

/-- `vfp.min` (R138). DESIGN CHOICE (entry 74): `vfp.min`, `vfp.max` and the compares round nothing, and take no draw under RM 5
(R130). -/
def execVfpMin (d a b : BitVec 5) (_x _y : Bool) (m : BitVec 2) (s : State) : Out := vfpOp s d a b m false false laneFMin

/-- `vfp.max` (R138). -/
def execVfpMax (d a b : BitVec 5) (_x _y : Bool) (m : BitVec 2) (s : State) : Out := vfpOp s d a b m false false laneFMax

/-- `vfp.sgnj` (R138). -/
def execVfpSgnj (d a b : BitVec 5) (_x _y : Bool) (m : BitVec 2) (s : State) : Out := vfpOp s d a b m false false laneFSgnj

/-- `vfp.sgnjn` (R138). -/
def execVfpSgnjn (d a b : BitVec 5) (_x _y : Bool) (m : BitVec 2) (s : State) : Out := vfpOp s d a b m false false laneFSgnjn

/-- `vfp.sgnjx` (R138). -/
def execVfpSgnjx (d a b : BitVec 5) (_x _y : Bool) (m : BitVec 2) (s : State) : Out := vfpOp s d a b m false false laneFSgnjx

/-- `vfp.sqrt` (R138). -/
def execVfpSqrt (d a : BitVec 5) (_x : Bool) (m : BitVec 2) (s : State) : Out := vfpUn s d a m true true fun c a u => sqrtVal c.fmt c.rm (c.fmt.value a) u

/-- `vfp.rec` (R138). -/
def execVfpRec (d a : BitVec 5) (_x : Bool) (m : BitVec 2) (s : State) : Out := vfpUn s d a m true true fun c a u => recVal c.fmt c.rm (c.fmt.value a) u

/-- `vfp.rsq` (R138). -/
def execVfpRsq (d a : BitVec 5) (_x : Bool) (m : BitVec 2) (s : State) : Out := vfpUn s d a m true true fun c a u => rsqVal c.fmt c.rm (c.fmt.value a) u

/-- `vfp.exp2` (R138). -/
def execVfpExp2 (d a : BitVec 5) (_x : Bool) (m : BitVec 2) (s : State) : Out := vfpUn s d a m true true fun c a u => exp2Val c.fmt c.rm (c.fmt.value a) u

/-- `vfp.log2` (R138). -/
def execVfpLog2 (d a : BitVec 5) (_x : Bool) (m : BitVec 2) (s : State) : Out := vfpUn s d a m true true fun c a u => log2Val c.fmt c.rm (c.fmt.value a) u

/-- `vfp.class` (R138). -/
def execVfpClass (d a : BitVec 5) (_x : Bool) (m : BitVec 2) (s : State) : Out := vfpUn s d a m false false fun c a _ => (classBits c.fmt a, 0)

/-- `vfp.eq` (R138). -/
def execVfpEq (d : BitVec 4) (a b : BitVec 5) (_x _y : Bool) (m : BitVec 2) (s : State) : Out := vfpCmp s d a b m laneFEq

/-- `vfp.lt` (R138). -/
def execVfpLt (d : BitVec 4) (a b : BitVec 5) (_x _y : Bool) (m : BitVec 2) (s : State) : Out := vfpCmp s d a b m laneFLt

/-- `vfp.le` (R138). -/
def execVfpLe (d : BitVec 4) (a b : BitVec 5) (_x _y : Bool) (m : BitVec 2) (s : State) : Out := vfpCmp s d a b m laneFLe

/-! ## vfpx -/

/-- `vfpx.add` (R138). -/
def execVfpxAdd (d a b : BitVec 5) (_x : Bool) (m : BitVec 2) (s : State) : Out := vfpxOp s d a b m true laneFAdd

/-- `vfpx.sub` (R138). -/
def execVfpxSub (d a b : BitVec 5) (_x : Bool) (m : BitVec 2) (s : State) : Out := vfpxOp s d a b m true laneFSub

/-- `vfpx.mul` (R138). -/
def execVfpxMul (d a b : BitVec 5) (_x : Bool) (m : BitVec 2) (s : State) : Out := vfpxOp s d a b m true laneFMul

/-- `vfpx.div` (R138), charged one beat a group: R133 names the functions of `vfp` that take more. -/
def execVfpxDiv (d a b : BitVec 5) (_x : Bool) (m : BitVec 2) (s : State) : Out := vfpxOp s d a b m true laneFDiv

/-- `vfpx.min` (R138). -/
def execVfpxMin (d a b : BitVec 5) (_x : Bool) (m : BitVec 2) (s : State) : Out := vfpxOp s d a b m false laneFMin

/-- `vfpx.max` (R138). -/
def execVfpxMax (d a b : BitVec 5) (_x : Bool) (m : BitVec 2) (s : State) : Out := vfpxOp s d a b m false laneFMax

/-- `vfpx.sgnj` (R138). -/
def execVfpxSgnj (d a b : BitVec 5) (_x : Bool) (m : BitVec 2) (s : State) : Out := vfpxOp s d a b m false laneFSgnj

/-- `vfpx.sgnjn` (R138). -/
def execVfpxSgnjn (d a b : BitVec 5) (_x : Bool) (m : BitVec 2) (s : State) : Out := vfpxOp s d a b m false laneFSgnjn

/-- `vfpx.sgnjx` (R138). -/
def execVfpxSgnjx (d a b : BitVec 5) (_x : Bool) (m : BitVec 2) (s : State) : Out := vfpxOp s d a b m false laneFSgnjx

/-- `vfpx.eq` (R138). -/
def execVfpxEq (d : BitVec 4) (a b : BitVec 5) (_x : Bool) (m : BitVec 2) (s : State) : Out := vfpxCmp s d a b m laneFEq

/-- `vfpx.lt` (R138). -/
def execVfpxLt (d : BitVec 4) (a b : BitVec 5) (_x : Bool) (m : BitVec 2) (s : State) : Out := vfpxCmp s d a b m laneFLt

/-- `vfpx.le` (R138). -/
def execVfpxLe (d : BitVec 4) (a b : BitVec 5) (_x : Bool) (m : BitVec 2) (s : State) : Out := vfpxCmp s d a b m laneFLe

/-! ## vfma and vfms -/

/-- A fused multiply-add: `np` and `nc` negate the product and the addend (R139). -/
def fused (s : State) (d a b e : BitVec 5) (m : BitVec 2) (np nc : Bool) : Out :=
  laneGroup s m Vc.floatType (fun c => c.rounding (c.plain [a, b, e] d)) false fun c g u _ =>
    fmaRound c.fmt c.rm np nc (c.fmt.value (g 0)) (c.fmt.value (g 1)) (c.fmt.value (g 2)) u

/-- `vfma.madd` (R139). -/
def execVfmaMadd (d a b c : BitVec 5) (_x _y _w : Bool) (m : BitVec 2) (s : State) : Out := fused s d a b c m false false

/-- `vfma.nmadd` (R139). -/
def execVfmaNmadd (d a b c : BitVec 5) (_x _y _w : Bool) (m : BitVec 2) (s : State) : Out := fused s d a b c m true true

/-- `vfms.msub` (R139). -/
def execVfmsMsub (d a b c : BitVec 5) (_x _y _w : Bool) (m : BitVec 2) (s : State) : Out := fused s d a b c m false true

/-- `vfms.nmsub` (R139). -/
def execVfmsNmsub (d a b c : BitVec 5) (_x _y _w : Bool) (m : BitVec 2) (s : State) : Out := fused s d a b c m true false

end Sys2Proof.Machine
end

