-- ==== Sys2Proof/Machine/LaneConvert.lean ====
section
/-! DEFINITION. Conversions, random elements and predicate logic: vcvt, vrng and vpred (R117, R118, R140 to R144). -/

namespace Sys2Proof.Machine

/-! ## vcvt -/

/-- The narrow storage width of FX (R140). -/
def Vc.n (c : Vc) : Nat := narrowWidth c.fx c.sew

/-- SEW has a lane float. -/
def Vc.hasFloat (c : Vc) : Bool := decide (16 ≤ c.sew)

/-- The lane float of R123 exists: at 16 bits FX names it. -/
def Vc.namedFloat (c : Vc) : Bool := c.sew == 32 || c.sew == 64 || (c.sew == 16 && (c.fx == 16 || c.fx == 17))

/-- FX is in [lo, hi] with N below SEW (R141). -/
def Vc.narrowIn (c : Vc) (lo hi : Nat) : Bool :=
  decide (8 ≤ c.sew) && decide (lo ≤ c.fx) && decide (c.fx ≤ hi) && decide (c.n < c.sew)

/-- FX is one of the codes that `uwid` and `inar` take. -/
def Vc.plainInt (c : Vc) : Bool := c.narrowIn 0 7 && c.fx != 2 && c.fx != 3

/-- FX is one of the codes that `quant` and `dequant` take, and BL is set (R141). -/
def Vc.scaledType (c : Vc) : Bool := c.hasFloat && scaledCode c.fx && c.bl != 0

/-- A conversion from a SEW-wide group to another, or to or from a narrow group (R140). `draws` when it rounds. -/
def Vc.convert (c : Vc) (a d : BitVec 5) (fromNarrow toNarrow draws : Bool) : Lane :=
  let src := if fromNarrow then (a.toNat, c.n, c.narrowRegs c.n) else c.group a
  { srcs := [src], dest := d.toNat, width := if toNarrow then c.n else c.sew
    regs := if toNarrow then c.narrowRegs c.n else c.grp, beats := 1, draws := draws && c.rm == 5 }

/-- The scale element of element `i` in register `b` (R128), `ws` bits wide. -/
def Hart.scaleOf (h : Hart) (c : Vc) (b : BitVec 5) (ws i : Nat) : ScaleElt :=
  scaleElt (h.vreg (i / c.share) b.toNat / 2 ^ (i % c.share / c.bl * ws) % 2 ^ ws)

/-- A conversion without scales. -/
def convertOp (s : State) (d a : BitVec 5) (m : BitVec 2) (typeOk : Vc → Bool) (fromNarrow toNarrow draws : Bool)
    (f : Vc → Nat → Nat → Nat × Flags) : Out :=
  laneGroup s m typeOk (fun c => c.convert a d fromNarrow toNarrow draws) false fun c g u _ => f c (g 0) u

/-- A conversion with the scales of register B (R128). -/
def scaledOp (s : State) (d a b : BitVec 5) (m : BitVec 2) (typeOk : Vc → Bool) (fromNarrow toNarrow : Bool) (ws : Vc → Nat)
    (f : Vc → ScaleElt → Nat → Nat → Nat × Flags) : Out :=
  laneGroup s m (fun c => typeOk c && s.h.writeOk b.toNat 1) (fun c => c.convert a d fromNarrow toNarrow true) false
    fun c g u i => f c (s.h.scaleOf c b (ws c) i) (g 0) u

/-- An integer result with its flags as SEW bits. -/
def Vc.bitsOf (c : Vc) (r : Int × Flags) : Nat × Flags := (wrap r.1 c.sew, r.2)

/-- `vcvt.i2f` (R141). -/
def execVcvtI2f (d a : BitVec 5) (_x : Bool) (m : BitVec 2) (s : State) : Out :=
  convertOp s d a m Vc.namedFloat false false true fun c a u => intToFloat c.fmt c.rm (signed a c.sew) u

/-- `vcvt.u2f` (R141). -/
def execVcvtU2f (d a : BitVec 5) (_x : Bool) (m : BitVec 2) (s : State) : Out :=
  convertOp s d a m Vc.namedFloat false false true fun c a u => intToFloat c.fmt c.rm a u

/-- `vcvt.f2i` (R141). -/
def execVcvtF2i (d a : BitVec 5) (_x : Bool) (m : BitVec 2) (s : State) : Out :=
  convertOp s d a m Vc.namedFloat false false true fun c a u =>
    c.bitsOf (floatToInt c.fmt c.rm (-2 ^ (c.sew - 1)) (2 ^ (c.sew - 1) - 1) a u)

/-- `vcvt.f2u` (R141). -/
def execVcvtF2u (d a : BitVec 5) (_x : Bool) (m : BitVec 2) (s : State) : Out :=
  convertOp s d a m Vc.namedFloat false false true fun c a u =>
    c.bitsOf (floatToInt c.fmt c.rm 0 (2 ^ c.sew - 1) a u)

/-- `vcvt.fwid` (R141). -/
def execVcvtFwid (d a : BitVec 5) (_x : Bool) (m : BitVec 2) (s : State) : Out :=
  convertOp s d a m (fun c => c.hasFloat && c.narrowIn 8 19) true false false fun c a _ => widen (fmtOf c.fx) (wideFmt c.sew) a

/-- `vcvt.fnar` (R141, R142). -/
def execVcvtFnar (d a : BitVec 5) (_x : Bool) (m : BitVec 2) (s : State) : Out :=
  convertOp s d a m (fun c => c.hasFloat && c.narrowIn 8 19) false true true fun c a u =>
    narrow (wideFmt c.sew) (fmtOf c.fx) c.rm c.sat a u

/-- `vcvt.iwid` (R141). -/
def execVcvtIwid (d a : BitVec 5) (_x : Bool) (m : BitVec 2) (s : State) : Out :=
  convertOp s d a m (fun c => c.narrowIn 0 7) true false false fun c a _ =>
    (wrap (if c.fx ∈ [2, 3] then intCode c.fx c.n a else signed a c.n) c.sew, 0)

/-- `vcvt.uwid` (R141). -/
def execVcvtUwid (d a : BitVec 5) (_x : Bool) (m : BitVec 2) (s : State) : Out :=
  convertOp s d a m Vc.plainInt true false false fun _ a _ => (a, 0)

/-- `vcvt.inar` (R141). -/
def execVcvtInar (d a : BitVec 5) (_x : Bool) (m : BitVec 2) (s : State) : Out :=
  convertOp s d a m (fun c => c.plainInt && (!c.sat || decide (c.fam < 2))) false true false fun c a _ =>
    (if c.sat then clampTo (c.fx ∈ [1, 6, 7]) c.n (c.int a) else a % 2 ^ c.n, 0)

/-- `vcvt.bscale` (R141). DESIGN CHOICE (entry 75): its scale elements are 16-bit FP16 numbers. -/
def execVcvtBscale (d a b : BitVec 5) (_x _y : Bool) (m : BitVec 2) (s : State) : Out :=
  scaledOp s d a b m (fun c => c.namedFloat && c.bl != 0) false false (fun _ => 16) fun c k a u => bscale c.fmt c.rm k a u

/-- `vcvt.quant` (R143). -/
def execVcvtQuant (d a b : BitVec 5) (_x _y : Bool) (m : BitVec 2) (s : State) : Out :=
  scaledOp s d a b m Vc.scaledType false true (fun c => scaleWidth c.fx) fun c k a u =>
    quant (wideFmt c.sew) c.fx c.n c.rm c.sat k a u

/-- `vcvt.dequant` (R143). -/
def execVcvtDequant (d a b : BitVec 5) (_x _y : Bool) (m : BitVec 2) (s : State) : Out :=
  scaledOp s d a b m Vc.scaledType true false (fun c => scaleWidth c.fx) fun c k a u =>
    dequant (wideFmt c.sew) c.fx c.n c.rm k a u

/-- `vcvt.frnd` (R141, R142). -/
def execVcvtFrnd (d a : BitVec 5) (_x : Bool) (m : BitVec 2) (s : State) : Out :=
  convertOp s d a m (fun c => c.hasFloat && decide (8 ≤ c.fx) && decide (c.fx ≤ 19)
      && (c.sew != 16 || (c.fx != 16 && decide (c.fx < 18)))) false false true fun c a u =>
    let (r, fl) := narrow (wideFmt c.sew) (fmtOf c.fx) c.rm c.sat a u
    ((widen (fmtOf c.fx) (wideFmt c.sew) r).1, fl)

/-- `vcvt.pack` (R141). -/
def execVcvtPack (d a : BitVec 5) (_x : Bool) (m : BitVec 2) (s : State) : Out :=
  convertOp s d a m (fun c => c.narrowIn 0 19) false true false fun c a _ => (a % 2 ^ c.n, 0)

/-- `vcvt.unpack` (R141). -/
def execVcvtUnpack (d a : BitVec 5) (_x : Bool) (m : BitVec 2) (s : State) : Out :=
  convertOp s d a m (fun c => c.narrowIn 0 19) true false false fun _ a _ => (a, 0)

/-! ## vrng -/

/-- A random element instruction: every active element takes a draw (R144). -/
def randomOp (s : State) (d : BitVec 5) (m : BitVec 2) (typeOk : Vc → Bool) (f : Vc → Word → Nat) : Out :=
  let h := s.h
  let c := h.vc m
  .next (vectorGuard s c (typeOk c && alignedTo c.grp [d] && h.writeOk d.toNat c.grp && c.predOk false)
    (claimed s c (h.slotsOf d.toNat c.grp) [] <|
      let active := h.active c
      let r := runElements s c active true fun r _ => Elt.ok (f c (draw h.strip.rngs r.count)) 0
      endRun s c [] r fun s e =>
        let h1 := (s.h.marked c (h.slotsOf d.toNat c.grp) []).writeGroup c active d.toNat c.sew e r.vals
        laneEnd (s.setH (h1.drawn r.count)) c active c.sew 1 0 0 e))

/-- `vrng.bits` (R144). -/
def execVrngBits (d : BitVec 5) (m : BitVec 2) (s : State) : Out :=
  randomOp s d m (fun c => decide (8 ≤ c.sew)) fun c w => w.toNat % 2 ^ c.sew

/-- `vrng.unif` (R144): k · 2^−p, which the format holds. -/
def execVrngUnif (d : BitVec 5) (m : BitVec 2) (s : State) : Out :=
  randomOp s d m Vc.floatType fun c w =>
    let p := c.fmt.mb + 1
    (c.fmt.round 0 ⟨false, w.toNat / 2 ^ (64 - p), -(p : Int), false⟩ false 0).1

/-! ## vpred -/

/-- A predicate function (R117, R118): bit `i` of D from the bits of A and B and from the index. It ignores the guard and
never trims. -/
def predOp (s : State) (d a b : BitVec 4) (m : BitVec 2) (f : Hart → Vc → Nat → Bool → Bool → Bool) : Out :=
  let h := s.h
  let c := h.vc m
  .next (vectorGuard s c (c.predOk true)
    (claimed s c [] (h.predSlots d.toNat) <|
      let r := runElements s c (fun _ => true) false fun _ i =>
        Elt.ok (f h c i (h.pbit c a.toNat i) (h.pbit c b.toNat i)) 0
      endRun s c [] r fun s e =>
        let bitsOn (q : Nat) : Nat := min e ((q + 1) * c.share) - max c.start (q * c.share)
        let s := chargeBeats (s.setH ((s.h.marked c [] (h.predSlots d.toNat)).writePred c (fun _ => true) d.toNat e r.vals))
          (fun q => max 1 (ceilDiv (bitsOn q) 2048)) (fun _ => 0)
        startChecks s c (fun _ => true) 1 e))

/-- `vpred.and` (R117). -/
def execVpredAnd (d a b : BitVec 4) (m : BitVec 2) (s : State) : Out := predOp s d a b m fun _ _ _ x y => x && y

/-- `vpred.or` (R117). -/
def execVpredOr (d a b : BitVec 4) (m : BitVec 2) (s : State) : Out := predOp s d a b m fun _ _ _ x y => x || y

/-- `vpred.xor` (R117). -/
def execVpredXor (d a b : BitVec 4) (m : BitVec 2) (s : State) : Out := predOp s d a b m fun _ _ _ x y => x != y

/-- `vpred.andn` (R117). -/
def execVpredAndn (d a b : BitVec 4) (m : BitVec 2) (s : State) : Out := predOp s d a b m fun _ _ _ x y => x && !y

/-- `vpred.not` (R117). -/
def execVpredNot (d a : BitVec 4) (m : BitVec 2) (s : State) : Out := predOp s d a 0 m fun _ _ _ x _ => !x

/-- `vpred.set` (R117). -/
def execVpredSet (d : BitVec 4) (m : BitVec 2) (s : State) : Out := predOp s d 0 0 m fun _ _ _ _ _ => true

/-- `vpred.clr` (R117). -/
def execVpredClr (d : BitVec 4) (m : BitVec 2) (s : State) : Out := predOp s d 0 0 m fun _ _ _ _ _ => false

/-- `vpred.first` (R117): over all of [0, VL). -/
def execVpredFirst (d a : BitVec 4) (m : BitVec 2) (s : State) : Out :=
  predOp s d a 0 m fun h c i x _ => x && !(List.range i).any fun j => h.pbit c a.toNat j

/-- `vpred.cnt` (R117): over all of [0, VL). -/
def execVpredCnt (d a : BitVec 4) (m : BitVec 2) (s : State) : Out :=
  predOp s d a 0 m fun h c i _ _ => decide (i < ((List.range c.vl).filter fun j => h.pbit c a.toNat j).length)

/-- `vpred.mv` (R117). -/
def execVpredMv (d a : BitVec 4) (m : BitVec 2) (s : State) : Out := predOp s d a 0 m fun _ _ _ x _ => x

end Sys2Proof.Machine
end

