-- ==== Sys2Proof/Machine/VMem.lean ====
section
/-! DEFINITION. Vector memory access: vld and vst of every addressing function, spill frames and hash probes (R121,
R122, R187 to R197, R208 to R211, R395). -/

namespace Sys2Proof.Machine

/-! ## The places of an element -/

/-- What an element needs of its pages (R190): reading, writing, alignment by the instruction itself (0 for none),
whether the function may touch a device-class page, and whether a Stirrup instance serves it (R206, R208). -/
structure Need where
  r : Bool
  w : Bool
  align : Nat
  device : Bool
  served : Bool := false

/-- The page of `va` for hart `n`, by the core's TLB or by the serving instance's cache (R207, R324). -/
def pageFor (s : State) (n va : Nat) (need : Need) : Res Page :=
  if need.served then
    let h := s.hart n
    let va := va % 2 ^ 64
    translate s (stirrupUnitFor s h.task.vi va) h.task.vi va need.r need.w (failedPage h.answers va)
  else translateFor s n va need.r need.w

/-- Translate every part (R190 step 3). -/
def translateParts (s : State) (n : Nat) (need : Need) : List (Nat × Nat) → Res (List Spot)
  | [] => .ok []
  | (va, k) :: rest =>
    (pageFor s n va need).bind fun p =>
      (translateParts s n need rest).map fun l =>
        { loc := p.loc, bytes := k, ord := p.ord, device := p.device, sysat := p.sysat, va, cached := !need.served } :: l

/-- The checks of R190 on `n` bytes at `ea`, and a peer's refusal of a store (R330): their places, each ordered as the strongest
class among them (R191). -/
def checkSpots (s : State) (ea n : Nat) (need : Need) : Res (List Spot) :=
  let parts := pageParts ea n
  if parts.any fun p => !canonical p.1 then .cause Cause.noncanonical
  else if need.align ≠ 0 ∧ ea % need.align ≠ 0 then .cause Cause.misaligned
  else
    (translateParts s s.cur need parts).bind fun l =>
      if !need.device && l.any (·.device) then .cause Cause.deviceClassMisuse
      else if l.any (·.device) && ea % n != 0 then .cause Cause.misaligned
      else if need.r && l.any (fun p => placePoisoned s p.loc p.bytes) then .cause Cause.poison
      else match l.findSome? fun p => s.refusesStore need.r need.w p.loc with
        | some c => .cause c
        | none =>
          let ord := l.foldl (fun o p => o.stronger p.ord) .unordered
          .ok (l.map fun p => { p with ord })

/-- The bytes of the scratchpad that the hart's core gives it (R105). -/
def Hart.spBytes (h : Hart) : Nat := h.task.start.poolpart.toNat / 2 ^ 8 % 256 * 16384

/-- The scratchpad bytes at the given offsets, lowest byte first, as runs (R195). -/
def scratchSpots (s : State) (offs : List Nat) : Res (List Spot) :=
  if offs.any fun o => decide (s.h.spBytes ≤ o) then .cause Cause.bound
  else .ok (offs.map fun o =>
    { loc := .scratch (s.cur / 4) o, bytes := 1, ord := .releaseConsistent, device := false, sysat := false, va := o })

/-- The store-buffer entries of an element of `bits` bits from bit `bit` of its first byte (R94, R191, R395). -/
def entriesOf (bit bits v : Nat) : List Spot → List SbEntry
  | [] => []
  | p :: rest =>
    let k := if bits % 8 = 0 then 8 * p.bytes else bits
    { loc := p.loc, bit, bits := k, data := v % 2 ^ k, ord := p.ord, device := p.device, va := p.va }
      :: entriesOf bit bits (v / 2 ^ k) rest

/-! ## Elements -/

/-- One access of an element: the address that TVAL takes, its bit in the first byte, and its places or what stops it. -/
structure Access where
  ea : Nat
  bit : Nat
  spots : Res (List Spot)

/-- The step of R190 at which an access stops; `align` when MISALIGNED comes from step 2. -/
def Access.rank (align : Bool) (a : Access) : Nat :=
  match a.spots with
  | .ok _ => 9
  | .cause c =>
    if c = Cause.noncanonical then 1
    else if c = Cause.misaligned then (if align then 2 else 7)
    else if c = Cause.bound then 4
    else if c = Cause.illegalMode then 5
    else if c = Cause.deviceClassMisuse then 6
    else if c = Cause.poison then 8
    else 3
  | _ => 3

/-- The access that decides: the earliest step of R190, and the first field among equals. -/
def firstStop (align : Bool) (as : List Access) : Option Access :=
  as.foldl (fun acc a =>
    if a.rank align = 9 then acc
    else match acc with
      | none => some a
      | some b => if a.rank align < b.rank align then some a else acc) none

/-- A hart that reads a lost scratchpad block is killed (R335). -/
def killReader (ea : Nat) (s : State) : State :=
  kill s s.cur Cause.sramUnrecoverable s.h.pc (BitVec.ofNat 64 ea) s.h.trap.handler

/-- What an element makes of an access's answer: a leading element may park on a host page; a later one trims (R328). -/
def eltOf {α : Type} (lead : Bool) (ea : Nat) (r : Res α) : Elt α :=
  match r with
  | .ok a => .ok a 0
  | .cause c => if c = Cause.sramUnrecoverable then .hold (killReader ea) else .stop c ea
  | .hostFault _ => if lead then .hold (fun s => settle s ea r fun _ => s) else .stop Cause.pageAbsent ea
  | r => .hold (fun s => settle s ea r fun _ => s)

/-- Run `k` on an element's value. -/
def Elt.andThen {α β : Type} : Elt α → (α → Elt β) → Elt β
  | .ok a _, k => k a
  | .stop c t, _ => .stop c t
  | .hold f, _ => .hold f

/-- The checked accesses of an element: its places with their bits, field by field, or what stops it (R189). -/
def checked (lead align : Bool) (as : List Access) : Elt (List (List Spot × Nat)) :=
  match firstStop align as with
  | some a => eltOf lead a.ea (a.spots.map fun _ => [])
  | none => .ok (as.map fun a => match a.spots with
      | .ok l => (l, a.bit)
      | _ => ([], 0)) 0

/-! ## Addressing (R187) -/

/-- A vector access: EW, the registers of a field and the fields (1 but for seg), the accesses of element `i`, and whether
the function itself requires alignment. -/
structure VForm where
  ew : Nat
  regs : Nat
  fields : Nat
  access : State → Nat → List Access

/-- EW: SEW, or N under FAM 3 (R187). -/
def Vc.ew (c : Vc) : Nat := if c.fam = 3 then narrowWidth c.fx c.sew else c.sew

/-- The registers of the data group. -/
def Vc.dataRegs (c : Vc) : Nat := if c.fam = 3 then c.narrowRegs c.ew else c.grp

/-- FAM 3 names a narrow width below SEW (R188). -/
def Vc.ewOk (c : Vc) : Bool := c.fam != 3 || (decide (c.fx < 20) && decide (c.ew < c.sew))

/-- The bytes of an element. -/
def Vc.w (c : Vc) : Nat := max 1 (c.ew / 8)

/-- One access of `n` bytes of memory at `ea`. -/
def memAccess (s : State) (ea bit n : Nat) (need : Need) : Access :=
  { ea := ea % 2 ^ 64, bit, spots := checkSpots s (ea % 2 ^ 64) n need }

/-- `unit` (R187). -/
def unitForm (c : Vc) (base : Nat) (need : Need) : VForm :=
  { ew := c.ew, regs := c.dataRegs, fields := 1
    access := fun s i => [memAccess s (base + i * c.ew / 8) (i * c.ew % 8) c.w need] }

/-- `strd` (R187). -/
def strdForm (c : Vc) (base : Nat) (stride : Int) (need : Need) : VForm :=
  { ew := c.ew, regs := c.dataRegs, fields := 1
    access := fun s i => [memAccess s (wrap (base + i * stride) 64) 0 c.w need] }

/-- `idx` (R187): `index` gives B[i]. -/
def idxForm (c : Vc) (base : Nat) (index : Nat → Nat) (need : Need) : VForm :=
  { ew := c.ew, regs := c.dataRegs, fields := 1
    access := fun s i => [memAccess s (base + index i * c.w) 0 c.w need] }

/-- `seg` (R187): `nf` fields. -/
def segForm (c : Vc) (base nf : Nat) (need : Need) : VForm :=
  { ew := c.ew, regs := c.dataRegs, fields := nf
    access := fun s i => (List.range nf).map fun f => memAccess s (base + (i * nf + f) * c.w) 0 c.w need }

/-- The columns and the pitch of a tile shape (R187). -/
def tileShape (w : Word) : Nat × Int := (w.toNat / 2 ^ 48, signed w.toNat 48)

/-- `tile` (R187). -/
def tileForm (c : Vc) (base : Nat) (shape : Word) (need : Need) : VForm :=
  let (cols, pitch) := tileShape shape
  { ew := c.ew, regs := c.dataRegs, fields := 1
    access := fun s i => [memAccess s (wrap (base + (i / cols : Nat) * pitch + (i % cols * c.w : Nat)) 64) 0 c.w need] }

/-- The swizzle of R196. -/
def swizzle (desc o : Nat) : Nat :=
  let xw := desc / 2 ^ 5 % 16
  if xw = 0 then o else o ^^^ (o / 2 ^ (desc % 32) % 2 ^ xw * 16)

/-- A swizzle descriptor is legal (R196). -/
def swizzleOk (desc : Nat) : Bool :=
  let xw := desc / 2 ^ 5 % 16
  let row := desc % 32
  desc / 2 ^ 9 == 0 && (xw == 0 || (decide (xw ≤ 10) && decide (4 ≤ row) && decide (row ≤ 14) && decide (xw + 4 ≤ row)))

/-- `sp` and `spx` (R187, R195, R196); `sp` is the swizzle by 0. -/
def spForm (c : Vc) (base desc : Nat) : VForm :=
  { ew := c.ew, regs := c.dataRegs, fields := 1
    access := fun s i =>
      let o := base + i * c.ew / 8
      [{ ea := if base / 2 ^ 24 = 0 then swizzle desc o else base, bit := i * c.ew % 8
         spots := if base / 2 ^ 24 = 0 then scratchSpots s ((List.range c.w).map fun k => swizzle desc (o + k))
                  else .cause Cause.bound }] }

/-! ## Loads -/

/-- The implicit commit that a load makes before its accesses, if one of them needs it (R192, R240). -/
def loadCommits (s : State) (spots : List Spot) (k : State → State) : State :=
  if spots.any (·.device) then
    if s.h.reading then k s else implicitCommit s fun s => afterStrong s fun s => k (markDevice s)
  else if spots.any (fun p => p.ord == .strong) then
    if s.h.sb.any (fun e => e.ord == .strong) then implicitCommit s fun s => afterStrong s k else afterStrong s k
  else k s

/-- The number of the access of field `f` of element `i` within its instruction (`Hart.begun`). -/
def accessTag (i f : Nat) : Nat := i + 1 + f * 2 ^ 48

/-- The bits of a field of an element read from its places. -/
def readField (s : State) (ew i f : Nat) (p : List Spot × Nat) : Res Nat :=
  (readAccess s (accessTag i f) p.1).map fun v => v / 2 ^ p.2 % 2 ^ ew

/-- Read every field of element `i`, from field `f` on. -/
def readFields (s : State) (ew i : Nat) : Nat → List (List Spot × Nat) → Res (List Nat)
  | _, [] => .ok []
  | f, p :: rest => (readField s ew i f p).bind fun v => (readFields s ew i (f + 1) rest).map fun l => v :: l

/-- The numbered runs of element `i`. -/
def elementReads (i : Nat) (ps : List (List Spot × Nat)) : List (Nat × Spot) :=
  ps.zipIdx.flatMap fun p => numbered (accessTag i p.2) p.1.1

/-- A run over the elements below the end that an earlier run over the same elements found (R88). -/
def rerun {α β : Type} (s : State) (c : Vc) (active : Nat → Bool) (r1 : Run β) (elt : Run α → Nat → Elt α) : Run α :=
  let e := match r1.stop with
    | some (i, _, _) => i
    | none => c.vl
  let r := elements active elt s.h.ftrim none (e - c.start) c.start { vals := [], flags := 0, stop := none, hold := none }
  { r with stop := r.stop.or r1.stop }

/-- The running hart has elements at the given places for Stirrup, and its share is spent at an instance that serves one of them: it
waits (R222). -/
def sharesSpent (s : State) (l : List Spot) : Bool := l.any fun p => shareSpent s s.cur (stirrupOf s.build p.loc)

/-- A vector source's element comes first, and then the element's own work (R203). -/
def afterSources {α : Type} (srcs : List Source) (i : Nat) (k : Elt α) : Elt α :=
  match srcs.findSome? fun t => t.cause i with
  | some (c, ea) => .stop c ea
  | none => match heldBack srcs i with
    | some f => .hold f
    | none => k

/-- The slots of a destination of several fields. -/
def VForm.slots (f : VForm) (h : Hart) (d : BitVec 5) : List Nat := h.slotsOf d.toNat (f.regs * f.fields)

/-- A load (R189, R208): `srcs` are its vector sources in registers `rs`; Stirrup serves its elements where `idx` is set; `before` are
the reads that it has made; `more` acts after a trim or a completion, with the state before the elements were written. -/
def loadForm (s : State) (c : Vc) (f : VForm) (d : BitVec 5) (rs : List Nat) (srcs : List Source) (idx : Bool)
    (before : List (Nat × Spot)) (more : Run (List Nat) → State → State → State) : State :=
  let slots := f.slots s.h d
  let active := s.h.active c
  claimed s c slots [] <|
    let check (s : State) (i : Nat) : Elt (List (List Spot × Nat)) :=
      afterSources srcs i (checked (i == c.start) false (f.access s i))
    let r1 := runElements s c active true fun _ i => check s i
    match r1.hold with
    | some k => k s
    | none =>
      let spots := r1.vals.flatMap fun v => v.2.flatMap (·.1)
      if idx && sharesSpent s spots then awaitSource s
      else loadCommits s spots fun s =>
        let r := rerun s c active r1 fun _ i =>
          (check s i).andThen fun ps => eltOf false (((f.access s i).head?.map (·.ea)).getD 0) (readFields s f.ew i 0 ps)
        match r.hold with
        | some k => k (rememberReads s (before ++ r1.vals.reverse.flatMap fun v => elementReads v.1 v.2))
        | none => endRun s c rs r fun s e =>
          let h := (List.range f.fields).foldl (fun h k =>
            h.writeGroup c active (d.toNat + k * f.regs) f.ew e (r.vals.map fun v => (v.1, v.2.getD k 0)))
            (s.h.marked c slots [])
          more r s (charge (s.setH h) c active f.ew 1 0 0 e)

/-- The registers of a load or store: aligned data groups, below v16 or from there on for seg (R188), free of streams for a
load and read whole for a store. -/
def VForm.regsOk (f : VForm) (h : Hart) (c : Vc) (d : BitVec 5) (store : Bool) : Bool :=
  let top := d.toNat + f.fields * f.regs
  d.toNat % f.regs == 0 && decide (top ≤ 32) && (f.fields == 1 || !(decide (d.toNat < 16) && decide (16 < top))) &&
    if store then (List.range f.fields).all fun k => h.readOk c (d.toNat + k * f.regs) f.regs f.ew
    else h.writeOk d.toNat (f.regs * f.fields)

/-- A load of the form that `mk` gives (R187 to R189). -/
def vload (s : State) (d : BitVec 5) (m : BitVec 2) (typeOk : Vc → Bool) (idx : Option (BitVec 5))
    (mk : Vc → (Nat → Nat) → VForm) (more : Vc → Run (List Nat) → State → State → State) : Out :=
  let h := s.h
  let c := h.vc m
  let rs := idx.toList.map (·.toNat)
  let srcs := rs.map fun r => h.source c r c.sew
  let f := mk c (elementOf srcs 0)
  .next (vectorGuard s c (c.ewOk && typeOk c && f.regsOk h c d false && c.predOk false
      && rs.all (fun r => r % c.grp == 0 && h.readOk c r c.grp c.sew))
    (loadForm s c f d rs srcs idx.isSome [] (more c)))

/-- A load reads: nothing more is asked of it. -/
def loads (device : Bool) : Need := { r := true, w := false, align := 0, device }

/-- A Stirrup instance serves the access (R206). -/
def served (n : Need) : Need := { n with served := true }

/-- Nothing more to do. -/
def noMore (_ : Vc) (_ : Run (List Nat)) (_ s : State) : State := s

/-- `vld.unit` (R187, R189). -/
def execVldUnit (d a : BitVec 5) (m : BitVec 2) (s : State) : Out :=
  vload s d m (fun _ => true) none (fun c _ => unitForm c (s.h.rx a).toNat (loads true)) noMore

/-- EW of whole bytes (R188). -/
def Vc.wholeBytes (c : Vc) : Bool := decide (8 ≤ c.ew)

/-- `vld.strd` (R187, R189). -/
def execVldStrd (d a b : BitVec 5) (m : BitVec 2) (s : State) : Out :=
  vload s d m Vc.wholeBytes none (fun c _ => strdForm c (s.h.rx a).toNat (s.h.rx b).toInt (loads true)) noMore

/-- What each slot of registers `[d, d + n)` holds, by span position · 32 + slot. -/
def Hart.contents (h : Hart) (d n : Nat) : List (Nat × Nat) :=
  (List.range h.span.length).flatMap fun q => (h.slotsOf d n).map fun k => (q * 32 + k, Sparse.get 0 h.files.v (q * 32 + k))

/-- The gather of `w`-bit elements up to `e` into registers `[d, d + n)` enters the in-flight table until its lines have arrived
(R208, R350). `before` is the state before its elements were written: where they have no effect, the tail policy holds (R113, R209). -/
def gathering (probe : Bool) (c : Vc) (d n w e : Nat) (before s : State) : State :=
  let h := s.h
  s.setH { h with gathers := h.gathers ++ [
    { pc := h.pc, sord := h.strip.sord, probe, slots := h.slotsOf d n, age := h.instret, from_ := c.start, to_ := e, width := w
      share := c.share, bits := c.vlenb * 8, old := (before.h.zeroTail c d w c.start).contents d n, new := h.contents d n }] }

/-- The places of element `i` of an access form, as far as they translate. -/
def VForm.places (f : VForm) (s : State) (i : Nat) : List Spot :=
  (f.access s i).flatMap fun a => match a.spots with
    | .ok l => l
    | _ => []

/-- `vld.idx` (R187, R208, R222). -/
def execVldIdx (d a b : BitVec 5) (_y : Bool) (m : BitVec 2) (s : State) : Out :=
  let src := s.h.source (s.h.vc m) b.toNat (s.h.vc m).sew
  vload s d m Vc.wholeBytes (some b) (fun c index => idxForm c (s.h.rx a).toNat index (served (loads false)))
    fun c r before t => gathering false c d.toNat c.dataRegs c.ew t.h.strip.vl.toNat before
      (chargeSpots t s.cur (r.vals.flatMap fun v => (idxForm c (s.h.rx a).toNat src.get (served (loads false))).places s v.1))

/-- `vld.seg` (R187, R189). -/
def execVldSeg (d a : BitVec 5) (m : BitVec 2) (u : BitVec 3) (s : State) : Out :=
  vload s d m Vc.wholeBytes none (fun c _ => segForm c (s.h.rx a).toNat (u.toNat + 1) (loads false)) noMore

/-- A trimmed tile access reports its row and column (R194). -/
def tileStop {α : Type} (cols : Nat) (r : Run α) (s : State) : State :=
  match r.stop with
  | some (i, _, _) =>
    let h := s.h
    s.setH { h with achr := BitVec.ofNat 64 (i / cols), achc := BitVec.ofNat 64 (i % cols) }
  | none => s

/-- `vld.tile` (R187, R194). -/
def execVldTile (d a b : BitVec 5) (m : BitVec 2) (s : State) : Out :=
  let shape := s.h.rx b
  vload s d m (fun c => c.wholeBytes && (tileShape shape).1 != 0) none
    (fun c _ => tileForm c (s.h.rx a).toNat shape (loads false)) fun _ r _ s => tileStop (tileShape shape).1 r s

/-- `vld.sp` (R187, R195). -/
def execVldSp (d a : BitVec 5) (m : BitVec 2) (s : State) : Out :=
  vload s d m (fun _ => true) none (fun c _ => spForm c (s.h.rx a).toNat 0) noMore

/-- `vld.spx` (R187, R196). -/
def execVldSpx (d a b : BitVec 5) (m : BitVec 2) (s : State) : Out :=
  let desc := (s.h.rx b).toNat
  vload s d m (fun _ => swizzleOk desc) none (fun c _ => spForm c (s.h.rx a).toNat desc) noMore

/-! ## Stores -/

/-- A store (R189): its elements enter the store buffer, an implicit commit inside it resumes it at its first element not
yet placed, and then it ends. An instance of Stirrup performs those of a scatter at the commit (R208). -/
def storeForm (s : State) (c : Vc) (f : VForm) (active : Nat → Bool) (rs : List Nat) (srcs : List Source) (index : Option Source)
    (last : Nat → List (Nat × List SbEntry × Nat) → List (Nat × List SbEntry × Nat))
    (more : Run (List (List Spot × Nat)) → State → State) : State :=
  let r := runElements s c active true fun _ i =>
    afterSources (srcs ++ index.toList) i (checked (i == c.start) false (f.access s i))
  match r.hold with
  | some k => k s
  | none =>
    let items := r.vals.reverse.map fun v =>
      (v.1, (v.2.zipIdx.flatMap fun p => entriesOf p.1.2 f.ew (elementOf srcs p.2 v.1) p.1.1).map
        fun e => { e with served := index.isSome }, f.ew * f.fields)
    let stopped := match r.stop with
      | some (i, cause, _) => isFault cause && i == c.start
      | none => false
    let e := match r.stop with
      | some (i, _, _) => i
      | none => c.vl
    enterElements s (if stopped then [] else last e items) fun s =>
      endRun s c rs r fun s e => more r (charge s c active f.ew 1 0 0 e)

/-- No item beside the elements. -/
def noHeader (_ : Nat) (items : List (Nat × List SbEntry × Nat)) : List (Nat × List SbEntry × Nat) := items

/-- A store of the form that `mk` gives (R187 to R189). -/
def vstore (s : State) (d : BitVec 5) (m : BitVec 2) (typeOk : Vc → Bool) (idx : Option (BitVec 5))
    (mk : Vc → (Nat → Nat) → VForm) (more : Vc → Run (List (List Spot × Nat)) → State → State) : Out :=
  let h := s.h
  let c := h.vc m
  let is := idx.toList.map (·.toNat)
  let index := is.head?.map fun r => h.source c r c.sew
  let f := mk c (fun i => (index.map fun t => t.get i).getD 0)
  let ds := (List.range f.fields).map fun k => d.toNat + k * f.regs
  let srcs := ds.map fun r => h.source c r f.ew
  .next (vectorGuard s c (c.ewOk && typeOk c && f.regsOk h c d true && c.predOk false
      && is.all (fun r => r % c.grp == 0 && h.readOk c r c.grp c.sew))
    (storeForm s c f (h.active c) (ds ++ is) srcs index noHeader (more c)))

/-- A store writes: nothing more is asked of it. -/
def stores (device : Bool) : Need := { r := false, w := true, align := 0, device }

/-- Nothing more to do after a store. -/
def storeDone (_ : Vc) (_ : Run (List (List Spot × Nat))) (s : State) : State := s

/-- `vst.unit` (R187, R189). -/
def execVstUnit (d a : BitVec 5) (_x : Bool) (m : BitVec 2) (s : State) : Out :=
  vstore s d m (fun _ => true) none (fun c _ => unitForm c (s.h.rx a).toNat (stores true)) storeDone

/-- `vst.strd` (R187, R189). -/
def execVstStrd (d a b : BitVec 5) (_x : Bool) (m : BitVec 2) (s : State) : Out :=
  vstore s d m Vc.wholeBytes none (fun c _ => strdForm c (s.h.rx a).toNat (s.h.rx b).toInt (stores true)) storeDone

/-- `vst.idx` (R187, R208). -/
def execVstIdx (d a b : BitVec 5) (_x _y : Bool) (m : BitVec 2) (s : State) : Out :=
  vstore s d m Vc.wholeBytes (some b) (fun c index => idxForm c (s.h.rx a).toNat index (served (stores false)))
    storeDone

/-- `vst.seg` (R187, R189). -/
def execVstSeg (d a : BitVec 5) (_x : Bool) (m : BitVec 2) (u : BitVec 3) (s : State) : Out :=
  vstore s d m Vc.wholeBytes none (fun c _ => segForm c (s.h.rx a).toNat (u.toNat + 1) (stores false)) storeDone

/-- `vst.tile` (R187, R194). -/
def execVstTile (d a b : BitVec 5) (_x : Bool) (m : BitVec 2) (s : State) : Out :=
  let shape := s.h.rx b
  vstore s d m (fun c => c.wholeBytes && (tileShape shape).1 != 0) none
    (fun c _ => tileForm c (s.h.rx a).toNat shape (stores false)) fun _ r s => tileStop (tileShape shape).1 r s

/-- `vst.sp` (R187, R197). -/
def execVstSp (d a : BitVec 5) (_x : Bool) (m : BitVec 2) (s : State) : Out :=
  vstore s d m (fun _ => true) none (fun c _ => spForm c (s.h.rx a).toNat 0) storeDone

/-- `vst.spx` (R187, R196). -/
def execVstSpx (d a b : BitVec 5) (_x : Bool) (m : BitVec 2) (s : State) : Out :=
  let desc := (s.h.rx b).toNat
  vstore s d m (fun _ => swizzleOk desc) none (fun c _ => spForm c (s.h.rx a).toNat desc) storeDone

/-! ## Spill frames (R121, R122) -/

/-- The context of an instruction that ignores the guard and the mode. -/
def Hart.plainVc (h : Hart) : Vc :=
  { h.vc 0 with gp := 0, gi := false, ip := false, tp := false, dt := false, fam := 0, rm := 0, fx := 0, sat := false }

/-- The header of a frame: 16 bytes aligned to 16. -/
def frameHeader (s : State) (base : Nat) (need : Need) : Access := memAccess s base 0 16 { need with align := 16 }

/-- The elements of a frame: the leading element is checked together with the header. -/
def frameForm (c : Vc) (base : Nat) (need : Need) : VForm :=
  { ew := c.sew, regs := c.grp, fields := 1
    access := fun s i => [memAccess s (base + 16 + i * c.sew / 8) (i * c.sew % 8) (max 1 (c.sew / 8)) need] }

/-- The places of a header that passed its checks. -/
def Access.places (a : Access) : List Spot :=
  match a.spots with
  | .ok l => l
  | _ => []

/-- `vst.spill` (R122). -/
def execVstSpill (d a : BitVec 5) (_x : Bool) (s : State) : Out :=
  let h := s.h
  let c := h.plainVc
  let base := (h.rx a).toNat
  let src := h.source c d.toNat c.sew
  let f := frameForm c base (stores false)
  .next (taskMode s (if alignedTo c.grp [d] && h.readOk c d.toNat c.grp c.sew then
      if c.vl ≤ c.start then vectorRetire (charge s c everyActive c.sew 1 0 0 c.vl)
      else
        let header := frameHeader s base (stores false)
        match firstStop true (header :: f.access s c.start) with
        | some x => settle s x.ea (x.spots.map fun _ => s) id
        | none => storeForm s c f everyActive [d.toNat] [src] none (fun e items =>
            let entry := entriesOf 0 128 (e + h.strip.vtype.toNat * 2 ^ 64) header.places
            match items.reverse with
            | [] => [(c.start, entry, 128)]
            | (i, es, b) :: rest => rest.reverse ++ [(i, es ++ entry, b + 128)]) (fun _ s => s)
    else wordTrap s Cause.illegalType))
where
  /-- Every element takes part. -/
  everyActive (_ : Nat) : Bool := true

/-- `vld.fill` (R122). DESIGN CHOICE (entry 83): the limits of R110 are judged by VL, before the header is read, whatever the header then
leaves to write. -/
def execVldFill (d a : BitVec 5) (s : State) : Out :=
  let h := s.h
  let c := h.plainVc
  let base := (h.rx a).toNat
  let f := frameForm c base (loads false)
  .next (taskMode s (if alignedTo c.grp [d] && h.writeOk d.toNat c.grp then
      if c.vl ≤ c.start then vectorRetire (charge s c (fun _ => true) c.sew 1 0 0 c.vl)
      else claimed s c (f.slots h d) [] <|
        let header := frameHeader s base (loads false)
        match firstStop true [header] with
        | some x => settle s x.ea (x.spots.map fun _ => s) id
        | none => loadCommits s header.places fun s =>
          let reads := numbered 0 header.places
          settle (rememberReads s reads) base (readAccess s 0 header.places) fun v =>
            let vtype := v / 2 ^ 64 % 2 ^ 16
            if vtype / 2 ^ 7 % 32 ≠ h.strip.vtype.toNat / 2 ^ 7 ∨ vtype / 2 ^ 12 ≠ 0 ∨ v / 2 ^ 80 ≠ 0 then
              trapEntry s Cause.illegalType s.h.pc s.h.vstart s.h.vstart
            else loadForm s { c with vl := min (v % 2 ^ 64) c.vl } f d [] [] false reads fun _ _ s => s
    else wordTrap s Cause.illegalType))

/-! ## Hash probes (R210, R211) -/

/-- A probe descriptor's 32 bytes (R210). -/
structure Probe where
  tbase : Nat
  log2n : Nat
  log2s : Nat
  maxp : Nat
  voff : Nat

/-- The descriptor that 32 bytes hold, unless a field is out of range or a zero field is not zero. -/
def probeOf (v w : Nat) : Option Probe :=
  let p : Probe :=
    { tbase := v % 2 ^ 64, log2n := v / 2 ^ 64 % 256, log2s := v / 2 ^ 72 % 256, maxp := v / 2 ^ 80 % 256
      voff := v / 2 ^ 96 % 2 ^ 32 }
  if 1 ≤ p.log2n ∧ p.log2n ≤ 32 ∧ 3 ≤ p.log2s ∧ p.log2s ≤ 8 ∧ 1 ≤ p.maxp ∧ v / 2 ^ 88 % 256 = 0 ∧ p.voff % w = 0
      ∧ p.voff + w ≤ 2 ^ p.log2s ∧ v / 2 ^ 128 = 0 then some p else none

/-- What a probe has read so far: each run with the number of its access. -/
abbrev Seen := List (Nat × Spot)

/-- What an access to a slot waits for before it is performed: a buffered store to a strongly ordered page is committed, a strongly
ordered access has been performed at system scope, the share of the instance allows it (R192, R222, R240). -/
def probeGate (s : State) (l : List Spot) : Option (State → State) :=
  if strongRuns l && s.h.sb.any (fun e => e.ord == .strong) then some fun s => implicitCommit s id
  else if strongRuns l && strongPending s s.h.owner then some fun s => awaitStrong s s.cur
  else if sharesSpent s l then some awaitSource
  else none

/-- Read `w` bytes of a slot for element `i`, as its access number `k` (R190, R211). -/
def probeRead (s : State) (lead : Bool) (i k ea w : Nat) (seen : Seen) : Elt (Nat × Seen) :=
  let ea := ea % 2 ^ 64
  (eltOf lead ea (checkSpots s ea w (served (loads false)))).andThen fun l =>
    let seen := seen ++ numbered (accessTag i k) l
    match probeGate s l with
    | some f => .hold fun s => f (rememberReads s seen)
    | none => match eltOf lead ea (readAccess s (accessTag i k) l) with
      | .ok v _ => .ok (v, seen) 0
      | .stop c t => .stop c t
      | .hold f => .hold fun s => f (rememberReads s seen)

/-- The probes of the key of element `i` from slot `t` on, `fuel` of them: the value, and what was read. -/
def probeFrom (s : State) (p : Probe) (w key h : Nat) (lead : Bool) (i : Nat) : Nat → Nat → Seen → Elt (Nat × Seen)
  | 0, _, seen => .ok (2 ^ (8 * w) - 1, seen) 0
  | fuel + 1, t, seen =>
    let slot := p.tbase + (h + t) % 2 ^ p.log2n * 2 ^ p.log2s
    (probeRead s lead i (2 * t) slot w seen).andThen fun (k, seen) =>
      if k = key then probeRead s lead i (2 * t + 1) (slot + p.voff) w seen
      else if k = 2 ^ (8 * w) - 1 then .ok (2 ^ (8 * w) - 1, seen) 0
      else probeFrom s p w key h lead i fuel (t + 1) seen

/-- The probe of the key of element `i` (R211); `seen` is what the instruction has read before. -/
def probeKey (s : State) (p : Probe) (w key : Nat) (lead : Bool) (i : Nat) (seen : Seen) : Elt (Nat × Seen) :=
  if key = 2 ^ (8 * w) - 1 then .ok (key, seen) 0
  else probeFrom s p w key ((BitVec.ofNat 64 key * gamma).toNat / 2 ^ (64 - p.log2n)) lead i p.maxp 0 seen

/-- `vld.prb` (R210, R211). -/
def execVldPrb (d a b : BitVec 5) (_y : Bool) (m : BitVec 2) (s : State) : Out :=
  let h := s.h
  let c := h.vc m
  let w := c.sew / 8
  let src := h.source c b.toNat c.sew
  let slots := h.slotsOf d.toNat c.grp
  let active := h.active c
  let base := (h.rx a).toNat
  let finish (s : State) (r : Run (Nat × Seen)) : State :=
    endRun s c [b.toNat] r fun s e =>
      let h := (s.h.marked c slots []).writeGroup c active d.toNat c.sew e (r.vals.map fun v => (v.1, v.2.1))
      let spots := ((r.vals.head?.map fun v => v.2.2).getD []).filterMap fun x => if x.1 = 0 then none else some x.2
      gathering true c d.toNat c.grp c.sew e s (chargeSpots (charge (s.setH h) c active c.sew 1 0 0 e) s.cur spots)
  .next (vectorGuard s c ((c.sew == 32 || c.sew == 64) && alignedTo c.grp [d, b] && h.writeOk d.toNat c.grp
      && h.readOk c b.toNat c.grp c.sew && c.predOk false)
    (claimed s c slots [] <|
      if !((List.range (c.vl - c.start)).any fun j => active (c.start + j)) then
        finish s (runElements s c active true fun _ _ => .stop 0 0)
      else
        settle s base (checkSpots s base 32 { loads false with align := 8 }) fun dl =>
          let reads := numbered 0 dl
          loadCommits s dl fun s => settle (rememberReads s reads) base (readAccess s 0 dl) fun v =>
            match probeOf v w with
            | none => wordTrap s Cause.illegalType
            | some p => finish s (runElements s c active true fun r i =>
                afterSources [src] i (probeKey s p w (src.get i) (i == c.start) i ((r.vals.head?.map fun v => v.2.2).getD reads)))))

end Sys2Proof.Machine
end

