-- ==== Sys2Proof/Machine/Engines.lean ====
section
/-! DEFINITION. The issue of engine and copy commands, and the waits for their records: eng and cpe (R212 to R218,
R220, R221, R226 to R231). -/

namespace Sys2Proof.Machine

/-! ## Descriptors -/

/-- Read a descriptor of `n` bytes as a leading-element access (R212 step 2), after the accesses `before`. -/
def readDescriptor (s : State) (before : List (Nat × Spot)) (va n : Nat) (k : List (Nat × Spot) → Nat → State) : State :=
  settle s va (checkSpots s va n { loads false with align := 8 }) fun l =>
    let tag := if before.isEmpty then 0 else 1
    let reads := before ++ numbered tag l
    let read (s : State) : State := settle (rememberReads s reads) va (readAccess s tag l) (k reads)
    if strongRuns l then afterStrong s read else read s

/-- The table descriptor and the row command block are legal (R216). -/
def rowsOk (t b : Nat) : Bool :=
  let rowb := descField t 0x08 4
  rowb % 16 == 0 && decide (16 ≤ rowb) && decide (rowb ≤ 16384) && descField t 0x0C 4 != 0
    && descField b 0x0B 1 == 0 && descField b 0x0C 4 % 16 == 0 && decide (rowb ≤ descField b 0x0C 4)
    && swizzleOk (descField b 0x10 2) && descField b 0x12 6 == 0

/-- The bin region descriptor is legal (R218). -/
def regionOk (r : Nat) : Bool :=
  descField r 0x08 4 != 0 && descField r 0x0C 2 != 0 && decide (descField r 0x0C 2 ≤ 4096)
    && (addSize (descField r 0x0E 1)).isSome && decide (descField r 0x0F 1 ≤ 24) && descField r 0x10 8 % 64 == 0
    && descField r 0x18 4 != 0 && decide (descField r 0x18 4 ≤ 2 ^ 24) && r / 2 ^ (8 * 0x1C) == 0

/-- The add command block is legal for elements of `esz` bytes (R220). -/
def addBlockOk (b esz : Nat) : Bool :=
  descField b 0x10 4 % esz == 0 && decide (descField b 0x14 1 ≤ 1) && descField b 0x15 3 == 0

/-- How many bins a region has (R218, R221). -/
def binCount (nrow log2br : Nat) : Nat := ceilDiv nrow (2 ^ log2br)

/-! ## Issue -/

/-- The completion-table entry that command `s` takes still holds an incomplete command (R226). -/
def Task.entryBusy (t : Task) (s : Nat) : Bool := ((Sparse.find t.ctab (s % 256)).map fun e => !e.complete).getD false

/-- The running hart waits for a command of its task; a pending request takes it at once (R226, R300). -/
def awaitCommand (s : State) : State :=
  if s.h.asked then switchIfAsked s s.cur else s.setH { s.h with wait := .command }

/-- The commit point of an engine or copy command, and its wait at issue (R212 step 1, R226). -/
def beginCommand (s : State) (k : State → State) : State :=
  committed s fun s => if s.h.task.entryBusy (s.h.task.seq + 1) then awaitCommand s else k s

/-- A nonzero join-counter address must be aligned to 64 (R212, R228). -/
def counterAligned (jp : Nat) : Bool := jp % 64 == 0

/-- Translate a nonzero join-counter address as a leading-element access (R212, R228). -/
def checkCounter (s : State) (jp : Nat) (k : State → State) : State :=
  if jp = 0 then k s else settle s jp (scalarPage s s.cur jp 8 true true false) fun _ => k s

/-- The party that issues a command (R218). -/
def issuer (s : State) : Issuer :=
  let h := s.h
  { vi := h.task.vi, task := h.task.id, hart := s.cur, core := s.cur / 4, queue := h.task.queue, sord := h.strip.sord
    lpath := h.task.lpath, spBytes := h.spBytes }

/-- Take the next sequence number, open its completion-table entry, and write it to x[D] (R212 step 3, R226). -/
def takeSequence (s : State) (d : BitVec 5) (copy : Bool) : State :=
  let h := s.h
  let seq := h.task.seq + 1
  let ctab := Sparse.put h.task.ctab (seq % 256) { seq, copy, n := 0, cause := 0, complete := false, pc := h.pc, sord := h.strip.sord, age := h.instret }
  s.setH ({ h with task := { h.task with seq, ctab } }.wx d (BitVec.ofNat 64 seq))

/-- ORD asks for an acquire (R16). -/
def ordAcquires (o : BitVec 2) : Bool := o.getLsbD 0

/-- ORD asks for a release (R16). -/
def ordReleases (o : BitVec 2) : Bool := o.getLsbD 1

/-- Hand a Stirrup command over, and the hart goes on (R212 steps 3 and 4). -/
def issueCommand (s : State) (d : BitVec 5) (o sc : BitVec 2) (kind : EngKind) (count : Nat) (joinp : Word) : State :=
  let c : Command :=
    { id := s.nextCmd, by_ := issuer s, pc := s.h.pc, seq := s.h.task.seq + 1, kind, count, acquire := ordAcquires o
      release := ordReleases o, scope := sc, joinp, done := 0, cause := none, started := false, order := [], answers := [] }
  finishCommit (takeSequence { s with commands := s.commands ++ [c], nextCmd := s.nextCmd + 1 } d false)

/-- The checks that end an issue (R212 step 2), and then the hand-over. -/
def issueChecked (s : State) (ok : Bool) (jp : Nat) (k : State → State) : State :=
  if ok && counterAligned jp then checkCounter s jp k else wordTrap s Cause.illegalType

/-- The largest element count of a command (R212). -/
def countOk (n : Nat) : Bool := decide (n ≤ 2 ^ 24)

/-- `eng.gsp` and `eng.ssp` (R212, R216). -/
def issueRows (mk : Nat → Nat → Nat → Nat → Nat → Nat → Nat → EngKind) (s : State) (d a b c : BitVec 5) (o sc : BitVec 2) : Out :=
  let h := s.h
  let n := (h.rx c).toNat
  .next (taskMode s (beginCommand s fun s =>
    readDescriptor s [] (h.rx a).toNat 16 fun reads t => readDescriptor s reads (h.rx b).toNat 32 fun _ r =>
      let jp := descField r 0x18 8
      issueChecked s (rowsOk t r && countOk n) jp fun s =>
        issueCommand s d o sc (mk (descField t 0 8) (descField t 8 4) (descField t 0x0C 4) (descField r 0 8) (descField r 8 4)
          (descField r 0x0C 4) (descField r 0x10 2)) n (BitVec.ofNat 64 jp)))

/-- `eng.gsp` (R212 to R217). -/
def execEngGsp (d a b c : BitVec 5) (o e : BitVec 2) (s : State) : Out := issueRows .gsp s d a b c o e

/-- `eng.ssp` (R212 to R217). -/
def execEngSsp (d a b c : BitVec 5) (o e : BitVec 2) (s : State) : Out := issueRows .ssp s d a b c o e

/-- `eng.sadd` (R212 to R215, R218, R220). -/
def execEngSadd (d a b c : BitVec 5) (o e : BitVec 2) (s : State) : Out :=
  let h := s.h
  let n := (h.rx c).toNat
  .next (taskMode s (beginCommand s fun s =>
    readDescriptor s [] (h.rx a).toNat 48 fun reads t => readDescriptor s reads (h.rx b).toNat 32 fun _ r =>
      let jp := descField r 0x18 8
      let esz := (addSize (descField t 0x0E 1)).getD 1
      issueChecked s (regionOk t && addBlockOk r esz && countOk n) jp fun s =>
        issueCommand s d o e
          (.sadd (descField t 0 8) (descField t 8 4) (descField t 0x0C 2) (descField t 0x0E 1) (descField t 0x0F 1)
            (descField t 0x10 8) (descField t 0x18 4) (descField r 0 8) (descField r 8 8) (descField r 0x10 4)
            (descField r 0x14 1 == 1)) n (BitVec.ofNat 64 jp)))

/-- `eng.bapply` (R212 to R215, R218, R221). -/
def execEngBapply (d a b c : BitVec 5) (o e : BitVec 2) (s : State) : Out :=
  let h := s.h
  let bin := (h.rx b).toNat
  let jp := (h.rx c).toNat
  .next (taskMode s (beginCommand s fun s =>
    readDescriptor s [] (h.rx a).toNat 48 fun _ t =>
      issueChecked s (regionOk t && decide (bin < binCount (descField t 8 4) (descField t 0x0F 1))) jp fun s =>
        issueCommand s d o e
          (.bapply (descField t 0 8) (descField t 8 4) (descField t 0x0C 2) (descField t 0x0E 1) (descField t 0x0F 1)
            (descField t 0x10 8) (descField t 0x18 4) bin) 0 (BitVec.ofNat 64 jp)))

/-! ## Copies -/

/-- The virtual ranges of `n` bytes at `a` and at `b` overlap, addresses being taken modulo 2^64 (R228). -/
def rangesOverlap (a b n : Nat) : Bool :=
  n != 0 && (decide ((a + (2 ^ 64 - b)) % 2 ^ 64 < n) || decide ((b + (2 ^ 64 - a)) % 2 ^ 64 < n))

/-- The register pair that the short field C names: 2C and 2C + 1 (R18). -/
def pairLow (c : BitVec 4) : BitVec 5 := BitVec.ofNat 5 (2 * c.toNat)
def pairHigh (c : BitVec 4) : BitVec 5 := BitVec.ofNat 5 (2 * c.toNat + 1)

/-- `cpe.cpy` (R228). -/
def execCpeCpy (d a b : BitVec 5) (c : BitVec 4) (o e : BitVec 2) (s : State) : Out :=
  let h := s.h
  let dst := (h.rx a).toNat
  let src := (h.rx b).toNat
  let len := (h.rx (pairLow c)).toNat
  let jp := (h.rx (pairHigh c)).toNat
  .next (taskMode s (beginCommand s fun s =>
    issueChecked s (decide (len ≤ 2 ^ 40) && !rangesOverlap dst src len) jp fun s =>
      let k : Copy :=
        { id := s.nextCmd, by_ := issuer s, pc := s.h.pc, seq := s.h.task.seq + 1, dst, src, len, acquire := ordAcquires o
          release := ordReleases o, scope := e, joinp := BitVec.ofNat 64 jp, wptr := 0, cause := none, engine := none
          answers := [] }
      finishCommit (takeSequence { s with copies := s.copies ++ [k], nextCmd := s.nextCmd + 1 } d true)))

/-! ## Records -/

/-- The encoding of a cause with a count (R227). -/
def negative (cause n : Nat) : Word := 0 - BitVec.ofNat 64 (cause * 2 ^ 48 + n)

/-- The completion-table entry of command `q`, if the task knows it (R227). -/
def Task.record (t : Task) (q : Nat) : Option Completion :=
  if t.seqBase < q ∧ q ≤ t.seq ∧ t.seq < q + 256 then (Sparse.find t.ctab (q % 256)).filter fun e => e.seq == q else none

/-- The record of command `q` exists, or the task does not know the command: a wait for it ends (R227, R230). -/
def Task.settledCommand (t : Task) (q : Nat) : Bool := ((t.record q).map (·.complete)).getD true

/-- Every command of the task has completed (R230, R288). -/
def Task.drained (t : Task) : Bool := t.ctab.all fun c => c.2.complete

/-- The result of command `q` in x[D] (R227, R230): a running copy gives its write pointer. -/
def Task.result (t : Task) (q : Nat) : Word :=
  match t.record q with
  | none => negative Cause.seqUnknown.toNat 0
  | some e =>
    if e.complete then if e.cause = 0 then BitVec.ofNat 64 e.n else negative e.cause.toNat e.n
    else if e.copy then BitVec.ofNat 64 e.n
    else negative Cause.cmdPending.toNat 0

/-- Write the result of a wait and take the checkpoint (R230 steps 3 to 5). -/
def endWait (s : State) (d : BitVec 5) (v : Word) : State := finishCommit (s.setH ({ s.h with wait := .run }.wx d v))

/-- The record of command `q`, if it exists, has been read (R350). -/
def Task.readRecord (t : Task) (q : Nat) : Task :=
  match t.record q with
  | some e => if e.complete then { t with ctab := Sparse.put t.ctab (q % 256) { e with read := true } } else t
  | none => t

/-- Write the result of command `q` and take the checkpoint (R230 steps 3 to 5). -/
def giveRecord (s : State) (d : BitVec 5) (q : Nat) : State :=
  endWait (s.setH { s.h with task := s.h.task.readRecord q }) d (s.h.task.result q)

/-- `cpe.cwait` (R230). -/
def execCpeCwait (d a : BitVec 5) (o : Bool) (_e : BitVec 2) (s : State) : Out :=
  let q := s.h.rx a
  .next (taskMode s (committed s fun s =>
    if s.h.task.settledCommand q.toNat then giveRecord s d q.toNat
    else if s.h.asked then switchIfAsked s s.cur
    else s.setH { s.h with wait := .cwait d q o }))

/-- `cpe.cptr` (R230). -/
def execCpeCptr (d a : BitVec 5) (s : State) : Out :=
  let q := s.h.rx a
  .next (taskMode s (committed s fun s => giveRecord s d q.toNat))

/-- `cpe.cdrain` (R230). -/
def execCpeCdrain (d : BitVec 5) (o : Bool) (_e : BitVec 2) (s : State) : Out :=
  .next (taskMode s (committed s fun s =>
    if s.h.task.drained then endWait s d (BitVec.ofNat 64 s.h.task.seq)
    else if s.h.asked then switchIfAsked s s.cur
    else s.setH { s.h with wait := .cdrain d o }))

end Sys2Proof.Machine
end

