-- ==== Sys2Proof/Machine/Sync.lean ====
section
/-! DEFINITION. Barriers and work-lists: bar and wl (R265 to R271). -/

namespace Sys2Proof.Machine

/-! ## Objects in memory -/

/-- The home of an object of `n` bytes with the given alignment that a command acts on: R62 steps 1 to 4 as a leading
element, and no device-class page (R266, R270, R286). A peer may refuse the access (R330). -/
def objectHome (s : State) (ea n align : Nat) (ordering : Bool) : Res Loc :=
  if canonical ea = false then .cause Cause.noncanonical
  else if ea % align ≠ 0 then .cause Cause.misaligned
  else
    (translateParts s s.cur { r := true, w := true, align, device := false } (pageParts ea n)).bind fun l =>
      if ordering && l.any (fun p => p.ord == .unordered) then .cause Cause.illegalMode
      else if l.any (·.device) then .cause Cause.deviceClassMisuse
      else match l.findSome? fun p => s.refuses p.loc with
        | some c => .cause c
        | none => match l.head? with
          | some p => .ok p.loc
          | none => .cause Cause.pageAbsent

/-- An action of the running hart's command writes `n` bytes at an object's home (R266, R271, R278). -/
def actAt (s : State) (l : Loc) (v n : Nat) : State := s.poke s.h.owner .unordered l v n

/-- ORD of a command that admits 0 and 2, or 0 and 1, asks for a release at SC (R266, R270, R286). -/
def releasedIf (s : State) (release : Bool) (sc : BitVec 2) (k : State → State) : State :=
  if release then released s (scopeOfSc sc) k else k s

/-! ## Barriers -/

/-- A barrier object's 64 bytes (R265). -/
structure Barrier where
  count : Nat
  dist : Nat
  status : Nat
  phase : Nat
  arr : List Nat
  gen : Nat
  zero : Bool

/-- The object that 64 bytes hold. -/
def barrierOf (v : Nat) : Barrier :=
  { count := descField v 0x00 4, dist := descField v 0x04 1, status := descField v 0x05 1, phase := descField v 0x08 8
    arr := (List.range 4).map fun k => descField v (0x10 + 4 * k) 4, gen := descField v 0x20 8
    zero := descField v 0x06 2 == 0 && descField v 0x28 24 == 0 }

/-- The object is malformed (R265). -/
def Barrier.malformed (b : Barrier) : Bool :=
  b.count == 0 || decide (3 < b.dist) || !(b.status == 0 || b.status == 0xA0) || !b.zero

/-- Write the fields that an arrival or an init may change, at the object's home (R267, R268). -/
def putBarrier (s : State) (a : Loc) (b : Barrier) : State :=
  let arr := b.arr.zipIdx.foldl (fun acc c => acc + c.1 % 2 ^ 32 * 2 ^ (32 * c.2)) 0
  let v0 := b.count % 2 ^ 32 + b.dist % 2 ^ 8 * 2 ^ 32 + b.status % 2 ^ 8 * 2 ^ 40
  let o := s.h.owner
  let s := s.writeBarrier o a v0 6
  let s := s.writeBarrier o (a.plus 8) b.phase 8
  let s := s.writeBarrier o (a.plus 0x10) arr 16
  s.writeBarrier o (a.plus 0x20) b.gen 8

/-- Close every complete phase: at most the four that the arrival counts cover (R267). -/
def Barrier.advance : Nat → Barrier → Barrier
  | 0, b => b
  | fuel + 1, b =>
    let k := b.phase % 4
    if b.arr.getD k 0 = b.count then Barrier.advance fuel { b with arr := b.arr.set k 0, phase := (b.phase + 1) % 2 ^ 64 }
    else b

/-- An arrival at phase `p` (R267). -/
def Barrier.arrive (b : Barrier) (p : Nat) : Barrier :=
  Barrier.advance 4 { b with arr := b.arr.set (p % 4) ((b.arr.getD (p % 4) 0 + 1) % 2 ^ 32) }

/-- Break the object by an action of a `bar` command: STATUS is set and every waiter resumes with -1 (R268). -/
def breakObject (s : State) (a : Loc) : State :=
  breakBarrier (wakeIdle (clearLinks s a.line none) a.line) a

/-- The wait of phase `p` is over: PHASE > p - DIST (R267). -/
def Barrier.passed (b : Barrier) (p : Nat) : Bool := decide (p < b.phase + b.dist)

/-- The end of a `bar.wait` (R267). -/
def endBarrier (s : State) (d : BitVec 5) (v : Word) : State :=
  let h := s.h
  endWait (s.setH { h with task := { h.task with pending := none, broke := false } }) d v

/-- Wait on the object at `a` for phase `p`, the arrival being recorded; a pending request takes the hart at once
(R267, R300). A waiter that the break of the barrier found pre-empted resumes with -1 (R268). -/
def waitBarrier (s : State) (d : BitVec 5) (va : Word) (a : Loc) (p : Word) (acquire : Bool) : State :=
  let b := barrierOf (s.peek a 64)
  if b.status ≠ 0 ∨ s.h.task.broke = true then endBarrier s d (0 - 1)
  else if b.passed p.toNat then endBarrier s d (BitVec.ofNat 64 b.phase)
  else if s.h.asked then switchIfAsked s s.cur
  else s.setH { s.h with wait := .barrier d va a p acquire false }

/-- The arrival of the running hart at phase `p` (R267). -/
def arriveBarrier (s : State) (d : BitVec 5) (va : Word) (a : Loc) (p : Word) (acquire : Bool) : State :=
  let b := barrierOf (s.peek a 64)
  if b.status ≠ 0 then endBarrier s d (0 - 1)
  else if b.malformed then endBarrier (breakObject s a) d (0 - 1)
  else if p.toNat < b.phase then endBarrier s d (BitVec.ofNat 64 b.phase)
  else if b.phase + 4 ≤ p.toNat then endBarrier (breakObject s a) d (0 - 1)
  else
    let s := putBarrier s a (b.arrive p.toNat)
    let h := s.h
    waitBarrier (s.setH { h with task := { h.task with pending := some (va, p) } }) d va a p acquire

/-- `bar.wait` (R266, R267). -/
def execBarWait (d a b : BitVec 5) (o e : BitVec 2) (s : State) : Out :=
  let h := s.h
  let va := h.rx a
  let p := if b = 0 then h.strip.sord else h.rx b
  .next (taskMode s (
    match h.task.pending with
    | some (va, p) => settle s va.toNat (objectHome s va.toNat 64 64 (o != 0)) fun home => waitBarrier s d va home p (ordAcquires o)
    | none =>
      settle s va.toNat (objectHome s va.toNat 64 64 (o != 0)) fun home =>
        committed s fun s => releasedIf s (ordReleases o) e fun s => arriveBarrier s d va home p (ordAcquires o)))

/-- The value of B that `bar.init` takes (R265, R266). -/
def initOk (v : Nat) : Bool := v / 2 ^ 34 == 0 && v % 2 ^ 32 != 0 && decide (v % 2 ^ 32 ≤ 65535)

/-- `bar.init` (R266, R268): the address is checked first, then the value of B (R392); waiters leave first, and then the
values are written. -/
def execBarInit (d a b c : BitVec 5) (o : Bool) (e : BitVec 2) (s : State) : Out :=
  let h := s.h
  let va := (h.rx a).toNat
  let v := (h.rx b).toNat
  let phase := (h.rx c).toNat
  .next (taskMode s (
    settle s va (objectHome s va 64 64 o) fun home =>
      if initOk v then
        committed s fun s => releasedIf s o e fun s =>
          let s := if s.harts.any (fun c => c.2.waitsOn home) then breakObject s home else s
          let gen := (descField (s.peek home 64) 0x20 8 + 1) % 2 ^ 64
          let s := putBarrier s home
            { count := v % 2 ^ 32, dist := v / 2 ^ 32, status := 0, phase, arr := [0, 0, 0, 0], gen, zero := true }
          finishCommit (s.setH (s.h.wx d (BitVec.ofNat 64 gen)))
      else wordTrap s Cause.illegalType))

/-- `bar.inv` (R266, R268). -/
def execBarInv (a : BitVec 5) (o : Bool) (e : BitVec 2) (s : State) : Out :=
  let va := (s.h.rx a).toNat
  .next (taskMode s (settle s va (objectHome s va 64 64 o) fun home =>
    committed s fun s => releasedIf s o e fun s => finishCommit (breakObject s home)))

/-! ## Work-lists -/

/-- A work-list header's 64 bytes (R269). -/
structure WorkList where
  base : Nat
  rcap : Nat
  scap : Nat
  sbase : Nat
  head : Nat
  tail : Nat
  dbase : Nat
  drange : Nat
  zero : Bool

/-- The header that 64 bytes hold. -/
def workListOf (v : Nat) : WorkList :=
  { base := descField v 0x00 8, rcap := descField v 0x08 4, scap := descField v 0x0C 4, sbase := descField v 0x10 8
    head := descField v 0x18 8, tail := descField v 0x20 8, dbase := descField v 0x28 8, drange := descField v 0x30 4
    zero := descField v 0x34 12 == 0 }

/-- How many entries the list holds. -/
def WorkList.length (l : WorkList) : Nat := l.tail - l.head

/-- The header is malformed (R269). -/
def WorkList.malformed (l : WorkList) : Bool :=
  decide (l.rcap < 64) || decide (2 ^ 20 < l.rcap) || l.rcap &&& (l.rcap - 1) != 0 || decide (l.tail < l.head)
    || decide (l.rcap + l.scap < l.tail - l.head) || !l.zero

/-- The virtual address of entry `q` (R269). -/
def WorkList.entry (l : WorkList) (q : Nat) : Nat :=
  if q < l.head + l.rcap then l.base + 8 * (q % l.rcap) else l.sbase + 8 * (q % l.scap)

/-- Write at the home of a checked place, which no store buffer holds back (R271). -/
def writeSpot (s : State) (o : Owner) (p : Spot) (v : Nat) : State := s.poke o p.ord p.loc v p.bytes

/-- Write an element at the homes of its parts. -/
def writeSpots (s : State) (o : Owner) : List Spot → Nat → State
  | [], _ => s
  | p :: rest, v => writeSpots (writeSpot s o p v) o rest (v / 2 ^ (8 * p.bytes))

/-- `wl` around its action (R270): `act` gives the result and the state after it. The header is judged with the hart's
own buffered stores in place (R67); its check reads no POISON (R62 steps 1 to 4). -/
def workList (s : State) (d a : BitVec 5) (n : Nat) (ordering release : Bool) (sc : BitVec 2)
    (act : State → Loc → (State → Word → State) → State) : Out :=
  let va := (s.h.rx a).toNat
  .next (taskMode s (settle s va (objectHome s va 64 64 ordering) fun home =>
    if (workListOf (overlay s.h.sb home 64 (s.peek home 64))).malformed ∨ 4096 < n then wordTrap s Cause.illegalType
    else committed s fun s => releasedIf s release sc fun s =>
      act s home fun s v => finishCommit (s.setH (s.h.wx d v))))

/-- One value appended (R271): the state after it and whether it was appended, or the cause that ends the command. -/
def appendValue (s : State) (vi : Nat) (home : Loc) (dedup : Bool) (v : Nat) : Res (State × Bool) :=
  let l := workListOf (s.peek home 64)
  let put (s : State) : Res State :=
    (deviceStore s s.h.owner vi (l.entry l.tail) v 8).map fun s => actAt s (home.plus 0x20) (l.tail + 1) 8
  if dedup && (l.dbase == 0 || decide (l.drange ≤ v)) then .cause Cause.bound
  else if l.rcap + l.scap ≤ l.length then .cause Cause.wlSpillFull
  else if dedup then
    (deviceRead s vi (l.dbase + v / 8) 1).bind fun byte =>
      if byte.testBit (v % 8) then .ok (s, false)
      else (deviceStore s s.h.owner vi (l.dbase + v / 8) (byte + 2 ^ (v % 8)) 1).bind fun s => (put s).map fun s => (s, true)
  else (put s).map fun s => (s, true)

/-- The value of element `e` of the array at `base` (R271). -/
def arrayValue (s : State) (base e : Nat) : Res Nat :=
  (checkSpots s ((base + 8 * e) % 2 ^ 64) 8 (loads false)).bind fun l => readSpots s s.h.sb s.h.answers l true

/-- Append elements `e` on, `fuel` of them: `ins` were appended so far (R271). -/
def appendFrom (base vi : Nat) (home : Loc) (dedup : Bool) : Nat → Nat → Nat → State → State × Word
  | 0, e, ins, s => (s, BitVec.ofNat 64 (if dedup then ins else e))
  | fuel + 1, e, ins, s =>
    match (arrayValue s base e).bind fun v => appendValue s vi home dedup v with
    | .ok (s', new) => appendFrom base vi home dedup fuel (e + 1) (ins + new.toNat) s'
    | .cause c => (s, negative c.toNat e)
    | _ => (s, negative Cause.pageAbsent.toNat e)

/-- The first element among those from `e` on, `fuel` of them, that waits for an answer of a party outside. -/
def missingValue (s : State) (base : Nat) : Nat → Nat → Option (Res Nat)
  | 0, _ => none
  | fuel + 1, e =>
    match arrayValue s base e with
    | .ok _ => missingValue s base fuel (e + 1)
    | .cause _ => none
    | .hostFault _ => none
    | r => some r

/-- The action of `wl.push` and `wl.dins` (R271): the values are all at hand before the first is appended. -/
def appendAll (dedup : Bool) (base n : Nat) (s : State) (home : Loc) (k : State → Word → State) : State :=
  match missingValue s base n 0 with
  | some r => settle s base r fun _ => s
  | none =>
    let (s', v) := appendFrom base s.h.task.vi home dedup n 0 0 s
    k s' v

/-- `wl.push` (R270, R271). -/
def execWlPush (d a b c : BitVec 5) (o : Bool) (e : BitVec 2) (s : State) : Out :=
  let n := (s.h.rx c).toNat
  workList s d a n o o e (appendAll false (s.h.rx b).toNat n)

/-- `wl.dins` (R270, R271). -/
def execWlDins (d a b c : BitVec 5) (o : Bool) (e : BitVec 2) (s : State) : Out :=
  let n := (s.h.rx c).toNat
  workList s d a n o o e (appendAll true (s.h.rx b).toNat n)

/-- The places of the first `fuel` entries of the destination at `base`, from entry `e` on, in order, and what stops
them (R271). -/
def popSpots (s : State) (base : Nat) : Nat → Nat → List (List Spot) → List (List Spot) × Option (Res Nat)
  | 0, _, acc => (acc.reverse, none)
  | fuel + 1, e, acc =>
    match checkSpots s ((base + 8 * e) % 2 ^ 64) 8 (stores false) with
    | .ok l => popSpots s base fuel (e + 1) (l :: acc)
    | .cause c => (acc.reverse, some (.cause c))
    | .hostFault _ => (acc.reverse, some (.cause Cause.pageAbsent))
    | .ats v p k => (acc.reverse, some (.ats v p k))
    | .ext k l b v o => (acc.reverse, some (.ext k l b v o))

/-- Write the entries from `q` on to the destination places (R271). -/
def popTo (l : WorkList) (vi : Nat) : Nat → List (List Spot) → State → Res State
  | _, [], s => .ok s
  | q, dst :: rest, s => (deviceRead s vi (l.entry q) 8).bind fun v => popTo l vi (q + 1) rest (writeSpots s s.h.owner dst v)

/-- Move `fuel` entries from `q` on from their spill slots to their ring slots (R271). -/
def refillRing (l : WorkList) (vi : Nat) : Nat → Nat → State → Res State
  | 0, _, s => .ok s
  | fuel + 1, q, s =>
    (deviceRead s vi (l.sbase + 8 * (q % l.scap)) 8).bind fun v =>
      (deviceStore s s.h.owner vi (l.base + 8 * (q % l.rcap)) v 8).bind fun s => refillRing l vi fuel (q + 1) s

/-- The action of `wl.popb` (R271): one atomic step at the header's home. Of the entries in spill slots, those that are not
popped and now lie below HEAD + RCAP move to the ring. -/
def popAll (base m : Nat) (s : State) (home : Loc) (k : State → Word → State) : State :=
  let vi := s.h.task.vi
  let l := workListOf (s.peek home 64)
  let (spots, stop) := popSpots s base m 0 []
  let take (cause : Option (BitVec 8)) : State :=
    let n := min spots.length l.length
    let first := l.head + max l.rcap n
    let moved := min l.tail (l.head + n + l.rcap) - first
    match (popTo l vi l.head (spots.take n) s).bind fun s => refillRing l vi moved first s with
    | .ok s' =>
      k (actAt s' (home.plus 0x18) (l.head + n) 8) (match cause with
        | some c => if spots.length < min m l.length then negative c.toNat spots.length else BitVec.ofNat 64 n
        | none => BitVec.ofNat 64 n)
    | .cause c => k s (negative c.toNat 0)
    | _ => k s (negative Cause.pageAbsent.toNat 0)
  match stop with
  | none => take none
  | some (.cause c) => take (some c)
  | some r => settle s base r fun _ => s

/-- `wl.popb` (R270, R271). -/
def execWlPopb (d a b c : BitVec 5) (o : Bool) (e : BitVec 2) (s : State) : Out :=
  let m := (s.h.rx c).toNat
  workList s d a m o false e (popAll (s.h.rx b).toNat m)

/-- `wl.cnt` (R270). -/
def execWlCnt (d a : BitVec 5) (o : Bool) (e : BitVec 2) (s : State) : Out :=
  workList s d a 0 o false e fun s home k => k s (BitVec.ofNat 64 (workListOf (s.peek home 64)).length)

end Sys2Proof.Machine
end

