-- ==== Sys2Proof/Machine/TaskMajor.lean ====
section
/-! DEFINITION. Spawning, joining and ending tasks: task (R278, R279, R281, R286 to R290). -/

namespace Sys2Proof.Machine

/-- The home of a join counter's first line, checked as a leading element (R278, R286). -/
def counterHome (s : State) (va : Nat) (ordering : Bool) : Res Loc := objectHome s va 192 64 ordering

/-- The start attributes of a task, as a slot carries them (R281). -/
def startSlot (c : Slot) (a : Start) : Slot :=
  let c := Sparse.set 0 c 9 a.errata
  let c := Sparse.set 0 c 10 (BitVec.ofNat 64 (a.poolpart.toNat + a.ckmask.toNat * 2 ^ 32))
  let c := Sparse.set 0 c 11 (BitVec.ofNat 64 (a.tiles % 256 + a.span.toNat * 2 ^ 8 + a.flags.toNat * 2 ^ 16))
  Sparse.set 0 c 12 a.rtbase

/-- The doublewords of LPATH in a slot (R281). -/
def pathSlot (c : Slot) (path : Sparse (BitVec 32)) : Slot :=
  (List.range 4).foldl (fun c i => Sparse.set 0 c (4 + i)
    (BitVec.ofNat 64 ((Sparse.get 0 path (2 * i)).toNat + (Sparse.get 0 path (2 * i + 1)).toNat * 2 ^ 32))) c

/-- A slot that starts a task (R281). -/
def newSlot (code frame joinp : Word) (queue level origin : Nat) (path : Sparse (BitVec 32)) (a : Start) : Slot :=
  let c : Slot := Sparse.set 0 [] 0 code
  let c := Sparse.set 0 c 1 frame
  let c := Sparse.set 0 c 2 joinp
  let c := Sparse.set 0 c 3 (BitVec.ofNat 64 (queue % 2 ^ 16 + level % 2 ^ 8 * 2 ^ 16 + origin % 2 ^ 32 * 2 ^ 32))
  startSlot (pathSlot c path) a

/-! ## Spawn -/

/-- LPATH of child `k` at level `l` (R287). -/
def childPath (path : Sparse (BitVec 32)) (l k : Nat) : Sparse (BitVec 32) :=
  Sparse.set 0 (path.filter fun c => decide (c.1 < l)) l (BitVec.ofNat 32 k)

/-- Check the address of the queue slot that a spawn fills, as a leading element (R286). -/
def slotAddress (s : State) (q : Nat) (ordering : Bool) (k : State) : State :=
  match queueDesc s s.h.task.vi q with
  | some t =>
    if t.tail - t.head = t.rcap then k
    else
      let va := (t.rbase + 128 * (t.tail % t.rcap)) % 2 ^ 64
      settle s va (objectHome s va 128 128 ordering) fun _ => k
  | none => k

/-- The spawn itself (R287): the child's slot is queued after its counter has counted it. -/
def spawnChild (s : State) (d : BitVec 5) (code frame joinp : Word) (q l : Nat) (counter : Option Loc) : State :=
  let t := s.h.task
  let k := t.spawnk + 1
  let counted := match counter with
    | some a => actAt s a (s.peek a 8 + 1) 8
    | none => s
  match pushSlot counted t.vi q (newSlot code frame joinp q l 0 (childPath t.lpath l k) t.start) 0 t.root with
  | some s =>
    let h := s.h
    finishCommit (s.setH ({ h with task := { h.task with spawnk := k } }.wx d (BitVec.ofNat 64 k)))
  | none => finishCommit (s.setH (s.h.wx d (negative Cause.queueFull.toNat 0)))

/-- `task.spawn` (R286, R287): its address is checked first, and then the values of its registers (R392). -/
def execTaskSpawn (d a b : BitVec 5) (c : BitVec 4) (o : Bool) (e : BitVec 2) (s : State) : Out :=
  let h := s.h
  let code := h.rx a
  let joinp := h.rx (pairLow c)
  let ql := (h.rx (pairHigh c)).toNat
  let q := ql % 256
  let l := ql / 256 % 8
  .next (taskMode s (committed s fun s =>
    let t := s.h.task
    let go (counter : Option Loc) : State :=
      if ql / 2 ^ 11 ≠ 0 ∨ l ≤ t.level ∨ (hwQueue s t.vi q).isNone ∨ code.toNat % 4 ≠ 0 ∨ 2 ^ 32 - 1 ≤ t.spawnk then
        wordTrap s Cause.illegalType
      else slotAddress s q o (releasedIf s o e fun s => spawnChild s d code (h.rx b) joinp q l counter)
    if joinp = 0 then go none
    else settle s joinp.toNat (counterHome s joinp.toNat o) fun home => go (some home)))

/-! ## Join and exit -/

/-- The hart gives up its task: the locks left are freed by the caller, the slot and the save area here. -/
def leaveSlot (s : State) (n : Nat) : State :=
  let t := (s.hart n).task
  freeArea (freeSlot s n) t.vi t.area

/-- Release every lock that the task of hart `n` still holds (R264, R290). -/
def dropLocks (s : State) (n : Nat) : State :=
  let s := releaseLocks s n (s.hart n).task.locks
  let h := s.hart n
  s.setHart n { h with task := { h.task with locks := [] } }

/-- The places of a counter's slot, page by page (R278). -/
def slotSpots (s : State) (va : Nat) : List Spot :=
  match translateParts s s.cur { r := true, w := true, align := 0, device := false } (pageParts (va + 0x40) 128) with
  | .ok l => l
  | _ => []

/-- Step 3 and step 4 of a join (R288): the continuation is left on the counter at `va`, whose first line is at home `a`,
and the counter is then decremented. -/
def leaveContinuation (s : State) (va code : Word) (a : Loc) : State :=
  let n := s.cur
  let t := s.h.task
  let spots := slotSpots s va.toNat
  let held : Nat := (spots.head?.map fun p => s.peek p.loc 8).getD 0
  if held ≠ 0 then wordTrap s Cause.illegalType
  else
    let slot := newSlot code t.frame t.joinp t.queue t.level t.spawnk t.lpath t.start
    let s := actAt (writeSpots s s.h.owner spots (slotImage slot)) (a.plus 0x10) t.seq 8
    let s := { s with notes := { vi := t.vi, queue := 256, entry := va.toNat, status := 0, root := t.root }
      :: s.notes.filter fun x => !(x.vi == t.vi && x.queue == 256 && x.entry == va.toNat) }
    let s := dropLocks s n
    leaveSlot (decrement chainFuel s t.vi t.id t.queue va none) n

/-- `task.join` (R286, R288). -/
def execTaskJoin (a b : BitVec 5) (o : Bool) (e : BitVec 2) (s : State) : Out :=
  let va := s.h.rx a
  let code := s.h.rx b
  .next (taskMode s (committed s fun s =>
    settle s va.toNat (counterHome s va.toNat o) fun home =>
      if s.h.task.drained then releasedIf s o e fun s => leaveContinuation s va code home
      else awaitCommand s))

/-- `task.dep` (R286, R289). -/
def execTaskDep (d a b : BitVec 5) (s : State) : Out :=
  let va := (s.h.rx a).toNat
  let n := if b = 0 then 1 else (s.h.rx b).toNat
  .next (taskMode s (committed s fun s =>
    if n = 0 ∨ 2 ^ 32 < n then wordTrap s Cause.illegalType
    else settle s va (counterHome s va false) fun home =>
      let count := (s.peek home 8 + n) % 2 ^ 64
      let s := actAt s home count 8
      finishCommit (s.setH (s.h.wx d (BitVec.ofNat 64 count)))))

/-- SCOPE of the last level of a launch (R272). -/
def Launch.lastScope (l : Launch) : Nat :=
  let dw (i : Nat) : Nat := (Sparse.get 0 l.record i).toNat
  let nlevel := dw 0 / 2 ^ 48 % 256
  dw (8 + 2 * (nlevel - 1)) / 2 ^ 40 % 256

/-- A join counter lies on a host or peer page (R290). -/
def counterRemote (s : State) (t : Task) : Bool :=
  t.joinp != 0 && ((s.vi t.vi).inWindow t.joinp.toNat || match pageOf s deviceUnit t.vi t.joinp.toNat with
    | .ok p => match p.loc with
      | .peer .. => true
      | .host .. => true
      | _ => false
    | _ => false)

/-- The scope of the release that ends a task (R290 step 3). -/
def exitScope (s : State) (t : Task) : Nat :=
  if counterRemote s t then 5
  else match t.launch with
    | some i => ((s.launches.find? fun l => l.id == i).map (·.lastScope)).getD 4
    | none => 4

/-- `task.exit` (R290). -/
def execTaskExit (s : State) : Out :=
  .next (taskMode s (committed s fun s =>
    if s.h.task.drained then
      let s := dropLocks s s.cur
      released s (exitScope s s.h.task) fun s =>
        let n := s.cur
        leaveSlot (signalEnd s s.h.task none) n
    else awaitCommand s))

end Sys2Proof.Machine
end

