-- ==== Sys2Proof/Machine/Strip.lean ====
section
/-! DEFINITION. Opening a strip, and bound streams: setvl and vstr (R79 to R86, R201 to R204, R348). -/

namespace Sys2Proof.Machine

/-! ## setvl -/

/-- The VTYPE that a `setvl` word carries: its bits 3:0 are zero (R79). -/
def vtypeOf (i : BitVec 8) : BitVec 12 := BitVec.ofNat 12 (i.toNat * 16)

/-- L for a VTYPE (R80). -/
def shareOf (vlenb : Nat) (t : BitVec 12) : Nat := vlenb * 8 / vtypeSew t * vtypeGrp t

/-- VLMAX (R80). -/
def Hart.vlmax (h : Hart) (t : BitVec 12) : Nat := shareOf h.vlenb t * h.span.length

/-- A VTYPE that `setvl` accepts (R81). -/
def vtypeOk (vlenb : Nat) (t : BitVec 12) : Bool :=
  let bl := vtypeBl t
  let l := shareOf vlenb t
  t.toNat / 2 ^ 9 != 7 && (bl == 0 || (decide (bl ≤ l) && l % bl == 0))

/-- Pattern elements not yet popped (R84). -/
def Stream.left (t : Stream) : Nat := t.count - t.pos

/-- Elements filled and not yet popped (R84). -/
def Stream.ready (t : Stream) : Nat := min t.count (t.first + t.filled.length) - t.pos

/-- The least value of a list, if it has one. -/
def leastOf : List Nat → Option Nat
  | [] => none
  | x :: l => some (l.foldl min x)

/-- The grant of steps 3 and 4 of R83; none while step 4 waits (R84, R85). -/
def grant (h : Hart) (t : BitVec 12) (request : Nat) : Option Nat :=
  let bl := vtypeBl t
  let counted := if t.getLsbD 4 then h.streams.filter fun x => decide (0 < x.left) else []
  let block (n : Nat) : Nat := n / bl * bl
  let n := min request (h.vlmax t)
  let n := match leastOf (counted.map Stream.left) with
    | some e => min n e
    | none => n
  let whole := bl != 0 && decide (bl ≤ n)
  let n := if whole then block n else n
  match leastOf (counted.map Stream.ready) with
  | none => some n
  | some ready =>
    if ready < (if whole then bl else min n 1) then none
    else some (if whole then block (min n ready) else min n ready)

/-- The running hart's `setvl` reaches the sequencer of each core of its span: its turn there ends (R285). -/
def endTurns (s : State) : State :=
  s.h.span.foldl (fun s c =>
    let k := s.core c
    if k.chosen = some s.cur then s.setCore c { k with chosen := none } else s) s

/-- Steps 3 to 6 of R83 on the running hart: a wait for streams, or the new strip and its checkpoint. -/
def openStrip (s : State) (d a : BitVec 5) (first : Bool) (i : BitVec 8) : State :=
  let h := s.h
  let t := vtypeOf i
  match grant h t (h.rx a).toNat with
  | none => s.setH { h with wait := .streams d a first i }
  | some g =>
    let vl := BitVec.ofNat 64 g
    let s := s.setH { h.wx d vl with
      wait := .run
      vstart := 0, shrunk := none
      strip := { h.strip with
        vl, vtype := t, trimc := 0, trimi := 0, saddr := h.pc, gvl := vl
        sord := if first then 0 else h.strip.sord + 1 }
      dbg := { h.dbg with passed := false }
      counters := { h.counters with strips := h.counters.strips + 1 } }
    let s := traceRecord s s.cur 1 0 vl h.pc
    takeCheckpoint (retire (endTurns s)) s.cur

/-- A strip breakpoint of the hart matches the `setvl` at PC (R348). -/
def Hart.stripBreak (h : Hart) (first : Bool) : Bool :=
  let sord : Word := if first then 0 else h.strip.sord + 1
  !h.dbg.passed && (List.range 4).any fun k =>
    let at_ := Sparse.get 0 h.dbg.bps k
    let n := Sparse.get 0 h.dbg.bpo k
    at_ != 0 && at_ == h.pc && (n == sord || n == -1)

/-- `setvl` (R82, R83). -/
def execSetvl (d a : BitVec 5) (first : Bool) (i : BitVec 8) (s : State) : Out :=
  .next (taskMode s (if vtypeOk s.h.vlenb (vtypeOf i) then
      committed s fun s =>
        if s.h.stripBreak first then halt s s.cur Cause.stripBreak
        else if s.h.asked then switchIfAsked s s.cur
        else openStrip s d a first i
    else wordTrap s Cause.illegalType))

/-! ## vstr -/

/-- The stream that a 64-byte descriptor describes, at position 0, unless it is malformed (R201, R202). -/
def streamOf (group : Nat) (desc : Word) (age v : Nat) : Option Stream :=
  let dw (k : Nat) : Nat := v / 2 ^ (64 * k) % 2 ^ 64
  let t : Stream :=
    { group, desc, base := BitVec.ofNat 64 (dw 0), count := dw 1, ext0 := dw 2 % 2 ^ 32, ext1 := dw 2 / 2 ^ 32
      str0 := BitVec.ofNat 64 (dw 3), str1 := BitVec.ofNat 64 (dw 4), str2 := BitVec.ofNat 64 (dw 5), ewc := dw 6 % 256
      pos := 0, first := 0, filled := [], faults := [], age }
  if 1 ≤ t.count ∧ t.count ≤ 2 ^ 48 ∧ 1 ≤ t.ext0 ∧ 1 ≤ t.ext1 ∧ 3 ≤ t.ewc ∧ t.ewc ≤ 6 ∧ dw 6 / 256 = 0 ∧ dw 7 = 0 then some t
  else none

/-- `vstr.sbind` (R202): v0, v4, v8 or v12 by `d`. DESIGN CHOICE (entry 92): it reads its descriptor and binds in a strip of VL 0 too. -/
def execVstrSbind (d : BitVec 2) (a : BitVec 5) (_m : BitVec 2) (s : State) : Out :=
  let h := s.h
  let base := h.rx a
  let group := 4 * d.toNat
  .next (taskMode s (settle s base.toNat (checkSpots s base.toNat 64 { loads false with align := 8 }) fun l =>
    loadCommits s l fun s =>
      settle (rememberReads s (numbered 0 l)) base.toNat (readAccess s 0 l) fun v =>
        match streamOf group base s.nextCmd v with
        | none => wordTrap s Cause.illegalType
        | some t =>
          if 4 ≤ s.h.streams.length ∨ s.h.streams.any (fun x => x.group == group) = true then wordTrap s Cause.streamLimit
          else vectorRetire (s.setH { s.h with streams := s.h.streams ++ [t] })))

/-- The slots of a bound group read zero on every span core (R202). -/
def Hart.clearGroup (h : Hart) (group : Nat) : Hart :=
  (List.range h.span.length).foldl (fun h q =>
    (List.range 4).foldl (fun h k => h.putReg q (group + k) 0 h.vlenb) h) h

/-- The stream of group `g` ends: its registers read zero, which writes them (R109, R110, R202). None beyond the limit of
R110. -/
def Hart.unbind (h : Hart) (g : Nat) : Option Hart :=
  (h.marks.claim (h.slotsOf g 4) []).map fun m =>
    ({ h with marks := m, streams := h.streams.filter fun t => t.group != g }.held h.marks.vFirst).clearGroup g

/-- `vstr.sunbind` (R202). -/
def execVstrSunbind (d : BitVec 5) (_m : BitVec 2) (s : State) : Out :=
  let h := s.h
  .next (taskMode s (if h.streams.any (fun t => t.group == d.toNat) then
      match h.unbind d.toNat with
      | none => wordTrap s Cause.renameLimit
      | some h' => vectorRetire (s.setH h')
    else wordTrap s Cause.illegalType))

/-- `vstr.sadv` (R202). -/
def execVstrSadv (d b : BitVec 5) (_m : BitVec 2) (s : State) : Out :=
  let h := s.h
  let n := (h.rx b).toNat
  .next (taskMode s (if h.streams.any (fun t => t.group == d.toNat) then
      vectorRetire (s.setH { h with streams := h.streams.map fun t =>
        if t.group = d.toNat then t.moveTo (min t.count (t.pos + n)) else t })
    else wordTrap s Cause.illegalType))

end Sys2Proof.Machine
end

