-- ==== Sys2Proof/Machine/VAtom.lean ====
section
/-! DEFINITION. Linked gathers, conditional scatters and lock sets: vatom (R256, R258, R261 to R264). -/

namespace Sys2Proof.Machine

/-- SEW and FAM that `vatom` takes (R261). -/
def Vc.atomType (c : Vc) : Bool := (c.sew == 32 || c.sew == 64) && decide (c.fam < 2)

/-- An element of `n` bytes that `vatom` accesses, aligned to its width (R261). -/
def atomAccess (s : State) (ea n : Nat) (r w : Bool) : Access :=
  memAccess s ea 0 n { r, w, align := n, device := false }

/-- The one place of a checked aligned access, or what stops it. -/
def atomSpot (lead : Bool) (a : Access) : Elt Spot :=
  (eltOf lead a.ea a.spots).andThen fun l =>
    match l with
    | p :: _ => .ok p 0
    | [] => .stop Cause.pageAbsent a.ea

/-! ## vatom.gld -/

/-- Element `i` of a `vatom.gld` of the running hart, read at place `p`: its value, and the state with its tag, which holds the value that
it read (R256, R258, R262). A place beyond a port has its tag already, set where the read was served. -/
def linkElement (s : State) (i w : Nat) (p : Spot) : Elt (Nat × State) :=
  if p.loc.package.isSome && unlinkPending s s.cur then .hold fun s => awaitAnswer s s.cur true
  else if p.ord == .strong && strongPending s s.h.owner then .hold fun s => awaitStrong s s.cur
  else
    (eltOf false p.va ((linkedRead s (taggedAnswers s.h.answers (accessTag i 0)) p.loc w true).tagged (accessTag i 0))).andThen fun v =>
      let v := overlay s.h.sb p.loc w v
      .ok (v, if p.loc.remote then setTagValue s s.cur true p.loc v else addVectorLink s s.cur p.loc v) 0

/-! ## Elements that change the state -/

/-- A run over elements that change the state as they are performed. -/
structure Stepped where
  s : State
  run : Run Nat

/-- Perform elements `i` on, `fuel` of them, in element order at their homes (R262). -/
def stepElements (active : Nat → Bool) (act : State → Nat → Elt (Nat × State)) (cut : Option (Nat × BitVec 8)) : Nat → Nat → Stepped → Stepped
  | 0, _, t => t
  | fuel + 1, i, t =>
    let go (t' : Stepped) : Stepped :=
      match cut with
      | some (j, k) =>
        if j = i then { t with run := { t.run with stop := some (i, k, i) } }
        else stepElements active act cut fuel (i + 1) t'
      | none => stepElements active act cut fuel (i + 1) t'
    if active i then
      match act t.s i with
      | .hold k => { t with run := { t.run with hold := some k } }
      | .stop c v => { t with run := { t.run with stop := some (i, c, v) } }
      | .ok (v, s') _ => go { s := s', run := { t.run with vals := (i, v) :: t.run.vals } }
    else go t

/-- What an instruction that waits for a party outside has already done at element `i`, as an answer of kind 5 with the
element's number and its value or status. -/
def memo (i v : Nat) : Answer := { kind := 5, loc := .home 0, bytes := i, value := v, cause := 0 }

/-- The instruction waits: what its elements have done is done, and their values are kept (R262). -/
def Stepped.wait (t : Stepped) (k : State → State) : State :=
  let h := t.s.h
  k (t.s.setH { h with answers := h.answers ++ (t.run.vals.filterMap fun v =>
    if (findAnswer h.answers 5 (.home 0) v.1).isSome then none else some (memo v.1 v.2)) })

/-- Run the elements of an instruction that performs each of them once, in order, from where it stands (R262). -/
def stepThrough (s : State) (c : Vc) (active : Nat → Bool) (act : State → Nat → Elt (Nat × State)) : Stepped :=
  stepElements active
    (fun s i => match findAnswer s.h.answers 5 (.home 0) i with
      | some r => .ok (r.value, s) 0
      | none => act s i)
    (s.h.cut c) (c.vl - c.start) c.start { s, run := { vals := [], flags := 0, stop := none, hold := none } }

/-- No element of the running instruction has been begun. -/
def Hart.fresh (h : Hart) : Bool := !h.answers.any fun a => a.kind == 0 || a.kind == 5

/-- `vatom.gld` (R262). -/
def execVatomGld (d a b : BitVec 5) (_y : Bool) (m : BitVec 2) (s : State) : Out :=
  let h := s.h
  let c := h.vc m
  let w := c.sew / 8
  let base := (h.rx a).toNat
  let index := h.source c b.toNat c.sew
  let slots := h.slotsOf d.toNat c.grp
  let active := h.active c
  let check (s : State) (i : Nat) : Elt Spot :=
    afterSources [index] i (atomSpot (i == c.start) (atomAccess s (base + index.get i * w) w true false))
  .next (vectorGuard s c (c.atomType && alignedTo c.grp [d, b] && h.writeOk d.toNat c.grp
      && h.readOk c b.toNat c.grp c.sew && c.predOk false)
    (claimed s c slots [] <|
      let r1 := runElements s c active true fun _ i => check s i
      match r1.hold with
      | some k => k s
      | none => loadCommits s (r1.vals.map (·.2)) fun s =>
        let s := if s.h.fresh then dropLinkKind s s.cur true else s
        let t := stepThrough s c active fun s i => (check s i).andThen (linkElement s i w)
        match t.run.hold with
        | some k => t.wait k
        | none => endRun t.s c [b.toNat] t.run fun s e =>
          charge (s.setH ((s.h.marked c slots []).writeGroup c active d.toNat c.sew e t.run.vals)) c active c.sew 1 0 0 e))

/-! ## vatom.scc -/

/-- `vatom.scc` (R262). -/
def execVatomScc (d a b : BitVec 5) (_x _y : Bool) (m : BitVec 2) (s : State) : Out :=
  let h := s.h
  let c := h.vc m
  let w := c.sew / 8
  let base := (h.rx a).toNat
  let index := h.source c b.toNat c.sew
  let slots := h.slotsOf d.toNat c.grp
  let active := h.active c
  let act (s : State) (i : Nat) : Elt (Nat × State) :=
    afterSources [index] i ((atomSpot (i == c.start) (atomAccess s (base + index.get i * w) w false true)).andThen fun p =>
      if p.ord == .strong && strongPending s s.h.owner then .hold fun s => awaitStrong s s.cur
      else eltOf false p.va (conditionalStore s s.cur (taggedAnswers s.h.answers (accessTag i 0)) p.loc p.ord p.sysat true w
        (h.element c d.toNat c.sew i) |>.tagged (accessTag i 0)))
  .next (vectorGuard s c (c.atomType && alignedTo c.grp [d, b] && h.writeOk d.toNat c.grp
      && h.readOk c b.toNat c.grp c.sew && c.predOk false)
    (committed s fun s => claimed s c slots [] <|
      let t := stepThrough s c active act
      match t.run.hold with
      | some k => t.wait k
      | none => endRunBy vectorCommitted t.s c [b.toNat] t.run fun s e =>
        let s := dropLinkKind s s.cur true
        let h := (s.h.marked c slots []).writeGroup c active d.toNat c.sew e t.run.vals
        charge (s.setH h) c active c.sew 1 0 0 e))

/-! ## Lock sets -/

/-- Insert a word in ascending order, unless it is there. -/
def insertWord (x : Nat × Loc) : List (Nat × Loc) → List (Nat × Loc)
  | [] => [x]
  | y :: l => if x.1 < y.1 then x :: y :: l else if x.1 = y.1 then y :: l else y :: insertWord x l

/-- The end of `vatom.lock`: the trim that step 3 found, and the checkpoint (R263). -/
def lockEnd (s : State) (cause : Option (Nat × BitVec 8)) (index : BitVec 5) : State :=
  let c := s.h.vc 0
  let e := match cause with
    | some (i, _) => i
    | none => c.vl
  let s := s.setH ({ s.h with wait := .run }.pop [index.toNat] e cause.isSome)
  let s := charge s c (s.h.active c) c.sew 1 0 0 e
  vectorCommitted (match cause with
    | some (i, k) => trimAt s i k
    | none => s)

/-- The lock word at a place was taken, is held or its answer is still to come, or taking it met a cause (R263 step 4). -/
inductive Taken where
  | yes (s : State)
  | no (s : State)
  | failed (cause : BitVec 8) (s : State)

/-- Try to take a lock word at its home (R256, R263). -/
def takeWord (s : State) (n : Nat) (loc : Loc) (sysat : Bool) : Taken :=
  let v := holderValue s n
  match loc with
  | .home a => if s.mem.read a 8 = 0 then .yes (s.writeHome none a v 8) else .no s
  | _ =>
    let h := s.hart n
    match findAnswer h.answers 1 loc 8 with
    | some r =>
      let s := s.setHart n { h with answers := h.answers.filter fun x => !(x.kind == 1 && x.loc == loc) }
      if r.cause ≠ 0 then .failed r.cause s else if r.value = 0 then .yes s else .no s
    | none =>
      if s.out.any fun q => q.owner == .hart n && q.kind == 1 && q.loc == loc then .no s
      else .no (sendRequest s (.hart n) 1 loc 8 v (atomicCode 8 sysat))

/-- The element of `vatom.lock` that names word `w`, and the words of the elements below it. -/
def lockElement (h : Hart) (base : Nat) (index : BitVec 5) (w : Nat) : Nat × List Nat :=
  let c := h.vc 0
  let src := h.source c index.toNat c.sew
  let addr (i : Nat) : Nat := (base + src.get i * 8) % 2 ^ 64
  let is := ((List.range (c.vl - c.start)).map (c.start + ·)).filter (h.active c)
  let i := (is.find? fun i => addr i == w).getD c.start
  (i, (is.filter (· < i)).map addr)

/-- Taking word `w` met a cause (R256, R330): it counts as a cause at its element, so that only the elements below it are
locked, or the instruction traps at the leading element (R263 step 3). -/
def failWord (s : State) (cause : BitVec 8) (base : Nat) (index : BitVec 5) (w : Nat) (rest : List (Nat × Loc)) : State :=
  let (i, below) := lockElement s.h base index w
  let s := releaseLocks s s.cur (s.h.task.locks.filter fun x => !(x ∈ below))
  let h := s.h
  let h := { h with task := { h.task with locks := h.task.locks.filter (· ∈ below) } }
  if i = h.vstart.toNat then
    memTrap (s.setH ({ h with wait := .run }.pop [index.toNat] 0 true)) cause w
  else s.setH { h with wait := .lock (rest.filter fun x => x.1 ∈ below) (some (i, cause)) base index }

/-- A request is pending as the running hart waits in step 4 of `vatom.lock`: its words are free again, and the request takes it at the
instruction, with VSTART 0 (R102, R263, R300). -/
def leaveLock (s : State) : State :=
  let s := giveLocksBack s s.cur
  switchIfAsked (s.setH { s.h with wait := .run, vstart := 0 }) s.cur

/-- Step 4 of R263 on the running hart: take the words that are free, in ascending order, and wait at the first that is
not. -/
def takeWords (s : State) (cause : Option (Nat × BitVec 8)) (base : Nat) (index : BitVec 5) : List (Nat × Loc) → State
  | [] => lockEnd s cause index
  | (w, loc) :: rest =>
    match takeWord s s.cur loc (s.vi s.h.task.vi).windowSysat with
    | .yes s =>
      let h := s.h
      takeWords (s.setH { h with task := { h.task with locks := h.task.locks ++ [w] } }) cause base index rest
    | .no s =>
      let s := s.setH { s.h with wait := .lock ((w, loc) :: rest) cause base index }
      if s.h.asked then leaveLock s else s
    | .failed k s => failWord s k base index w rest

/-- The checked words of the active elements, ascending, with how the check ended. -/
def lockWords (s : State) (c : Vc) (base : Nat) (index : Source) (r w : Bool) : Run (Nat × Loc) :=
  runElements s c (s.h.active c) true fun _ i =>
    afterSources [index] i ((atomSpot (i == c.start) (atomAccess s (base + index.get i * 8) 8 r w)).andThen fun p =>
      .ok (p.va, p.loc) 0)

/-- `vatom.lock` (R263). -/
def execVatomLock (a b : BitVec 5) (_y : Bool) (s : State) : Out :=
  let h := s.h
  let c := h.vc 0
  let base := (h.rx a).toNat
  let index := h.source c b.toNat c.sew
  .next (vectorGuard s c (c.atomType && alignedTo c.grp [b] && h.readOk c b.toNat c.grp c.sew && c.predOk false)
    (committed s fun s =>
      let named := ((List.range (c.vl - c.start)).filterMap fun j =>
        if h.active c (c.start + j) then some ((base + index.get (c.start + j) * 8) % 2 ^ 64, Loc.home 0) else none).foldl
          (fun l x => insertWord x l) []
      if s.h.task.locks ≠ [] ∨ 64 < named.length then wordTrap s Cause.lockTableFull
      else
        let r := lockWords s c base index true true
        match r.hold, r.stop with
        | some k, _ => k s
        | none, some (i, cause, tval) =>
          if isFault cause && i == c.start then
            trapEntry (s.setH (s.h.pop [b.toNat] 0 true)) cause s.h.pc s.h.vstart (BitVec.ofNat 64 tval)
          else takeWords s (some (i, cause)) base b (ascending r)
        | none, none => takeWords s none base b (ascending r)))
where
  /-- The distinct words found, in ascending order. -/
  ascending (r : Run (Nat × Loc)) : List (Nat × Loc) := r.vals.foldl (fun l v => insertWord v.2 l) []

/-- `vatom.unlock` (R264). -/
def execVatomUnlock (a b : BitVec 5) (_y : Bool) (s : State) : Out :=
  let h := s.h
  let c := h.vc 0
  let base := (h.rx a).toNat
  let index := h.source c b.toNat c.sew
  .next (vectorGuard s c (c.atomType && alignedTo c.grp [b] && h.readOk c b.toNat c.grp c.sew && c.predOk false)
    (committed s fun s =>
      let r := lockWords s c base index false true
      let act (s : State) : State :=
        endRunBy vectorCommitted s c [b.toNat] r fun s e =>
          let words := (r.vals.foldl (fun l v => insertWord v.2 l) []).map (·.1)
          let s := releaseLocks s s.cur (words.filter fun w => w ∈ s.h.task.locks)
          let h := s.h
          charge (s.setH { h with task := { h.task with locks := h.task.locks.filter fun w => !(w ∈ words) } })
            c (h.active c) c.sew 1 0 0 e
      if r.hold.isSome then act s else released s 5 act))

end Sys2Proof.Machine
end

