-- ==== Sys2Proof/Machine/Waits.lean ====
section
/-! DEFINITION. Events that end or advance a wait of a hart: stream grants, gathered lines, command records, barriers,
locks and idle (R75, R85, R208, R230, R263, R267). -/

namespace Sys2Proof.Machine

/-- Events happen on a device that is READY; elsewhere they do not occur (R367, R368). -/
def whenReady (s : State) (k : State) : Out := .next (if s.power.state = .ready then k else s)

/-- Let `k` act with hart `n` as the running hart. -/
def onHart (s : State) (n : Nat) (k : State → State) : State :=
  let cur := s.cur
  { k { s with cur := n } with cur }

/-- A step of a waiting hart: it holds a task and the debugger has not halted it. -/
def Hart.waits (h : Hart) : Bool := h.live && !h.dbg.halted

/-- The streams of a `setvl` in step 4 of R83 may have advanced (R85). -/
def execSetvlStreamGrant (hart : Nat) (s : State) : Out :=
  whenReady s (match (s.hart hart).wait with
    | .streams d a first i => if (s.hart hart).waits then onHart s hart fun s => openStrip s d a first i else s
    | _ => s)

/-- A gather once its next element group, 2,048 bits, is ready; none once all of them are (R208). -/
def Gather.advance (g : Gather) : Option Gather :=
  let k := max 1 (2048 / g.width)
  let next := (g.from_ / k + 1) * k
  if next < g.to_ then some { g with from_ := next } else none

/-- The packed lines of the next element group of the oldest gather or probe in flight have arrived (R208). -/
def execIdxLineArrival (hart : Nat) (s : State) : Out :=
  whenReady s (
    let h := s.hart hart
    match h.gathers with
    | [] => s
    | g :: rest => s.setHart hart { h with gathers := g.advance.toList ++ rest })

/-- A `cpe.cwait` or `cpe.cdrain` whose records exist writes x[D] and takes its checkpoint (R230). -/
def execCpeWaitReturn (hart : Nat) (s : State) : Out :=
  let h := s.hart hart
  whenReady s (match h.wait with
    | .cwait d q _ =>
      if h.waits && h.task.settledCommand q.toNat then onHart s hart fun s => giveRecord s d q.toNat else s
    | .cdrain d _ =>
      if h.waits && h.task.drained then onHart s hart fun s => endWait s d (BitVec.ofNat 64 h.task.seq) else s
    | _ => s)

/-- A `bar.wait` whose phase has passed, or whose barrier broke, goes on (R267). -/
def execBarrierWake (hart : Nat) (s : State) : Out :=
  let h := s.hart hart
  whenReady s (match h.wait with
    | .barrier d _ line p _ broken =>
      if h.waits = false then s
      else if broken then onHart s hart fun s => endBarrier s d (0 - 1)
      else
        let b := barrierOf (s.peek line 64)
        if b.passed p.toNat then onHart s hart fun s => endBarrier s d (BitVec.ofNat 64 b.phase) else s
    | _ => s)

/-- The lock unit takes the words that it can (R263 step 4). -/
def execLockWordTake (hart : Nat) (s : State) : Out :=
  whenReady s (match (s.hart hart).wait with
    | .lock todo cause base index =>
      if (s.hart hart).waits then onHart s hart fun s => takeWords s cause base index todo else s
    | _ => s)

/-- A hart in `sys.idle` wakes after a store to its linked line (R75). -/
def execIdleWake (hart : Nat) (s : State) : Out :=
  let h := s.hart hart
  whenReady s (match h.wait with
    | .idle _ woken _ => if h.waits && woken then s.setHart hart { h with wait := .run } else s
    | _ => s)

/-- A hart in `sys.idle` goes on after 65,536 cycles (R75). -/
def execIdleTimeout (hart : Nat) (s : State) : Out :=
  let h := s.hart hart
  whenReady s (match h.wait with
    | .idle _ _ since =>
      if h.waits && decide (65536 ≤ (s.cycle - since).toNat) then s.setHart hart { h with wait := .run } else s
    | _ => s)

end Sys2Proof.Machine
end

