-- ==== Sys2Proof/Machine/EngineWork.lean ====
section
/-! DEFINITION. Events of the Stirrup instances and the copy engines: elements served, bursts, stream refills, and the
records that end commands (R206, R207, R213, R214, R217, R220 to R222, R224 to R229, R232, R244). -/

namespace Sys2Proof.Machine

/-! ## Elements of engine commands -/

/-- Ask a party outside once. -/
def requestOnce (s : State) (o : Owner) (kind : Nat) (loc : Loc) (bytes value op : Nat) : State :=
  if s.out.any fun q => q.owner == o && q.kind == kind && q.loc == loc && q.bytes == bytes then s
  else sendRequest s o kind loc bytes value op

/-- The device asks for the flushing read behind the writes posted to the host, where there are any (R238, R257). -/
def askFlush (s : State) (vi : Nat) : State :=
  if s.posted.isEmpty then s else requestOnce s (.device vi) 2 (.host vi 0) 0 0 0

/-- What serving an element of a command gives. -/
inductive Served where
  | done (s : State)
  | ended (s : State) (cause : BitVec 8)
  | waits (s : State)

/-- Go on with the value of an access of an engine: a cause ends the command, and an answer from outside is awaited. -/
def serveWith {α : Type} (s : State) (o : Owner) (r : Res α) (k : α → Served) : Served :=
  match r with
  | .ok a => k a
  | .cause c => .ended s c
  | .hostFault _ => .ended s Cause.pageAbsent
  | .ats vi page need => .waits (askTranslation s o vi page need)
  | .ext kind loc bytes value op => .waits (requestOnce s o kind loc bytes value op)

/-- The value that each part of an element takes. -/
def spotParts : List Spot → Nat → List (Spot × Nat)
  | [], _ => []
  | p :: rest, v => (p, v % 2 ^ (8 * p.bytes)) :: spotParts rest (v / 2 ^ (8 * p.bytes))

/-- A write of one part on its way to a peer, sent once. -/
def peerWriteOnce (s : State) (o : Owner) (p : Spot) (v : Nat) : State :=
  if s.out.any fun q => q.owner == o && q.kind == 3 && q.loc == p.loc && q.bytes == p.bytes then s
  else s.writeOut o none p.ord p.loc 0 (8 * p.bytes) v

/-- A place in another package. -/
def Loc.isPeer : Loc → Bool
  | .peer .. => true
  | _ => false

/-- Write an element of a command at its places. A peer answers for its part first: its refusal is the element's cause
(R330). -/
def writePlaces (s : State) (o : Owner) (as : List Answer) (l : List Spot) (v : Nat) (k : State → Served) : Served :=
  let parts := spotParts l v
  let answer (p : Spot) : Option Answer := findAnswer as 3 p.loc p.bytes
  match parts.findSome? fun c => (answer c.1).bind fun a => if a.cause = 0 then none else some a.cause with
  | some c => .ended s c
  | none =>
    match parts.filter fun c => c.1.loc.isPeer && (answer c.1).isNone with
    | [] => k (parts.foldl (fun s c => if c.1.loc.isPeer then s else writeSpot s o c.1 c.2) s)
    | missing => .waits (missing.foldl (fun s c => peerWriteOnce s o c.1 c.2) s)

/-- Replace the command numbered `id`. -/
def mapCommand (s : State) (id : Nat) (f : Command → Command) : State :=
  { s with commands := s.commands.map fun c => if c.id = id then f c else c }

/-! ## Rows (R217) -/

/-- The pool places of a slot's bytes, in row order. -/
def slotPlaces (start n swz : Nat) : List Nat := (List.range n).map fun k => swizzle swz (start + k)

/-- The scratchpad bytes at the given places as one number, lowest first. -/
def gatherScratch (sp : Sparse Byte) (os : List Nat) : Nat :=
  os.zipIdx.foldl (fun v c => v + (Sparse.get 0 sp c.1).toNat * 2 ^ (8 * c.2)) 0

/-- Write one number into the scratchpad at the given places, lowest first. -/
def scatterScratch (sp : Sparse Byte) (os : List Nat) (v : Nat) : Sparse Byte :=
  os.zipIdx.foldl (fun sp c => Sparse.set 0 sp c.1 (BitVec.ofNat 8 (v / 2 ^ (8 * c.2)))) sp

/-- Element `e` of `gsp`, or of `ssp` where `scatter` is set (R217). -/
def serveRow (s : State) (c : Command) (scatter : Bool) (tbase rowb nrow idxa spoff spitch swz : Nat) : Served :=
  let o := Owner.command c.id
  let e := c.done
  serveWith s o (c.load s (idxa + 4 * e) 4) fun idx =>
    let places := slotPlaces (spoff + e * spitch) rowb swz
    if nrow ≤ idx then .ended s Cause.bound
    else if places.any fun p => decide (c.by_.spBytes ≤ p) then .ended s Cause.bound
    else
      let core := s.core c.by_.core
      let row := tbase + idx * rowb
      if scatter then
        if places.any (fun p => scratchLost s c.by_.core p 1) then .ended s Cause.poison
        else serveWith s o (c.spots s row rowb false true) fun l =>
          writePlaces s o c.answers l (gatherScratch core.scratch places) .done
      else
        serveWith s o (c.load s row rowb) fun v =>
          .done (s.setCore c.by_.core { core with scratch := scatterScratch core.scratch places v })

/-! ## Bins (R218 to R221) -/

/-- A bin header is malformed (R220). -/
def binMalformed (hdr qcap : Nat) : Bool := decide (qcap < descField hdr 0 4) || descField hdr 8 56 != 0

/-- The origin key of a record as one number (R219). -/
def originKey (record : Nat) : Nat :=
  let path := (List.range 8).foldl (fun acc k => acc * 2 ^ 32 + descField record (0x18 + 4 * k) 4) 0
  ((path * 2 ^ 64 + descField record 0x08 8) * 2 ^ 64 + descField record 0x10 8) * 2 ^ 32 + descField record 0x04 4

/-- A record's first 64 bytes (R218). -/
def recordHead (row elem sord seq : Nat) (path : Sparse (BitVec 32)) : Nat :=
  row + elem * 2 ^ 32 + sord * 2 ^ 64 + seq * 2 ^ 128
    + (List.range 8).foldl (fun acc k => acc + (Sparse.get 0 path k).toNat * 2 ^ (192 + 32 * k)) 0

/-- Element `e` of `sadd` (R220). -/
def serveAdd (s : State) (c : Command) (nrow rowe fmt log2br qbase qcap idxa vala vpitch : Nat) (vsp : Bool) : Served :=
  let o := Owner.command c.id
  let e := c.done
  let vb := rowBytes rowe fmt
  let recb := recordBytes rowe fmt
  serveWith s o (c.load s (idxa + 4 * e) 4) fun r =>
    if nrow ≤ r then .ended s Cause.bound
    else
      let va := vala + e * vpitch
      let vals : Res Nat :=
        if vsp then
          if c.by_.spBytes < va + vb then .cause Cause.bound
          else if scratchLost s c.by_.core va vb then .cause Cause.poison
          else .ok (gatherScratch (s.core c.by_.core).scratch ((List.range vb).map fun k => va + k))
        else c.load s va vb
      serveWith s o vals fun v =>
        let hdr := binAddress qbase qcap recb (r / 2 ^ log2br)
        serveWith s o (binSpots s (c.spots s hdr 64 true true)) fun hl =>
          let h := peekSpots s hl
          let count := descField h 0 4
          if descField h 4 4 ≠ 0 then .waits s
          else if binMalformed h qcap then .ended s Cause.binMalformed
          else if qcap ≤ count then .ended s Cause.binRegionFull
          else
            serveWith s o (binSpots s (c.spots s (hdr + 64 + count * recb) recb false true)) fun rl =>
              let head := recordHead r e c.by_.sord.toNat c.seq c.by_.lpath
              let u := Owner.device c.by_.vi
              .done (writeSpots (writeSpots s u hl (count + 1 + h / 2 ^ 32 * 2 ^ 32)) u rl (head + v * 2 ^ 512))

/-- `add` of an apply on one element (R221). -/
def binAdd (fmt a b : Nat) : Nat :=
  let fl (f : Fmt) : Nat := (addVal f 0 (f.value a) (f.value b) 0).1
  match fmt with
  | 0 => (a + b) % 2 ^ 32
  | 1 => (a + b) % 2 ^ 64
  | 2 => fl fp32
  | 3 => fl fp64
  | 4 => fl fp16
  | _ => fl bf16

/-- A row with a record's values added (R221). -/
def addRow (fmt rowe row vals : Nat) : Nat :=
  let w := 8 * (addSize fmt).getD 1
  (List.range rowe).foldl (fun acc j =>
    acc + binAdd fmt (row / 2 ^ (w * j) % 2 ^ w) (vals / 2 ^ (w * j) % 2 ^ w) * 2 ^ (w * j)) 0

/-- The first 64 bytes of the records of the given slots, in that order: a record's key is read before its values (R221, R223). -/
def readHeads (s : State) (c : Command) (hdr recb : Nat) (slots : List Nat) : Res (List Nat) :=
  slots.foldr (fun k acc => (binSpots s (c.spots s (hdr + 64 + k * recb) 64 true true)).bind fun l =>
    acc.map fun rest => peekSpots s l :: rest) (.ok [])

/-- The places of a record whose bytes may be poisoned; none where they do not translate. -/
def recordPlaces (s : State) (c : Command) (hdr recb slot : Nat) : List Spot :=
  match enginePlaces s (stirrupUnitFor s c.by_.vi) c.by_.vi c.answers c.ordered (hdr + 64 + slot * recb) recb true true with
  | .ok l => l
  | _ => []

/-- A block of a place is poisoned, where the place has its home here. -/
def poisonPlace (s : State) (p : Spot) : State :=
  match p.loc with
  | .home a => { s with mem := (List.range (lineCount a p.bytes)).foldl (fun m k => m.poisonCopy (a / 64 * 64 + 64 * k)) s.mem }
  | _ => s

/-- A record that an apply leaves goes to a slot, its poison with it. -/
def moveRecord (s : State) (c : Command) (hdr recb : Nat) (v : Nat × Bool) (slot : Nat) : State :=
  let l := recordPlaces s c hdr recb slot
  let s := writeSpots s (.device c.by_.vi) l v.1
  if v.2 then l.foldl poisonPlace s else s

/-- Insert a slot by its key. -/
def insertKey (x : Nat × Nat) : List (Nat × Nat) → List (Nat × Nat)
  | [] => [x]
  | y :: l => if x.1 ≤ y.1 then x :: y :: l else y :: insertKey x l

/-- Write COUNT and clear BUSY (R221). -/
def closeBin (s : State) (c : Command) (hdr count : Nat) : State :=
  match enginePlaces s (stirrupUnitFor s c.by_.vi) c.by_.vi c.answers c.ordered hdr 8 true true with
  | .ok l => writeSpots s (.device c.by_.vi) l count
  | _ => s

/-- An apply that has taken its bin ends before its record `done`: the records left go to the first slots in key order
(R221). A record that cannot be read goes with the others: its bytes move, and its poison with them. -/
def stopApply (s : State) (c : Command) (rowe fmt qbase qcap bin : Nat) : State :=
  if c.started = false ∨ c.cause.isSome = true ∨ c.order.length ≤ c.done then s
  else
    let recb := recordBytes rowe fmt
    let hdr := binAddress qbase qcap recb bin
    let left := c.order.drop c.done
    let vs := left.map fun k => let l := recordPlaces s c hdr recb k; (peekSpots s l, spotsPoisoned s l)
    closeBin (vs.zipIdx.foldl (fun s v => moveRecord s c hdr recb v.1 v.2) s) c hdr left.length

/-- The apply takes its bin's header and sorts its records (R221). -/
def startApply (s : State) (c : Command) (rowe fmt qbase qcap bin : Nat) : Served :=
  let o := Owner.command c.id
  let recb := recordBytes rowe fmt
  let hdr := binAddress qbase qcap recb bin
  serveWith s o (binSpots s (c.spots s hdr 64 true true)) fun hl =>
    let h := peekSpots s hl
    if descField h 4 4 ≠ 0 then .waits s
    else if binMalformed h qcap then .ended s Cause.binMalformed
    else
      let slots := List.range (descField h 0 4)
      serveWith s o (readHeads s c hdr recb slots) fun vs =>
        let order := ((vs.zip slots).foldl (fun l v => insertKey (originKey v.1, v.2) l) []).map (·.2)
        let s := if order.isEmpty then s else writeSpots s (.device c.by_.vi) hl (h + 2 ^ 32)
        .done (mapCommand s c.id fun c => { c with started := true, order })

/-- The next record of a started apply (R221); the last one empties the bin. -/
def serveApply (s : State) (c : Command) (tbase rowe fmt qbase qcap bin : Nat) : Served :=
  let o := Owner.command c.id
  let recb := recordBytes rowe fmt
  let hdr := binAddress qbase qcap recb bin
  let vb := rowBytes rowe fmt
  serveWith s o ((recordSpots s c hdr recb (c.order.getD c.done 0)).map (peekSpots s)) fun record =>
    let row := tbase + descField record 0 4 * vb
    serveWith s o (c.spots s row vb true true) fun l =>
      serveWith s o (readSpots s [] c.answers l) fun t =>
        writePlaces s o c.answers l (addRow fmt rowe t (record / 2 ^ 512)) fun s =>
          .done (if c.order.length ≤ c.done + 1 then closeBin s c hdr 0 else s)

/-! ## Service -/

/-- Serve the next element of a command. -/
def serveElement (s : State) (c : Command) : Served :=
  match c.kind with
  | .gsp tbase rowb nrow idxa spoff spitch swz => serveRow s c false tbase rowb nrow idxa spoff spitch swz
  | .ssp tbase rowb nrow idxa spoff spitch swz => serveRow s c true tbase rowb nrow idxa spoff spitch swz
  | .sadd _ nrow rowe fmt log2br qbase qcap idxa vala vpitch vsp =>
    serveAdd s c nrow rowe fmt log2br qbase qcap idxa vala vpitch vsp
  | .bapply tbase _ rowe fmt _ qbase qcap bin => serveApply s c tbase rowe fmt qbase qcap bin

/-- A command ends with a cause at its next element: an apply leaves its bin in order first. -/
def endCommand (s : State) (c : Command) (cause : BitVec 8) : State :=
  let s := match c.kind with
    | .bapply _ _ rowe fmt _ qbase qcap bin => stopApply s c rowe fmt qbase qcap bin
    | _ => s
  mapCommand s c.id fun c => { c with cause := some cause }

/-- The command is an apply that has not yet taken its bin. -/
def Command.starting (c : Command) : Bool :=
  match c.kind with
  | .bapply .. => !c.started
  | _ => false

/-- Serve the next element of a command, or the start of an apply. `done` tells that the command has moved on. -/
def serveNext (s : State) (c : Command) : Served :=
  let r := match c.kind with
    | .bapply _ _ rowe fmt _ qbase qcap bin =>
      if c.started then serveElement s c else startApply s c rowe fmt qbase qcap bin
    | _ => serveElement s c
  match r with
  | .done s => .done (mapCommand s c.id fun x => { x with done := if c.starting then x.done else x.done + 1, answers := [] })
  | .ended s cause => .done (endCommand s c cause)
  | .waits s => .waits s

/-! ## Shares (R222, R225, R312) -/

/-- Commands in the order in which instance `k` takes their elements. -/
def serviceOrder (s : State) (k : Nat) (cs : List Command) : List Command :=
  cs.foldl (fun l c =>
    let before (x : Command) : Bool := claimBefore s Vi.sts (s.build.engines + k) x.claim c.claim
    l.takeWhile before ++ c :: l.dropWhile before) []

/-- The first of some commands that can go on does so at instance `k`, and is charged an element. One that waits, for a busy
bin or an answer, holds no request slot (R222). -/
def serveFirst (k : Nat) : List Command → State → Option State × State
  | [], s => (none, s)
  | c :: rest, s =>
    match serveNext s c with
    | .done s =>
      let s := mapCommand s c.id fun x => { x with blocked := false }
      (some (chargeUnit s (s.build.engines + k) c.by_.vi c.by_.queue 1), s)
    | .ended s _ => (some s, s)
    | .waits s => serveFirst k rest (mapCommand s c.id fun x => { x with blocked := true })

/-- Instance `k` accepts up to `fuel` elements. -/
def serveInstance (k : Nat) : Nat → State → State
  | 0, s => s
  | fuel + 1, s =>
    match serveFirst k (serviceOrder s k (s.commands.filter fun c => !c.finished && c.servedAt s k)) s with
    | (some s, _) => serveInstance k fuel s
    | (none, s) => s

/-- The Stirrup instance numbered `unit` accepts up to `count` elements of the commands in flight, among interfaces by their
Stirrup shares, and within one among queues by weighted deficit (R206, R217, R220 to R222). -/
def execStirrupElementService (unit count : Nat) (s : State) : Out := whenReady s (serveInstance unit count s)

/-! ## Records and completions -/

/-- A hart that runs the task of an interface. -/
def hartOfTask (s : State) (vi : Nat) (task : Word) : Option Nat :=
  (s.harts.find? fun c => c.2.live && c.2.task.vi == vi && c.2.task.id == task).map (·.1)

/-- The save areas named by the SAVED slots of an interface's queues, each with its queue and entry (R281). -/
def savedSlots (s : State) (vi : Nat) : List (Nat × Nat × Nat) :=
  (List.range 256).flatMap fun q =>
    match queueDesc s vi q with
    | none => []
    | some d => (List.range (d.tail - d.head)).filterMap fun k =>
      match deviceRead s vi (d.rbase + 128 * ((d.head + k) % d.rcap)) 32 with
      | .ok v => if (v / 2 ^ 216).testBit 0 then some (v % 2 ^ 64, q, d.head + k) else none
      | _ => none

/-- The save areas of an interface's switched-out tasks, queued or held for a full queue (R279, R281). -/
def savedAreas (s : State) (vi : Nat) : List Nat :=
  (savedSlots s vi).map (·.1)
    ++ (s.held.filter fun h => h.vi == vi && (slotField h.slot 0x1B 1).testBit 0).map fun h => slotDw h.slot 0

/-- The save area of a switched-out task. -/
def savedArea (s : State) (vi : Nat) (task : Word) : Option Nat :=
  (savedAreas s vi).find? fun a => match deviceRead s vi (a + 0x20) 8 with
    | .ok v => v == task.toNat
    | _ => false

/-- An entry of the saved completion table (R307). -/
def savedEntry (n : Nat) (cause : BitVec 8) : Nat := n % 2 ^ 48 + cause.toNat * 2 ^ 48 + 2 ^ 63

/-- Write the record of a command into its task's completion table, and wake the hart if it waits for one (R214, R226). -/
def writeRecord (s : State) (i : Issuer) (seq n : Nat) (copy : Bool) (cause : BitVec 8) : State :=
  match hartOfTask s i.vi i.task with
  | some k =>
    let h := s.hart k
    let ctab := match Sparse.find h.task.ctab (seq % 256) with
      | some e => if e.seq = seq then Sparse.put h.task.ctab (seq % 256) { e with copy, n, cause, complete := true } else h.task.ctab
      | none => h.task.ctab
    s.setHart k { h with task := { h.task with ctab }, wait := if h.wait = .command then .run else h.wait }
  | none =>
    match savedArea s i.vi i.task with
    | some area => match deviceWrite s i.vi (area + 0x600 + 8 * (seq % 256)) (savedEntry n cause) 8 with
      | .ok s' => s'
      | _ => s
    | none => s

/-- A write of an owner to a peer is not yet acknowledged. -/
def writesPending (s : State) (o : Owner) : Bool := s.out.any fun r => r.owner == o && r.kind == 3

/-- The release of a command at its scope has been performed, or what it still asks for (R213, R238, R239): the writes of the
command, its records and headers among them, and those that its task made before it. -/
def engineReleased (s : State) (o : Owner) (i : Issuer) (release : Bool) (scope : BitVec 2) (as : List Answer) (k : State) : State :=
  if release && scope == 3 then
    if writesPending s o || writesPending s (.device i.vi) || peerWritePending s i.vi i.task then s
    else if s.posted.isEmpty || as.any (fun a => a.kind == 2) then k
    else requestOnce s o 2 (.host i.vi 0) 0 0 0
  else k

/-- An engine command ends: release, record, counter (R213, R214). -/
def execEngineCommandComplete (command : Nat) (s : State) : Out :=
  whenReady s (match s.commands.find? fun c => c.id == command with
    | none => s
    | some c =>
      if c.finished then
        engineReleased s (.command c.id) c.by_ c.release c.scope c.answers (
          let s := writeRecord s c.by_ c.seq c.done false (c.cause.getD 0)
          let s := { s with commands := s.commands.filter fun x => x.id != c.id }
          decrementAt s c.by_.vi 0 c.by_.queue c.joinp none)
      else s)

/-! ## Copies (R224, R225, R228, R229) -/

/-- The I/O die through which a byte of a copy is reached: none for HBM4E and for an address that fails; the host window is
reached through IOD0 whatever the host answers (R224, R323, R327). -/
def Copy.ioDie (c : Copy) (s : State) (va : Nat) (w : Bool) : Option Nat :=
  if (s.vi c.by_.vi).inWindow (va % 2 ^ 64) then some 0
  else match translate s deviceUnit c.by_.vi (va % 2 ^ 64) (!w) w none with
    | .ok p => match p.loc with
      | .home a => if isHbm a then none else some (p.loc.ioDie s.build)
      | l => some (l.ioDie s.build)
    | _ => none

/-- The I/O die of every page of `[va, va + n)`, where they all have one and the same (R224). -/
def Copy.rangeDie (c : Copy) (s : State) (va n : Nat) (w : Bool) : Option Nat :=
  (c.ioDie s va w).filter fun d =>
    (List.range (n / 4096 + 1)).all fun k =>
      let at_ := va / 4096 * 4096 + 4096 * (k + 1)
      decide (va + n ≤ at_) || c.ioDie s at_ w == some d

/-- The engines that may serve a copy: those of the I/O die through which both whole ranges are reached, or of the issuing
core's compute die (R224). -/
def Copy.engines (c : Copy) (s : State) : List Nat :=
  let die := (List.range 6).map fun k => 6 * (c.by_.core / 256) + k
  match c.rangeDie s c.src c.len false, c.rangeDie s c.dst c.len true with
  | some i, some j => if i = j then (List.range 4).map fun k => 6 * s.build.dies + 4 * i + k else die
  | _, _ => die

/-- Every byte is moved, or a cause ended the copy. -/
def Copy.finished (c : Copy) : Bool := c.cause.isSome || decide (c.len ≤ c.wptr)

/-- The engine may move the copy's next burst (R224, R225). -/
def Copy.waitsFor (c : Copy) (s : State) (engine : Nat) : Bool :=
  !c.finished && match c.engine with
    | some e => e == engine
    | none => engine ∈ c.engines s

/-- Replace the copy numbered `id`. -/
def mapCopy (s : State) (id : Nat) (f : Copy → Copy) : State :=
  { s with copies := s.copies.map fun c => if c.id = id then f c else c }

/-- ORD of the copy is not 0. -/
def Copy.ordered (c : Copy) : Bool := c.acquire || c.release

/-- Checked places of bytes of a copy (R228). -/
def Copy.places (c : Copy) (s : State) (va n : Nat) (r w : Bool) : Res (List Spot) :=
  enginePlaces s (fun _ => deviceUnit) c.by_.vi c.answers c.ordered va n r w

/-- The write pointer of a running copy, where its task's table shows it (R227, R229). -/
def showPointer (s : State) (c : Copy) (wptr : Nat) : State :=
  match hartOfTask s c.by_.vi c.by_.task with
  | some k =>
    let h := s.hart k
    match Sparse.find h.task.ctab (c.seq % 256) with
    | some e => if e.seq = c.seq then
        s.setHart k { h with task := { h.task with ctab := Sparse.put h.task.ctab (c.seq % 256) { e with n := wptr } } }
      else s
    | none => s
  | none => s

/-- The copy has written every byte below `wptr` (R229); `unit` is the source unit that it holds. -/
def setPointer (s : State) (c : Copy) (wptr : Nat) (cause : Option (BitVec 8)) (unit : Option (Nat × Nat)) : State :=
  showPointer (mapCopy s c.id fun c => { c with wptr, cause, answers := [], unit, line := none }) c wptr

/-- The source units that hold `n` bytes at `a`, all in one block, as one number of whole units: a unit that the copy holds is
not read again (R229). -/
def Copy.units (c : Copy) (s : State) (a n : Nat) : Res Nat :=
  let first := a / 8
  let count := (a + n - 1) / 8 - first + 1
  match c.unit.filter fun u => u.1 == first with
  | some u =>
    if count = 1 then .ok u.2
    else (c.places s (8 * (first + 1)) (8 * (count - 1)) true false).bind fun l =>
      (readSpots s [] c.answers l).map fun v => u.2 + v * 2 ^ 64
  | none => (c.places s (8 * first) (8 * count) true false).bind fun l => readSpots s [] c.answers l

/-- Source bytes of a copy from offset `j`, all of one block, checked and read: whole units. `also` are further checks of the byte at
`j`, which come before the poison of the source (R228). -/
def Copy.source (c : Copy) (s : State) (j n : Nat) (also : Res Unit := .ok ()) : Res Nat :=
  let a := (c.src + j) % 2 ^ 64
  (c.places s a n true false).bind fun l => also.bind fun _ =>
    if spotsPoisoned s l then .cause Cause.copyPoison else c.units s a n

/-- The unit that ends inside the bytes `n` at `a`, of the units `v`, when they do not end with it. -/
def lastUnit (a n v : Nat) : Option (Nat × Nat) :=
  if (a + n) % 8 = 0 then none else some ((a + n) / 8, v / 2 ^ (64 * ((a + n) / 8 - a / 8)) % 2 ^ 64)

/-- Write `n` bytes of a copy from offset `j`, all of one destination line: the write pointer moves past them, and `cause`
ends the copy there. A line on its way to a peer is held until the peer has answered. -/
def copyWrite (s : State) (c : Copy) (j n v : Nat) (cause : Option (BitVec 8)) (unit : Option (Nat × Nat)) : Served :=
  let o := Owner.copy c.id
  if n = 0 then .done (setPointer s c j cause unit)
  else serveWith s o (c.places s (c.dst + j) n false true) fun d =>
    match writePlaces s o [] d v fun s => .done (setPointer s c (j + n) cause unit) with
    | .waits s => .waits (mapCopy s c.id fun c =>
        { c with line := d.head?.map fun p => { bytes := n, value := v, loc := p.loc, cause, unit } })
    | r => r

/-- A destination line that a peer has been sent (R229, R330): the peer's answer ends it. -/
def copyAnswered (s : State) (c : Copy) (j : Nat) (l : CopyLine) : Served :=
  match findAnswer c.answers 3 l.loc l.bytes with
  | none => .waits s
  | some a => if a.cause = 0 then .done (setPointer s c (j + l.bytes) l.cause l.unit) else .ended s a.cause

/-- Move the `n` bytes of a copy from offset `j` that are left of a destination line: they are read from at most two source
blocks and checked before the first of them is written, so that a cause leaves the bytes from its own on unchanged (R228,
R229). -/
def copyLine (s : State) (c : Copy) (j n : Nat) : Served :=
  let o := Owner.copy c.id
  let a := (c.src + j) % 2 ^ 64
  let n1 := min n (64 - a % 64)
  let cut (v k : Nat) : Nat := v / 2 ^ (8 * (a % 8)) % 2 ^ (8 * k)
  match c.source s j n1 ((c.places s (c.dst + j) n false true).map fun _ => ()) with
  | .cause x => .done (setPointer s c j (some x) none)
  | .hostFault _ => .done (setPointer s c j (some Cause.pageAbsent) none)
  | .ok v1 =>
    if n1 = n then copyWrite s c j n (cut v1 n) none (lastUnit a n v1)
    else match c.source s (j + n1) (n - n1) with
      | .cause x => copyWrite s c j n1 (cut v1 n1) (some x) none
      | .hostFault _ => copyWrite s c j n1 (cut v1 n1) (some Cause.pageAbsent) none
      | .ok v2 => copyWrite s c j n (cut v1 n1 + v2 % 2 ^ (8 * (n - n1)) * 2 ^ (8 * n1)) none
          (lastUnit (a + n1) (n - n1) v2)
      | r => serveWith s o r fun _ => .waits s
  | r => serveWith s o r fun _ => .waits s

/-- Move whole destination lines of a copy until `budget` bytes are used: the state and the bytes moved (R225, R229). -/
def copyLines (id : Nat) : Nat → Nat → Nat → State → State × Nat
  | 0, _, moved, s => (s, moved)
  | fuel + 1, budget, moved, s =>
    match s.copies.find? fun c => c.id == id with
    | none => (s, moved)
    | some c =>
      let n := min (64 - (c.dst + c.wptr) % 64) (c.len - c.wptr)
      if c.finished || decide (budget < moved + n) then (s, moved)
      else match (match c.line with
          | some l => copyAnswered s c c.wptr l
          | none => copyLine s c c.wptr n) with
        | .done s' => copyLines id fuel budget (moved + (((s'.copies.find? fun c => c.id == id).map (·.wptr)).getD c.wptr - c.wptr)) s'
        | .ended s' cause => (setPointer s' c c.wptr (some cause) none, moved)
        | .waits s' => (s', moved)

/-- A copy ends: release, record, counter (R228). -/
def execCopyComplete (copy : Nat) (s : State) : Out :=
  whenReady s (match s.copies.find? fun c => c.id == copy with
    | none => s
    | some c =>
      if c.finished then
        engineReleased s (.copy c.id) c.by_ c.release c.scope c.answers (
          let s := writeRecord s c.by_ c.seq c.wptr true (c.cause.getD 0)
          let s := { s with copies := s.copies.filter fun x => x.id != c.id }
          decrementAt s c.by_.vi 0 c.by_.queue c.joinp none)
      else s)

/-! ## Stream refills (R203, R232) -/

/-- How many pattern elements a window holds beyond the position (R232). -/
def streamRoom (h : Hart) (t : Stream) : Nat := 4 * h.vlenb * 8 / 2 ^ t.ewc * h.span.length

/-- Fill `fuel` more pattern elements of stream `k` of hart `n`. A cause is recorded against its element, whose value is
then open. -/
def refill (n k : Nat) : Nat → State → State
  | 0, s => s
  | fuel + 1, s =>
    let h := s.hart n
    match h.streams[k]? with
    | none => s
    | some t =>
      let j := t.first + t.filled.length
      if t.count ≤ j ∨ t.pos + streamRoom h t ≤ j then s
      else
        let w := 2 ^ t.ewc / 8
        let places := onRefill s n fun s => checkSpots s (t.address j) w (loads false)
        let r := places.bind fun l => readSpots s h.sb h.streamAnswers l
        let spent (a : Answer) : Bool := a.kind == 4 || match places with
          | .ok l => l.any fun p => p.loc == a.loc
          | _ => false
        let put (s : State) (v : Nat) (f : Option (BitVec 8)) : State :=
          let h := s.hart n
          let t' := { t with filled := t.filled ++ [v], faults := t.faults ++ f.toList.map fun c => (j, c) }
          s.setHart n { h with streams := h.streams.set k t', streamAnswers := h.streamAnswers.filter fun a => !spent a }
        let fault (c : BitVec 8) : State := let (v, s) := s.draw; put s (v % 2 ^ (8 * w)) (some c)
        match r with
        | .ok v => refill n k fuel (put s v none)
        | .cause c => refill n k fuel (fault c)
        | .hostFault _ => refill n k fuel (fault Cause.pageAbsent)
        | .ats vi page need => askTranslation s (.stream n) vi page need
        | .ext kind loc bytes value op => requestOnce s (.stream n) kind loc bytes value op
where
  /-- What a check gives for a refill of a stream of hart `n`, which has its own answers. -/
  onRefill (s : State) (n : Nat) (f : State → Res (List Spot)) : Res (List Spot) :=
    f ({ s with cur := n }.setHart n { s.hart n with answers := (s.hart n).streamAnswers })

/-! ## What an engine moves next (R224, R225) -/

/-- A stream refill that waits: hart `n` has a stream numbered `k` with room in its window. -/
def refillWaits (s : State) (n k : Nat) : Bool :=
  let h := s.hart n
  h.live && match h.streams[k]? with
    | some t => decide (t.first + t.filled.length < t.count) && decide (t.first + t.filled.length < t.pos + streamRoom h t)
    | none => false

/-- An item that waits for a copy engine. -/
inductive Item where
  | copy (c : Copy)
  | refill (hart stream : Nat)

/-- The claim of an item. -/
def Item.claim (i : Item) (s : State) : Claim :=
  match i with
  | .copy c => { vi := c.by_.vi, queue := c.by_.queue, age := c.id }
  | .refill n k =>
    let h := s.hart n
    { vi := h.task.vi, queue := h.task.queue, age := (h.streams[k]?.map (·.age)).getD 0 }

/-- The items that wait for an engine: copies, and on a compute die the stream refills of its cores (R224, R225). -/
def engineItems (s : State) (engine : Nat) : List Item :=
  ((s.copies.filter fun c => c.waitsFor s engine).map Item.copy)
    ++ (s.harts.filter fun c => decide (engine < 6 * s.build.dies) && c.1 / 1024 == engine / 6).flatMap fun c =>
      ((List.range 4).filter (refillWaits s c.1)).map fun k => Item.refill c.1 k

/-- The item that an engine moves next (R225). -/
def nextItem (s : State) (engine : Nat) : Option Item :=
  match engineItems s engine with
  | [] => none
  | i :: rest => some (rest.foldl (fun a b => if claimBefore s Vi.ces engine (b.claim s) (a.claim s) then b else a) i)

/-- The bytes that a stream has filled. -/
def filledBytes (s : State) (n k : Nat) : Nat := ((s.hart n).streams[k]?.map fun t => t.filled.length * (2 ^ t.ewc / 8)).getD 0

/-- A burst of at most `bytes` bytes of an item on an engine, charged to its queue (R225, R228, R229, R232). -/
def burst (s : State) (engine : Nat) (i : Item) (bytes : Nat) : State :=
  match i with
  | .copy c =>
    let s := mapCopy s c.id fun c => { c with engine := some engine }
    let (s, n) := copyLines c.id 65 (max 64 (min bytes 4096)) 0 s
    chargeUnit s engine c.by_.vi c.by_.queue n
  | .refill n k =>
    let t := (s.hart n).task
    let size := ((s.hart n).streams[k]?.map fun t => 2 ^ t.ewc / 8).getD 1
    let s' := refill n k (max 1 (min bytes 4096 / size)) s
    chargeUnit s' engine t.vi t.queue (filledBytes s' n k - filledBytes s n k)

/-- A copy engine moves its next burst, of at most `bytes` bytes (R225, R228, R229, R232). -/
def execCopyBurst (engine bytes : Nat) (s : State) : Out :=
  whenReady s (match nextItem s engine with
    | none => s
    | some i => burst s engine i bytes)

/-- The engine of the core's die whose next item is the refill of a stream. -/
def refillEngine (s : State) (hart stream : Nat) : Option Nat :=
  ((List.range 6).map fun k => 6 * (hart / 1024) + k).find? fun e => match nextItem s e with
    | some (.refill n k) => n == hart && k == stream
    | _ => false

/-- A burst of at most `count` pattern elements of a bound stream, by the engine of the core's die that it is the next item
of; while it is of none, other items go first (R224, R225, R232). -/
def execStreamRefill (hart stream count : Nat) (s : State) : Out :=
  whenReady s (match refillEngine s hart stream with
    | none => s
    | some e =>
      let size := ((s.hart hart).streams[stream]?.map fun t => 2 ^ t.ewc / 8).getD 1
      burst s e (.refill hart stream) (count * size))

end Sys2Proof.Machine
end

