-- ==== Sys2Proof/Machine/Checking.lean ====
section
/-! DEFINITION. Events of the array, the Cinch checkers and Teasel, and what a lasting fault does to a core (R91, R183,
R277, R331 to R335, R339, R340). -/

namespace Sys2Proof.Machine

/-! ## A core leaves a span (R91, R277) -/

/-- Keys `position · width + slot` after position `q` has left: the positions above it renumber down. -/
def dropPosition {α : Type} (width q : Nat) (m : Sparse α) : Sparse α :=
  (m.filter fun c => c.1 / width != q).map fun c => if q < c.1 / width then (c.1 - width, c.2) else c

/-- The files without span position `q`. -/
def Files.without (f : Files) (q : Nat) : Files := { f with v := dropPosition 32 q f.v, p := dropPosition 16 q f.p }

/-- What has been written, without span position `q`. A position below `m` that another core's bytes moved to counts as
written whole, since the task's save area holds other bytes for it (R308). -/
def Dirty.without (d : Dirty) (q m vlenb : Nat) : Dirty :=
  let slots (w k : Nat) : List Nat := (List.range (m - q)).flatMap fun j => (List.range k).map fun x => (q + j) * w + x
  { d with
    hwmb := (slots 48 48).foldl (fun h k => Sparse.set 0 h k vlenb) (dropPosition 48 q d.hwmb)
    preds := (slots 24 16).foldl (fun h k => Sparse.set false h k true) (dropPosition 24 q d.preds) }

/-- A list without its item `q`. -/
def dropItem {α : Type} (l : List α) (q : Nat) : List α := l.take q ++ l.drop (q + 1)

/-- Items (position, x) after position `q` has left. -/
def shiftPositions {α : Type} (q : Nat) (l : List (Nat × α)) : List (Nat × α) :=
  (l.filter fun c => c.1 != q).map fun c => if q < c.1 then (c.1 - 1, c.2) else c

/-- The register file without what a gather in flight has at and above span position `q` (R91, R209). -/
def Gather.undo (g : Gather) (q : Nat) (v : Sparse Nat) : Sparse Nat :=
  (g.old.zip g.new).foldl (fun v c =>
    if q ≤ c.1.1 / 32 ∧ Sparse.get 0 v c.1.1 = c.2.2 then Sparse.set 0 v c.1.1 c.1.2 else v) v

/-- The gather without span position `q` and those above, whose first element is `i`; none where nothing of it is still to come. -/
def Gather.below (g : Gather) (q i : Nat) : Option Gather :=
  if g.from_ < min g.to_ i then
    some { g with
      to_ := min g.to_ i
      old := g.old.filter fun c => decide (c.1 / 32 < q)
      new := g.new.filter fun c => decide (c.1 / 32 < q) }
  else none

/-- Hart `n` loses span position `q` (R277): what each position holds goes with it, and the strip is trimmed where it
reaches past the position (R91). The slot that leaves is charged to its queue and interface (R282, R314). -/
def leaveSpan (s : State) (n q : Nat) : State :=
  let s := giveLocksBack (chargeSlots s n 1) n
  let h := s.hart n
  let i := q * (h.vlenb * 8 / vtypeSew h.strip.vtype * vtypeGrp h.strip.vtype)
  let wait : Wait := match h.wait with
    | .lock .. => .run
    | w => w
  let s := s.setHart n { h with
    wait
    files := { h.files with v := h.gathers.reverse.foldl (fun v (g : Gather) => g.undo q v) h.files.v }.without q
    gathers := h.gathers.filterMap fun (g : Gather) => g.below q i
    ckpt := { h.ckpt with files := h.ckpt.files.without q }
    dirty := h.dirty.without q (if h.task.resumed then h.span.length - 1 else 0) h.vlenb
    marks := { h.marks with checks := shiftPositions q h.marks.checks }
    lost := shiftPositions q h.lost
    span := dropItem h.span q
    slots := dropItem h.slots q
    shrunk := some (match h.shrunk with
      | some k => min k q
      | none => q) }
  if i < h.strip.vl.toNat then onHart s n fun s => trimAt s i Cause.spanShrink else s

/-! ## Lasting faults (R339, R340) -/

/-- WINDOW in nanoseconds, where 0 reads as 600 s (R339). -/
def RelCfg.span (r : RelCfg) : Nat := (if r.window = 0 then 600 else r.window.toNat) * 10 ^ 9

/-- THRESH, where 0 reads as 4 (R339). -/
def RelCfg.lasting (r : RelCfg) : Nat := if r.thresh = 0 then 4 else r.thresh.toNat

/-- The task on hart `n` leaves its slot by a commit save with SWC 0xE0. -/
def switchOut (s : State) (n : Nat) : State :=
  s.setHart n { s.hart n with wait := .save false Cause.preempt s.cycle, preempt := none }

/-- What the loss of its home core does to a task (R340). -/
def loseHome (s : State) (n : Nat) (f : Failure) : State :=
  let s := failInterval s n f
  if (s.hart n).live then switchOut s n else s

/-- What the loss of span position `q` does to a task (R340): with an instruction in flight that never trims, the open
interval fails first, and what is left of it meets the smaller span (R147). -/
def losePosition (s : State) (n q : Nat) (f : Failure) : State :=
  let h := s.hart n
  if h.task.start.tiles = 0 then
    let s := if h.whole then failInterval s n f else s
    if (s.hart n).live then leaveSpan s n q else s
  else kill s n Cause.coreRetired h.pc 0 h.trap.handler

/-- How a fault of a unit makes an interval fail: a macro loses a block, and a lane or row mismatches. -/
def FaultUnit.failure : FaultUnit → Failure
  | .ram .. => .lostBlock
  | _ => .mismatch

/-- A core goes out of service (R340): each task that uses it loses it, and VI 0's event ring has a record. -/
def retireCore (s : State) (core : Nat) (f : Failure) : State :=
  if s.oos.getLsbD core then s
  else
    let s := { s with oos := s.oos ||| (1#1024 <<< core) }
    let s := s.harts.foldl (fun s c =>
      let h := s.hart c.1
      if h.live = false then s
      else match h.span.zipIdx.find? fun x => x.1 == core with
        | none => s
        | some (_, q) => if q = 0 then loseHome s c.1 f else losePosition s c.1 q f) s
    eventRecord s 0 0 0 0 Cause.coreRetired 0 0 (4 * core)

/-- The core that a unit belongs to. -/
def FaultUnit.core : FaultUnit → Nat
  | .lane c _ => c
  | .row c _ => c
  | .cinchLane c => c
  | .cinchRow c => c
  | .ram c _ => c

/-- A unit has a lasting fault: its events within the trailing window reach THRESH (R339). -/
def lastingFault (s : State) (u : FaultUnit) : Bool :=
  decide (s.relcfg.lasting ≤ (s.events.filter fun e => e.1 == u && decide (s.uptime ≤ e.2 + s.relcfg.span)).length)

/-- A unit of a core that has a lasting fault takes the core out of service (R340). -/
def reviewFault (s : State) (u : FaultUnit) : State :=
  if lastingFault s u && decide (u.core < s.build.cores) then retireCore s u.core u.failure else s

/-- Every unit is judged again, after a write of RELCFG: counts hold until reset (R339). -/
def reviewFaults (s : State) : State := ((s.events.map (·.1)).eraseDups).foldl reviewFault s

/-- Count one event against a unit; the event that makes its fault a lasting one retires the core (R339, R340). -/
def countFault (s : State) (u : FaultUnit) : State :=
  reviewFault { s with events := s.events ++ [(u, s.uptime)] } u

/-! ## The array (R178, R183, R332) -/

/-- The free array of a core takes the head entry of the hart with the least charge by weight (R183). -/
def execArrayAccept (core : Nat) (s : State) : Out :=
  whenReady s (
    let users := (arrayUsers s core).filter fun n => (s.hart n).span.all fun c => arrayFree s c
    let v := arrayCharge s core
    match users with
    | [] => s
    | n0 :: rest => acceptEntry s (rest.foldl (fun a b => if v b < v a then b else a) n0))

/-- The hart whose operation a core's array performs and has not finished. -/
def arrayHolder (s : State) (core : Nat) : Option Nat :=
  (arrayUsers s core).find? fun n => match (s.hart n).array with
    | e :: _ => e.accepted && !(core ∈ e.reported)
    | [] => false

/-- A core's array finishes its share of the operation that it performs, the Cinch row's check of that share included
(R178, R332); on a mismatch the checked row and the Cinch row each have an event (R333). -/
def execArrayRetire (core : Nat) (mismatch : Bool) (s : State) : Out :=
  whenReady s (match arrayHolder s core with
    | none => s
    | some n =>
      let h := s.hart n
      let row := ((h.array.head?.map (·.rows)).getD []).getD (h.span.findIdx (· == core)) 0
      let s := reportShare s n core mismatch
      if mismatch then
        countFault (countFault (countEvent s core 6 1) (.row core row)) (.cinchRow core)
      else s)

/-! ## The Cinch lane (R331, R333) -/

/-- The oldest check of the hart's interval ends (R331); a mismatch fails the interval and counts against the lane and the
Cinch lane (R333). -/
def execCinchLaneCheck (hart : Nat) (mismatch : Bool) (s : State) : Out :=
  whenReady s (
    let h := s.hart hart
    match h.marks.checks with
    | [] => s
    | (q, lane) :: rest =>
      let failed := if mismatch then h.marks.failed.or (some Failure.mismatch) else h.marks.failed
      let s := s.setHart hart { h with marks := { h.marks with checks := rest, failed } }
      let core := h.span.getD q 0
      if mismatch then
        countFault (countFault (countEvent s core 6 1) (.lane core lane)) (.cinchLane core)
      else s)

/-! ## Teasel (R334, R335) -/

/-- What Teasel makes of a block (R334). -/
inductive Repair where
  | intact | corrected | lost
  deriving DecidableEq, Repr

/-- The action of R334 for the failing words and columns. -/
def repairOf (words cols : List Nat) : Repair :=
  match words, cols with
  | [], [] => .intact
  | [], _ :: _ => .lost
  | [_], _ => .corrected
  | _, [_] => if words.length % 2 = 1 then .corrected else .lost
  | _, _ => .lost

/-- The task on hart `n` saves its context to leave a core that is out of service (R340). -/
def leavingLost (s : State) (n : Nat) : Bool :=
  match (s.hart n).wait with
  | .save .. => s.oos.getLsbD (n / 4)
  | _ => false

/-- The open interval of hart `n` fails by a lost block, or checkpoint state of it is lost (R335, R338); a block lost
while a task leaves a core that is out of service kills it with CORE_RETIRED (R340). -/
def loseState (s : State) (n : Nat) (f : Failure) : State :=
  let h := s.hart n
  if h.live = false then s
  else if leavingLost s n then kill s n Cause.coreRetired h.pc 0 h.trap.handler
  else failInterval s n f

/-- A tile, or its shadow, that holds checkpoint state is lost (R335). -/
def loseTile (s : State) (n : Nat) : State :=
  let h := s.hart n
  if h.live = false then s
  else if h.rewindable || leavingLost s n then loseState s n .lostCheckpoint
  else kill s n Cause.sramUnrecoverable h.pc 0 h.trap.handler

/-- Poison the modified lines of a lost die-cache block; clean ones are fetched again (R335). -/
def loseDieBlock (m : Memory) (block : Nat) : Memory :=
  (List.range 8).foldl (fun m k =>
    let a := block * 512 + 64 * k
    if m.modified a then m.poisonCopy a else m) m

/-- Remember that a register of the file is lost, until it is read, saved or restored (R334, R335). -/
def loseRegister (s : State) (n q slot : Nat) : State :=
  let h := s.hart n
  if h.live ∧ (q, slot) ∉ h.lost then s.setHart n { h with lost := (q, slot) :: h.lost } else s

/-- What a lost block does (R335). `read`: a read met it; where the scrub alone found it, a register file block has its
effect when it is read. -/
def loseBlock (s : State) (site : BlockSite) (read : Bool) : State :=
  match site with
  | .cleanCopy core => { s with l1 := s.l1.filter fun c => l1Core c.1 != core }
  | .dieCache block => { s with mem := loseDieBlock s.mem block }
  | .storeBuffer hart => loseState s hart .lostBlock
  | .writtenVector hart q slot =>
    if read then loseState s hart (if slot ∈ (s.hart hart).marks.vFirst then .lostBlock else .lostCheckpoint)
    else loseRegister s hart q slot
  | .heldVector hart => if read then loseState s hart .lostCheckpoint else loseRegister s hart 0 48
  | .tile hart z => if z ∈ (s.hart hart).marks.tiles then loseState s hart .lostBlock else loseTile s hart
  | .shadow hart _ => loseTile s hart
  | .scratch core block =>
    let c := s.core core
    s.setCore core { c with lost := if block ∈ c.lost then c.lost else block :: c.lost }
  | .liveScalar hart => loseState s hart .lostBlock
  | .checkpointWord hart => loseState s hart .lostCheckpoint

/-- Scalar registers and checkpoint words have no vertical parity: two bad copies are lost (R335). -/
def findingRepair (f : BlockFinding) : Repair :=
  match f.site with
  | .liveScalar _ => .lost
  | .checkpointWord _ => .lost
  | _ => repairOf f.words.eraseDups f.cols.eraseDups

/-- The macro that holds the block: one of a core, or one of a die cache, which belongs to no core. Scalar registers and checkpoint words
lie in no macro (R334, R335). -/
def findingUnit (f : BlockFinding) : Option FaultUnit :=
  match f.site with
  | .dieCache _ => some (.ram (1024 + f.core) f.macroUnit)
  | .liveScalar _ => none
  | .checkpointWord _ => none
  | _ => some (.ram f.core f.macroUnit)

/-- Teasel corrects a word of a macro: a single-bit correction at a word already corrected inside the window counts an event
(R335). -/
def correctWord (u : FaultUnit) (block : Nat) (single : Bool) (s : State) (word : Nat) : State :=
  let key := block * 64 + word
  let before := s.corrections.any fun c => c.1 == u && c.2.1 == key && decide (s.uptime ≤ c.2.2 + s.relcfg.span)
  let s := { s with corrections := (u, key, s.uptime) :: s.corrections }
  if before && single then countFault s u else s

/-- Teasel takes one block (R334, R335, R339, R343). -/
def takeBlock (read : Bool) (s : State) (f : BlockFinding) : State :=
  match findingRepair f with
  | .intact => s
  | .corrected =>
    let s := match f.site with
      | .dieCache _ => s
      | _ => countEvent s f.core 7 1
    match findingUnit f with
    | some u => f.words.eraseDups.foldl (correctWord u f.block (decide (f.cols.eraseDups.length = 1))) s
    | none => s
  | .lost =>
    let s := loseBlock s f.site read
    match findingUnit f with
    | some u => countFault s u
    | none => s

/-- The scrub of every block (R334): `found` holds those in which it found something. -/
def execTeaselScrub (found : List BlockFinding) (s : State) : Out := whenReady s (found.foldl (takeBlock false) s)

/-- Teasel takes a block in which a read found a failure (R334). -/
def execTeaselBlockRepair (found : BlockFinding) (s : State) : Out := whenReady s (takeBlock true s found)

end Sys2Proof.Machine
end

