-- ==== Sys2Proof/Machine/Context.lean ====
section
/-! DEFINITION. Pre-emption and the context save area: raising a request, boundary saves, writing and reading an area,
and the kill of a task that is switched out (R102, R281, R296, R299 to R310, R316). -/

namespace Sys2Proof.Machine

/-! ## Areas (R304) -/

/-- k of R304: shadows take as much room as tiles. -/
def tileCopies (flags : BitVec 3) : Nat := if flags.getLsbD 0 then 2 else 1

/-- CB of R304. -/
def coreBlock (poolpart : BitVec 32) (tiles : Nat) (flags : BitVec 3) : Nat :=
  roundUp (256 + 51 * vlenbOf poolpart + 16384 * tiles * tileCopies flags + poolpart.toNat / 2 ^ 24 * 4096) 4096

/-- Cores of a die that SPAN names, and dies (R272). -/
def spanCores (span : BitVec 8) : Nat := 2 ^ (span.toNat % 16)
def spanDies (span : BitVec 8) : Nat := 2 ^ (span.toNat / 16 % 4)

/-- The size of an area (R304). -/
def areaSize (poolpart : BitVec 32) (tiles : Nat) (span : BitVec 8) (flags : BitVec 3) : Nat :=
  8192 + spanCores span * spanDies span * coreBlock poolpart tiles flags

/-- CB of a task. -/
def Start.block (a : Start) : Nat := coreBlock a.poolpart a.tiles a.flags

/-- The address of a free area of an interface (R304). -/
def freeAreaOf (v : Vi) : Option Nat :=
  ((List.range v.csaCount).map fun k => v.csaBase + k * v.csaSize).find? fun a => !(a ∈ v.areas)

/-- The task on hart `n` holds an area, or its interface has a free one (R299). -/
def areaAvailable (s : State) (n : Nat) : Bool :=
  (s.hart n).task.area.isSome || (freeAreaOf (s.vi (s.hart n).task.vi)).isSome

/-- The task on hart `n` takes a free area at its first switch-out, and keeps it (R304). -/
def takeArea (s : State) (n : Nat) : Option State :=
  let h := s.hart n
  let v := s.vi h.task.vi
  if h.task.area.isSome then some s
  else (freeAreaOf v).map fun a =>
    (s.setVi h.task.vi { v with areas := v.areas ++ [a] }).setHart n { h with task := { h.task with area := some a } }

/-! ## Requests (R299 to R301) -/

/-- Hart `n` saves its context: a boundary save, or a commit save. -/
def startSave (s : State) (n : Nat) (boundary : Bool) (swc : BitVec 8) (since : Word) : State :=
  s.setHart n { s.hart n with wait := .save boundary swc since, preempt := none }

/-- What a raised request does (R300). A waiter whose barrier broke resumes with -1 (R268). -/
def meetRequest (s : State) (n : Nat) (swc : BitVec 8) : State :=
  let now := s.cycle
  match (s.hart n).wait with
  | .streams .. => startSave s n false swc now
  | .cwait .. => startSave s n false swc now
  | .cdrain .. => startSave s n false swc now
  | .barrier _ _ _ _ _ broken =>
    let h := s.hart n
    startSave (s.setHart n { h with task := { h.task with broke := h.task.broke || broken } }) n false swc now
  | .idle .. => startSave s n false swc now
  | .command => startSave s n false swc now
  | .parked .. => startSave s n true swc now
  | .lock .. =>
    let s := giveLocksBack s n
    startSave (s.setHart n { s.hart n with vstart := 0 }) n false swc now
  | _ => s.setHart n { s.hart n with preempt := some { swc, element := none, since := now } }

/-- Raise a pre-emption request against the task on hart `n`; without an area there is none, and the distributor's next choice
asks again (R299). -/
def raiseRequest (s : State) (n : Nat) (swc : BitVec 8) : State :=
  let h := s.hart n
  let saving : Bool := match h.wait with
    | .save .. => true
    | _ => false
  if h.live = false ∨ h.preempt.isSome = true ∨ saving = true then s
  else if areaAvailable s n then meetRequest s n swc
  else s

/-- The hart stands at an instruction boundary: it has not begun the instruction at PC, nor is one in flight that never trims (R147) or
that commits. -/
def Hart.atBoundary (h : Hart) : Bool :=
  match h.wait with
  | .run => h.answers.isEmpty && !h.whole && !h.committing && !h.placing && h.dbg.stop.isNone
  | .fetch .. => true
  | _ => false

/-- PRE_WIN cycles have passed without a commit point: a boundary save, or the halt that the debugger asked for unless the
launch asked for precise debug (R301, R348). -/
def execPreWinExpiry (hart : Nat) (s : State) : Out :=
  whenReady s (
    let h := s.hart hart
    let expired (since : Word) : Bool := decide ((s.vi h.task.vi).preWin ≤ (s.cycle - since).toNat)
    if h.live = false ∨ h.atBoundary = false then s
    else match h.preempt with
      | some p => if expired p.since then startSave s hart true p.swc p.since else s
      | none =>
        if h.dbg.haltReq && !h.task.start.flags.getLsbD 1 && expired h.dbg.haltSince then halt s hart Cause.debugStop else s)

/-! ## The image of a context (R305 to R308) -/

/-- One number from (offset, bytes, value) fields. -/
def pack (fs : List (Nat × Nat × Nat)) : Nat :=
  fs.foldl (fun acc f => acc + f.2.2 % 2 ^ (8 * f.2.1) * 2 ^ (8 * f.1)) 0

/-- `k` fields of `b` bytes from offset `o` on. -/
def packRow (o b k : Nat) (f : Nat → Nat) : List (Nat × Nat × Nat) := (List.range k).map fun i => (o + b * i, b, f i)

/-- The header (R305); `cycles` is SAVECYC. -/
def headerImage (h : Hart) (boundary : Bool) (swc : BitVec 8) (cycles : Nat) : Nat :=
  let t := h.task
  let a := t.start
  pack ([(0, 4, 0x41534358), (4, 2, 1), (6, 1, if boundary then 2 else 1), (7, 1, swc.toNat)
    , (8, 8, areaSize a.poolpart a.tiles a.span a.flags), (0x10, 4, a.block), (0x14, 4, h.vlenb), (0x18, 4, a.poolpart.toNat)
    , (0x1C, 1, a.span.toNat), (0x1D, 1, h.span.length), (0x1E, 1, a.tiles), (0x1F, 1, a.flags.toNat), (0x20, 8, t.id.toNat)
    , (0x28, 8, t.frame.toNat), (0x30, 8, t.joinp.toNat), (0x38, 2, t.queue), (0x3A, 1, t.level), (0x3B, 1, t.prio)
    , (0x3C, 1, t.weight)] ++ packRow 0x40 4 8 (fun k => (Sparse.get 0 t.lpath k).toNat)
    ++ [(0x60, 8, a.errata.toNat), (0x68, 4, Config.stepping.toNat), (0x70, 8, cycles), (0x78, 8, a.rtbase.toNat)
    , (0x80, 4, a.ckmask.toNat)])

/-- m0 to m3 from offset `o` on. -/
def modeFields (o : Nat) (m : Sparse (BitVec 24)) : List (Nat × Nat × Nat) :=
  packRow o 4 4 fun k => (Sparse.get 0 m k).toNat

/-- The scalar block, from offset 0x100 of the area (R306). -/
def scalarImage (h : Hart) : Nat :=
  let t := h.strip
  let r := h.trap
  pack (packRow 0 8 32 (fun k => (Sparse.get 0 h.x k).toNat)
    ++ [(0x100, 8, h.pc.toNat), (0x108, 8, h.vstart.toNat), (0x110, 8, t.vl.toNat), (0x118, 8, t.gvl.toNat)
    , (0x120, 8, t.sord.toNat), (0x128, 8, t.saddr.toNat), (0x130, 8, t.trimi.toNat), (0x138, 8, h.instret.toNat)
    , (0x140, 8, t.rngs.toNat), (0x148, 4, h.ckmask.toNat), (0x14C, 2, t.vtype.toNat), (0x14E, 1, t.trimc.toNat)
    , (0x14F, 1, t.fflags.toNat), (0x150, 1, h.ftrim.toNat), (0x151, 1, h.matrix.mvl.toNat), (0x152, 1, h.files.vrot.toNat)
    , (0x153, 1, h.files.prot.toNat), (0x154, 2, h.achr.toNat), (0x156, 2, h.achc.toNat)] ++ modeFields 0x158 h.modes
    ++ [(0x168, 8, r.tvec.toNat), (0x170, 8, r.tscratch.toNat), (0x178, 8, r.tpc.toNat), (0x180, 8, r.tval.toNat)
    , (0x188, 8, r.tvstart.toNat), (0x190, 8, r.handler.toNat), (0x198, 1, r.tcause.toNat), (0x1A0, 8, h.task.seq)
    , (0x1A8, 8, h.task.spawnk), (0x1B0, 8, h.task.seqBase)])

/-- The stream of group v(4k), if one is bound. -/
def streamAt (l : List Stream) (k : Nat) : Option Stream := l.find? fun t => t.group == 4 * k

/-- An entry of the completion table (R307). -/
def Completion.image (e : Completion) : Nat := if e.complete then savedEntry e.n e.cause else e.n % 2 ^ 48

/-- The task block, from offset 0x300 of the area (R307). -/
def taskImage (h : Hart) : Nat :=
  let t := h.task
  let (addr, phase) := t.pending.getD (0, 0)
  pack (packRow 0 8 8 (fun k => (Sparse.get 0 h.matrix.zw k).toNat)
    ++ packRow 0x40 8 8 (fun k => (Sparse.get 0 h.matrix.ufd k).toNat)
    ++ packRow 0x80 16 4 (fun k => ((streamAt h.streams k).map fun t => t.desc.toNat + t.pos * 2 ^ 64).getD 0)
    ++ [(0xC0, 8, addr.toNat), (0xC8, 8, phase.toNat), (0xD0, 1, t.locks.length)]
    ++ packRow 0x100 8 64 (fun k => t.locks.getD k 0)
    ++ t.ctab.map fun c => (0x300 + 8 * c.1, 8, c.2.image))

/-- The vector slot that held slot 32 + `j` backs: slots in the order of their first writes. -/
def Marks.heldV (m : Marks) (j : Nat) : Option Nat := m.vFirst.reverse[j]?
def Marks.heldP (m : Marks) (j : Nat) : Option Nat := m.pFirst.reverse[j]?

/-- The checkpoint block, from offset 0x1000 of the area (R307). -/
def checkpointImage (h : Hart) : Nat :=
  let c := h.ckpt
  let t := c.strip
  let r := c.trap
  pack (packRow 0 8 32 (fun k => (Sparse.get 0 c.x k).toNat)
    ++ [(0x100, 8, c.pc.toNat), (0x108, 8, t.vl.toNat), (0x110, 8, t.gvl.toNat), (0x118, 8, t.sord.toNat)
    , (0x120, 8, t.saddr.toNat), (0x128, 8, t.trimi.toNat), (0x130, 8, t.rngs.toNat), (0x138, 2, t.vtype.toNat)
    , (0x13A, 1, t.trimc.toNat), (0x13B, 1, t.fflags.toNat), (0x13C, 1, c.files.vrot.toNat), (0x13D, 1, c.files.prot.toNat)
    , (0x13E, 1, c.matrix.mvl.toNat)] ++ modeFields 0x140 c.modes
    ++ packRow 0x150 8 4 (fun k => ((streamAt c.streams k).map (·.pos)).getD 0)
    ++ packRow 0x170 1 16 (fun j => (h.marks.heldV j).getD 0xFF) ++ packRow 0x180 1 8 (fun j => (h.marks.heldP j).getD 0xFF)
    ++ [(0x188, 8, c.vstart.toNat)] ++ packRow 0x1C0 8 8 (fun k => (Sparse.get 0 c.matrix.ufd k).toNat)
    ++ packRow 0x200 8 8 (fun k => (Sparse.get 0 c.matrix.zw k).toNat)
    ++ [(0x240, 8, r.tpc.toNat), (0x248, 8, r.tval.toNat), (0x250, 8, r.tvstart.toNat), (0x258, 8, r.tscratch.toNat)
    , (0x260, 8, r.tvec.toNat), (0x268, 1, r.tcause.toNat), (0x269, 1, r.handler.toNat)])

/-- The bytes of a vector slot that a save writes on position `q`: its HWMB (R303). A register that the checkpoint comes to hold is
written to its held slot with every byte of it that was ever written, which are those of its own slot's mark in the area, `old`, too (R308,
entry 67). -/
def Hart.slotMark (h : Hart) (boundary : Bool) (q old k : Nat) : Nat :=
  if k < 32 then Sparse.get 0 h.dirty.hwmb (q * 48 + k)
  else match if boundary then h.marks.heldV (k - 32) else none with
    | some x => max (Sparse.get 0 h.dirty.hwmb (q * 48 + k)) (descField old (2 * x) 2)
    | none => 0

/-- The contents of a vector slot on position `q`. -/
def Hart.slotValue (h : Hart) (q k : Nat) : Nat :=
  if k < 32 then Sparse.get 0 h.files.v (q * 32 + k)
  else Sparse.get 0 h.ckpt.files.v (q * 32 + (h.marks.heldV (k - 32)).getD 0)

/-- A save writes predicate slot `k` on position `q`. -/
def Hart.predSaved (h : Hart) (boundary : Bool) (q k : Nat) : Bool :=
  if k < 16 then Sparse.get false h.dirty.preds (q * 24 + k) else boundary && (h.marks.heldP (k - 16)).isSome

/-- The contents of a predicate slot on position `q`. -/
def Hart.predValue (h : Hart) (q k : Nat) : Nat :=
  if k < 16 then Sparse.get 0 h.files.p (q * 16 + k)
  else Sparse.get 0 h.ckpt.files.p (q * 16 + (h.marks.heldP (k - 16)).getD 0)

/-- The 16,384 bytes of a tile on position `q`. -/
def tileImage (tiles : Sparse (BitVec 32)) (q z : Nat) : Nat :=
  (tiles.filter fun c => c.1 / 4096 == q * 8 + z).foldl (fun acc c => acc + c.2.toNat * 2 ^ (32 * (c.1 % 4096))) 0

/-- The bits of `n` flags as one number. -/
def flagBits (n : Nat) (f : Nat → Bool) : Nat := (List.range n).foldl (fun acc k => acc + (f k).toNat * 2 ^ k) 0

/-- The pieces of core block `q` at `base` (R308): what the area held before, `old`, keeps its larger marks. `image` is the
store buffer in the device's own encoding. -/
def corePieces (h : Hart) (boundary : Bool) (q base old image : Nat) : List (Nat × Nat × Nat) :=
  let v := h.vlenb
  let a := h.task.start
  let tileBase := base + 0x100 + 51 * v
  let tileDirty (z : Nat) : Bool := decide (z < a.tiles) && Sparse.get false h.dirty.tiles z
  let shadowDirty (z : Nat) : Bool := h.rewindable && decide (z < a.tiles) && Sparse.get false h.dirty.shadows z
  let used := if q = 0 ∧ boundary = true then h.sbused else 0
  [(base, 0x100, pack (packRow 0 2 48 (fun k => max (descField old (2 * k) 2) (h.slotMark boundary q old k))
    ++ [(0x60, 4, descField old 0x60 4 ||| flagBits 24 (h.predSaved boundary q))
    , (0x64, 1, descField old 0x64 1 ||| flagBits 8 tileDirty), (0x65, 1, descField old 0x65 1 ||| flagBits 8 shadowDirty)
    , (0x68, 4, used)]))]
  ++ (List.range 48).map (fun k => (base + 0x100 + k * v, h.slotMark boundary q old k, h.slotValue q k))
  ++ ((List.range 24).filter (h.predSaved boundary q)).map (fun k => (base + 0x100 + 48 * v + k * (v / 8), v / 8, h.predValue q k))
  ++ ((List.range 8).filter tileDirty).map (fun z => (tileBase + 16384 * z, 16384, tileImage h.matrix.tiles q z))
  ++ ((List.range 8).filter shadowDirty).map (fun z =>
    (tileBase + 16384 * (a.tiles + z), 16384, tileImage h.ckpt.matrix.tiles q z))
  ++ [(tileBase + 16384 * a.tiles * tileCopies a.flags, used, image)]

/-- Write pieces into memory for an interface, in order. -/
def writePieces (vi : Nat) : List (Nat × Nat × Nat) → State → Res State
  | [], s => .ok s
  | (va, n, v) :: rest, s => (deviceWrite s vi va (v % 2 ^ (8 * n)) n).bind fun s => writePieces vi rest s

/-- What the area held in the first 256 bytes of core block `q` since the last restore. -/
def oldMarks (s : State) (h : Hart) (base : Nat) : Res Nat :=
  if h.task.resumed then deviceRead s h.task.vi base 0x100 else .ok 0

/-- Write core blocks `q` on, `fuel` of them. -/
def writeCores (h : Hart) (boundary : Bool) (area : Nat) : Nat → Nat → State → Res State
  | 0, _, s => .ok s
  | fuel + 1, q, s =>
    let base := area + 0x2000 + q * h.task.start.block
    let (image, s) := s.draw
    (oldMarks s h base).bind fun old =>
      (writePieces h.task.vi (corePieces h boundary q base old image) s).bind fun s =>
        writeCores h boundary area fuel (q + 1) s

/-- Write the whole area of the task on a hart (R305 to R308). -/
def writeArea (s : State) (h : Hart) (boundary : Bool) (swc : BitVec 8) (since : Word) (area : Nat) : Res State :=
  let cycles := (s.cycle - since).toNat
  let ck : List (Nat × Nat × Nat) := if boundary then [(area + 0x1000, 0x400, checkpointImage h)] else []
  (writePieces h.task.vi ([(area, 0x100, headerImage h boundary swc cycles), (area + 0x100, 0x200, scalarImage h)
    , (area + 0x300, 0xD00, taskImage h)] ++ ck ++ [(area + 0x1400, 0xC00, 0)]) s).bind fun s =>
    writeCores h boundary area h.span.length 0 s

/-- The slot of a switched-out task (R281). -/
def savedSlot (t : Task) (area : Nat) : Slot :=
  let c := newSlot (BitVec.ofNat 64 area) t.frame t.joinp t.queue t.level t.spawnk t.lpath t.start
  let c := Sparse.set 0 c 3 (Sparse.get 0 c 3 ||| (1#64 <<< 24))
  Sparse.set 0 c 8 (BitVec.ofNat 64 t.seq)

/-- The save of hart `n` into its area, and the slot that takes the task back to the tail of its queue (R283, R299). -/
def saveInto (s : State) (n : Nat) (boundary : Bool) (swc : BitVec 8) (since : Word) (area : Nat) : State :=
  let h := s.hart n
  let t := h.task
  match writeArea s h boundary swc since area with
  | .ok s =>
    let s := traceRecord s n 5 swc 0 h.pc
    let kept : Saved :=
      { vi := t.vi, task := t.id, sb := h.sb, marks := if boundary then h.marks else {}, halted := h.dbg.halted
        cause := h.dbg.cause, launch := t.launch, root := t.root
        path := (List.range 8).map fun k => (Sparse.get 0 t.lpath k).toNat, area, mask := h.ckpt.mask
        shrunk := h.shrunk, queue := t.queue, joinp := t.joinp, locks := t.locks, handler := h.trap.handler, pc := h.pc
        ckvs := h.ckpt.vstart, broke := t.broke, ctab := t.ctab, stepping := h.dbg.stepping && !h.dbg.halted }
    let s := pushOrHold { s with saves := s.saves ++ [kept] } t.vi t.queue (savedSlot t area) 0 t.root
    freeSlot s n
  | _ => kill s n Cause.saveFault h.pc (BitVec.ofNat 64 area) h.trap.handler

/-- A save reads a register that Teasel found lost: work of the open interval, or checkpoint state (R335). -/
def Hart.saveLoss (h : Hart) (boundary : Bool) : Option Failure :=
  let read := h.lost.filter fun x =>
    if 48 ≤ x.2 then boundary else Sparse.get 0 h.dirty.hwmb (x.1 * 48 + x.2) != 0
  if read.isEmpty then none
  else if read.all fun x => x.2 ∈ h.marks.vFirst then some .lostBlock
  else some .lostCheckpoint

/-- The commit that an invalidation asks of hart `n`, or the rest of it (R326): the hart waits for what it waits for, a boundary save
under way becomes a commit save, and a pending request takes a hart that runs (R102). -/
def flushCommit (s : State) (n : Nat) : State :=
  let wait := (s.hart n).wait
  match commitHart s n with
  | .error s =>
    let h := s.hart n
    if h.committing then s.setHart n { h with implicit := true, wait := if wait = .run then h.wait else wait } else s
  | .ok s =>
    match wait with
    | .save _ swc since => s.setHart n { s.hart n with wait := .save false swc since }
    | .run => switchIfAsked s n
    | _ => s

/-- The save of a context is done (R301, R302, R308). It waits for every earlier instruction of the hart and the checks of its interval
(R184, R300, R301); an interval that fails rewinds, and is then saved at the restored point. -/
def execSaveComplete (hart : Nat) (s : State) : Out :=
  whenReady s (
    let h := s.hart hart
    match h.wait with
    | .save boundary swc since =>
      if h.live = false ∨ h.quiet = false then s
      else if h.committing then flushCommit s hart
      else match h.marks.failed, h.saveLoss boundary with
        | some f, _ => failInterval s hart f
        | none, some f => loseState s hart f
        | none, none => match takeArea s hart with
          | none => s
          | some s => saveInto s hart boundary swc since ((s.hart hart).task.area.getD 0)
    | _ => s)

/-! ## Queue entries -/

/-- The address of entry `e` of a queue (R280). -/
def QueueDesc.entryVa (d : QueueDesc) (e : Nat) : Nat := d.rbase + 128 * (e % d.rcap)

/-- The slot of entry `e`. -/
def readSlot (s : State) (vi : Nat) (d : QueueDesc) (e : Nat) : Option Slot :=
  match deviceRead s vi (d.entryVa e) 128 with
  | .ok v => some (slotOf v)
  | _ => none

/-- Move the `k` entries below entry `e` up by one. -/
def shiftEntries (vi : Nat) (d : QueueDesc) : Nat → Nat → State → State
  | 0, _, s => s
  | k + 1, e, s =>
    match (deviceRead s vi (d.entryVa (e - 1)) 128).bind fun v => deviceWrite s vi (d.entryVa e) v 128 with
    | .ok s => shiftEntries vi d k (e - 1) s
    | _ => s

/-- Remove entry `e` of queue `q`: the entries before it move up by one, and HEAD by one (R280). -/
def removeEntry (s : State) (vi q : Nat) (d : QueueDesc) (e : Nat) : State :=
  let s := shiftEntries vi d (e - d.head) e s
  let s := match deviceWrite s vi (d.va + 0x10) (d.head + 1) 8 with
    | .ok s => s
    | _ => s
  { s with notes := (s.notes.filter fun n => !(n.vi == vi && n.queue == q && n.entry == e)).map fun n =>
      if n.vi = vi ∧ n.queue = q ∧ d.head ≤ n.entry ∧ n.entry < e then { n with entry := n.entry + 1 } else n }

/-- What a queued slot hands to its start beside its bytes. -/
def slotNote (s : State) (vi q e : Nat) : Option SlotNote := s.notes.find? fun n => n.vi == vi && n.queue == q && n.entry == e

/-! ## Switched-out tasks -/

/-- What the device keeps for a switched-out task. -/
def savedOf (s : State) (vi : Nat) (task : Word) : Option Saved := s.saves.find? fun c => c.vi == vi && c.task == task

/-- Where the slot of a switched-out task stands: in an entry of a queue, or held until its queue has room. -/
inductive SlotPlace where
  | entry (q e : Nat)
  | heldPush (i : Nat)

/-- Take away the slot of a switched-out task. -/
def removeSlot (s : State) (vi : Nat) (p : SlotPlace) : State :=
  match p with
  | .entry q e => match queueDesc s vi q with
    | some d => removeEntry s vi q d e
    | none => s
  | .heldPush i => { s with held := s.held.eraseIdx i }

/-- The task that the area of a slot is of: as the area says, or as the device keeps it where the area cannot be read. -/
def areaTaskId (s : State) (vi area : Nat) : Option Word :=
  match deviceRead s vi (area + 0x20) 8 with
  | .ok v => some (BitVec.ofNat 64 v)
  | _ => (s.saves.find? fun c => c.vi == vi && c.area == area).map (·.task)

/-- What a kill needs of a switched-out task (R296): its identity, queue, counter, locks in ascending order, mode and resume
PC. -/
structure SavedTask where
  id : Word
  queue : Nat
  joinp : Word
  locks : List Nat
  handler : Bool
  pc : Word

/-- The task of an area, read from it, or as the device keeps it where the area cannot be read. -/
def savedTaskAt (s : State) (vi area : Nat) : Option SavedTask :=
  match deviceRead s vi area 0x600 with
  | .ok img => some
      { id := BitVec.ofNat 64 (descField img 0x20 8), queue := descField img 0x38 2
        joinp := BitVec.ofNat 64 (descField img 0x30 8)
        locks := (List.range (descField img 0x3D0 1)).map fun k => descField img (0x400 + 8 * k) 8
        handler := descField img 0x290 1 % 2 == 1, pc := BitVec.ofNat 64 (descField img 0x200 8) }
  | _ => (s.saves.find? fun c => c.vi == vi && c.area == area).map fun c =>
      { id := c.task, queue := c.queue, joinp := c.joinp, locks := c.locks, handler := c.handler, pc := c.pc }

/-- Kill the switched-out task whose slot stands at `p` and whose area is at `area` (R43, R296, R316). `port`: by port
command, with TPC 0. A slot that names no task that anything knows only leaves its queue. -/
def killSaved (s : State) (vi area : Nat) (p : SlotPlace) (cause : BitVec 8) (tval : Word) (port : Bool) : State :=
  match savedTaskAt s vi area with
  | none => removeSlot s vi p
  | some t =>
    let kept := savedOf s vi t.id
    let s := t.locks.reverse.foldl (fun s w => freeWord s vi t.id w) s
    let s := eventRecord s vi t.id (if port then 0 else t.pc) tval cause (2 + t.handler.toNat) t.queue (2 ^ 32 - 1)
    let s := removeSlot s vi p
    let s := match kept.bind (·.launch) with
      | some l => countEnd s l (some cause)
      | none => decrementAt s vi t.id t.queue t.joinp (some cause)
    let s := { s with saves := s.saves.filter fun c => !(c.vi == vi && c.task == t.id) }
    freeArea s vi (some ((kept.map (·.area)).getD area))

/-- The switched-out tasks of an interface, each with its area and where its slot stands (R281). -/
def savedTasks (s : State) (vi : Nat) : List (Nat × SlotPlace) :=
  (savedSlots s vi).map (fun c => (c.1, SlotPlace.entry c.2.1 c.2.2))
    ++ (s.held.zipIdx.filter fun h => h.1.vi == vi && (slotField h.1.slot 0x1B 1).testBit 0).map fun h =>
      (slotDw h.1.slot 0, SlotPlace.heldPush h.2)

/-! ## Resuming (R309) -/

/-- Tile elements of position `q` from the image of tile `z`. -/
def tileElements (m : Sparse (BitVec 32)) (q z image : Nat) : Sparse (BitVec 32) :=
  (List.range 4096).foldl (fun m k => Sparse.set 0 m ((q * 8 + z) * 4096 + k) (BitVec.ofNat 32 (image / 2 ^ (32 * k)))) m

/-- What the core blocks hold: the files, the held files, tiles and shadows, and SBUSED of block 0. -/
structure CoreImage where
  v : Sparse Nat := []
  p : Sparse Nat := []
  heldV : Sparse Nat := []
  heldP : Sparse Nat := []
  tiles : Sparse (BitVec 32) := []
  shadows : Sparse (BitVec 32) := []
  sbused : Nat := 0

/-- Go on over a list while nothing fails. -/
def foldRes {α β : Type} (f : β → α → Res β) (b : β) (l : List α) : Res β := l.foldl (fun acc x => acc.bind fun b => f b x) (.ok b)

/-- Read core block `q` of an area (R308, R309). -/
def readCore (s : State) (vi area : Nat) (a : Start) (c : CoreImage) (q : Nat) : Res CoreImage :=
  let v := vlenbOf a.poolpart
  let base := area + 0x2000 + q * a.block
  let tileBase := base + 0x100 + 51 * v
  (deviceRead s vi base 0x100).bind fun hd =>
    (foldRes (fun c k => (deviceRead s vi (base + 0x100 + k * v) (min v (descField hd (2 * k) 2))).map fun x =>
      if k < 32 then { c with v := Sparse.set 0 c.v (q * 32 + k) x }
      else { c with heldV := Sparse.set 0 c.heldV (q * 16 + (k - 32)) x }) c (List.range 48)).bind fun c =>
    (foldRes (fun c k => (deviceRead s vi (base + 0x100 + 48 * v + k * (v / 8)) (v / 8)).map fun x =>
      if k < 16 then { c with p := Sparse.set 0 c.p (q * 16 + k) x }
      else { c with heldP := Sparse.set 0 c.heldP (q * 8 + (k - 16)) x }) c
        ((List.range 24).filter fun k => (descField hd 0x60 4).testBit k)).bind fun c =>
    (foldRes (fun c z => (deviceRead s vi (tileBase + 16384 * z) 16384).map fun x =>
      { c with tiles := tileElements c.tiles q z x }) c
        ((List.range a.tiles).filter fun z => (descField hd 0x64 1).testBit z)).bind fun c =>
    (foldRes (fun c z => (deviceRead s vi (tileBase + 16384 * (a.tiles + z)) 16384).map fun x =>
      { c with shadows := tileElements c.shadows q z x }) c
        ((List.range a.tiles).filter fun z => (descField hd 0x65 1).testBit z)).map fun c =>
    if q = 0 then { c with sbused := descField hd 0x68 4 } else c

/-- Sixty-four-bit fields of an image as a sparse store. -/
def wordFields (img o k : Nat) : Sparse Word :=
  (List.range k).foldl (fun m i => Sparse.set 0 m i (BitVec.ofNat 64 (descField img (o + 8 * i) 8))) []

/-- m0 to m3 from offset `o` on. -/
def readModes (img o : Nat) : Sparse (BitVec 24) :=
  (List.range 4).foldl (fun m i => Sparse.set 0 m i (BitVec.ofNat 24 (descField img (o + 4 * i) 4))) []

/-- LPATH of an image at `o`. -/
def readPath (img o : Nat) : Sparse (BitVec 32) :=
  (List.range 8).foldl (fun m i => Sparse.set 0 m i (BitVec.ofNat 32 (descField img (o + 4 * i) 4))) []

/-- The attributes in the header of an area (R305). -/
def areaStart (img : Nat) : Start :=
  { ckmask := BitVec.ofNat 32 (descField img 0x80 4), poolpart := BitVec.ofNat 32 (descField img 0x18 4)
    tiles := descField img 0x1E 1, span := BitVec.ofNat 8 (descField img 0x1C 1), flags := BitVec.ofNat 3 (descField img 0x1F 1)
    errata := BitVec.ofNat 64 (descField img 0x60 8), rtbase := BitVec.ofNat 64 (descField img 0x78 8) }

/-- The commands of a task that are still in flight: sequence number, whether a copy, and the write pointer. -/
def inFlight (s : State) (vi : Nat) (task : Word) : List (Nat × Bool × Nat) :=
  (s.commands.filter fun c => c.by_.vi == vi && c.by_.task == task).map (fun c => (c.seq, false, 0))
    ++ (s.copies.filter fun c => c.by_.vi == vi && c.by_.task == task).map fun c => (c.seq, true, c.wptr)

/-- The completion table from its saved image and the commands still in flight (R226, R307). What an entry holds for the in-flight
table comes from the table as the task left; of a record that another package wrote nothing is known, and it is not listed. -/
def readTableEntries (s : State) (vi : Nat) (task : Word) (img seq seqBase : Nat) (left : Sparse Completion) : Sparse Completion :=
  let running := inFlight s vi task
  let base (q i : Nat) : Completion := ((Sparse.find left i).filter fun e => e.seq == q).getD
    { seq := q, copy := false, n := 0, cause := 0, complete := true, read := true }
  (List.range 256).foldl (fun m i =>
    let e := descField img (0x600 + 8 * i) 8
    let q := seq - (seq + 256 - i) % 256
    if e.testBit 63 then
      if seqBase < q then
        Sparse.put m i { base q i with n := e % 2 ^ 48, cause := BitVec.ofNat 8 (e / 2 ^ 48), complete := true }
      else m
    else match running.find? fun c => c.1 % 256 == i with
      | some (q, copy, n) => Sparse.put m i { base q i with copy, n, cause := 0, complete := false }
      | none => m) []

/-- The task of an area (R305 to R307). -/
def areaTask (s : State) (vi q area img : Nat) (d : QueueDesc) (kept : Option Saved) : Task :=
  let id := BitVec.ofNat 64 (descField img 0x20 8)
  let seq := descField img 0x2A0 8
  let seqBase := descField img 0x2B0 8
  let bar := BitVec.ofNat 64 (descField img 0x3C0 8)
  { id, vi, queue := q, prio := d.prio, weight := d.weight, frame := BitVec.ofNat 64 (descField img 0x28 8)
    joinp := BitVec.ofNat 64 (descField img 0x30 8), level := descField img 0x3A 1, lpath := readPath img 0x40
    spawnk := descField img 0x2A8 8, start := areaStart img, launch := kept.bind (·.launch), root := kept.bind (·.root)
    seq, seqBase, ctab := readTableEntries s vi id img seq seqBase ((kept.map (·.ctab)).getD [])
    locks := (List.range (descField img 0x3D0 1)).map fun k => descField img (0x400 + 8 * k) 8
    area := some area, pending := if bar = 0 then none else some (bar, BitVec.ofNat 64 (descField img 0x3C8 8))
    broke := (kept.map (·.broke)).getD false, resumed := true }

/-- The streams of an area, bound again from their descriptors and empty at p (R204, R309). -/
def readStreams (s : State) (vi img : Nat) : Res (List Stream) :=
  foldRes (fun l k =>
    let desc := descField img (0x380 + 16 * k) 8
    if desc = 0 then .ok l
    else (deviceRead s vi desc 64).bind fun v =>
      match streamOf (4 * k) (BitVec.ofNat 64 desc) s.nextCmd v with
      | some t => .ok (l ++ [t.moveTo (descField img (0x388 + 16 * k) 8)])
      | none => .cause Cause.saveFault) [] (List.range 4)

/-- The slots that the held registers of a checkpoint block back, in the order of VMAP or PMAP. -/
def heldSlots (img o k : Nat) : List Nat :=
  (List.range k).filterMap fun j => let x := descField img (o + j) 1; if x = 0xFF then none else some x

/-- A file with the held registers of its positions in place of what they back. -/
def withHeld (m held : Sparse Nat) (w k cores : Nat) (slots : List Nat) : Sparse Nat :=
  (List.range cores).foldl (fun m q => slots.zipIdx.foldl (fun m c =>
    Sparse.set 0 m (q * w + c.1) (Sparse.get 0 held (q * k + c.2))) m) m

/-- The checkpoint of a boundary save (R307). -/
def areaCheckpoint (img : Nat) (c : CoreImage) (h : Hart) (mask : BitVec 32) : Ckpt :=
  let w (o : Nat) : Word := BitVec.ofNat 64 (descField img o 8)
  let cores := h.span.length
  { mask, x := wordFields img 0x1000 32, pc := w 0x1100, vstart := w 0x1188
    strip := { vl := w 0x1108, gvl := w 0x1110, sord := w 0x1118, saddr := w 0x1120, trimi := w 0x1128, rngs := w 0x1130
               vtype := BitVec.ofNat 12 (descField img 0x1138 2), trimc := BitVec.ofNat 8 (descField img 0x113A 1)
               fflags := BitVec.ofNat 5 (descField img 0x113B 1) }
    modes := readModes img 0x1140
    files := { vrot := BitVec.ofNat 4 (descField img 0x113C 1), prot := BitVec.ofNat 3 (descField img 0x113D 1)
               v := withHeld c.v c.heldV 32 16 cores (heldSlots img 0x1170 16)
               p := withHeld c.p c.heldP 16 8 cores (heldSlots img 0x1180 8) }
    matrix := { mvl := BitVec.ofNat 7 (descField img 0x113E 1), ufd := wordFields img 0x11C0 8
                zw := if h.rewindable then wordFields img 0x1200 8 else [], tiles := if h.rewindable then c.shadows else [] }
    trap := { tpc := w 0x1240, tval := w 0x1248, tvstart := w 0x1250, tscratch := w 0x1258, tvec := w 0x1260
              tcause := BitVec.ofNat 8 (descField img 0x1268 1), handler := descField img 0x1269 1 == 1 }
    streams := h.streams.zipIdx.map fun t => t.1.moveTo (descField img (0x1150 + 8 * (t.1.group / 4)) 8) }

/-- The image of the store buffer in an area (R308). -/
def bufferImage (s : State) (vi area : Nat) (a : Start) (used : Nat) : Res Nat :=
  deviceRead s vi (area + 0x2000 + 0x100 + 51 * vlenbOf a.poolpart + 16384 * a.tiles * tileCopies a.flags) used

/-- The stores of a buffer image that another package wrote, placed by this one's translation (R310). -/
def foreignStores (s : State) (vi img : Nat) : Res (List SbEntry) :=
  foldRes (fun l (va, bit, bits, data) => (translateNow s deviceUnit vi va false true).map fun p =>
    l ++ [{ loc := p.loc, bit, bits, data, ord := p.ord, device := p.device, va }]) [] (Config.sbEntries img)

/-- The open interval of a boundary save: its buffered stores and its marks, kept by the device, or read from the image that
another package wrote (R308, R310). -/
def areaInterval (s : State) (vi area : Nat) (a : Start) (used : Nat) (kept : Option Saved) : Res (List SbEntry × Marks) :=
  match kept with
  | some k => .ok (k.sb, k.marks)
  | none => (bufferImage s vi area a used).bind fun img => (foreignStores s vi img).map fun sb =>
      let (device, tiles, failures) := Config.areaMarks img
      (sb, { device, tiles := tiles.filter (· < 8), failures })

/-- A buffered store to a scratchpad goes to that of core `core` (R105, R195). -/
def SbEntry.onCore (e : SbEntry) (core : Nat) : SbEntry :=
  match e.loc with
  | .scratch _ o => { e with loc := .scratch core o }
  | _ => e

/-- The hart of a resumed task (R309). -/
def areaHart (s : State) (vi q area : Nat) (d : QueueDesc) (h0 : Hart) (span slots : List Nat) : Res Hart :=
  (deviceRead s vi area 0x2000).bind fun img =>
    if BitVec.ofNat 32 (descField img 0x68 4) ≠ Config.stepping then .cause Cause.saveFault
    else
      let kept := savedOf s vi (BitVec.ofNat 64 (descField img 0x20 8))
      let w (o : Nat) : Word := BitVec.ofNat 64 (descField img o 8)
      (foldRes (readCore s vi area (areaStart img)) {} (List.range (descField img 0x1D 1))).bind fun c =>
        (readStreams s vi img).bind fun streams =>
          let boundary := descField img 6 1 == 2
          (if boundary then areaInterval s vi area (areaStart img) c.sbused kept else .ok ([], {})).map fun (sb, marks) =>
          let halted := (kept.map (·.halted)).getD false
          let h : Hart := { h0 with
            live := true, span, slots, streams, task := areaTask s vi q area img d kept
            x := wordFields img 0x100 32, pc := w 0x200, vstart := w 0x208
            strip := { vl := w 0x210, gvl := w 0x218, sord := w 0x220, saddr := w 0x228, trimi := w 0x230, rngs := w 0x240
                       vtype := BitVec.ofNat 12 (descField img 0x24C 2), trimc := BitVec.ofNat 8 (descField img 0x24E 1)
                       fflags := BitVec.ofNat 5 (descField img 0x24F 1) }
            instret := w 0x238, ckmask := BitVec.ofNat 32 (descField img 0x248 4)
            ftrim := BitVec.ofNat 5 (descField img 0x250 1), achr := BitVec.ofNat 64 (descField img 0x254 2)
            achc := BitVec.ofNat 64 (descField img 0x256 2), modes := readModes img 0x258
            files := { vrot := BitVec.ofNat 4 (descField img 0x252 1), prot := BitVec.ofNat 3 (descField img 0x253 1)
                       v := c.v, p := c.p }
            matrix := { mvl := BitVec.ofNat 7 (descField img 0x251 1), zw := wordFields img 0x300 8, ufd := wordFields img 0x340 8
                        tiles := c.tiles }
            trap := { tvec := w 0x268, tscratch := w 0x270, tpc := w 0x278, tval := w 0x280, tvstart := w 0x288
                      handler := (descField img 0x290 8).testBit 0, tcause := BitVec.ofNat 8 (descField img 0x298 1) }
            sb := sb.map fun e => e.onCore (span.headD 0), sbused := if boundary then c.sbused else 0
            marks := if boundary then
                { marks with
                  vFirst := (heldSlots img 0x1170 16).reverse, pFirst := (heldSlots img 0x1180 8).reverse, failed := none, checks := [] }
              else {}
            shrunk := kept.bind (·.shrunk)
            committing := (kept.map (·.committing)).getD false, implicit := (kept.map (·.committing)).getD false
            dbg := { h0.dbg with
              halted, stepping := (kept.map (·.stepping)).getD false
              cause := if halted then (kept.map (·.cause)).getD 0 else h0.dbg.cause } }
          if boundary then { h with ckpt := areaCheckpoint img c h ((kept.map (·.mask)).getD h.ckmask) }
          else
            let vstart := (kept.map (·.ckvs)).getD h.vstart
            { h with placing := vstart != 0, ckpt := { h.checkpoint with vstart } }

/-- Resume on hart `n` the task of the SAVED slot in entry `e` of queue `q`, which leaves the queue (R282, R309); its area, which another
package may have written (R310), is in use from then on (R304). An area that
cannot be read, or that another stepping wrote, kills the task with SAVE_FAULT. -/
def resumeTask (s : State) (n vi q e : Nat) (d : QueueDesc) (area : Nat) (span slots : List Nat) : State :=
  match areaHart s vi q area d ((s.hart n).vacant) span slots with
  | .ok h =>
    let s := removeEntry s vi q d e
    let old := ((savedOf s vi h.task.id).map (·.area)).getD area
    let v := s.vi vi
    let s := s.setVi vi { v with areas := if old ∈ v.areas then v.areas.map fun a => if a = old then area else a else v.areas ++ [area] }
    let s := { s with saves := s.saves.filter fun c => !(c.vi == vi && c.task == h.task.id) }
    s.setHart n h
  | _ => killSaved s vi area (.entry q e) Cause.saveFault 0 false

end Sys2Proof.Machine
end

