-- ==== Sys2Proof/Machine/Control.lean ====
section
/-! DEFINITION. Control transfer, the control-register space, mode registers and `brot` (R68 to R72, R112 to R120). -/

namespace Sys2Proof.Machine

/-! ## br, jal, jalr -/

/-- The target of a word offset (R22). -/
def wordTarget {w : Nat} (pc : Word) (i : BitVec w) : Word := pc + (i.signExtend 64 <<< 2)

/-- A branch on a condition (R68). -/
def branch (s : State) (a b : BitVec 5) (i : BitVec 12) (cond : Word → Word → Bool) : Out :=
  let h := s.h
  .next (retireTo s (if cond (h.rx a) (h.rx b) then wordTarget h.pc i else h.pc + 4))

/-- `br.eq` (R68). -/
def execBrEq (a b : BitVec 5) (i : BitVec 12) (s : State) : Out := branch s a b i fun x y => x == y

/-- `br.ne` (R68). -/
def execBrNe (a b : BitVec 5) (i : BitVec 12) (s : State) : Out := branch s a b i fun x y => x != y

/-- `br.lt` (R68). -/
def execBrLt (a b : BitVec 5) (i : BitVec 12) (s : State) : Out := branch s a b i fun x y => x.slt y

/-- `br.ge` (R68). -/
def execBrGe (a b : BitVec 5) (i : BitVec 12) (s : State) : Out := branch s a b i fun x y => !x.slt y

/-- `br.ltu` (R68). -/
def execBrLtu (a b : BitVec 5) (i : BitVec 12) (s : State) : Out := branch s a b i fun x y => x.ult y

/-- `br.geu` (R68). -/
def execBrGeu (a b : BitVec 5) (i : BitVec 12) (s : State) : Out := branch s a b i fun x y => !x.ult y

/-- `jal` (R69). -/
def execJal (d : BitVec 5) (i : BitVec 21) (s : State) : Out :=
  let pc := s.h.pc
  .next (retireTo (s.setH (s.h.wx d (pc + 4))) (wordTarget pc i))

/-- `jalr` (R14, R69): the target comes from x[A] before x[D] is written. -/
def execJalr (d a : BitVec 5) (i : BitVec 12) (s : State) : Out :=
  let h := s.h
  let target := h.rx a + i.signExtend 64
  .next (if target.toNat % 4 ≠ 0 then memTrap s Cause.misaligned target.toNat
    else retireTo (s.setH (h.wx d (h.pc + 4))) target)

/-! ## The control-register space (R70, R71) -/

/-- Every core below `n` of a unit that begins at core `c0` is in the interface's mask (R342). -/
def holdsUnit (s : State) (vi c0 n : Nat) : Bool :=
  vi == 0 || (List.range n).all fun k => (s.vi vi).hasCore (c0 + k)

/-- A counter of the hart, its core, its cluster or its die, or 0 (R342); `get` reads one of them. -/
def counterRead (s : State) (num : Nat) : Word :=
  let h := s.h
  let core := s.cur / 4
  let c := s.core core
  let k := num % 8
  if num = 0x100 then h.counters.slotcyc
  else if num = 0x101 then h.counters.beats
  else if num = 0x102 then h.counters.arrcyc
  else if num = 0x103 then h.counters.strips
  else if num = 0x104 then h.counters.trims
  else if num = 0x105 then h.counters.rewinds
  else if 0x110 ≤ num ∧ num ≤ 0x117 then Sparse.get 0 c.ccnt k
  else if 0x118 ≤ num ∧ num ≤ 0x11F then (Sparse.get 0 c.csel k).setWidth 64
  else if 0x120 ≤ num ∧ num ≤ 0x127 then
    if holdsUnit s h.task.vi (core / 16 * 16) 16 then Sparse.get 0 (Sparse.get {} s.clusters (core / 16)).values k else 0
  else if 0x128 ≤ num ∧ num ≤ 0x12F then
    if holdsUnit s h.task.vi (core / 256 * 256) 256 then Sparse.get 0 (Sparse.get {} s.dies (core / 256)).values k else 0
  else if 0x180 ≤ num ∧ num ≤ 0x18F then Sparse.get 0 h.counters.shadow (num - 0x80)
  else if 0x190 ≤ num ∧ num ≤ 0x19F then Sparse.get 0 c.shadow (num - 0x80)
  else if 0x1A0 ≤ num ∧ num ≤ 0x1A7 then
    if holdsUnit s h.task.vi (core / 16 * 16) 16 then Sparse.get 0 (Sparse.get {} s.clusters (core / 16)).shadow k else 0
  else if 0x1A8 ≤ num ∧ num ≤ 0x1AF then
    if holdsUnit s h.task.vi (core / 256 * 256) 256 then Sparse.get 0 (Sparse.get {} s.dies (core / 256)).shadow k else 0
  else if num = 0x1F0 then c.ltime
  else if num = 0x1F1 then c.lseq
  else 0

/-- The value of a control register, or none where the number is unassigned (R71). -/
def controlRead (s : State) (num : Nat) : Option Word :=
  let h := s.h
  match num with
  | 0x000 => some h.strip.vl
  | 0x001 => some (h.strip.vtype.setWidth 64)
  | 0x002 => some h.vstart
  | 0x003 => some h.strip.sord
  | 0x004 => some h.strip.saddr
  | 0x005 => some h.achr
  | 0x006 => some h.achc
  | 0x007 => some (h.strip.trimc.setWidth 64)
  | 0x008 => some h.strip.trimi
  | 0x010 => some (h.ckmask.setWidth 64)
  | 0x011 => some (h.strip.fflags.setWidth 64)
  | 0x012 => some (h.ftrim.setWidth 64)
  | 0x013 => some h.strip.rngs
  | 0x014 => some (BitVec.ofNat 64 (s.vi h.task.vi).preWin)
  | 0x020 => some (BitVec.ofNat 64 h.vlenb)
  | 0x021 => some (BitVec.ofNat 64 h.span.length)
  | 0x022 => some (h.task.start.poolpart.setWidth 64)
  | 0x038 => some (h.matrix.mvl.setWidth 64)
  | 0x050 => some (BitVec.ofNat 64 (hartIdFor s h.task.vi s.cur))
  | 0x051 => some (BitVec.ofNat 64 (coreIdFor s h.task.vi (s.cur / 4)))
  | 0x052 => some (BitVec.ofNat 64 h.task.vi)
  | 0x060 => some h.task.id
  | 0x061 => some h.task.frame
  | 0x062 => some h.task.joinp
  | 0x070 => some s.cycle
  | 0x071 => some s.time
  | 0x072 => some h.instret
  | 0x080 => some (h.trap.tcause.setWidth 64)
  | 0x081 => some h.trap.tpc
  | 0x082 => some h.trap.tvstart
  | 0x083 => some h.trap.tval
  | 0x084 => some h.trap.tvec
  | 0x085 => some (BitVec.ofNat 64 h.trap.handler.toNat)
  | 0x086 => some h.trap.tscratch
  | 0x0A0 => some (BitVec.ofNat 64 h.sbused)
  | 0x0B0 => some h.counters.slips
  | 0x0B1 => some h.counters.slipv
  | 0x0B2 => some h.counters.slipm
  | _ =>
    if 0x030 ≤ num ∧ num ≤ 0x037 then some (Sparse.get 0 h.matrix.zw (num - 0x030))
    else if 0x040 ≤ num ∧ num ≤ 0x047 then some (Sparse.get 0 h.matrix.ufd (num - 0x040))
    else if 0x058 ≤ num ∧ num ≤ 0x05F then some ((Sparse.get 0 h.task.lpath (num - 0x058)).setWidth 64)
    else if 0x100 ≤ num ∧ num ≤ 0x1FF then some (counterRead s num)
    else none

/-- The hart, or its core, after a write of a control register, or none where the register is read-only (R71). Bits that
the register does not have stay zero (R5, R70). -/
def controlWrite (s : State) (num : Nat) (v : Word) : Option State :=
  let h := s.h
  match num with
  | 0x002 => some (s.setH { h with vstart := v })
  | 0x010 => some (s.setH { h with ckmask := v.setWidth 32 &&& 0xFFFFFFFE })
  | 0x011 => some (s.setH { h with strip := { h.strip with fflags := v.setWidth 5 } })
  | 0x012 => some (s.setH { h with ftrim := v.setWidth 5 })
  | 0x013 => some (s.setH { h with strip := { h.strip with rngs := v } })
  | 0x080 => some (s.setH { h with trap := { h.trap with tcause := v.setWidth 8 } })
  | 0x081 => some (s.setH { h with trap := { h.trap with tpc := v } })
  | 0x082 => some (s.setH { h with trap := { h.trap with tvstart := v } })
  | 0x083 => some (s.setH { h with trap := { h.trap with tval := v } })
  | 0x084 => some (s.setH { h with trap := { h.trap with tvec := v } })
  | 0x085 => some s
  | 0x086 => some (s.setH { h with trap := { h.trap with tscratch := v } })
  | _ =>
    if 0x040 ≤ num ∧ num ≤ 0x047 then
      let w := if num % 2 = 0 then v else v &&& 0x00000FFFFFFFFFFF
      some (s.setH { h with matrix := { h.matrix with ufd := Sparse.set 0 h.matrix.ufd (num - 0x040) w } })
    else if 0x118 ≤ num ∧ num ≤ 0x11F then
      let c := s.core (s.cur / 4)
      some (s.setCore (s.cur / 4) { c with csel := Sparse.set 0 c.csel (num - 0x118) (v.setWidth 8) })
    else none

/-- A register that task mode may not touch: the trap registers marked H, and the debug registers in every mode (R71). -/
def privilegedRegister (num : Nat) (handler : Bool) : Bool :=
  (decide (0x200 ≤ num) && decide (num ≤ 0x21F)) || (!handler && (num ∈ [0x080, 0x081, 0x082, 0x083, 0x085]))

/-- The array entries in flight that can still change a register, and so are waited for (R72, R178): all of them for
FFLAGS, those on its tile for a ZW. -/
def arrayWrites (num : Nat) (e : ArrayEntry) : Bool := num == 0x011 || num == 0x030 + e.tile % 8

/-- A gather or probe in flight can still change a register: its cycles count as slips, in SLIPM (R72, R341). -/
def gatherCounts (num : Nat) : Bool := decide (0x0B0 ≤ num) && decide (num ≤ 0x0B2)

/-- `ctl` (R70): read, then write `f old` where the function writes. What earlier instructions in flight can still change is waited
for (R72). -/
def control (s : State) (d : BitVec 5) (i : BitVec 12) (f : Option (Word → Word)) : Out :=
  let num := i.toNat
  .next (
    if privilegedRegister num s.h.trap.handler then wordTrap s Cause.privileged
    else if !s.h.allRetired (arrayWrites num) then stalled s s.cur none
    else if gatherCounts num && !s.h.gathers.isEmpty then stalled s s.cur (some 2)
    else
      match controlRead s num with
      | none => wordTrap s Cause.reservedField
      | some old =>
        match f with
        | none => writeX s d old
        | some f =>
          match controlWrite s num (f old) with
          | none => wordTrap s Cause.reservedField
          | some s => writeX s d old)

/-- `ctl.crr` (R70). -/
def execCtlCrr (d : BitVec 5) (i : BitVec 12) (s : State) : Out := control s d i none

/-- `ctl.crw` (R70). -/
def execCtlCrw (d a : BitVec 5) (i : BitVec 12) (s : State) : Out :=
  let v := s.h.rx a
  control s d i (some fun _ => v)

/-- `ctl.crs` (R70): with A = x0 a pure read. -/
def execCtlCrs (d a : BitVec 5) (i : BitVec 12) (s : State) : Out :=
  let v := s.h.rx a
  control s d i (if a = 0 then none else some fun old => old ||| v)

/-- `ctl.crc` (R70): with A = x0 a pure read. -/
def execCtlCrc (d a : BitVec 5) (i : BitVec 12) (s : State) : Out :=
  let v := s.h.rx a
  control s d i (if a = 0 then none else some fun old => old &&& ~~~v)

/-! ## mdset and brot -/

/-- `mdset` (R116). -/
def execMdset (g : BitVec 2) (n : BitVec 19) (s : State) : Out :=
  let image : BitVec 24 := n.setWidth 24 <<< 5
  .next (retire (s.setH { s.h with modes := Sparse.set 0 s.h.modes g.toNat image }))

/-- `brot` (R111, R119, R120). DEDUCED (entry 90): it writes a predicate, and so meets the capacity rule of R111, where it rotates. -/
def execBrot (a b : BitVec 5) (i : BitVec 12) (s : State) : Out :=
  let h := s.h
  let n := h.rx a
  .next (
    if n = 0 then retire s
    else if !(h.vc 0).predOk true then wordTrap s Cause.illegalType
    else
      let files := { h.files with vrot := h.files.vrot + 1, prot := h.files.prot + 1 }
      let slot := files.pslot 15
      match h.marks.claim [] [slot] with
      | none => wordTrap s Cause.renameLimit
      | some marks =>
        let live := if (h.rx b).ult n then 2 ^ h.vlenb - 1 else 0
        let h1 := { h.wx a (n - 1) with files, marks }
        let h2 := (List.range h.span.length).foldl (fun h q => h.putPred q slot live) h1
        retireTo (s.setH h2) (wordTarget h.pc i))

end Sys2Proof.Machine
end

