-- ==== Sys2Proof/WellFormed.lean ====
section
/-! DEFINITION. Which terms of `Instr` are instructions that a word or an event can present: the reserved
values of R17, R18, R23, R77, R230 and R286 that a field's width does not rule out, and the ranges of the
operands of events (R8, R11). -/

namespace Sys2Proof

/-- The instruction is held in a 32-bit word (an event is not). -/
def Instr.isWord : Instr → Bool
  | .sopAdd _ _ _ => true
  | .sopSub _ _ _ => true
  | .sopAnd _ _ _ => true
  | .sopOr _ _ _ => true
  | .sopXor _ _ _ => true
  | .sopAndn _ _ _ => true
  | .sopSll _ _ _ => true
  | .sopSrl _ _ _ => true
  | .sopSra _ _ _ => true
  | .sopSlt _ _ _ => true
  | .sopSltu _ _ _ => true
  | .sopMin _ _ _ => true
  | .sopMax _ _ _ => true
  | .sopMinu _ _ _ => true
  | .sopMaxu _ _ _ => true
  | .sopMul _ _ _ => true
  | .sopMulh _ _ _ => true
  | .sopMulhu _ _ _ => true
  | .sopDiv _ _ _ => true
  | .sopDivu _ _ _ => true
  | .sopRem _ _ _ => true
  | .sopRemu _ _ _ => true
  | .sopClz _ _ => true
  | .sopCtz _ _ => true
  | .sopPop _ _ => true
  | .sopiAddi _ _ _ => true
  | .sopiAndi _ _ _ => true
  | .sopiOri _ _ _ => true
  | .sopiXori _ _ _ => true
  | .sopiSlti _ _ _ => true
  | .sopiSltiu _ _ _ => true
  | .sopiSlli _ _ _ => true
  | .sopiSrli _ _ _ => true
  | .sopiSrai _ _ _ => true
  | .sopiMuli _ _ _ => true
  | .lui _ _ => true
  | .ldB _ _ _ => true
  | .ldBu _ _ _ => true
  | .ldH _ _ _ => true
  | .ldHu _ _ _ => true
  | .ldW _ _ _ => true
  | .ldWu _ _ _ => true
  | .ldD _ _ _ => true
  | .ldLl _ _ _ => true
  | .ldAcq _ _ _ => true
  | .stB _ _ _ => true
  | .stH _ _ _ => true
  | .stW _ _ _ => true
  | .stD _ _ _ => true
  | .stRel _ _ _ => true
  | .brEq _ _ _ => true
  | .brNe _ _ _ => true
  | .brLt _ _ _ => true
  | .brGe _ _ _ => true
  | .brLtu _ _ _ => true
  | .brGeu _ _ _ => true
  | .jal _ _ => true
  | .jalr _ _ _ => true
  | .ctlCrr _ _ => true
  | .ctlCrw _ _ _ => true
  | .ctlCrs _ _ _ => true
  | .ctlCrc _ _ _ => true
  | .sysSvc => true
  | .sysTret => true
  | .sysIdle => true
  | .sysFence _ _ => true
  | .sysBrk => true
  | .sysIpf _ _ => true
  | .sysScommit => true
  | .sysDinv _ _ => true
  | .sysDclean _ _ => true
  | .sysDflush _ _ => true
  | .brot _ _ _ => true
  | .setvl _ _ _ _ => true
  | .mdset _ _ => true
  | .samoLl _ _ _ _ _ => true
  | .samoSc _ _ _ _ _ _ => true
  | .samoSwap _ _ _ _ _ _ => true
  | .samoFadd _ _ _ _ _ _ => true
  | .samoFmin _ _ _ _ _ _ => true
  | .samoFmax _ _ _ _ _ _ => true
  | .samoFand _ _ _ _ _ _ => true
  | .samoFor _ _ _ _ _ _ => true
  | .valuAdd _ _ _ _ _ _ => true
  | .valuSub _ _ _ _ _ _ => true
  | .valuRsub _ _ _ _ _ _ => true
  | .valuAnd _ _ _ _ _ _ => true
  | .valuOr _ _ _ _ _ _ => true
  | .valuXor _ _ _ _ _ _ => true
  | .valuAndn _ _ _ _ _ _ => true
  | .valuSll _ _ _ _ _ _ => true
  | .valuSrl _ _ _ _ _ _ => true
  | .valuSra _ _ _ _ _ _ => true
  | .valuMin _ _ _ _ _ _ => true
  | .valuMax _ _ _ _ _ _ => true
  | .valuMinu _ _ _ _ _ _ => true
  | .valuMaxu _ _ _ _ _ _ => true
  | .valuMul _ _ _ _ _ _ => true
  | .valuMulh _ _ _ _ _ _ => true
  | .valuMulhu _ _ _ _ _ _ => true
  | .valuAdds _ _ _ _ _ _ => true
  | .valuSubs _ _ _ _ _ _ => true
  | .valuAddsu _ _ _ _ _ _ => true
  | .valuSubsu _ _ _ _ _ _ => true
  | .valuAbs _ _ _ _ => true
  | .valuMv _ _ _ _ => true
  | .valuMerge _ _ _ _ _ _ => true
  | .valuEq _ _ _ _ _ _ => true
  | .valuNe _ _ _ _ _ _ => true
  | .valuLt _ _ _ _ _ _ => true
  | .valuLtu _ _ _ _ _ _ => true
  | .valuLe _ _ _ _ _ _ => true
  | .valuLeu _ _ _ _ _ _ => true
  | .valuxAdd _ _ _ _ _ => true
  | .valuxSub _ _ _ _ _ => true
  | .valuxRsub _ _ _ _ _ => true
  | .valuxAnd _ _ _ _ _ => true
  | .valuxOr _ _ _ _ _ => true
  | .valuxXor _ _ _ _ _ => true
  | .valuxAndn _ _ _ _ _ => true
  | .valuxSll _ _ _ _ _ => true
  | .valuxSrl _ _ _ _ _ => true
  | .valuxSra _ _ _ _ _ => true
  | .valuxMin _ _ _ _ _ => true
  | .valuxMax _ _ _ _ _ => true
  | .valuxMinu _ _ _ _ _ => true
  | .valuxMaxu _ _ _ _ _ => true
  | .valuxMul _ _ _ _ _ => true
  | .valuxMulh _ _ _ _ _ => true
  | .valuxMulhu _ _ _ _ _ => true
  | .valuxAdds _ _ _ _ _ => true
  | .valuxSubs _ _ _ _ _ => true
  | .valuxAddsu _ _ _ _ _ => true
  | .valuxSubsu _ _ _ _ _ => true
  | .valuxMv _ _ _ => true
  | .valuxMerge _ _ _ _ _ => true
  | .valuxEq _ _ _ _ _ => true
  | .valuxNe _ _ _ _ _ => true
  | .valuxLt _ _ _ _ _ => true
  | .valuxLtu _ _ _ _ _ => true
  | .valuxLe _ _ _ _ _ => true
  | .valuxLeu _ _ _ _ _ => true
  | .vfpAdd _ _ _ _ _ _ => true
  | .vfpSub _ _ _ _ _ _ => true
  | .vfpMul _ _ _ _ _ _ => true
  | .vfpDiv _ _ _ _ _ _ => true
  | .vfpSqrt _ _ _ _ => true
  | .vfpMin _ _ _ _ _ _ => true
  | .vfpMax _ _ _ _ _ _ => true
  | .vfpSgnj _ _ _ _ _ _ => true
  | .vfpSgnjn _ _ _ _ _ _ => true
  | .vfpSgnjx _ _ _ _ _ _ => true
  | .vfpEq _ _ _ _ _ _ => true
  | .vfpLt _ _ _ _ _ _ => true
  | .vfpLe _ _ _ _ _ _ => true
  | .vfpClass _ _ _ _ => true
  | .vfpRec _ _ _ _ => true
  | .vfpRsq _ _ _ _ => true
  | .vfpExp2 _ _ _ _ => true
  | .vfpLog2 _ _ _ _ => true
  | .vfpxAdd _ _ _ _ _ => true
  | .vfpxSub _ _ _ _ _ => true
  | .vfpxMul _ _ _ _ _ => true
  | .vfpxDiv _ _ _ _ _ => true
  | .vfpxMin _ _ _ _ _ => true
  | .vfpxMax _ _ _ _ _ => true
  | .vfpxSgnj _ _ _ _ _ => true
  | .vfpxSgnjn _ _ _ _ _ => true
  | .vfpxSgnjx _ _ _ _ _ => true
  | .vfpxEq _ _ _ _ _ => true
  | .vfpxLt _ _ _ _ _ => true
  | .vfpxLe _ _ _ _ _ => true
  | .vfmaMadd _ _ _ _ _ _ _ _ => true
  | .vfmaNmadd _ _ _ _ _ _ _ _ => true
  | .vfmsMsub _ _ _ _ _ _ _ _ => true
  | .vfmsNmsub _ _ _ _ _ _ _ _ => true
  | .vimacMacc _ _ _ _ _ _ _ _ => true
  | .vimacNmsac _ _ _ _ _ _ _ _ => true
  | .vcvtI2f _ _ _ _ => true
  | .vcvtU2f _ _ _ _ => true
  | .vcvtF2i _ _ _ _ => true
  | .vcvtF2u _ _ _ _ => true
  | .vcvtFwid _ _ _ _ => true
  | .vcvtFnar _ _ _ _ => true
  | .vcvtIwid _ _ _ _ => true
  | .vcvtUwid _ _ _ _ => true
  | .vcvtInar _ _ _ _ => true
  | .vcvtBscale _ _ _ _ _ _ => true
  | .vcvtQuant _ _ _ _ _ _ => true
  | .vcvtDequant _ _ _ _ _ _ => true
  | .vcvtFrnd _ _ _ _ => true
  | .vcvtPack _ _ _ _ => true
  | .vcvtUnpack _ _ _ _ => true
  | .vpredAnd _ _ _ _ => true
  | .vpredOr _ _ _ _ => true
  | .vpredXor _ _ _ _ => true
  | .vpredAndn _ _ _ _ => true
  | .vpredNot _ _ _ => true
  | .vpredSet _ _ => true
  | .vpredClr _ _ => true
  | .vpredFirst _ _ _ => true
  | .vpredCnt _ _ _ => true
  | .vpredMv _ _ _ => true
  | .vpermPerm _ _ _ _ _ _ => true
  | .vpermSlup _ _ _ _ _ => true
  | .vpermSldn _ _ _ _ _ => true
  | .vpermSl1up _ _ _ _ _ => true
  | .vpermSl1dn _ _ _ _ _ => true
  | .vpermRshp _ _ _ _ _ _ => true
  | .vpermXch _ _ _ _ _ _ => true
  | .vpermBcast _ _ _ => true
  | .vpermExt _ _ _ _ _ => true
  | .vpermIns _ _ _ _ => true
  | .vredSum _ _ _ _ _ => true
  | .vredFsum _ _ _ _ _ => true
  | .vredMin _ _ _ _ _ => true
  | .vredMax _ _ _ _ _ => true
  | .vredMinu _ _ _ _ _ => true
  | .vredMaxu _ _ _ _ _ => true
  | .vredFmin _ _ _ _ _ => true
  | .vredFmax _ _ _ _ _ => true
  | .vredAnd _ _ _ _ _ => true
  | .vredOr _ _ _ _ _ => true
  | .vredXor _ _ _ _ _ => true
  | .vscanSum _ _ _ _ _ _ => true
  | .vscanFsum _ _ _ _ _ _ => true
  | .vscanMin _ _ _ _ _ _ => true
  | .vscanMax _ _ _ _ _ _ => true
  | .vscanFmin _ _ _ _ _ _ => true
  | .vscanFmax _ _ _ _ _ _ => true
  | .vselCmpr _ _ _ _ => true
  | .vselExpd _ _ _ _ => true
  | .vselTopk _ _ _ _ _ => true
  | .vselTopkm _ _ _ _ _ => true
  | .vselIota _ _ => true
  | .vselIsect _ _ _ _ _ _ => true
  | .vselEqsplit _ _ _ _ _ _ => true
  | .vrngBits _ _ => true
  | .vrngUnif _ _ => true
  | .vldUnit _ _ _ => true
  | .vldStrd _ _ _ _ => true
  | .vldIdx _ _ _ _ _ => true
  | .vldSeg _ _ _ _ => true
  | .vldTile _ _ _ _ => true
  | .vldSp _ _ _ => true
  | .vldSpx _ _ _ _ => true
  | .vldFill _ _ => true
  | .vldPrb _ _ _ _ _ => true
  | .vstUnit _ _ _ _ => true
  | .vstStrd _ _ _ _ _ => true
  | .vstIdx _ _ _ _ _ _ => true
  | .vstSeg _ _ _ _ _ => true
  | .vstTile _ _ _ _ _ => true
  | .vstSp _ _ _ _ => true
  | .vstSpx _ _ _ _ _ => true
  | .vstSpill _ _ _ => true
  | .vstrSbind _ _ _ => true
  | .vstrSunbind _ _ => true
  | .vstrSadv _ _ _ => true
  | .vatomGld _ _ _ _ _ => true
  | .vatomScc _ _ _ _ _ _ => true
  | .vatomLock _ _ _ => true
  | .vatomUnlock _ _ _ => true
  | .mopMop _ _ _ _ _ _ _ => true
  | .mopMopu _ _ _ _ _ _ => true
  | .mctlMzero _ => true
  | .mctlMdrain _ _ _ _ => true
  | .mctlMld _ _ => true
  | .mctlMst _ _ => true
  | .mctlMset _ => true
  | .mctlZwset _ _ => true
  | .engGsp _ _ _ _ _ _ => true
  | .engSsp _ _ _ _ _ _ => true
  | .engSadd _ _ _ _ _ _ => true
  | .engBapply _ _ _ _ _ _ => true
  | .cpeCpy _ _ _ _ _ _ => true
  | .cpeCwait _ _ _ _ => true
  | .cpeCptr _ _ => true
  | .cpeCdrain _ _ _ => true
  | .barWait _ _ _ _ _ => true
  | .barInit _ _ _ _ _ _ => true
  | .barInv _ _ _ => true
  | .wlPush _ _ _ _ _ _ => true
  | .wlPopb _ _ _ _ _ _ => true
  | .wlDins _ _ _ _ _ _ => true
  | .wlCnt _ _ _ _ => true
  | .taskSpawn _ _ _ _ _ _ => true
  | .taskJoin _ _ _ _ => true
  | .taskDep _ _ _ => true
  | .taskExit => true
  | .trcMark _ _ => true
  | .trcLatch _ => true
  | .trcCtrr _ _ _ => true
  | .setvlStreamGrant _ => false
  | .codeFillComplete _ _ _ => false
  | .idxLineArrival _ => false
  | .arrayAccept _ => false
  | .arrayRetire _ _ => false
  | .cinchLaneCheck _ _ => false
  | .teaselScrub _ => false
  | .teaselBlockRepair _ => false
  | .distributorChoice => false
  | .sliceEnd _ => false
  | .viSliceEnd _ => false
  | .preWinExpiry _ => false
  | .saveComplete _ => false
  | .vectorSequencerChoice _ _ => false
  | .joinPushRetry _ => false
  | .launchEnd _ => false
  | .copyBurst _ _ => false
  | .copyComplete _ => false
  | .engineCommandComplete _ => false
  | .streamRefill _ _ _ => false
  | .cpeWaitReturn _ => false
  | .barrierWake _ => false
  | .lockWordTake _ => false
  | .idleWake _ => false
  | .idleTimeout _ => false
  | .atsTranslationCompletion _ _ _ _ _ _ => false
  | .pageRequestResponse _ _ => false
  | .pageRequestTimeout _ => false
  | .atsInvalidateRequest _ _ _ => false
  | .invalidationComplete _ => false
  | .hostPostedWrite _ _ => false
  | .peerAccess _ _ _ _ => false
  | .peerTimeout _ => false
  | .latchTake _ => false
  | .traceSample _ _ => false
  | .powerManagerTick _ _ => false
  | .clockStepUp => false
  | .thermalTrip => false
  | .powerLoss => false
  | .wakeN _ => false
  | .latchN => false
  | .tsync => false
  | .attest _ => false
  | .certs => false
  | .reset => false
  | .timeset _ => false
  | .status => false
  | .power _ => false
  | .loadObject _ _ _ => false
  | .unloadObject _ _ => false
  | .lrec _ _ => false
  | .killt _ _ => false
  | .tlbInvalidate _ _ _ _ => false
  | .tlbInvalidateVi _ _ _ => false
  | .debugStop _ _ => false
  | .step _ _ => false
  | .resume _ _ => false
  | .debugMemoryViewRead _ _ _ _ => false
  | .debugMemoryViewWrite _ _ _ _ => false
  | .interfaceTableWrite _ _ _ => false
  | .functionLevelReset _ => false
  | .registerWrite _ _ => false
  | .notAnInstruction _ _ => true
  | .stirrupElementService _ _ => false
  | .hostPortCompletion _ _ => false
  | .peerElementCompletion _ _ => false

/-- The 3-bit scope codes 6 and 7 are reserved (R23). -/
def scopeOk (p : BitVec 3) : Bool := p.toNat < 6

/-- SC must be 0 when ORD is 0 (R230, R286). -/
def orderOk (o : Bool) (e : BitVec 2) : Bool := o || e == 0

/-- The checks that a term of `Instr` must pass. -/
def Instr.wellFormed : Instr → Bool
  | .sopAdd _ _ _ => true
  | .sopSub _ _ _ => true
  | .sopAnd _ _ _ => true
  | .sopOr _ _ _ => true
  | .sopXor _ _ _ => true
  | .sopAndn _ _ _ => true
  | .sopSll _ _ _ => true
  | .sopSrl _ _ _ => true
  | .sopSra _ _ _ => true
  | .sopSlt _ _ _ => true
  | .sopSltu _ _ _ => true
  | .sopMin _ _ _ => true
  | .sopMax _ _ _ => true
  | .sopMinu _ _ _ => true
  | .sopMaxu _ _ _ => true
  | .sopMul _ _ _ => true
  | .sopMulh _ _ _ => true
  | .sopMulhu _ _ _ => true
  | .sopDiv _ _ _ => true
  | .sopDivu _ _ _ => true
  | .sopRem _ _ _ => true
  | .sopRemu _ _ _ => true
  | .sopClz _ _ => true
  | .sopCtz _ _ => true
  | .sopPop _ _ => true
  | .sopiAddi _ _ _ => true
  | .sopiAndi _ _ _ => true
  | .sopiOri _ _ _ => true
  | .sopiXori _ _ _ => true
  | .sopiSlti _ _ _ => true
  | .sopiSltiu _ _ _ => true
  | .sopiSlli _ _ _ => true
  | .sopiSrli _ _ _ => true
  | .sopiSrai _ _ _ => true
  | .sopiMuli _ _ _ => true
  | .lui _ _ => true
  | .ldB _ _ _ => true
  | .ldBu _ _ _ => true
  | .ldH _ _ _ => true
  | .ldHu _ _ _ => true
  | .ldW _ _ _ => true
  | .ldWu _ _ _ => true
  | .ldD _ _ _ => true
  | .ldLl _ _ _ => true
  | .ldAcq _ _ p => scopeOk p
  | .stB _ _ _ => true
  | .stH _ _ _ => true
  | .stW _ _ _ => true
  | .stD _ _ _ => true
  | .stRel _ _ p => scopeOk p
  | .brEq _ _ _ => true
  | .brNe _ _ _ => true
  | .brLt _ _ _ => true
  | .brGe _ _ _ => true
  | .brLtu _ _ _ => true
  | .brGeu _ _ _ => true
  | .jal _ _ => true
  | .jalr _ _ _ => true
  | .ctlCrr _ _ => true
  | .ctlCrw _ _ _ => true
  | .ctlCrs _ _ _ => true
  | .ctlCrc _ _ _ => true
  | .sysSvc => true
  | .sysTret => true
  | .sysIdle => true
  | .sysFence k p => scopeOk p && k != 0
  | .sysBrk => true
  | .sysIpf _ _ => true
  | .sysScommit => true
  | .sysDinv a _ => a != 0
  | .sysDclean a _ => a != 0
  | .sysDflush a _ => a != 0
  | .brot _ _ _ => true
  | .setvl _ _ _ _ => true
  | .mdset _ _ => true
  | .samoLl _ _ p _ _ => scopeOk p
  | .samoSc _ _ _ p _ _ => scopeOk p
  | .samoSwap _ _ _ p _ _ => scopeOk p
  | .samoFadd _ _ _ p _ _ => scopeOk p
  | .samoFmin _ _ _ p _ _ => scopeOk p
  | .samoFmax _ _ _ p _ _ => scopeOk p
  | .samoFand _ _ _ p _ _ => scopeOk p
  | .samoFor _ _ _ p _ _ => scopeOk p
  | .valuAdd _ _ _ _ _ _ => true
  | .valuSub _ _ _ _ _ _ => true
  | .valuRsub _ _ _ _ _ _ => true
  | .valuAnd _ _ _ _ _ _ => true
  | .valuOr _ _ _ _ _ _ => true
  | .valuXor _ _ _ _ _ _ => true
  | .valuAndn _ _ _ _ _ _ => true
  | .valuSll _ _ _ _ _ _ => true
  | .valuSrl _ _ _ _ _ _ => true
  | .valuSra _ _ _ _ _ _ => true
  | .valuMin _ _ _ _ _ _ => true
  | .valuMax _ _ _ _ _ _ => true
  | .valuMinu _ _ _ _ _ _ => true
  | .valuMaxu _ _ _ _ _ _ => true
  | .valuMul _ _ _ _ _ _ => true
  | .valuMulh _ _ _ _ _ _ => true
  | .valuMulhu _ _ _ _ _ _ => true
  | .valuAdds _ _ _ _ _ _ => true
  | .valuSubs _ _ _ _ _ _ => true
  | .valuAddsu _ _ _ _ _ _ => true
  | .valuSubsu _ _ _ _ _ _ => true
  | .valuAbs _ _ _ _ => true
  | .valuMv _ _ _ _ => true
  | .valuMerge _ _ _ _ _ _ => true
  | .valuEq _ _ _ _ _ _ => true
  | .valuNe _ _ _ _ _ _ => true
  | .valuLt _ _ _ _ _ _ => true
  | .valuLtu _ _ _ _ _ _ => true
  | .valuLe _ _ _ _ _ _ => true
  | .valuLeu _ _ _ _ _ _ => true
  | .valuxAdd _ _ _ _ _ => true
  | .valuxSub _ _ _ _ _ => true
  | .valuxRsub _ _ _ _ _ => true
  | .valuxAnd _ _ _ _ _ => true
  | .valuxOr _ _ _ _ _ => true
  | .valuxXor _ _ _ _ _ => true
  | .valuxAndn _ _ _ _ _ => true
  | .valuxSll _ _ _ _ _ => true
  | .valuxSrl _ _ _ _ _ => true
  | .valuxSra _ _ _ _ _ => true
  | .valuxMin _ _ _ _ _ => true
  | .valuxMax _ _ _ _ _ => true
  | .valuxMinu _ _ _ _ _ => true
  | .valuxMaxu _ _ _ _ _ => true
  | .valuxMul _ _ _ _ _ => true
  | .valuxMulh _ _ _ _ _ => true
  | .valuxMulhu _ _ _ _ _ => true
  | .valuxAdds _ _ _ _ _ => true
  | .valuxSubs _ _ _ _ _ => true
  | .valuxAddsu _ _ _ _ _ => true
  | .valuxSubsu _ _ _ _ _ => true
  | .valuxMv _ _ _ => true
  | .valuxMerge _ _ _ _ _ => true
  | .valuxEq _ _ _ _ _ => true
  | .valuxNe _ _ _ _ _ => true
  | .valuxLt _ _ _ _ _ => true
  | .valuxLtu _ _ _ _ _ => true
  | .valuxLe _ _ _ _ _ => true
  | .valuxLeu _ _ _ _ _ => true
  | .vfpAdd _ _ _ _ _ _ => true
  | .vfpSub _ _ _ _ _ _ => true
  | .vfpMul _ _ _ _ _ _ => true
  | .vfpDiv _ _ _ _ _ _ => true
  | .vfpSqrt _ _ _ _ => true
  | .vfpMin _ _ _ _ _ _ => true
  | .vfpMax _ _ _ _ _ _ => true
  | .vfpSgnj _ _ _ _ _ _ => true
  | .vfpSgnjn _ _ _ _ _ _ => true
  | .vfpSgnjx _ _ _ _ _ _ => true
  | .vfpEq _ _ _ _ _ _ => true
  | .vfpLt _ _ _ _ _ _ => true
  | .vfpLe _ _ _ _ _ _ => true
  | .vfpClass _ _ _ _ => true
  | .vfpRec _ _ _ _ => true
  | .vfpRsq _ _ _ _ => true
  | .vfpExp2 _ _ _ _ => true
  | .vfpLog2 _ _ _ _ => true
  | .vfpxAdd _ _ _ _ _ => true
  | .vfpxSub _ _ _ _ _ => true
  | .vfpxMul _ _ _ _ _ => true
  | .vfpxDiv _ _ _ _ _ => true
  | .vfpxMin _ _ _ _ _ => true
  | .vfpxMax _ _ _ _ _ => true
  | .vfpxSgnj _ _ _ _ _ => true
  | .vfpxSgnjn _ _ _ _ _ => true
  | .vfpxSgnjx _ _ _ _ _ => true
  | .vfpxEq _ _ _ _ _ => true
  | .vfpxLt _ _ _ _ _ => true
  | .vfpxLe _ _ _ _ _ => true
  | .vfmaMadd _ _ _ _ _ _ _ _ => true
  | .vfmaNmadd _ _ _ _ _ _ _ _ => true
  | .vfmsMsub _ _ _ _ _ _ _ _ => true
  | .vfmsNmsub _ _ _ _ _ _ _ _ => true
  | .vimacMacc _ _ _ _ _ _ _ _ => true
  | .vimacNmsac _ _ _ _ _ _ _ _ => true
  | .vcvtI2f _ _ _ _ => true
  | .vcvtU2f _ _ _ _ => true
  | .vcvtF2i _ _ _ _ => true
  | .vcvtF2u _ _ _ _ => true
  | .vcvtFwid _ _ _ _ => true
  | .vcvtFnar _ _ _ _ => true
  | .vcvtIwid _ _ _ _ => true
  | .vcvtUwid _ _ _ _ => true
  | .vcvtInar _ _ _ _ => true
  | .vcvtBscale _ _ _ _ _ _ => true
  | .vcvtQuant _ _ _ _ _ _ => true
  | .vcvtDequant _ _ _ _ _ _ => true
  | .vcvtFrnd _ _ _ _ => true
  | .vcvtPack _ _ _ _ => true
  | .vcvtUnpack _ _ _ _ => true
  | .vpredAnd _ _ _ _ => true
  | .vpredOr _ _ _ _ => true
  | .vpredXor _ _ _ _ => true
  | .vpredAndn _ _ _ _ => true
  | .vpredNot _ _ _ => true
  | .vpredSet _ _ => true
  | .vpredClr _ _ => true
  | .vpredFirst _ _ _ => true
  | .vpredCnt _ _ _ => true
  | .vpredMv _ _ _ => true
  | .vpermPerm _ _ _ _ _ _ => true
  | .vpermSlup _ _ _ _ _ => true
  | .vpermSldn _ _ _ _ _ => true
  | .vpermSl1up _ _ _ _ _ => true
  | .vpermSl1dn _ _ _ _ _ => true
  | .vpermRshp _ _ _ _ _ _ => true
  | .vpermXch _ _ _ _ _ _ => true
  | .vpermBcast _ _ _ => true
  | .vpermExt _ _ _ _ _ => true
  | .vpermIns _ _ _ _ => true
  | .vredSum _ _ _ _ _ => true
  | .vredFsum _ _ _ _ _ => true
  | .vredMin _ _ _ _ _ => true
  | .vredMax _ _ _ _ _ => true
  | .vredMinu _ _ _ _ _ => true
  | .vredMaxu _ _ _ _ _ => true
  | .vredFmin _ _ _ _ _ => true
  | .vredFmax _ _ _ _ _ => true
  | .vredAnd _ _ _ _ _ => true
  | .vredOr _ _ _ _ _ => true
  | .vredXor _ _ _ _ _ => true
  | .vscanSum _ _ _ _ _ _ => true
  | .vscanFsum _ _ _ _ _ _ => true
  | .vscanMin _ _ _ _ _ _ => true
  | .vscanMax _ _ _ _ _ _ => true
  | .vscanFmin _ _ _ _ _ _ => true
  | .vscanFmax _ _ _ _ _ _ => true
  | .vselCmpr _ _ _ _ => true
  | .vselExpd _ _ _ _ => true
  | .vselTopk _ _ _ _ _ => true
  | .vselTopkm _ _ _ _ _ => true
  | .vselIota _ _ => true
  | .vselIsect _ _ _ _ _ _ => true
  | .vselEqsplit _ _ _ _ _ _ => true
  | .vrngBits _ _ => true
  | .vrngUnif _ _ => true
  | .vldUnit _ _ _ => true
  | .vldStrd _ _ _ _ => true
  | .vldIdx _ _ _ _ _ => true
  | .vldSeg _ _ _ _ => true
  | .vldTile _ _ _ _ => true
  | .vldSp _ _ _ => true
  | .vldSpx _ _ _ _ => true
  | .vldFill _ _ => true
  | .vldPrb _ _ _ _ _ => true
  | .vstUnit _ _ _ _ => true
  | .vstStrd _ _ _ _ _ => true
  | .vstIdx _ _ _ _ _ _ => true
  | .vstSeg _ _ _ _ _ => true
  | .vstTile _ _ _ _ _ => true
  | .vstSp _ _ _ _ => true
  | .vstSpx _ _ _ _ _ => true
  | .vstSpill _ _ _ => true
  | .vstrSbind _ _ _ => true
  | .vstrSunbind _ _ => true
  | .vstrSadv _ _ _ => true
  | .vatomGld _ _ _ _ _ => true
  | .vatomScc _ _ _ _ _ _ => true
  | .vatomLock _ _ _ => true
  | .vatomUnlock _ _ _ => true
  | .mopMop _ _ _ _ _ _ _ => true
  | .mopMopu _ _ _ _ _ _ => true
  | .mctlMzero _ => true
  | .mctlMdrain _ _ _ _ => true
  | .mctlMld _ _ => true
  | .mctlMst _ _ => true
  | .mctlMset _ => true
  | .mctlZwset _ _ => true
  | .engGsp _ _ _ _ _ _ => true
  | .engSsp _ _ _ _ _ _ => true
  | .engSadd _ _ _ _ _ _ => true
  | .engBapply _ _ _ _ _ _ => true
  | .cpeCpy _ _ _ _ _ _ => true
  | .cpeCwait _ _ o e => orderOk o e
  | .cpeCptr _ _ => true
  | .cpeCdrain _ o e => orderOk o e
  | .barWait _ _ _ _ _ => true
  | .barInit _ _ _ _ _ _ => true
  | .barInv _ _ _ => true
  | .wlPush _ _ _ _ _ _ => true
  | .wlPopb _ _ _ _ _ _ => true
  | .wlDins _ _ _ _ _ _ => true
  | .wlCnt _ _ _ _ => true
  | .taskSpawn _ _ _ _ o e => orderOk o e
  | .taskJoin _ _ o e => orderOk o e
  | .taskDep _ _ _ => true
  | .taskExit => true
  | .trcMark _ _ => true
  | .trcLatch _ => true
  | .trcCtrr _ _ _ => true
  | .setvlStreamGrant hart => decide (hart < 4096)
  | .codeFillComplete _ _ _ => true
  | .idxLineArrival hart => decide (hart < 4096)
  | .arrayAccept core => decide (core < 1024)
  | .arrayRetire core _ => decide (core < 1024)
  | .cinchLaneCheck hart _ => decide (hart < 4096)
  | .teaselScrub _ => true
  | .teaselBlockRepair _ => true
  | .distributorChoice => true
  | .sliceEnd hart => decide (hart < 4096)
  | .viSliceEnd hart => decide (hart < 4096)
  | .preWinExpiry hart => decide (hart < 4096)
  | .saveComplete hart => decide (hart < 4096)
  | .vectorSequencerChoice core _ => decide (core < 1024)
  | .joinPushRetry _ => true
  | .launchEnd _ => true
  | .copyBurst engine bytes => decide (engine < 32 ∧ bytes ≤ 4096)
  | .copyComplete _ => true
  | .engineCommandComplete _ => true
  | .streamRefill hart _ _ => decide (hart < 4096)
  | .cpeWaitReturn hart => decide (hart < 4096)
  | .barrierWake hart => decide (hart < 4096)
  | .lockWordTake hart => decide (hart < 4096)
  | .idleWake hart => decide (hart < 4096)
  | .idleTimeout hart => decide (hart < 4096)
  | .atsTranslationCompletion vi _ log2size _ _ _ => decide (vi < 256 ∧ 12 ≤ log2size ∧ log2size ≤ 30)
  | .pageRequestResponse hart _ => decide (hart < 4096)
  | .pageRequestTimeout hart => decide (hart < 4096)
  | .atsInvalidateRequest vi _ log2size => decide (vi < 256 ∧ 12 ≤ log2size ∧ log2size ≤ 30)
  | .invalidationComplete _ => true
  | .hostPostedWrite _ _ => true
  | .peerAccess package _ _ _ => decide (package < 256)
  | .peerTimeout _ => true
  | .latchTake _ => true
  | .traceSample hart _ => decide (hart < 4096)
  | .powerManagerTick _ _ => true
  | .clockStepUp => true
  | .thermalTrip => true
  | .powerLoss => true
  | .wakeN _ => true
  | .latchN => true
  | .tsync => true
  | .attest _ => true
  | .certs => true
  | .reset => true
  | .timeset _ => true
  | .status => true
  | .power _ => true
  | .loadObject vi _ _ => decide (vi < 256)
  | .unloadObject vi _ => decide (vi < 256)
  | .lrec vi _ => decide (vi < 256)
  | .killt vi _ => decide (vi < 256)
  | .tlbInvalidate vi target _ _ => decide (vi < 256 ∧ target < 256)
  | .tlbInvalidateVi vi target _ => decide (vi < 256 ∧ target < 256)
  | .debugStop vi hart => decide (vi < 256 ∧ hart < 4096)
  | .step vi hart => decide (vi < 256 ∧ hart < 4096)
  | .resume vi hart => decide (vi < 256 ∧ hart < 4096)
  | .debugMemoryViewRead vi hart _ _ => decide (vi < 256 ∧ hart < 4096)
  | .debugMemoryViewWrite vi hart _ _ => decide (vi < 256 ∧ hart < 4096)
  | .interfaceTableWrite vi _ _ => decide (vi < 256)
  | .functionLevelReset vi => decide (vi < 256)
  | .registerWrite _ _ => true
  | .notAnInstruction _ _ => true
  | .stirrupElementService _ _ => true
  | .hostPortCompletion _ _ => true
  | .peerElementCompletion _ _ => true

end Sys2Proof
end

