-- ==== Sys2Proof/Decode.lean ====
section
/-! DEFINITION. Decode of a 32-bit word (02 R15 to R27, steps 1 to 3) and the encoder. `decode` is total: a
word that is no instruction becomes `Instr.notAnInstruction` with the step of R27 that it fails. `encode`
gives the word of an instruction; an event has no word. -/

namespace Sys2Proof

/-- The `width` bits of `n` from bit `lo` up. -/
def fld (n lo width : Nat) : Nat := n / 2 ^ lo % 2 ^ width

/-- The field of `n` at `lo`, as a bit vector. -/
def bits (n lo width : Nat) : BitVec width := BitVec.ofNat width (fld n lo width)

/-- Bit `lo` of `n`. -/
def flag (n lo : Nat) : Bool := fld n lo 1 == 1

noncomputable section

/-- The word numbered `n` is no instruction (R27). -/
def notInstr (n : Nat) (why : WordFault) : Instr := .notAnInstruction (BitVec.ofNat 32 n) why

/-- Major 0x01 `sop` (R24, R25). -/
def decodeSop (n : Nat) : Instr :=
  match fld n 0 11 with
  | 0 => .sopAdd (bits n 21 5) (bits n 16 5) (bits n 11 5)
  | 1 => .sopSub (bits n 21 5) (bits n 16 5) (bits n 11 5)
  | 2 => .sopAnd (bits n 21 5) (bits n 16 5) (bits n 11 5)
  | 3 => .sopOr (bits n 21 5) (bits n 16 5) (bits n 11 5)
  | 4 => .sopXor (bits n 21 5) (bits n 16 5) (bits n 11 5)
  | 5 => .sopAndn (bits n 21 5) (bits n 16 5) (bits n 11 5)
  | 6 => .sopSll (bits n 21 5) (bits n 16 5) (bits n 11 5)
  | 7 => .sopSrl (bits n 21 5) (bits n 16 5) (bits n 11 5)
  | 8 => .sopSra (bits n 21 5) (bits n 16 5) (bits n 11 5)
  | 9 => .sopSlt (bits n 21 5) (bits n 16 5) (bits n 11 5)
  | 10 => .sopSltu (bits n 21 5) (bits n 16 5) (bits n 11 5)
  | 11 => .sopMin (bits n 21 5) (bits n 16 5) (bits n 11 5)
  | 12 => .sopMax (bits n 21 5) (bits n 16 5) (bits n 11 5)
  | 13 => .sopMinu (bits n 21 5) (bits n 16 5) (bits n 11 5)
  | 14 => .sopMaxu (bits n 21 5) (bits n 16 5) (bits n 11 5)
  | 15 => .sopMul (bits n 21 5) (bits n 16 5) (bits n 11 5)
  | 16 => .sopMulh (bits n 21 5) (bits n 16 5) (bits n 11 5)
  | 17 => .sopMulhu (bits n 21 5) (bits n 16 5) (bits n 11 5)
  | 18 => .sopDiv (bits n 21 5) (bits n 16 5) (bits n 11 5)
  | 19 => .sopDivu (bits n 21 5) (bits n 16 5) (bits n 11 5)
  | 20 => .sopRem (bits n 21 5) (bits n 16 5) (bits n 11 5)
  | 21 => .sopRemu (bits n 21 5) (bits n 16 5) (bits n 11 5)
  | 22 => if fld n 11 5 = 0 then
      .sopClz (bits n 21 5) (bits n 16 5)
    else notInstr n .reservedField
  | 23 => if fld n 11 5 = 0 then
      .sopCtz (bits n 21 5) (bits n 16 5)
    else notInstr n .reservedField
  | 24 => if fld n 11 5 = 0 then
      .sopPop (bits n 21 5) (bits n 16 5)
    else notInstr n .reservedField
  | _ => notInstr n .reservedFn

/-- Major 0x02 `sopi` (R24, R25). -/
def decodeSopi (n : Nat) : Instr :=
  match fld n 12 4 with
  | 0 => .sopiAddi (bits n 21 5) (bits n 16 5) (bits n 0 12)
  | 1 => .sopiAndi (bits n 21 5) (bits n 16 5) (bits n 0 12)
  | 2 => .sopiOri (bits n 21 5) (bits n 16 5) (bits n 0 12)
  | 3 => .sopiXori (bits n 21 5) (bits n 16 5) (bits n 0 12)
  | 4 => .sopiSlti (bits n 21 5) (bits n 16 5) (bits n 0 12)
  | 5 => .sopiSltiu (bits n 21 5) (bits n 16 5) (bits n 0 12)
  | 6 => if fld n 6 6 = 0 then
      .sopiSlli (bits n 21 5) (bits n 16 5) (bits n 0 6)
    else notInstr n .reservedField
  | 7 => if fld n 6 6 = 0 then
      .sopiSrli (bits n 21 5) (bits n 16 5) (bits n 0 6)
    else notInstr n .reservedField
  | 8 => if fld n 6 6 = 0 then
      .sopiSrai (bits n 21 5) (bits n 16 5) (bits n 0 6)
    else notInstr n .reservedField
  | 9 => .sopiMuli (bits n 21 5) (bits n 16 5) (bits n 0 12)
  | _ => notInstr n .reservedFn

/-- Major 0x03 `lui` (R24, R25). -/
def decodeLui (n : Nat) : Instr :=
  .lui (bits n 21 5) (bits n 0 21)

/-- Major 0x04 `ld` (R24, R25). -/
def decodeLd (n : Nat) : Instr :=
  match fld n 12 4 with
  | 0 => .ldB (bits n 21 5) (bits n 16 5) (bits n 0 12)
  | 1 => .ldBu (bits n 21 5) (bits n 16 5) (bits n 0 12)
  | 2 => .ldH (bits n 21 5) (bits n 16 5) (bits n 0 12)
  | 3 => .ldHu (bits n 21 5) (bits n 16 5) (bits n 0 12)
  | 4 => .ldW (bits n 21 5) (bits n 16 5) (bits n 0 12)
  | 5 => .ldWu (bits n 21 5) (bits n 16 5) (bits n 0 12)
  | 6 => .ldD (bits n 21 5) (bits n 16 5) (bits n 0 12)
  | 7 => .ldLl (bits n 21 5) (bits n 16 5) (bits n 0 12)
  | 8 => if fld n 3 9 = 0 ∧ fld n 0 3 < 6 then
      .ldAcq (bits n 21 5) (bits n 16 5) (bits n 0 3)
    else notInstr n .reservedField
  | _ => notInstr n .reservedFn

/-- Major 0x05 `st` (R24, R25). -/
def decodeSt (n : Nat) : Instr :=
  match fld n 12 4 with
  | 0 => .stB (bits n 21 5) (bits n 16 5) (bits n 0 12)
  | 1 => .stH (bits n 21 5) (bits n 16 5) (bits n 0 12)
  | 2 => .stW (bits n 21 5) (bits n 16 5) (bits n 0 12)
  | 3 => .stD (bits n 21 5) (bits n 16 5) (bits n 0 12)
  | 4 => if fld n 3 9 = 0 ∧ fld n 0 3 < 6 then
      .stRel (bits n 21 5) (bits n 16 5) (bits n 0 3)
    else notInstr n .reservedField
  | _ => notInstr n .reservedFn

/-- Major 0x06 `br` (R24, R25). -/
def decodeBr (n : Nat) : Instr :=
  match fld n 12 4 with
  | 0 => .brEq (bits n 21 5) (bits n 16 5) (bits n 0 12)
  | 1 => .brNe (bits n 21 5) (bits n 16 5) (bits n 0 12)
  | 2 => .brLt (bits n 21 5) (bits n 16 5) (bits n 0 12)
  | 3 => .brGe (bits n 21 5) (bits n 16 5) (bits n 0 12)
  | 4 => .brLtu (bits n 21 5) (bits n 16 5) (bits n 0 12)
  | 5 => .brGeu (bits n 21 5) (bits n 16 5) (bits n 0 12)
  | _ => notInstr n .reservedFn

/-- Major 0x07 `jal` (R24, R25). -/
def decodeJal (n : Nat) : Instr :=
  .jal (bits n 21 5) (bits n 0 21)

/-- Major 0x08 `jalr` (R24, R25). -/
def decodeJalr (n : Nat) : Instr :=
  match fld n 12 4 with
  | 0 => .jalr (bits n 21 5) (bits n 16 5) (bits n 0 12)
  | _ => notInstr n .reservedFn

/-- Major 0x09 `ctl` (R24, R25). -/
def decodeCtl (n : Nat) : Instr :=
  match fld n 12 4 with
  | 0 => if fld n 16 5 = 0 then
      .ctlCrr (bits n 21 5) (bits n 0 12)
    else notInstr n .reservedField
  | 1 => .ctlCrw (bits n 21 5) (bits n 16 5) (bits n 0 12)
  | 2 => .ctlCrs (bits n 21 5) (bits n 16 5) (bits n 0 12)
  | 3 => .ctlCrc (bits n 21 5) (bits n 16 5) (bits n 0 12)
  | _ => notInstr n .reservedFn

/-- Major 0x0a `sys` (R24, R25). -/
def decodeSys (n : Nat) : Instr :=
  match fld n 0 11 with
  | 0 => if fld n 11 15 = 0 then
      .sysSvc
    else notInstr n .reservedField
  | 1 => if fld n 11 15 = 0 then
      .sysTret
    else notInstr n .reservedField
  | 2 => if fld n 11 15 = 0 then
      .sysIdle
    else notInstr n .reservedField
  | 3 => if fld n 11 5 = 0 ∧ fld n 21 5 = 0 ∧ fld n 16 3 < 6 ∧ 0 < fld n 19 2 then
      .sysFence (bits n 19 2) (bits n 16 3)
    else notInstr n .reservedField
  | 4 => if fld n 11 15 = 0 then
      .sysBrk
    else notInstr n .reservedField
  | 5 => if fld n 21 5 = 0 then
      .sysIpf (bits n 16 5) (bits n 11 5)
    else notInstr n .reservedField
  | 6 => if fld n 11 15 = 0 then
      .sysScommit
    else notInstr n .reservedField
  | 7 => if fld n 21 5 = 0 ∧ 0 < fld n 16 5 then
      .sysDinv (bits n 16 5) (bits n 11 5)
    else notInstr n .reservedField
  | 8 => if fld n 21 5 = 0 ∧ 0 < fld n 16 5 then
      .sysDclean (bits n 16 5) (bits n 11 5)
    else notInstr n .reservedField
  | 9 => if fld n 21 5 = 0 ∧ 0 < fld n 16 5 then
      .sysDflush (bits n 16 5) (bits n 11 5)
    else notInstr n .reservedField
  | _ => notInstr n .reservedFn

/-- Major 0x0b `brot` (R24, R25). -/
def decodeBrot (n : Nat) : Instr :=
  match fld n 12 4 with
  | 0 => .brot (bits n 21 5) (bits n 16 5) (bits n 0 12)
  | _ => notInstr n .reservedFn

/-- Major 0x0c `setvl` (R24, R25). -/
def decodeSetvl (n : Nat) : Instr :=
  match fld n 13 3 with
  | 0 => if fld n 0 4 = 0 then
      .setvl (bits n 21 5) (bits n 16 5) (flag n 12) (bits n 4 8)
    else notInstr n .reservedField
  | _ => notInstr n .reservedFn

/-- Major 0x0d `mdset` (R24, R25). -/
def decodeMdset (n : Nat) : Instr :=
  if fld n 0 5 = 0 then
    .mdset (bits n 24 2) (bits n 5 19)
  else notInstr n .reservedField

/-- Major 0x0e `samo` (R24, R25). -/
def decodeSamo (n : Nat) : Instr :=
  match fld n 0 4 with
  | 0 => if fld n 4 2 = 0 ∧ fld n 11 5 = 0 ∧ fld n 8 3 < 6 then
      .samoLl (bits n 21 5) (bits n 16 5) (bits n 8 3) (flag n 7) (flag n 6)
    else notInstr n .reservedField
  | 1 => if fld n 4 2 = 0 ∧ fld n 8 3 < 6 then
      .samoSc (bits n 21 5) (bits n 16 5) (bits n 11 5) (bits n 8 3) (flag n 7) (flag n 6)
    else notInstr n .reservedField
  | 2 => if fld n 4 2 = 0 ∧ fld n 8 3 < 6 then
      .samoSwap (bits n 21 5) (bits n 16 5) (bits n 11 5) (bits n 8 3) (flag n 7) (flag n 6)
    else notInstr n .reservedField
  | 3 => if fld n 4 2 = 0 ∧ fld n 8 3 < 6 then
      .samoFadd (bits n 21 5) (bits n 16 5) (bits n 11 5) (bits n 8 3) (flag n 7) (flag n 6)
    else notInstr n .reservedField
  | 4 => if fld n 4 2 = 0 ∧ fld n 8 3 < 6 then
      .samoFmin (bits n 21 5) (bits n 16 5) (bits n 11 5) (bits n 8 3) (flag n 7) (flag n 6)
    else notInstr n .reservedField
  | 5 => if fld n 4 2 = 0 ∧ fld n 8 3 < 6 then
      .samoFmax (bits n 21 5) (bits n 16 5) (bits n 11 5) (bits n 8 3) (flag n 7) (flag n 6)
    else notInstr n .reservedField
  | 6 => if fld n 4 2 = 0 ∧ fld n 8 3 < 6 then
      .samoFand (bits n 21 5) (bits n 16 5) (bits n 11 5) (bits n 8 3) (flag n 7) (flag n 6)
    else notInstr n .reservedField
  | 7 => if fld n 4 2 = 0 ∧ fld n 8 3 < 6 then
      .samoFor (bits n 21 5) (bits n 16 5) (bits n 11 5) (bits n 8 3) (flag n 7) (flag n 6)
    else notInstr n .reservedField
  | _ => notInstr n .reservedFn

/-- Major 0x10 `valu` (R24, R25). -/
def decodeValu (n : Nat) : Instr :=
  match fld n 0 7 with
  | 0 => .valuAdd (bits n 21 5) (bits n 16 5) (bits n 11 5) (flag n 10) (flag n 9) (bits n 7 2)
  | 1 => .valuSub (bits n 21 5) (bits n 16 5) (bits n 11 5) (flag n 10) (flag n 9) (bits n 7 2)
  | 2 => .valuRsub (bits n 21 5) (bits n 16 5) (bits n 11 5) (flag n 10) (flag n 9) (bits n 7 2)
  | 3 => .valuAnd (bits n 21 5) (bits n 16 5) (bits n 11 5) (flag n 10) (flag n 9) (bits n 7 2)
  | 4 => .valuOr (bits n 21 5) (bits n 16 5) (bits n 11 5) (flag n 10) (flag n 9) (bits n 7 2)
  | 5 => .valuXor (bits n 21 5) (bits n 16 5) (bits n 11 5) (flag n 10) (flag n 9) (bits n 7 2)
  | 6 => .valuAndn (bits n 21 5) (bits n 16 5) (bits n 11 5) (flag n 10) (flag n 9) (bits n 7 2)
  | 7 => .valuSll (bits n 21 5) (bits n 16 5) (bits n 11 5) (flag n 10) (flag n 9) (bits n 7 2)
  | 8 => .valuSrl (bits n 21 5) (bits n 16 5) (bits n 11 5) (flag n 10) (flag n 9) (bits n 7 2)
  | 9 => .valuSra (bits n 21 5) (bits n 16 5) (bits n 11 5) (flag n 10) (flag n 9) (bits n 7 2)
  | 10 => .valuMin (bits n 21 5) (bits n 16 5) (bits n 11 5) (flag n 10) (flag n 9) (bits n 7 2)
  | 11 => .valuMax (bits n 21 5) (bits n 16 5) (bits n 11 5) (flag n 10) (flag n 9) (bits n 7 2)
  | 12 => .valuMinu (bits n 21 5) (bits n 16 5) (bits n 11 5) (flag n 10) (flag n 9) (bits n 7 2)
  | 13 => .valuMaxu (bits n 21 5) (bits n 16 5) (bits n 11 5) (flag n 10) (flag n 9) (bits n 7 2)
  | 14 => .valuMul (bits n 21 5) (bits n 16 5) (bits n 11 5) (flag n 10) (flag n 9) (bits n 7 2)
  | 15 => .valuMulh (bits n 21 5) (bits n 16 5) (bits n 11 5) (flag n 10) (flag n 9) (bits n 7 2)
  | 16 => .valuMulhu (bits n 21 5) (bits n 16 5) (bits n 11 5) (flag n 10) (flag n 9) (bits n 7 2)
  | 17 => .valuAdds (bits n 21 5) (bits n 16 5) (bits n 11 5) (flag n 10) (flag n 9) (bits n 7 2)
  | 18 => .valuSubs (bits n 21 5) (bits n 16 5) (bits n 11 5) (flag n 10) (flag n 9) (bits n 7 2)
  | 19 => .valuAddsu (bits n 21 5) (bits n 16 5) (bits n 11 5) (flag n 10) (flag n 9) (bits n 7 2)
  | 20 => .valuSubsu (bits n 21 5) (bits n 16 5) (bits n 11 5) (flag n 10) (flag n 9) (bits n 7 2)
  | 21 => if fld n 9 1 = 0 ∧ fld n 11 5 = 0 then
      .valuAbs (bits n 21 5) (bits n 16 5) (flag n 10) (bits n 7 2)
    else notInstr n .reservedField
  | 22 => if fld n 9 1 = 0 ∧ fld n 11 5 = 0 then
      .valuMv (bits n 21 5) (bits n 16 5) (flag n 10) (bits n 7 2)
    else notInstr n .reservedField
  | 23 => .valuMerge (bits n 21 5) (bits n 16 5) (bits n 11 5) (flag n 10) (flag n 9) (bits n 7 2)
  | 24 => if fld n 25 1 = 0 then
      .valuEq (bits n 21 4) (bits n 16 5) (bits n 11 5) (flag n 10) (flag n 9) (bits n 7 2)
    else notInstr n .reservedField
  | 25 => if fld n 25 1 = 0 then
      .valuNe (bits n 21 4) (bits n 16 5) (bits n 11 5) (flag n 10) (flag n 9) (bits n 7 2)
    else notInstr n .reservedField
  | 26 => if fld n 25 1 = 0 then
      .valuLt (bits n 21 4) (bits n 16 5) (bits n 11 5) (flag n 10) (flag n 9) (bits n 7 2)
    else notInstr n .reservedField
  | 27 => if fld n 25 1 = 0 then
      .valuLtu (bits n 21 4) (bits n 16 5) (bits n 11 5) (flag n 10) (flag n 9) (bits n 7 2)
    else notInstr n .reservedField
  | 28 => if fld n 25 1 = 0 then
      .valuLe (bits n 21 4) (bits n 16 5) (bits n 11 5) (flag n 10) (flag n 9) (bits n 7 2)
    else notInstr n .reservedField
  | 29 => if fld n 25 1 = 0 then
      .valuLeu (bits n 21 4) (bits n 16 5) (bits n 11 5) (flag n 10) (flag n 9) (bits n 7 2)
    else notInstr n .reservedField
  | _ => notInstr n .reservedFn

/-- Major 0x11 `valux` (R24, R25). -/
def decodeValux (n : Nat) : Instr :=
  match fld n 0 7 with
  | 0 => if fld n 9 1 = 0 then
      .valuxAdd (bits n 21 5) (bits n 16 5) (bits n 11 5) (flag n 10) (bits n 7 2)
    else notInstr n .reservedField
  | 1 => if fld n 9 1 = 0 then
      .valuxSub (bits n 21 5) (bits n 16 5) (bits n 11 5) (flag n 10) (bits n 7 2)
    else notInstr n .reservedField
  | 2 => if fld n 9 1 = 0 then
      .valuxRsub (bits n 21 5) (bits n 16 5) (bits n 11 5) (flag n 10) (bits n 7 2)
    else notInstr n .reservedField
  | 3 => if fld n 9 1 = 0 then
      .valuxAnd (bits n 21 5) (bits n 16 5) (bits n 11 5) (flag n 10) (bits n 7 2)
    else notInstr n .reservedField
  | 4 => if fld n 9 1 = 0 then
      .valuxOr (bits n 21 5) (bits n 16 5) (bits n 11 5) (flag n 10) (bits n 7 2)
    else notInstr n .reservedField
  | 5 => if fld n 9 1 = 0 then
      .valuxXor (bits n 21 5) (bits n 16 5) (bits n 11 5) (flag n 10) (bits n 7 2)
    else notInstr n .reservedField
  | 6 => if fld n 9 1 = 0 then
      .valuxAndn (bits n 21 5) (bits n 16 5) (bits n 11 5) (flag n 10) (bits n 7 2)
    else notInstr n .reservedField
  | 7 => if fld n 9 1 = 0 then
      .valuxSll (bits n 21 5) (bits n 16 5) (bits n 11 5) (flag n 10) (bits n 7 2)
    else notInstr n .reservedField
  | 8 => if fld n 9 1 = 0 then
      .valuxSrl (bits n 21 5) (bits n 16 5) (bits n 11 5) (flag n 10) (bits n 7 2)
    else notInstr n .reservedField
  | 9 => if fld n 9 1 = 0 then
      .valuxSra (bits n 21 5) (bits n 16 5) (bits n 11 5) (flag n 10) (bits n 7 2)
    else notInstr n .reservedField
  | 10 => if fld n 9 1 = 0 then
      .valuxMin (bits n 21 5) (bits n 16 5) (bits n 11 5) (flag n 10) (bits n 7 2)
    else notInstr n .reservedField
  | 11 => if fld n 9 1 = 0 then
      .valuxMax (bits n 21 5) (bits n 16 5) (bits n 11 5) (flag n 10) (bits n 7 2)
    else notInstr n .reservedField
  | 12 => if fld n 9 1 = 0 then
      .valuxMinu (bits n 21 5) (bits n 16 5) (bits n 11 5) (flag n 10) (bits n 7 2)
    else notInstr n .reservedField
  | 13 => if fld n 9 1 = 0 then
      .valuxMaxu (bits n 21 5) (bits n 16 5) (bits n 11 5) (flag n 10) (bits n 7 2)
    else notInstr n .reservedField
  | 14 => if fld n 9 1 = 0 then
      .valuxMul (bits n 21 5) (bits n 16 5) (bits n 11 5) (flag n 10) (bits n 7 2)
    else notInstr n .reservedField
  | 15 => if fld n 9 1 = 0 then
      .valuxMulh (bits n 21 5) (bits n 16 5) (bits n 11 5) (flag n 10) (bits n 7 2)
    else notInstr n .reservedField
  | 16 => if fld n 9 1 = 0 then
      .valuxMulhu (bits n 21 5) (bits n 16 5) (bits n 11 5) (flag n 10) (bits n 7 2)
    else notInstr n .reservedField
  | 17 => if fld n 9 1 = 0 then
      .valuxAdds (bits n 21 5) (bits n 16 5) (bits n 11 5) (flag n 10) (bits n 7 2)
    else notInstr n .reservedField
  | 18 => if fld n 9 1 = 0 then
      .valuxSubs (bits n 21 5) (bits n 16 5) (bits n 11 5) (flag n 10) (bits n 7 2)
    else notInstr n .reservedField
  | 19 => if fld n 9 1 = 0 then
      .valuxAddsu (bits n 21 5) (bits n 16 5) (bits n 11 5) (flag n 10) (bits n 7 2)
    else notInstr n .reservedField
  | 20 => if fld n 9 1 = 0 then
      .valuxSubsu (bits n 21 5) (bits n 16 5) (bits n 11 5) (flag n 10) (bits n 7 2)
    else notInstr n .reservedField
  | 22 => if fld n 9 2 = 0 ∧ fld n 16 5 = 0 then
      .valuxMv (bits n 21 5) (bits n 11 5) (bits n 7 2)
    else notInstr n .reservedField
  | 23 => if fld n 9 1 = 0 then
      .valuxMerge (bits n 21 5) (bits n 16 5) (bits n 11 5) (flag n 10) (bits n 7 2)
    else notInstr n .reservedField
  | 24 => if fld n 9 1 = 0 ∧ fld n 25 1 = 0 then
      .valuxEq (bits n 21 4) (bits n 16 5) (bits n 11 5) (flag n 10) (bits n 7 2)
    else notInstr n .reservedField
  | 25 => if fld n 9 1 = 0 ∧ fld n 25 1 = 0 then
      .valuxNe (bits n 21 4) (bits n 16 5) (bits n 11 5) (flag n 10) (bits n 7 2)
    else notInstr n .reservedField
  | 26 => if fld n 9 1 = 0 ∧ fld n 25 1 = 0 then
      .valuxLt (bits n 21 4) (bits n 16 5) (bits n 11 5) (flag n 10) (bits n 7 2)
    else notInstr n .reservedField
  | 27 => if fld n 9 1 = 0 ∧ fld n 25 1 = 0 then
      .valuxLtu (bits n 21 4) (bits n 16 5) (bits n 11 5) (flag n 10) (bits n 7 2)
    else notInstr n .reservedField
  | 28 => if fld n 9 1 = 0 ∧ fld n 25 1 = 0 then
      .valuxLe (bits n 21 4) (bits n 16 5) (bits n 11 5) (flag n 10) (bits n 7 2)
    else notInstr n .reservedField
  | 29 => if fld n 9 1 = 0 ∧ fld n 25 1 = 0 then
      .valuxLeu (bits n 21 4) (bits n 16 5) (bits n 11 5) (flag n 10) (bits n 7 2)
    else notInstr n .reservedField
  | _ => notInstr n .reservedFn

/-- Major 0x12 `vfp` (R24, R25). -/
def decodeVfp (n : Nat) : Instr :=
  match fld n 0 7 with
  | 0 => .vfpAdd (bits n 21 5) (bits n 16 5) (bits n 11 5) (flag n 10) (flag n 9) (bits n 7 2)
  | 1 => .vfpSub (bits n 21 5) (bits n 16 5) (bits n 11 5) (flag n 10) (flag n 9) (bits n 7 2)
  | 2 => .vfpMul (bits n 21 5) (bits n 16 5) (bits n 11 5) (flag n 10) (flag n 9) (bits n 7 2)
  | 3 => .vfpDiv (bits n 21 5) (bits n 16 5) (bits n 11 5) (flag n 10) (flag n 9) (bits n 7 2)
  | 4 => if fld n 9 1 = 0 ∧ fld n 11 5 = 0 then
      .vfpSqrt (bits n 21 5) (bits n 16 5) (flag n 10) (bits n 7 2)
    else notInstr n .reservedField
  | 5 => .vfpMin (bits n 21 5) (bits n 16 5) (bits n 11 5) (flag n 10) (flag n 9) (bits n 7 2)
  | 6 => .vfpMax (bits n 21 5) (bits n 16 5) (bits n 11 5) (flag n 10) (flag n 9) (bits n 7 2)
  | 7 => .vfpSgnj (bits n 21 5) (bits n 16 5) (bits n 11 5) (flag n 10) (flag n 9) (bits n 7 2)
  | 8 => .vfpSgnjn (bits n 21 5) (bits n 16 5) (bits n 11 5) (flag n 10) (flag n 9) (bits n 7 2)
  | 9 => .vfpSgnjx (bits n 21 5) (bits n 16 5) (bits n 11 5) (flag n 10) (flag n 9) (bits n 7 2)
  | 10 => if fld n 25 1 = 0 then
      .vfpEq (bits n 21 4) (bits n 16 5) (bits n 11 5) (flag n 10) (flag n 9) (bits n 7 2)
    else notInstr n .reservedField
  | 11 => if fld n 25 1 = 0 then
      .vfpLt (bits n 21 4) (bits n 16 5) (bits n 11 5) (flag n 10) (flag n 9) (bits n 7 2)
    else notInstr n .reservedField
  | 12 => if fld n 25 1 = 0 then
      .vfpLe (bits n 21 4) (bits n 16 5) (bits n 11 5) (flag n 10) (flag n 9) (bits n 7 2)
    else notInstr n .reservedField
  | 13 => if fld n 9 1 = 0 ∧ fld n 11 5 = 0 then
      .vfpClass (bits n 21 5) (bits n 16 5) (flag n 10) (bits n 7 2)
    else notInstr n .reservedField
  | 14 => if fld n 9 1 = 0 ∧ fld n 11 5 = 0 then
      .vfpRec (bits n 21 5) (bits n 16 5) (flag n 10) (bits n 7 2)
    else notInstr n .reservedField
  | 15 => if fld n 9 1 = 0 ∧ fld n 11 5 = 0 then
      .vfpRsq (bits n 21 5) (bits n 16 5) (flag n 10) (bits n 7 2)
    else notInstr n .reservedField
  | 16 => if fld n 9 1 = 0 ∧ fld n 11 5 = 0 then
      .vfpExp2 (bits n 21 5) (bits n 16 5) (flag n 10) (bits n 7 2)
    else notInstr n .reservedField
  | 17 => if fld n 9 1 = 0 ∧ fld n 11 5 = 0 then
      .vfpLog2 (bits n 21 5) (bits n 16 5) (flag n 10) (bits n 7 2)
    else notInstr n .reservedField
  | _ => notInstr n .reservedFn

/-- Major 0x13 `vfpx` (R24, R25). -/
def decodeVfpx (n : Nat) : Instr :=
  match fld n 0 7 with
  | 0 => if fld n 9 1 = 0 then
      .vfpxAdd (bits n 21 5) (bits n 16 5) (bits n 11 5) (flag n 10) (bits n 7 2)
    else notInstr n .reservedField
  | 1 => if fld n 9 1 = 0 then
      .vfpxSub (bits n 21 5) (bits n 16 5) (bits n 11 5) (flag n 10) (bits n 7 2)
    else notInstr n .reservedField
  | 2 => if fld n 9 1 = 0 then
      .vfpxMul (bits n 21 5) (bits n 16 5) (bits n 11 5) (flag n 10) (bits n 7 2)
    else notInstr n .reservedField
  | 3 => if fld n 9 1 = 0 then
      .vfpxDiv (bits n 21 5) (bits n 16 5) (bits n 11 5) (flag n 10) (bits n 7 2)
    else notInstr n .reservedField
  | 5 => if fld n 9 1 = 0 then
      .vfpxMin (bits n 21 5) (bits n 16 5) (bits n 11 5) (flag n 10) (bits n 7 2)
    else notInstr n .reservedField
  | 6 => if fld n 9 1 = 0 then
      .vfpxMax (bits n 21 5) (bits n 16 5) (bits n 11 5) (flag n 10) (bits n 7 2)
    else notInstr n .reservedField
  | 7 => if fld n 9 1 = 0 then
      .vfpxSgnj (bits n 21 5) (bits n 16 5) (bits n 11 5) (flag n 10) (bits n 7 2)
    else notInstr n .reservedField
  | 8 => if fld n 9 1 = 0 then
      .vfpxSgnjn (bits n 21 5) (bits n 16 5) (bits n 11 5) (flag n 10) (bits n 7 2)
    else notInstr n .reservedField
  | 9 => if fld n 9 1 = 0 then
      .vfpxSgnjx (bits n 21 5) (bits n 16 5) (bits n 11 5) (flag n 10) (bits n 7 2)
    else notInstr n .reservedField
  | 10 => if fld n 9 1 = 0 ∧ fld n 25 1 = 0 then
      .vfpxEq (bits n 21 4) (bits n 16 5) (bits n 11 5) (flag n 10) (bits n 7 2)
    else notInstr n .reservedField
  | 11 => if fld n 9 1 = 0 ∧ fld n 25 1 = 0 then
      .vfpxLt (bits n 21 4) (bits n 16 5) (bits n 11 5) (flag n 10) (bits n 7 2)
    else notInstr n .reservedField
  | 12 => if fld n 9 1 = 0 ∧ fld n 25 1 = 0 then
      .vfpxLe (bits n 21 4) (bits n 16 5) (bits n 11 5) (flag n 10) (bits n 7 2)
    else notInstr n .reservedField
  | _ => notInstr n .reservedFn

/-- Major 0x14 `vfma` (R24, R25). -/
def decodeVfma (n : Nat) : Instr :=
  match fld n 0 1 with
  | 0 => .vfmaMadd (bits n 21 5) (bits n 16 5) (bits n 11 5) (bits n 6 5) (flag n 5) (flag n 4) (flag n 3) (bits n 1 2)
  | 1 => .vfmaNmadd (bits n 21 5) (bits n 16 5) (bits n 11 5) (bits n 6 5) (flag n 5) (flag n 4) (flag n 3) (bits n 1 2)
  | _ => notInstr n .reservedFn

/-- Major 0x15 `vfms` (R24, R25). -/
def decodeVfms (n : Nat) : Instr :=
  match fld n 0 1 with
  | 0 => .vfmsMsub (bits n 21 5) (bits n 16 5) (bits n 11 5) (bits n 6 5) (flag n 5) (flag n 4) (flag n 3) (bits n 1 2)
  | 1 => .vfmsNmsub (bits n 21 5) (bits n 16 5) (bits n 11 5) (bits n 6 5) (flag n 5) (flag n 4) (flag n 3) (bits n 1 2)
  | _ => notInstr n .reservedFn

/-- Major 0x16 `vimac` (R24, R25). -/
def decodeVimac (n : Nat) : Instr :=
  match fld n 0 1 with
  | 0 => .vimacMacc (bits n 21 5) (bits n 16 5) (bits n 11 5) (bits n 6 5) (flag n 5) (flag n 4) (flag n 3) (bits n 1 2)
  | 1 => .vimacNmsac (bits n 21 5) (bits n 16 5) (bits n 11 5) (bits n 6 5) (flag n 5) (flag n 4) (flag n 3) (bits n 1 2)
  | _ => notInstr n .reservedFn

/-- Major 0x17 `vcvt` (R24, R25). -/
def decodeVcvt (n : Nat) : Instr :=
  match fld n 0 7 with
  | 0 => if fld n 9 1 = 0 ∧ fld n 11 5 = 0 then
      .vcvtI2f (bits n 21 5) (bits n 16 5) (flag n 10) (bits n 7 2)
    else notInstr n .reservedField
  | 1 => if fld n 9 1 = 0 ∧ fld n 11 5 = 0 then
      .vcvtU2f (bits n 21 5) (bits n 16 5) (flag n 10) (bits n 7 2)
    else notInstr n .reservedField
  | 2 => if fld n 9 1 = 0 ∧ fld n 11 5 = 0 then
      .vcvtF2i (bits n 21 5) (bits n 16 5) (flag n 10) (bits n 7 2)
    else notInstr n .reservedField
  | 3 => if fld n 9 1 = 0 ∧ fld n 11 5 = 0 then
      .vcvtF2u (bits n 21 5) (bits n 16 5) (flag n 10) (bits n 7 2)
    else notInstr n .reservedField
  | 4 => if fld n 9 1 = 0 ∧ fld n 11 5 = 0 then
      .vcvtFwid (bits n 21 5) (bits n 16 5) (flag n 10) (bits n 7 2)
    else notInstr n .reservedField
  | 5 => if fld n 9 1 = 0 ∧ fld n 11 5 = 0 then
      .vcvtFnar (bits n 21 5) (bits n 16 5) (flag n 10) (bits n 7 2)
    else notInstr n .reservedField
  | 6 => if fld n 9 1 = 0 ∧ fld n 11 5 = 0 then
      .vcvtIwid (bits n 21 5) (bits n 16 5) (flag n 10) (bits n 7 2)
    else notInstr n .reservedField
  | 7 => if fld n 9 1 = 0 ∧ fld n 11 5 = 0 then
      .vcvtUwid (bits n 21 5) (bits n 16 5) (flag n 10) (bits n 7 2)
    else notInstr n .reservedField
  | 8 => if fld n 9 1 = 0 ∧ fld n 11 5 = 0 then
      .vcvtInar (bits n 21 5) (bits n 16 5) (flag n 10) (bits n 7 2)
    else notInstr n .reservedField
  | 9 => .vcvtBscale (bits n 21 5) (bits n 16 5) (bits n 11 5) (flag n 10) (flag n 9) (bits n 7 2)
  | 10 => .vcvtQuant (bits n 21 5) (bits n 16 5) (bits n 11 5) (flag n 10) (flag n 9) (bits n 7 2)
  | 11 => .vcvtDequant (bits n 21 5) (bits n 16 5) (bits n 11 5) (flag n 10) (flag n 9) (bits n 7 2)
  | 12 => if fld n 9 1 = 0 ∧ fld n 11 5 = 0 then
      .vcvtFrnd (bits n 21 5) (bits n 16 5) (flag n 10) (bits n 7 2)
    else notInstr n .reservedField
  | 13 => if fld n 9 1 = 0 ∧ fld n 11 5 = 0 then
      .vcvtPack (bits n 21 5) (bits n 16 5) (flag n 10) (bits n 7 2)
    else notInstr n .reservedField
  | 14 => if fld n 9 1 = 0 ∧ fld n 11 5 = 0 then
      .vcvtUnpack (bits n 21 5) (bits n 16 5) (flag n 10) (bits n 7 2)
    else notInstr n .reservedField
  | _ => notInstr n .reservedFn

/-- Major 0x18 `vpred` (R24, R25). -/
def decodeVpred (n : Nat) : Instr :=
  match fld n 0 7 with
  | 0 => if fld n 9 2 = 0 ∧ fld n 15 1 = 0 ∧ fld n 20 1 = 0 ∧ fld n 25 1 = 0 then
      .vpredAnd (bits n 21 4) (bits n 16 4) (bits n 11 4) (bits n 7 2)
    else notInstr n .reservedField
  | 1 => if fld n 9 2 = 0 ∧ fld n 15 1 = 0 ∧ fld n 20 1 = 0 ∧ fld n 25 1 = 0 then
      .vpredOr (bits n 21 4) (bits n 16 4) (bits n 11 4) (bits n 7 2)
    else notInstr n .reservedField
  | 2 => if fld n 9 2 = 0 ∧ fld n 15 1 = 0 ∧ fld n 20 1 = 0 ∧ fld n 25 1 = 0 then
      .vpredXor (bits n 21 4) (bits n 16 4) (bits n 11 4) (bits n 7 2)
    else notInstr n .reservedField
  | 3 => if fld n 9 2 = 0 ∧ fld n 15 1 = 0 ∧ fld n 20 1 = 0 ∧ fld n 25 1 = 0 then
      .vpredAndn (bits n 21 4) (bits n 16 4) (bits n 11 4) (bits n 7 2)
    else notInstr n .reservedField
  | 4 => if fld n 9 7 = 0 ∧ fld n 20 1 = 0 ∧ fld n 25 1 = 0 then
      .vpredNot (bits n 21 4) (bits n 16 4) (bits n 7 2)
    else notInstr n .reservedField
  | 5 => if fld n 9 12 = 0 ∧ fld n 25 1 = 0 then
      .vpredSet (bits n 21 4) (bits n 7 2)
    else notInstr n .reservedField
  | 6 => if fld n 9 12 = 0 ∧ fld n 25 1 = 0 then
      .vpredClr (bits n 21 4) (bits n 7 2)
    else notInstr n .reservedField
  | 7 => if fld n 9 7 = 0 ∧ fld n 20 1 = 0 ∧ fld n 25 1 = 0 then
      .vpredFirst (bits n 21 4) (bits n 16 4) (bits n 7 2)
    else notInstr n .reservedField
  | 8 => if fld n 9 7 = 0 ∧ fld n 20 1 = 0 ∧ fld n 25 1 = 0 then
      .vpredCnt (bits n 21 4) (bits n 16 4) (bits n 7 2)
    else notInstr n .reservedField
  | 9 => if fld n 9 7 = 0 ∧ fld n 20 1 = 0 ∧ fld n 25 1 = 0 then
      .vpredMv (bits n 21 4) (bits n 16 4) (bits n 7 2)
    else notInstr n .reservedField
  | _ => notInstr n .reservedFn

/-- Major 0x19 `vperm` (R24, R25). -/
def decodeVperm (n : Nat) : Instr :=
  match fld n 0 7 with
  | 0 => .vpermPerm (bits n 21 5) (bits n 16 5) (bits n 11 5) (flag n 10) (flag n 9) (bits n 7 2)
  | 1 => if fld n 9 1 = 0 then
      .vpermSlup (bits n 21 5) (bits n 16 5) (bits n 11 5) (flag n 10) (bits n 7 2)
    else notInstr n .reservedField
  | 2 => if fld n 9 1 = 0 then
      .vpermSldn (bits n 21 5) (bits n 16 5) (bits n 11 5) (flag n 10) (bits n 7 2)
    else notInstr n .reservedField
  | 3 => if fld n 9 1 = 0 then
      .vpermSl1up (bits n 21 5) (bits n 16 5) (bits n 11 5) (flag n 10) (bits n 7 2)
    else notInstr n .reservedField
  | 4 => if fld n 9 1 = 0 then
      .vpermSl1dn (bits n 21 5) (bits n 16 5) (bits n 11 5) (flag n 10) (bits n 7 2)
    else notInstr n .reservedField
  | 5 => .vpermRshp (bits n 21 5) (bits n 16 5) (bits n 11 5) (flag n 10) (flag n 9) (bits n 7 2)
  | 6 => .vpermXch (bits n 21 5) (bits n 16 5) (bits n 11 5) (flag n 10) (flag n 9) (bits n 7 2)
  | 7 => if fld n 9 2 = 0 ∧ fld n 16 5 = 0 then
      .vpermBcast (bits n 21 5) (bits n 11 5) (bits n 7 2)
    else notInstr n .reservedField
  | 8 => if fld n 9 1 = 0 then
      .vpermExt (bits n 21 5) (bits n 16 5) (bits n 11 5) (flag n 10) (bits n 7 2)
    else notInstr n .reservedField
  | 9 => if fld n 9 2 = 0 then
      .vpermIns (bits n 21 5) (bits n 16 5) (bits n 11 5) (bits n 7 2)
    else notInstr n .reservedField
  | _ => notInstr n .reservedFn

/-- Major 0x1a `vred` (R24, R25). -/
def decodeVred (n : Nat) : Instr :=
  match fld n 0 7 with
  | 0 => if fld n 9 1 = 0 then
      .vredSum (bits n 21 5) (bits n 16 5) (bits n 11 5) (flag n 10) (bits n 7 2)
    else notInstr n .reservedField
  | 1 => if fld n 9 1 = 0 then
      .vredFsum (bits n 21 5) (bits n 16 5) (bits n 11 5) (flag n 10) (bits n 7 2)
    else notInstr n .reservedField
  | 2 => if fld n 9 1 = 0 then
      .vredMin (bits n 21 5) (bits n 16 5) (bits n 11 5) (flag n 10) (bits n 7 2)
    else notInstr n .reservedField
  | 3 => if fld n 9 1 = 0 then
      .vredMax (bits n 21 5) (bits n 16 5) (bits n 11 5) (flag n 10) (bits n 7 2)
    else notInstr n .reservedField
  | 4 => if fld n 9 1 = 0 then
      .vredMinu (bits n 21 5) (bits n 16 5) (bits n 11 5) (flag n 10) (bits n 7 2)
    else notInstr n .reservedField
  | 5 => if fld n 9 1 = 0 then
      .vredMaxu (bits n 21 5) (bits n 16 5) (bits n 11 5) (flag n 10) (bits n 7 2)
    else notInstr n .reservedField
  | 6 => if fld n 9 1 = 0 then
      .vredFmin (bits n 21 5) (bits n 16 5) (bits n 11 5) (flag n 10) (bits n 7 2)
    else notInstr n .reservedField
  | 7 => if fld n 9 1 = 0 then
      .vredFmax (bits n 21 5) (bits n 16 5) (bits n 11 5) (flag n 10) (bits n 7 2)
    else notInstr n .reservedField
  | 8 => if fld n 9 1 = 0 then
      .vredAnd (bits n 21 5) (bits n 16 5) (bits n 11 5) (flag n 10) (bits n 7 2)
    else notInstr n .reservedField
  | 9 => if fld n 9 1 = 0 then
      .vredOr (bits n 21 5) (bits n 16 5) (bits n 11 5) (flag n 10) (bits n 7 2)
    else notInstr n .reservedField
  | 10 => if fld n 9 1 = 0 then
      .vredXor (bits n 21 5) (bits n 16 5) (bits n 11 5) (flag n 10) (bits n 7 2)
    else notInstr n .reservedField
  | _ => notInstr n .reservedFn

/-- Major 0x1b `vscan` (R24, R25). -/
def decodeVscan (n : Nat) : Instr :=
  match fld n 0 6 with
  | 0 => if fld n 9 1 = 0 then
      .vscanSum (bits n 21 5) (bits n 16 5) (bits n 11 5) (flag n 10) (bits n 7 2) (flag n 6)
    else notInstr n .reservedField
  | 1 => if fld n 9 1 = 0 then
      .vscanFsum (bits n 21 5) (bits n 16 5) (bits n 11 5) (flag n 10) (bits n 7 2) (flag n 6)
    else notInstr n .reservedField
  | 2 => if fld n 9 1 = 0 then
      .vscanMin (bits n 21 5) (bits n 16 5) (bits n 11 5) (flag n 10) (bits n 7 2) (flag n 6)
    else notInstr n .reservedField
  | 3 => if fld n 9 1 = 0 then
      .vscanMax (bits n 21 5) (bits n 16 5) (bits n 11 5) (flag n 10) (bits n 7 2) (flag n 6)
    else notInstr n .reservedField
  | 4 => if fld n 9 1 = 0 then
      .vscanFmin (bits n 21 5) (bits n 16 5) (bits n 11 5) (flag n 10) (bits n 7 2) (flag n 6)
    else notInstr n .reservedField
  | 5 => if fld n 9 1 = 0 then
      .vscanFmax (bits n 21 5) (bits n 16 5) (bits n 11 5) (flag n 10) (bits n 7 2) (flag n 6)
    else notInstr n .reservedField
  | _ => notInstr n .reservedFn

/-- Major 0x1c `vsel` (R24, R25). -/
def decodeVsel (n : Nat) : Instr :=
  match fld n 0 7 with
  | 0 => if fld n 9 1 = 0 ∧ fld n 11 5 = 0 then
      .vselCmpr (bits n 21 5) (bits n 16 5) (flag n 10) (bits n 7 2)
    else notInstr n .reservedField
  | 1 => if fld n 9 1 = 0 ∧ fld n 11 5 = 0 then
      .vselExpd (bits n 21 5) (bits n 16 5) (flag n 10) (bits n 7 2)
    else notInstr n .reservedField
  | 2 => if fld n 9 1 = 0 then
      .vselTopk (bits n 21 5) (bits n 16 5) (bits n 11 5) (flag n 10) (bits n 7 2)
    else notInstr n .reservedField
  | 3 => if fld n 9 1 = 0 ∧ fld n 25 1 = 0 then
      .vselTopkm (bits n 21 4) (bits n 16 5) (bits n 11 5) (flag n 10) (bits n 7 2)
    else notInstr n .reservedField
  | 4 => if fld n 9 12 = 0 then
      .vselIota (bits n 21 5) (bits n 7 2)
    else notInstr n .reservedField
  | 5 => .vselIsect (bits n 21 5) (bits n 16 5) (bits n 11 5) (flag n 10) (flag n 9) (bits n 7 2)
  | 6 => .vselEqsplit (bits n 21 5) (bits n 16 5) (bits n 11 5) (flag n 10) (flag n 9) (bits n 7 2)
  | _ => notInstr n .reservedFn

/-- Major 0x1d `vrng` (R24, R25). -/
def decodeVrng (n : Nat) : Instr :=
  match fld n 0 7 with
  | 0 => if fld n 9 12 = 0 then
      .vrngBits (bits n 21 5) (bits n 7 2)
    else notInstr n .reservedField
  | 1 => if fld n 9 12 = 0 then
      .vrngUnif (bits n 21 5) (bits n 7 2)
    else notInstr n .reservedField
  | _ => notInstr n .reservedFn

/-- Major 0x20 `vld` (R24, R25). -/
def decodeVld (n : Nat) : Instr :=
  match fld n 0 4 with
  | 0 => if fld n 4 3 = 0 ∧ fld n 9 7 = 0 then
      .vldUnit (bits n 21 5) (bits n 16 5) (bits n 7 2)
    else notInstr n .reservedField
  | 1 => if fld n 4 3 = 0 ∧ fld n 9 2 = 0 then
      .vldStrd (bits n 21 5) (bits n 16 5) (bits n 11 5) (bits n 7 2)
    else notInstr n .reservedField
  | 2 => if fld n 4 3 = 0 ∧ fld n 10 1 = 0 then
      .vldIdx (bits n 21 5) (bits n 16 5) (bits n 11 5) (flag n 9) (bits n 7 2)
    else notInstr n .reservedField
  | 3 => if fld n 9 7 = 0 then
      .vldSeg (bits n 21 5) (bits n 16 5) (bits n 7 2) (bits n 4 3)
    else notInstr n .reservedField
  | 4 => if fld n 4 3 = 0 ∧ fld n 9 2 = 0 then
      .vldTile (bits n 21 5) (bits n 16 5) (bits n 11 5) (bits n 7 2)
    else notInstr n .reservedField
  | 5 => if fld n 4 3 = 0 ∧ fld n 9 7 = 0 then
      .vldSp (bits n 21 5) (bits n 16 5) (bits n 7 2)
    else notInstr n .reservedField
  | 6 => if fld n 4 3 = 0 ∧ fld n 9 2 = 0 then
      .vldSpx (bits n 21 5) (bits n 16 5) (bits n 11 5) (bits n 7 2)
    else notInstr n .reservedField
  | 7 => if fld n 4 12 = 0 then
      .vldFill (bits n 21 5) (bits n 16 5)
    else notInstr n .reservedField
  | 8 => if fld n 4 3 = 0 ∧ fld n 10 1 = 0 then
      .vldPrb (bits n 21 5) (bits n 16 5) (bits n 11 5) (flag n 9) (bits n 7 2)
    else notInstr n .reservedField
  | _ => notInstr n .reservedFn

/-- Major 0x21 `vst` (R24, R25). -/
def decodeVst (n : Nat) : Instr :=
  match fld n 0 4 with
  | 0 => if fld n 4 3 = 0 ∧ fld n 9 1 = 0 ∧ fld n 11 5 = 0 then
      .vstUnit (bits n 21 5) (bits n 16 5) (flag n 10) (bits n 7 2)
    else notInstr n .reservedField
  | 1 => if fld n 4 3 = 0 ∧ fld n 9 1 = 0 then
      .vstStrd (bits n 21 5) (bits n 16 5) (bits n 11 5) (flag n 10) (bits n 7 2)
    else notInstr n .reservedField
  | 2 => if fld n 4 3 = 0 then
      .vstIdx (bits n 21 5) (bits n 16 5) (bits n 11 5) (flag n 10) (flag n 9) (bits n 7 2)
    else notInstr n .reservedField
  | 3 => if fld n 9 1 = 0 ∧ fld n 11 5 = 0 then
      .vstSeg (bits n 21 5) (bits n 16 5) (flag n 10) (bits n 7 2) (bits n 4 3)
    else notInstr n .reservedField
  | 4 => if fld n 4 3 = 0 ∧ fld n 9 1 = 0 then
      .vstTile (bits n 21 5) (bits n 16 5) (bits n 11 5) (flag n 10) (bits n 7 2)
    else notInstr n .reservedField
  | 5 => if fld n 4 3 = 0 ∧ fld n 9 1 = 0 ∧ fld n 11 5 = 0 then
      .vstSp (bits n 21 5) (bits n 16 5) (flag n 10) (bits n 7 2)
    else notInstr n .reservedField
  | 6 => if fld n 4 3 = 0 ∧ fld n 9 1 = 0 then
      .vstSpx (bits n 21 5) (bits n 16 5) (bits n 11 5) (flag n 10) (bits n 7 2)
    else notInstr n .reservedField
  | 7 => if fld n 4 6 = 0 ∧ fld n 11 5 = 0 then
      .vstSpill (bits n 21 5) (bits n 16 5) (flag n 10)
    else notInstr n .reservedField
  | _ => notInstr n .reservedFn

/-- Major 0x22 `vstr` (R24, R25). -/
def decodeVstr (n : Nat) : Instr :=
  match fld n 0 7 with
  | 0 => if fld n 9 7 = 0 ∧ fld n 21 2 = 0 ∧ fld n 25 1 = 0 then
      .vstrSbind (bits n 23 2) (bits n 16 5) (bits n 7 2)
    else notInstr n .reservedField
  | 1 => if fld n 9 12 = 0 then
      .vstrSunbind (bits n 21 5) (bits n 7 2)
    else notInstr n .reservedField
  | 2 => if fld n 9 2 = 0 ∧ fld n 16 5 = 0 then
      .vstrSadv (bits n 21 5) (bits n 11 5) (bits n 7 2)
    else notInstr n .reservedField
  | _ => notInstr n .reservedFn

/-- Major 0x23 `vatom` (R24, R25). -/
def decodeVatom (n : Nat) : Instr :=
  match fld n 0 7 with
  | 0 => if fld n 10 1 = 0 then
      .vatomGld (bits n 21 5) (bits n 16 5) (bits n 11 5) (flag n 9) (bits n 7 2)
    else notInstr n .reservedField
  | 1 => .vatomScc (bits n 21 5) (bits n 16 5) (bits n 11 5) (flag n 10) (flag n 9) (bits n 7 2)
  | 2 => if fld n 7 2 = 0 ∧ fld n 10 1 = 0 ∧ fld n 21 5 = 0 then
      .vatomLock (bits n 16 5) (bits n 11 5) (flag n 9)
    else notInstr n .reservedField
  | 3 => if fld n 7 2 = 0 ∧ fld n 10 1 = 0 ∧ fld n 21 5 = 0 then
      .vatomUnlock (bits n 16 5) (bits n 11 5) (flag n 9)
    else notInstr n .reservedField
  | _ => notInstr n .reservedFn

/-- Major 0x28 `mop` (R24, R25). -/
def decodeMop (n : Nat) : Instr :=
  match fld n 0 1 with
  | 0 => .mopMop (bits n 23 3) (bits n 18 5) (bits n 13 5) (bits n 8 5) (bits n 3 5) (flag n 2) (flag n 1)
  | 1 => if fld n 2 1 = 0 then
      .mopMopu (bits n 23 3) (bits n 18 5) (bits n 13 5) (bits n 8 5) (bits n 3 5) (flag n 1)
    else notInstr n .reservedField
  | _ => notInstr n .reservedFn

/-- Major 0x29 `mctl` (R24, R25). -/
def decodeMctl (n : Nat) : Instr :=
  match fld n 0 7 with
  | 0 => if fld n 7 4 = 0 ∧ fld n 14 12 = 0 then
      .mctlMzero (bits n 11 3)
    else notInstr n .reservedField
  | 1 => if fld n 9 2 = 0 ∧ fld n 14 2 = 0 then
      .mctlMdrain (bits n 21 5) (bits n 16 5) (bits n 11 3) (bits n 7 2)
    else notInstr n .reservedField
  | 2 => if fld n 7 4 = 0 ∧ fld n 14 2 = 0 ∧ fld n 21 5 = 0 then
      .mctlMld (bits n 16 5) (bits n 11 3)
    else notInstr n .reservedField
  | 3 => if fld n 7 4 = 0 ∧ fld n 14 2 = 0 ∧ fld n 21 5 = 0 then
      .mctlMst (bits n 16 5) (bits n 11 3)
    else notInstr n .reservedField
  | 4 => if fld n 7 9 = 0 ∧ fld n 21 5 = 0 then
      .mctlMset (bits n 16 5)
    else notInstr n .reservedField
  | 5 => if fld n 7 4 = 0 ∧ fld n 14 2 = 0 ∧ fld n 21 5 = 0 then
      .mctlZwset (bits n 16 5) (bits n 11 3)
    else notInstr n .reservedField
  | _ => notInstr n .reservedFn

/-- Major 0x30 `eng` (R24, R25). -/
def decodeEng (n : Nat) : Instr :=
  match fld n 4 2 with
  | 0 => .engGsp (bits n 21 5) (bits n 16 5) (bits n 11 5) (bits n 6 5) (bits n 2 2) (bits n 0 2)
  | 1 => .engSsp (bits n 21 5) (bits n 16 5) (bits n 11 5) (bits n 6 5) (bits n 2 2) (bits n 0 2)
  | 2 => .engSadd (bits n 21 5) (bits n 16 5) (bits n 11 5) (bits n 6 5) (bits n 2 2) (bits n 0 2)
  | 3 => .engBapply (bits n 21 5) (bits n 16 5) (bits n 11 5) (bits n 6 5) (bits n 2 2) (bits n 0 2)
  | _ => notInstr n .reservedFn

/-- Major 0x31 `cpe` (R24, R25). -/
def decodeCpe (n : Nat) : Instr :=
  match fld n 4 2 with
  | 0 => if fld n 6 1 = 0 then
      .cpeCpy (bits n 21 5) (bits n 16 5) (bits n 11 5) (bits n 7 4) (bits n 2 2) (bits n 0 2)
    else notInstr n .reservedField
  | 1 => if fld n 3 1 = 0 ∧ fld n 6 10 = 0 ∧ (fld n 2 1 = 0 → fld n 0 2 = 0) then
      .cpeCwait (bits n 21 5) (bits n 16 5) (flag n 2) (bits n 0 2)
    else notInstr n .reservedField
  | 2 => if fld n 0 4 = 0 ∧ fld n 6 10 = 0 then
      .cpeCptr (bits n 21 5) (bits n 16 5)
    else notInstr n .reservedField
  | 3 => if fld n 3 1 = 0 ∧ fld n 6 15 = 0 ∧ (fld n 2 1 = 0 → fld n 0 2 = 0) then
      .cpeCdrain (bits n 21 5) (flag n 2) (bits n 0 2)
    else notInstr n .reservedField
  | _ => notInstr n .reservedFn

/-- Major 0x32 `bar` (R24, R25). -/
def decodeBar (n : Nat) : Instr :=
  match fld n 4 2 with
  | 0 => if fld n 6 5 = 0 then
      .barWait (bits n 21 5) (bits n 16 5) (bits n 11 5) (bits n 2 2) (bits n 0 2)
    else notInstr n .reservedField
  | 1 => if fld n 2 1 = 0 then
      .barInit (bits n 21 5) (bits n 16 5) (bits n 11 5) (bits n 6 5) (flag n 3) (bits n 0 2)
    else notInstr n .reservedField
  | 2 => if fld n 2 1 = 0 ∧ fld n 6 10 = 0 ∧ fld n 21 5 = 0 then
      .barInv (bits n 16 5) (flag n 3) (bits n 0 2)
    else notInstr n .reservedField
  | _ => notInstr n .reservedFn

/-- Major 0x33 `wl` (R24, R25). -/
def decodeWl (n : Nat) : Instr :=
  match fld n 4 2 with
  | 0 => if fld n 2 1 = 0 then
      .wlPush (bits n 21 5) (bits n 16 5) (bits n 11 5) (bits n 6 5) (flag n 3) (bits n 0 2)
    else notInstr n .reservedField
  | 1 => if fld n 3 1 = 0 then
      .wlPopb (bits n 21 5) (bits n 16 5) (bits n 11 5) (bits n 6 5) (flag n 2) (bits n 0 2)
    else notInstr n .reservedField
  | 2 => if fld n 2 1 = 0 then
      .wlDins (bits n 21 5) (bits n 16 5) (bits n 11 5) (bits n 6 5) (flag n 3) (bits n 0 2)
    else notInstr n .reservedField
  | 3 => if fld n 3 1 = 0 ∧ fld n 6 10 = 0 then
      .wlCnt (bits n 21 5) (bits n 16 5) (flag n 2) (bits n 0 2)
    else notInstr n .reservedField
  | _ => notInstr n .reservedFn

/-- Major 0x34 `task` (R24, R25). -/
def decodeTask (n : Nat) : Instr :=
  match fld n 4 2 with
  | 0 => if fld n 2 1 = 0 ∧ fld n 6 1 = 0 ∧ (fld n 3 1 = 0 → fld n 0 2 = 0) then
      .taskSpawn (bits n 21 5) (bits n 16 5) (bits n 11 5) (bits n 7 4) (flag n 3) (bits n 0 2)
    else notInstr n .reservedField
  | 1 => if fld n 2 1 = 0 ∧ fld n 6 5 = 0 ∧ fld n 21 5 = 0 ∧ (fld n 3 1 = 0 → fld n 0 2 = 0) then
      .taskJoin (bits n 16 5) (bits n 11 5) (flag n 3) (bits n 0 2)
    else notInstr n .reservedField
  | 2 => if fld n 0 4 = 0 ∧ fld n 6 5 = 0 then
      .taskDep (bits n 21 5) (bits n 16 5) (bits n 11 5)
    else notInstr n .reservedField
  | 3 => if fld n 0 4 = 0 ∧ fld n 6 20 = 0 then
      .taskExit
    else notInstr n .reservedField
  | _ => notInstr n .reservedFn

/-- Major 0x35 `trc` (R24, R25). -/
def decodeTrc (n : Nat) : Instr :=
  match fld n 4 2 with
  | 0 => if fld n 0 4 = 0 ∧ fld n 6 5 = 0 ∧ fld n 21 5 = 0 then
      .trcMark (bits n 16 5) (bits n 11 5)
    else notInstr n .reservedField
  | 1 => if fld n 0 4 = 0 ∧ fld n 6 15 = 0 then
      .trcLatch (bits n 21 5)
    else notInstr n .reservedField
  | 2 => if fld n 0 4 = 0 ∧ fld n 6 5 = 0 then
      .trcCtrr (bits n 21 5) (bits n 16 5) (bits n 11 5)
    else notInstr n .reservedField
  | _ => notInstr n .reservedFn

/-- Decode of the word numbered `n`: OP selects the major (R15, R24). -/
def decodeNat (n : Nat) : Instr :=
  match fld n 26 6 with
  | 1 => decodeSop n
  | 2 => decodeSopi n
  | 3 => decodeLui n
  | 4 => decodeLd n
  | 5 => decodeSt n
  | 6 => decodeBr n
  | 7 => decodeJal n
  | 8 => decodeJalr n
  | 9 => decodeCtl n
  | 10 => decodeSys n
  | 11 => decodeBrot n
  | 12 => decodeSetvl n
  | 13 => decodeMdset n
  | 14 => decodeSamo n
  | 16 => decodeValu n
  | 17 => decodeValux n
  | 18 => decodeVfp n
  | 19 => decodeVfpx n
  | 20 => decodeVfma n
  | 21 => decodeVfms n
  | 22 => decodeVimac n
  | 23 => decodeVcvt n
  | 24 => decodeVpred n
  | 25 => decodeVperm n
  | 26 => decodeVred n
  | 27 => decodeVscan n
  | 28 => decodeVsel n
  | 29 => decodeVrng n
  | 32 => decodeVld n
  | 33 => decodeVst n
  | 34 => decodeVstr n
  | 35 => decodeVatom n
  | 40 => decodeMop n
  | 41 => decodeMctl n
  | 48 => decodeEng n
  | 49 => decodeCpe n
  | 50 => decodeBar n
  | 51 => decodeWl n
  | 52 => decodeTask n
  | 53 => decodeTrc n
  | _ => notInstr n .illegalMajor

/-- Decode of a word, total on every word (R27). -/
def decode (w : BitVec 32) : Instr := decodeNat w.toNat

/-- The instruction that the decoder reads from a table row's bits: a 32-bit word, little-endian in memory
(R3, R14), so bit 0 of the table is bit 0 of the word. An event row has no bits and no word. -/
def decodeTableWord (nbits w : Nat) : Option Instr :=
  if nbits = 0 ∨ 32 < nbits then none
  else
    match decode (BitVec.ofNat 32 w) with
    | .notAnInstruction _ _ => none
    | i => some i

end

/-- The word of an instruction as a number, by the layouts of R16. An event has no word and gives 0. -/
def encodeNat : Instr → Nat
  | .sopAdd d a b => 67108864 + d.toNat * 2097152 + a.toNat * 65536 + b.toNat * 2048
  | .sopSub d a b => 67108865 + d.toNat * 2097152 + a.toNat * 65536 + b.toNat * 2048
  | .sopAnd d a b => 67108866 + d.toNat * 2097152 + a.toNat * 65536 + b.toNat * 2048
  | .sopOr d a b => 67108867 + d.toNat * 2097152 + a.toNat * 65536 + b.toNat * 2048
  | .sopXor d a b => 67108868 + d.toNat * 2097152 + a.toNat * 65536 + b.toNat * 2048
  | .sopAndn d a b => 67108869 + d.toNat * 2097152 + a.toNat * 65536 + b.toNat * 2048
  | .sopSll d a b => 67108870 + d.toNat * 2097152 + a.toNat * 65536 + b.toNat * 2048
  | .sopSrl d a b => 67108871 + d.toNat * 2097152 + a.toNat * 65536 + b.toNat * 2048
  | .sopSra d a b => 67108872 + d.toNat * 2097152 + a.toNat * 65536 + b.toNat * 2048
  | .sopSlt d a b => 67108873 + d.toNat * 2097152 + a.toNat * 65536 + b.toNat * 2048
  | .sopSltu d a b => 67108874 + d.toNat * 2097152 + a.toNat * 65536 + b.toNat * 2048
  | .sopMin d a b => 67108875 + d.toNat * 2097152 + a.toNat * 65536 + b.toNat * 2048
  | .sopMax d a b => 67108876 + d.toNat * 2097152 + a.toNat * 65536 + b.toNat * 2048
  | .sopMinu d a b => 67108877 + d.toNat * 2097152 + a.toNat * 65536 + b.toNat * 2048
  | .sopMaxu d a b => 67108878 + d.toNat * 2097152 + a.toNat * 65536 + b.toNat * 2048
  | .sopMul d a b => 67108879 + d.toNat * 2097152 + a.toNat * 65536 + b.toNat * 2048
  | .sopMulh d a b => 67108880 + d.toNat * 2097152 + a.toNat * 65536 + b.toNat * 2048
  | .sopMulhu d a b => 67108881 + d.toNat * 2097152 + a.toNat * 65536 + b.toNat * 2048
  | .sopDiv d a b => 67108882 + d.toNat * 2097152 + a.toNat * 65536 + b.toNat * 2048
  | .sopDivu d a b => 67108883 + d.toNat * 2097152 + a.toNat * 65536 + b.toNat * 2048
  | .sopRem d a b => 67108884 + d.toNat * 2097152 + a.toNat * 65536 + b.toNat * 2048
  | .sopRemu d a b => 67108885 + d.toNat * 2097152 + a.toNat * 65536 + b.toNat * 2048
  | .sopClz d a => 67108886 + d.toNat * 2097152 + a.toNat * 65536
  | .sopCtz d a => 67108887 + d.toNat * 2097152 + a.toNat * 65536
  | .sopPop d a => 67108888 + d.toNat * 2097152 + a.toNat * 65536
  | .sopiAddi d a i => 134217728 + d.toNat * 2097152 + a.toNat * 65536 + i.toNat
  | .sopiAndi d a i => 134221824 + d.toNat * 2097152 + a.toNat * 65536 + i.toNat
  | .sopiOri d a i => 134225920 + d.toNat * 2097152 + a.toNat * 65536 + i.toNat
  | .sopiXori d a i => 134230016 + d.toNat * 2097152 + a.toNat * 65536 + i.toNat
  | .sopiSlti d a i => 134234112 + d.toNat * 2097152 + a.toNat * 65536 + i.toNat
  | .sopiSltiu d a i => 134238208 + d.toNat * 2097152 + a.toNat * 65536 + i.toNat
  | .sopiSlli d a i => 134242304 + d.toNat * 2097152 + a.toNat * 65536 + i.toNat
  | .sopiSrli d a i => 134246400 + d.toNat * 2097152 + a.toNat * 65536 + i.toNat
  | .sopiSrai d a i => 134250496 + d.toNat * 2097152 + a.toNat * 65536 + i.toNat
  | .sopiMuli d a i => 134254592 + d.toNat * 2097152 + a.toNat * 65536 + i.toNat
  | .lui d i => 201326592 + d.toNat * 2097152 + i.toNat
  | .ldB d a i => 268435456 + d.toNat * 2097152 + a.toNat * 65536 + i.toNat
  | .ldBu d a i => 268439552 + d.toNat * 2097152 + a.toNat * 65536 + i.toNat
  | .ldH d a i => 268443648 + d.toNat * 2097152 + a.toNat * 65536 + i.toNat
  | .ldHu d a i => 268447744 + d.toNat * 2097152 + a.toNat * 65536 + i.toNat
  | .ldW d a i => 268451840 + d.toNat * 2097152 + a.toNat * 65536 + i.toNat
  | .ldWu d a i => 268455936 + d.toNat * 2097152 + a.toNat * 65536 + i.toNat
  | .ldD d a i => 268460032 + d.toNat * 2097152 + a.toNat * 65536 + i.toNat
  | .ldLl d a i => 268464128 + d.toNat * 2097152 + a.toNat * 65536 + i.toNat
  | .ldAcq d a p => 268468224 + d.toNat * 2097152 + a.toNat * 65536 + p.toNat
  | .stB b a i => 335544320 + b.toNat * 2097152 + a.toNat * 65536 + i.toNat
  | .stH b a i => 335548416 + b.toNat * 2097152 + a.toNat * 65536 + i.toNat
  | .stW b a i => 335552512 + b.toNat * 2097152 + a.toNat * 65536 + i.toNat
  | .stD b a i => 335556608 + b.toNat * 2097152 + a.toNat * 65536 + i.toNat
  | .stRel b a p => 335560704 + b.toNat * 2097152 + a.toNat * 65536 + p.toNat
  | .brEq a b i => 402653184 + a.toNat * 2097152 + b.toNat * 65536 + i.toNat
  | .brNe a b i => 402657280 + a.toNat * 2097152 + b.toNat * 65536 + i.toNat
  | .brLt a b i => 402661376 + a.toNat * 2097152 + b.toNat * 65536 + i.toNat
  | .brGe a b i => 402665472 + a.toNat * 2097152 + b.toNat * 65536 + i.toNat
  | .brLtu a b i => 402669568 + a.toNat * 2097152 + b.toNat * 65536 + i.toNat
  | .brGeu a b i => 402673664 + a.toNat * 2097152 + b.toNat * 65536 + i.toNat
  | .jal d i => 469762048 + d.toNat * 2097152 + i.toNat
  | .jalr d a i => 536870912 + d.toNat * 2097152 + a.toNat * 65536 + i.toNat
  | .ctlCrr d i => 603979776 + d.toNat * 2097152 + i.toNat
  | .ctlCrw d a i => 603983872 + d.toNat * 2097152 + a.toNat * 65536 + i.toNat
  | .ctlCrs d a i => 603987968 + d.toNat * 2097152 + a.toNat * 65536 + i.toNat
  | .ctlCrc d a i => 603992064 + d.toNat * 2097152 + a.toNat * 65536 + i.toNat
  | .sysSvc => 671088640
  | .sysTret => 671088641
  | .sysIdle => 671088642
  | .sysFence k p => 671088643 + k.toNat * 524288 + p.toNat * 65536
  | .sysBrk => 671088644
  | .sysIpf a b => 671088645 + a.toNat * 65536 + b.toNat * 2048
  | .sysScommit => 671088646
  | .sysDinv a b => 671088647 + a.toNat * 65536 + b.toNat * 2048
  | .sysDclean a b => 671088648 + a.toNat * 65536 + b.toNat * 2048
  | .sysDflush a b => 671088649 + a.toNat * 65536 + b.toNat * 2048
  | .brot a b i => 738197504 + a.toNat * 2097152 + b.toNat * 65536 + i.toNat
  | .setvl d a f i => 805306368 + d.toNat * 2097152 + a.toNat * 65536 + f.toNat * 4096 + i.toNat * 16
  | .mdset g n => 872415232 + g.toNat * 16777216 + n.toNat * 32
  | .samoLl d a p q r => 939524096 + d.toNat * 2097152 + a.toNat * 65536 + p.toNat * 256 + q.toNat * 128 + r.toNat * 64
  | .samoSc d a b p q r => 939524097 + d.toNat * 2097152 + a.toNat * 65536 + b.toNat * 2048 + p.toNat * 256 + q.toNat * 128 + r.toNat * 64
  | .samoSwap d a b p q r => 939524098 + d.toNat * 2097152 + a.toNat * 65536 + b.toNat * 2048 + p.toNat * 256 + q.toNat * 128 + r.toNat * 64
  | .samoFadd d a b p q r => 939524099 + d.toNat * 2097152 + a.toNat * 65536 + b.toNat * 2048 + p.toNat * 256 + q.toNat * 128 + r.toNat * 64
  | .samoFmin d a b p q r => 939524100 + d.toNat * 2097152 + a.toNat * 65536 + b.toNat * 2048 + p.toNat * 256 + q.toNat * 128 + r.toNat * 64
  | .samoFmax d a b p q r => 939524101 + d.toNat * 2097152 + a.toNat * 65536 + b.toNat * 2048 + p.toNat * 256 + q.toNat * 128 + r.toNat * 64
  | .samoFand d a b p q r => 939524102 + d.toNat * 2097152 + a.toNat * 65536 + b.toNat * 2048 + p.toNat * 256 + q.toNat * 128 + r.toNat * 64
  | .samoFor d a b p q r => 939524103 + d.toNat * 2097152 + a.toNat * 65536 + b.toNat * 2048 + p.toNat * 256 + q.toNat * 128 + r.toNat * 64
  | .valuAdd d a b x y m => 1073741824 + d.toNat * 2097152 + a.toNat * 65536 + b.toNat * 2048 + x.toNat * 1024 + y.toNat * 512 + m.toNat * 128
  | .valuSub d a b x y m => 1073741825 + d.toNat * 2097152 + a.toNat * 65536 + b.toNat * 2048 + x.toNat * 1024 + y.toNat * 512 + m.toNat * 128
  | .valuRsub d a b x y m => 1073741826 + d.toNat * 2097152 + a.toNat * 65536 + b.toNat * 2048 + x.toNat * 1024 + y.toNat * 512 + m.toNat * 128
  | .valuAnd d a b x y m => 1073741827 + d.toNat * 2097152 + a.toNat * 65536 + b.toNat * 2048 + x.toNat * 1024 + y.toNat * 512 + m.toNat * 128
  | .valuOr d a b x y m => 1073741828 + d.toNat * 2097152 + a.toNat * 65536 + b.toNat * 2048 + x.toNat * 1024 + y.toNat * 512 + m.toNat * 128
  | .valuXor d a b x y m => 1073741829 + d.toNat * 2097152 + a.toNat * 65536 + b.toNat * 2048 + x.toNat * 1024 + y.toNat * 512 + m.toNat * 128
  | .valuAndn d a b x y m => 1073741830 + d.toNat * 2097152 + a.toNat * 65536 + b.toNat * 2048 + x.toNat * 1024 + y.toNat * 512 + m.toNat * 128
  | .valuSll d a b x y m => 1073741831 + d.toNat * 2097152 + a.toNat * 65536 + b.toNat * 2048 + x.toNat * 1024 + y.toNat * 512 + m.toNat * 128
  | .valuSrl d a b x y m => 1073741832 + d.toNat * 2097152 + a.toNat * 65536 + b.toNat * 2048 + x.toNat * 1024 + y.toNat * 512 + m.toNat * 128
  | .valuSra d a b x y m => 1073741833 + d.toNat * 2097152 + a.toNat * 65536 + b.toNat * 2048 + x.toNat * 1024 + y.toNat * 512 + m.toNat * 128
  | .valuMin d a b x y m => 1073741834 + d.toNat * 2097152 + a.toNat * 65536 + b.toNat * 2048 + x.toNat * 1024 + y.toNat * 512 + m.toNat * 128
  | .valuMax d a b x y m => 1073741835 + d.toNat * 2097152 + a.toNat * 65536 + b.toNat * 2048 + x.toNat * 1024 + y.toNat * 512 + m.toNat * 128
  | .valuMinu d a b x y m => 1073741836 + d.toNat * 2097152 + a.toNat * 65536 + b.toNat * 2048 + x.toNat * 1024 + y.toNat * 512 + m.toNat * 128
  | .valuMaxu d a b x y m => 1073741837 + d.toNat * 2097152 + a.toNat * 65536 + b.toNat * 2048 + x.toNat * 1024 + y.toNat * 512 + m.toNat * 128
  | .valuMul d a b x y m => 1073741838 + d.toNat * 2097152 + a.toNat * 65536 + b.toNat * 2048 + x.toNat * 1024 + y.toNat * 512 + m.toNat * 128
  | .valuMulh d a b x y m => 1073741839 + d.toNat * 2097152 + a.toNat * 65536 + b.toNat * 2048 + x.toNat * 1024 + y.toNat * 512 + m.toNat * 128
  | .valuMulhu d a b x y m => 1073741840 + d.toNat * 2097152 + a.toNat * 65536 + b.toNat * 2048 + x.toNat * 1024 + y.toNat * 512 + m.toNat * 128
  | .valuAdds d a b x y m => 1073741841 + d.toNat * 2097152 + a.toNat * 65536 + b.toNat * 2048 + x.toNat * 1024 + y.toNat * 512 + m.toNat * 128
  | .valuSubs d a b x y m => 1073741842 + d.toNat * 2097152 + a.toNat * 65536 + b.toNat * 2048 + x.toNat * 1024 + y.toNat * 512 + m.toNat * 128
  | .valuAddsu d a b x y m => 1073741843 + d.toNat * 2097152 + a.toNat * 65536 + b.toNat * 2048 + x.toNat * 1024 + y.toNat * 512 + m.toNat * 128
  | .valuSubsu d a b x y m => 1073741844 + d.toNat * 2097152 + a.toNat * 65536 + b.toNat * 2048 + x.toNat * 1024 + y.toNat * 512 + m.toNat * 128
  | .valuAbs d a x m => 1073741845 + d.toNat * 2097152 + a.toNat * 65536 + x.toNat * 1024 + m.toNat * 128
  | .valuMv d a x m => 1073741846 + d.toNat * 2097152 + a.toNat * 65536 + x.toNat * 1024 + m.toNat * 128
  | .valuMerge d a b x y m => 1073741847 + d.toNat * 2097152 + a.toNat * 65536 + b.toNat * 2048 + x.toNat * 1024 + y.toNat * 512 + m.toNat * 128
  | .valuEq d a b x y m => 1073741848 + d.toNat * 2097152 + a.toNat * 65536 + b.toNat * 2048 + x.toNat * 1024 + y.toNat * 512 + m.toNat * 128
  | .valuNe d a b x y m => 1073741849 + d.toNat * 2097152 + a.toNat * 65536 + b.toNat * 2048 + x.toNat * 1024 + y.toNat * 512 + m.toNat * 128
  | .valuLt d a b x y m => 1073741850 + d.toNat * 2097152 + a.toNat * 65536 + b.toNat * 2048 + x.toNat * 1024 + y.toNat * 512 + m.toNat * 128
  | .valuLtu d a b x y m => 1073741851 + d.toNat * 2097152 + a.toNat * 65536 + b.toNat * 2048 + x.toNat * 1024 + y.toNat * 512 + m.toNat * 128
  | .valuLe d a b x y m => 1073741852 + d.toNat * 2097152 + a.toNat * 65536 + b.toNat * 2048 + x.toNat * 1024 + y.toNat * 512 + m.toNat * 128
  | .valuLeu d a b x y m => 1073741853 + d.toNat * 2097152 + a.toNat * 65536 + b.toNat * 2048 + x.toNat * 1024 + y.toNat * 512 + m.toNat * 128
  | .valuxAdd d a b x m => 1140850688 + d.toNat * 2097152 + a.toNat * 65536 + b.toNat * 2048 + x.toNat * 1024 + m.toNat * 128
  | .valuxSub d a b x m => 1140850689 + d.toNat * 2097152 + a.toNat * 65536 + b.toNat * 2048 + x.toNat * 1024 + m.toNat * 128
  | .valuxRsub d a b x m => 1140850690 + d.toNat * 2097152 + a.toNat * 65536 + b.toNat * 2048 + x.toNat * 1024 + m.toNat * 128
  | .valuxAnd d a b x m => 1140850691 + d.toNat * 2097152 + a.toNat * 65536 + b.toNat * 2048 + x.toNat * 1024 + m.toNat * 128
  | .valuxOr d a b x m => 1140850692 + d.toNat * 2097152 + a.toNat * 65536 + b.toNat * 2048 + x.toNat * 1024 + m.toNat * 128
  | .valuxXor d a b x m => 1140850693 + d.toNat * 2097152 + a.toNat * 65536 + b.toNat * 2048 + x.toNat * 1024 + m.toNat * 128
  | .valuxAndn d a b x m => 1140850694 + d.toNat * 2097152 + a.toNat * 65536 + b.toNat * 2048 + x.toNat * 1024 + m.toNat * 128
  | .valuxSll d a b x m => 1140850695 + d.toNat * 2097152 + a.toNat * 65536 + b.toNat * 2048 + x.toNat * 1024 + m.toNat * 128
  | .valuxSrl d a b x m => 1140850696 + d.toNat * 2097152 + a.toNat * 65536 + b.toNat * 2048 + x.toNat * 1024 + m.toNat * 128
  | .valuxSra d a b x m => 1140850697 + d.toNat * 2097152 + a.toNat * 65536 + b.toNat * 2048 + x.toNat * 1024 + m.toNat * 128
  | .valuxMin d a b x m => 1140850698 + d.toNat * 2097152 + a.toNat * 65536 + b.toNat * 2048 + x.toNat * 1024 + m.toNat * 128
  | .valuxMax d a b x m => 1140850699 + d.toNat * 2097152 + a.toNat * 65536 + b.toNat * 2048 + x.toNat * 1024 + m.toNat * 128
  | .valuxMinu d a b x m => 1140850700 + d.toNat * 2097152 + a.toNat * 65536 + b.toNat * 2048 + x.toNat * 1024 + m.toNat * 128
  | .valuxMaxu d a b x m => 1140850701 + d.toNat * 2097152 + a.toNat * 65536 + b.toNat * 2048 + x.toNat * 1024 + m.toNat * 128
  | .valuxMul d a b x m => 1140850702 + d.toNat * 2097152 + a.toNat * 65536 + b.toNat * 2048 + x.toNat * 1024 + m.toNat * 128
  | .valuxMulh d a b x m => 1140850703 + d.toNat * 2097152 + a.toNat * 65536 + b.toNat * 2048 + x.toNat * 1024 + m.toNat * 128
  | .valuxMulhu d a b x m => 1140850704 + d.toNat * 2097152 + a.toNat * 65536 + b.toNat * 2048 + x.toNat * 1024 + m.toNat * 128
  | .valuxAdds d a b x m => 1140850705 + d.toNat * 2097152 + a.toNat * 65536 + b.toNat * 2048 + x.toNat * 1024 + m.toNat * 128
  | .valuxSubs d a b x m => 1140850706 + d.toNat * 2097152 + a.toNat * 65536 + b.toNat * 2048 + x.toNat * 1024 + m.toNat * 128
  | .valuxAddsu d a b x m => 1140850707 + d.toNat * 2097152 + a.toNat * 65536 + b.toNat * 2048 + x.toNat * 1024 + m.toNat * 128
  | .valuxSubsu d a b x m => 1140850708 + d.toNat * 2097152 + a.toNat * 65536 + b.toNat * 2048 + x.toNat * 1024 + m.toNat * 128
  | .valuxMv d b m => 1140850710 + d.toNat * 2097152 + b.toNat * 2048 + m.toNat * 128
  | .valuxMerge d a b x m => 1140850711 + d.toNat * 2097152 + a.toNat * 65536 + b.toNat * 2048 + x.toNat * 1024 + m.toNat * 128
  | .valuxEq d a b x m => 1140850712 + d.toNat * 2097152 + a.toNat * 65536 + b.toNat * 2048 + x.toNat * 1024 + m.toNat * 128
  | .valuxNe d a b x m => 1140850713 + d.toNat * 2097152 + a.toNat * 65536 + b.toNat * 2048 + x.toNat * 1024 + m.toNat * 128
  | .valuxLt d a b x m => 1140850714 + d.toNat * 2097152 + a.toNat * 65536 + b.toNat * 2048 + x.toNat * 1024 + m.toNat * 128
  | .valuxLtu d a b x m => 1140850715 + d.toNat * 2097152 + a.toNat * 65536 + b.toNat * 2048 + x.toNat * 1024 + m.toNat * 128
  | .valuxLe d a b x m => 1140850716 + d.toNat * 2097152 + a.toNat * 65536 + b.toNat * 2048 + x.toNat * 1024 + m.toNat * 128
  | .valuxLeu d a b x m => 1140850717 + d.toNat * 2097152 + a.toNat * 65536 + b.toNat * 2048 + x.toNat * 1024 + m.toNat * 128
  | .vfpAdd d a b x y m => 1207959552 + d.toNat * 2097152 + a.toNat * 65536 + b.toNat * 2048 + x.toNat * 1024 + y.toNat * 512 + m.toNat * 128
  | .vfpSub d a b x y m => 1207959553 + d.toNat * 2097152 + a.toNat * 65536 + b.toNat * 2048 + x.toNat * 1024 + y.toNat * 512 + m.toNat * 128
  | .vfpMul d a b x y m => 1207959554 + d.toNat * 2097152 + a.toNat * 65536 + b.toNat * 2048 + x.toNat * 1024 + y.toNat * 512 + m.toNat * 128
  | .vfpDiv d a b x y m => 1207959555 + d.toNat * 2097152 + a.toNat * 65536 + b.toNat * 2048 + x.toNat * 1024 + y.toNat * 512 + m.toNat * 128
  | .vfpSqrt d a x m => 1207959556 + d.toNat * 2097152 + a.toNat * 65536 + x.toNat * 1024 + m.toNat * 128
  | .vfpMin d a b x y m => 1207959557 + d.toNat * 2097152 + a.toNat * 65536 + b.toNat * 2048 + x.toNat * 1024 + y.toNat * 512 + m.toNat * 128
  | .vfpMax d a b x y m => 1207959558 + d.toNat * 2097152 + a.toNat * 65536 + b.toNat * 2048 + x.toNat * 1024 + y.toNat * 512 + m.toNat * 128
  | .vfpSgnj d a b x y m => 1207959559 + d.toNat * 2097152 + a.toNat * 65536 + b.toNat * 2048 + x.toNat * 1024 + y.toNat * 512 + m.toNat * 128
  | .vfpSgnjn d a b x y m => 1207959560 + d.toNat * 2097152 + a.toNat * 65536 + b.toNat * 2048 + x.toNat * 1024 + y.toNat * 512 + m.toNat * 128
  | .vfpSgnjx d a b x y m => 1207959561 + d.toNat * 2097152 + a.toNat * 65536 + b.toNat * 2048 + x.toNat * 1024 + y.toNat * 512 + m.toNat * 128
  | .vfpEq d a b x y m => 1207959562 + d.toNat * 2097152 + a.toNat * 65536 + b.toNat * 2048 + x.toNat * 1024 + y.toNat * 512 + m.toNat * 128
  | .vfpLt d a b x y m => 1207959563 + d.toNat * 2097152 + a.toNat * 65536 + b.toNat * 2048 + x.toNat * 1024 + y.toNat * 512 + m.toNat * 128
  | .vfpLe d a b x y m => 1207959564 + d.toNat * 2097152 + a.toNat * 65536 + b.toNat * 2048 + x.toNat * 1024 + y.toNat * 512 + m.toNat * 128
  | .vfpClass d a x m => 1207959565 + d.toNat * 2097152 + a.toNat * 65536 + x.toNat * 1024 + m.toNat * 128
  | .vfpRec d a x m => 1207959566 + d.toNat * 2097152 + a.toNat * 65536 + x.toNat * 1024 + m.toNat * 128
  | .vfpRsq d a x m => 1207959567 + d.toNat * 2097152 + a.toNat * 65536 + x.toNat * 1024 + m.toNat * 128
  | .vfpExp2 d a x m => 1207959568 + d.toNat * 2097152 + a.toNat * 65536 + x.toNat * 1024 + m.toNat * 128
  | .vfpLog2 d a x m => 1207959569 + d.toNat * 2097152 + a.toNat * 65536 + x.toNat * 1024 + m.toNat * 128
  | .vfpxAdd d a b x m => 1275068416 + d.toNat * 2097152 + a.toNat * 65536 + b.toNat * 2048 + x.toNat * 1024 + m.toNat * 128
  | .vfpxSub d a b x m => 1275068417 + d.toNat * 2097152 + a.toNat * 65536 + b.toNat * 2048 + x.toNat * 1024 + m.toNat * 128
  | .vfpxMul d a b x m => 1275068418 + d.toNat * 2097152 + a.toNat * 65536 + b.toNat * 2048 + x.toNat * 1024 + m.toNat * 128
  | .vfpxDiv d a b x m => 1275068419 + d.toNat * 2097152 + a.toNat * 65536 + b.toNat * 2048 + x.toNat * 1024 + m.toNat * 128
  | .vfpxMin d a b x m => 1275068421 + d.toNat * 2097152 + a.toNat * 65536 + b.toNat * 2048 + x.toNat * 1024 + m.toNat * 128
  | .vfpxMax d a b x m => 1275068422 + d.toNat * 2097152 + a.toNat * 65536 + b.toNat * 2048 + x.toNat * 1024 + m.toNat * 128
  | .vfpxSgnj d a b x m => 1275068423 + d.toNat * 2097152 + a.toNat * 65536 + b.toNat * 2048 + x.toNat * 1024 + m.toNat * 128
  | .vfpxSgnjn d a b x m => 1275068424 + d.toNat * 2097152 + a.toNat * 65536 + b.toNat * 2048 + x.toNat * 1024 + m.toNat * 128
  | .vfpxSgnjx d a b x m => 1275068425 + d.toNat * 2097152 + a.toNat * 65536 + b.toNat * 2048 + x.toNat * 1024 + m.toNat * 128
  | .vfpxEq d a b x m => 1275068426 + d.toNat * 2097152 + a.toNat * 65536 + b.toNat * 2048 + x.toNat * 1024 + m.toNat * 128
  | .vfpxLt d a b x m => 1275068427 + d.toNat * 2097152 + a.toNat * 65536 + b.toNat * 2048 + x.toNat * 1024 + m.toNat * 128
  | .vfpxLe d a b x m => 1275068428 + d.toNat * 2097152 + a.toNat * 65536 + b.toNat * 2048 + x.toNat * 1024 + m.toNat * 128
  | .vfmaMadd d a b c x y w m => 1342177280 + d.toNat * 2097152 + a.toNat * 65536 + b.toNat * 2048 + c.toNat * 64 + x.toNat * 32 + y.toNat * 16 + w.toNat * 8 + m.toNat * 2
  | .vfmaNmadd d a b c x y w m => 1342177281 + d.toNat * 2097152 + a.toNat * 65536 + b.toNat * 2048 + c.toNat * 64 + x.toNat * 32 + y.toNat * 16 + w.toNat * 8 + m.toNat * 2
  | .vfmsMsub d a b c x y w m => 1409286144 + d.toNat * 2097152 + a.toNat * 65536 + b.toNat * 2048 + c.toNat * 64 + x.toNat * 32 + y.toNat * 16 + w.toNat * 8 + m.toNat * 2
  | .vfmsNmsub d a b c x y w m => 1409286145 + d.toNat * 2097152 + a.toNat * 65536 + b.toNat * 2048 + c.toNat * 64 + x.toNat * 32 + y.toNat * 16 + w.toNat * 8 + m.toNat * 2
  | .vimacMacc d a b c x y w m => 1476395008 + d.toNat * 2097152 + a.toNat * 65536 + b.toNat * 2048 + c.toNat * 64 + x.toNat * 32 + y.toNat * 16 + w.toNat * 8 + m.toNat * 2
  | .vimacNmsac d a b c x y w m => 1476395009 + d.toNat * 2097152 + a.toNat * 65536 + b.toNat * 2048 + c.toNat * 64 + x.toNat * 32 + y.toNat * 16 + w.toNat * 8 + m.toNat * 2
  | .vcvtI2f d a x m => 1543503872 + d.toNat * 2097152 + a.toNat * 65536 + x.toNat * 1024 + m.toNat * 128
  | .vcvtU2f d a x m => 1543503873 + d.toNat * 2097152 + a.toNat * 65536 + x.toNat * 1024 + m.toNat * 128
  | .vcvtF2i d a x m => 1543503874 + d.toNat * 2097152 + a.toNat * 65536 + x.toNat * 1024 + m.toNat * 128
  | .vcvtF2u d a x m => 1543503875 + d.toNat * 2097152 + a.toNat * 65536 + x.toNat * 1024 + m.toNat * 128
  | .vcvtFwid d a x m => 1543503876 + d.toNat * 2097152 + a.toNat * 65536 + x.toNat * 1024 + m.toNat * 128
  | .vcvtFnar d a x m => 1543503877 + d.toNat * 2097152 + a.toNat * 65536 + x.toNat * 1024 + m.toNat * 128
  | .vcvtIwid d a x m => 1543503878 + d.toNat * 2097152 + a.toNat * 65536 + x.toNat * 1024 + m.toNat * 128
  | .vcvtUwid d a x m => 1543503879 + d.toNat * 2097152 + a.toNat * 65536 + x.toNat * 1024 + m.toNat * 128
  | .vcvtInar d a x m => 1543503880 + d.toNat * 2097152 + a.toNat * 65536 + x.toNat * 1024 + m.toNat * 128
  | .vcvtBscale d a b x y m => 1543503881 + d.toNat * 2097152 + a.toNat * 65536 + b.toNat * 2048 + x.toNat * 1024 + y.toNat * 512 + m.toNat * 128
  | .vcvtQuant d a b x y m => 1543503882 + d.toNat * 2097152 + a.toNat * 65536 + b.toNat * 2048 + x.toNat * 1024 + y.toNat * 512 + m.toNat * 128
  | .vcvtDequant d a b x y m => 1543503883 + d.toNat * 2097152 + a.toNat * 65536 + b.toNat * 2048 + x.toNat * 1024 + y.toNat * 512 + m.toNat * 128
  | .vcvtFrnd d a x m => 1543503884 + d.toNat * 2097152 + a.toNat * 65536 + x.toNat * 1024 + m.toNat * 128
  | .vcvtPack d a x m => 1543503885 + d.toNat * 2097152 + a.toNat * 65536 + x.toNat * 1024 + m.toNat * 128
  | .vcvtUnpack d a x m => 1543503886 + d.toNat * 2097152 + a.toNat * 65536 + x.toNat * 1024 + m.toNat * 128
  | .vpredAnd d a b m => 1610612736 + d.toNat * 2097152 + a.toNat * 65536 + b.toNat * 2048 + m.toNat * 128
  | .vpredOr d a b m => 1610612737 + d.toNat * 2097152 + a.toNat * 65536 + b.toNat * 2048 + m.toNat * 128
  | .vpredXor d a b m => 1610612738 + d.toNat * 2097152 + a.toNat * 65536 + b.toNat * 2048 + m.toNat * 128
  | .vpredAndn d a b m => 1610612739 + d.toNat * 2097152 + a.toNat * 65536 + b.toNat * 2048 + m.toNat * 128
  | .vpredNot d a m => 1610612740 + d.toNat * 2097152 + a.toNat * 65536 + m.toNat * 128
  | .vpredSet d m => 1610612741 + d.toNat * 2097152 + m.toNat * 128
  | .vpredClr d m => 1610612742 + d.toNat * 2097152 + m.toNat * 128
  | .vpredFirst d a m => 1610612743 + d.toNat * 2097152 + a.toNat * 65536 + m.toNat * 128
  | .vpredCnt d a m => 1610612744 + d.toNat * 2097152 + a.toNat * 65536 + m.toNat * 128
  | .vpredMv d a m => 1610612745 + d.toNat * 2097152 + a.toNat * 65536 + m.toNat * 128
  | .vpermPerm d a b x y m => 1677721600 + d.toNat * 2097152 + a.toNat * 65536 + b.toNat * 2048 + x.toNat * 1024 + y.toNat * 512 + m.toNat * 128
  | .vpermSlup d a b x m => 1677721601 + d.toNat * 2097152 + a.toNat * 65536 + b.toNat * 2048 + x.toNat * 1024 + m.toNat * 128
  | .vpermSldn d a b x m => 1677721602 + d.toNat * 2097152 + a.toNat * 65536 + b.toNat * 2048 + x.toNat * 1024 + m.toNat * 128
  | .vpermSl1up d a b x m => 1677721603 + d.toNat * 2097152 + a.toNat * 65536 + b.toNat * 2048 + x.toNat * 1024 + m.toNat * 128
  | .vpermSl1dn d a b x m => 1677721604 + d.toNat * 2097152 + a.toNat * 65536 + b.toNat * 2048 + x.toNat * 1024 + m.toNat * 128
  | .vpermRshp d a b x y m => 1677721605 + d.toNat * 2097152 + a.toNat * 65536 + b.toNat * 2048 + x.toNat * 1024 + y.toNat * 512 + m.toNat * 128
  | .vpermXch d a b x y m => 1677721606 + d.toNat * 2097152 + a.toNat * 65536 + b.toNat * 2048 + x.toNat * 1024 + y.toNat * 512 + m.toNat * 128
  | .vpermBcast d b m => 1677721607 + d.toNat * 2097152 + b.toNat * 2048 + m.toNat * 128
  | .vpermExt d a b x m => 1677721608 + d.toNat * 2097152 + a.toNat * 65536 + b.toNat * 2048 + x.toNat * 1024 + m.toNat * 128
  | .vpermIns d a b m => 1677721609 + d.toNat * 2097152 + a.toNat * 65536 + b.toNat * 2048 + m.toNat * 128
  | .vredSum d a b x m => 1744830464 + d.toNat * 2097152 + a.toNat * 65536 + b.toNat * 2048 + x.toNat * 1024 + m.toNat * 128
  | .vredFsum d a b x m => 1744830465 + d.toNat * 2097152 + a.toNat * 65536 + b.toNat * 2048 + x.toNat * 1024 + m.toNat * 128
  | .vredMin d a b x m => 1744830466 + d.toNat * 2097152 + a.toNat * 65536 + b.toNat * 2048 + x.toNat * 1024 + m.toNat * 128
  | .vredMax d a b x m => 1744830467 + d.toNat * 2097152 + a.toNat * 65536 + b.toNat * 2048 + x.toNat * 1024 + m.toNat * 128
  | .vredMinu d a b x m => 1744830468 + d.toNat * 2097152 + a.toNat * 65536 + b.toNat * 2048 + x.toNat * 1024 + m.toNat * 128
  | .vredMaxu d a b x m => 1744830469 + d.toNat * 2097152 + a.toNat * 65536 + b.toNat * 2048 + x.toNat * 1024 + m.toNat * 128
  | .vredFmin d a b x m => 1744830470 + d.toNat * 2097152 + a.toNat * 65536 + b.toNat * 2048 + x.toNat * 1024 + m.toNat * 128
  | .vredFmax d a b x m => 1744830471 + d.toNat * 2097152 + a.toNat * 65536 + b.toNat * 2048 + x.toNat * 1024 + m.toNat * 128
  | .vredAnd d a b x m => 1744830472 + d.toNat * 2097152 + a.toNat * 65536 + b.toNat * 2048 + x.toNat * 1024 + m.toNat * 128
  | .vredOr d a b x m => 1744830473 + d.toNat * 2097152 + a.toNat * 65536 + b.toNat * 2048 + x.toNat * 1024 + m.toNat * 128
  | .vredXor d a b x m => 1744830474 + d.toNat * 2097152 + a.toNat * 65536 + b.toNat * 2048 + x.toNat * 1024 + m.toNat * 128
  | .vscanSum d a b x m h => 1811939328 + d.toNat * 2097152 + a.toNat * 65536 + b.toNat * 2048 + x.toNat * 1024 + m.toNat * 128 + h.toNat * 64
  | .vscanFsum d a b x m h => 1811939329 + d.toNat * 2097152 + a.toNat * 65536 + b.toNat * 2048 + x.toNat * 1024 + m.toNat * 128 + h.toNat * 64
  | .vscanMin d a b x m h => 1811939330 + d.toNat * 2097152 + a.toNat * 65536 + b.toNat * 2048 + x.toNat * 1024 + m.toNat * 128 + h.toNat * 64
  | .vscanMax d a b x m h => 1811939331 + d.toNat * 2097152 + a.toNat * 65536 + b.toNat * 2048 + x.toNat * 1024 + m.toNat * 128 + h.toNat * 64
  | .vscanFmin d a b x m h => 1811939332 + d.toNat * 2097152 + a.toNat * 65536 + b.toNat * 2048 + x.toNat * 1024 + m.toNat * 128 + h.toNat * 64
  | .vscanFmax d a b x m h => 1811939333 + d.toNat * 2097152 + a.toNat * 65536 + b.toNat * 2048 + x.toNat * 1024 + m.toNat * 128 + h.toNat * 64
  | .vselCmpr d a x m => 1879048192 + d.toNat * 2097152 + a.toNat * 65536 + x.toNat * 1024 + m.toNat * 128
  | .vselExpd d a x m => 1879048193 + d.toNat * 2097152 + a.toNat * 65536 + x.toNat * 1024 + m.toNat * 128
  | .vselTopk d a b x m => 1879048194 + d.toNat * 2097152 + a.toNat * 65536 + b.toNat * 2048 + x.toNat * 1024 + m.toNat * 128
  | .vselTopkm d a b x m => 1879048195 + d.toNat * 2097152 + a.toNat * 65536 + b.toNat * 2048 + x.toNat * 1024 + m.toNat * 128
  | .vselIota d m => 1879048196 + d.toNat * 2097152 + m.toNat * 128
  | .vselIsect d a b x y m => 1879048197 + d.toNat * 2097152 + a.toNat * 65536 + b.toNat * 2048 + x.toNat * 1024 + y.toNat * 512 + m.toNat * 128
  | .vselEqsplit d a b x y m => 1879048198 + d.toNat * 2097152 + a.toNat * 65536 + b.toNat * 2048 + x.toNat * 1024 + y.toNat * 512 + m.toNat * 128
  | .vrngBits d m => 1946157056 + d.toNat * 2097152 + m.toNat * 128
  | .vrngUnif d m => 1946157057 + d.toNat * 2097152 + m.toNat * 128
  | .vldUnit d a m => 2147483648 + d.toNat * 2097152 + a.toNat * 65536 + m.toNat * 128
  | .vldStrd d a b m => 2147483649 + d.toNat * 2097152 + a.toNat * 65536 + b.toNat * 2048 + m.toNat * 128
  | .vldIdx d a b y m => 2147483650 + d.toNat * 2097152 + a.toNat * 65536 + b.toNat * 2048 + y.toNat * 512 + m.toNat * 128
  | .vldSeg d a m u => 2147483651 + d.toNat * 2097152 + a.toNat * 65536 + m.toNat * 128 + u.toNat * 16
  | .vldTile d a b m => 2147483652 + d.toNat * 2097152 + a.toNat * 65536 + b.toNat * 2048 + m.toNat * 128
  | .vldSp d a m => 2147483653 + d.toNat * 2097152 + a.toNat * 65536 + m.toNat * 128
  | .vldSpx d a b m => 2147483654 + d.toNat * 2097152 + a.toNat * 65536 + b.toNat * 2048 + m.toNat * 128
  | .vldFill d a => 2147483655 + d.toNat * 2097152 + a.toNat * 65536
  | .vldPrb d a b y m => 2147483656 + d.toNat * 2097152 + a.toNat * 65536 + b.toNat * 2048 + y.toNat * 512 + m.toNat * 128
  | .vstUnit d a x m => 2214592512 + d.toNat * 2097152 + a.toNat * 65536 + x.toNat * 1024 + m.toNat * 128
  | .vstStrd d a b x m => 2214592513 + d.toNat * 2097152 + a.toNat * 65536 + b.toNat * 2048 + x.toNat * 1024 + m.toNat * 128
  | .vstIdx d a b x y m => 2214592514 + d.toNat * 2097152 + a.toNat * 65536 + b.toNat * 2048 + x.toNat * 1024 + y.toNat * 512 + m.toNat * 128
  | .vstSeg d a x m u => 2214592515 + d.toNat * 2097152 + a.toNat * 65536 + x.toNat * 1024 + m.toNat * 128 + u.toNat * 16
  | .vstTile d a b x m => 2214592516 + d.toNat * 2097152 + a.toNat * 65536 + b.toNat * 2048 + x.toNat * 1024 + m.toNat * 128
  | .vstSp d a x m => 2214592517 + d.toNat * 2097152 + a.toNat * 65536 + x.toNat * 1024 + m.toNat * 128
  | .vstSpx d a b x m => 2214592518 + d.toNat * 2097152 + a.toNat * 65536 + b.toNat * 2048 + x.toNat * 1024 + m.toNat * 128
  | .vstSpill d a x => 2214592519 + d.toNat * 2097152 + a.toNat * 65536 + x.toNat * 1024
  | .vstrSbind d a m => 2281701376 + d.toNat * 8388608 + a.toNat * 65536 + m.toNat * 128
  | .vstrSunbind d m => 2281701377 + d.toNat * 2097152 + m.toNat * 128
  | .vstrSadv d b m => 2281701378 + d.toNat * 2097152 + b.toNat * 2048 + m.toNat * 128
  | .vatomGld d a b y m => 2348810240 + d.toNat * 2097152 + a.toNat * 65536 + b.toNat * 2048 + y.toNat * 512 + m.toNat * 128
  | .vatomScc d a b x y m => 2348810241 + d.toNat * 2097152 + a.toNat * 65536 + b.toNat * 2048 + x.toNat * 1024 + y.toNat * 512 + m.toNat * 128
  | .vatomLock a b y => 2348810242 + a.toNat * 65536 + b.toNat * 2048 + y.toNat * 512
  | .vatomUnlock a b y => 2348810243 + a.toNat * 65536 + b.toNat * 2048 + y.toNat * 512
  | .mopMop z a b s t x y => 2684354560 + z.toNat * 8388608 + a.toNat * 262144 + b.toNat * 8192 + s.toNat * 256 + t.toNat * 8 + x.toNat * 4 + y.toNat * 2
  | .mopMopu z a b s t y => 2684354561 + z.toNat * 8388608 + a.toNat * 262144 + b.toNat * 8192 + s.toNat * 256 + t.toNat * 8 + y.toNat * 2
  | .mctlMzero z => 2751463424 + z.toNat * 2048
  | .mctlMdrain d a z m => 2751463425 + d.toNat * 2097152 + a.toNat * 65536 + z.toNat * 2048 + m.toNat * 128
  | .mctlMld a z => 2751463426 + a.toNat * 65536 + z.toNat * 2048
  | .mctlMst a z => 2751463427 + a.toNat * 65536 + z.toNat * 2048
  | .mctlMset a => 2751463428 + a.toNat * 65536
  | .mctlZwset a z => 2751463429 + a.toNat * 65536 + z.toNat * 2048
  | .engGsp d a b c o e => 3221225472 + d.toNat * 2097152 + a.toNat * 65536 + b.toNat * 2048 + c.toNat * 64 + o.toNat * 4 + e.toNat
  | .engSsp d a b c o e => 3221225488 + d.toNat * 2097152 + a.toNat * 65536 + b.toNat * 2048 + c.toNat * 64 + o.toNat * 4 + e.toNat
  | .engSadd d a b c o e => 3221225504 + d.toNat * 2097152 + a.toNat * 65536 + b.toNat * 2048 + c.toNat * 64 + o.toNat * 4 + e.toNat
  | .engBapply d a b c o e => 3221225520 + d.toNat * 2097152 + a.toNat * 65536 + b.toNat * 2048 + c.toNat * 64 + o.toNat * 4 + e.toNat
  | .cpeCpy d a b c o e => 3288334336 + d.toNat * 2097152 + a.toNat * 65536 + b.toNat * 2048 + c.toNat * 128 + o.toNat * 4 + e.toNat
  | .cpeCwait d a o e => 3288334352 + d.toNat * 2097152 + a.toNat * 65536 + o.toNat * 4 + e.toNat
  | .cpeCptr d a => 3288334368 + d.toNat * 2097152 + a.toNat * 65536
  | .cpeCdrain d o e => 3288334384 + d.toNat * 2097152 + o.toNat * 4 + e.toNat
  | .barWait d a b o e => 3355443200 + d.toNat * 2097152 + a.toNat * 65536 + b.toNat * 2048 + o.toNat * 4 + e.toNat
  | .barInit d a b c o e => 3355443216 + d.toNat * 2097152 + a.toNat * 65536 + b.toNat * 2048 + c.toNat * 64 + o.toNat * 8 + e.toNat
  | .barInv a o e => 3355443232 + a.toNat * 65536 + o.toNat * 8 + e.toNat
  | .wlPush d a b c o e => 3422552064 + d.toNat * 2097152 + a.toNat * 65536 + b.toNat * 2048 + c.toNat * 64 + o.toNat * 8 + e.toNat
  | .wlPopb d a b c o e => 3422552080 + d.toNat * 2097152 + a.toNat * 65536 + b.toNat * 2048 + c.toNat * 64 + o.toNat * 4 + e.toNat
  | .wlDins d a b c o e => 3422552096 + d.toNat * 2097152 + a.toNat * 65536 + b.toNat * 2048 + c.toNat * 64 + o.toNat * 8 + e.toNat
  | .wlCnt d a o e => 3422552112 + d.toNat * 2097152 + a.toNat * 65536 + o.toNat * 4 + e.toNat
  | .taskSpawn d a b c o e => 3489660928 + d.toNat * 2097152 + a.toNat * 65536 + b.toNat * 2048 + c.toNat * 128 + o.toNat * 8 + e.toNat
  | .taskJoin a b o e => 3489660944 + a.toNat * 65536 + b.toNat * 2048 + o.toNat * 8 + e.toNat
  | .taskDep d a b => 3489660960 + d.toNat * 2097152 + a.toNat * 65536 + b.toNat * 2048
  | .taskExit => 3489660976
  | .trcMark a b => 3556769792 + a.toNat * 65536 + b.toNat * 2048
  | .trcLatch d => 3556769808 + d.toNat * 2097152
  | .trcCtrr d a b => 3556769824 + d.toNat * 2097152 + a.toNat * 65536 + b.toNat * 2048
  | .setvlStreamGrant _ => 0
  | .codeFillComplete _ _ _ => 0
  | .idxLineArrival _ => 0
  | .arrayAccept _ => 0
  | .arrayRetire _ _ => 0
  | .cinchLaneCheck _ _ => 0
  | .teaselScrub _ => 0
  | .teaselBlockRepair _ => 0
  | .distributorChoice => 0
  | .sliceEnd _ => 0
  | .viSliceEnd _ => 0
  | .preWinExpiry _ => 0
  | .saveComplete _ => 0
  | .vectorSequencerChoice _ _ => 0
  | .joinPushRetry _ => 0
  | .launchEnd _ => 0
  | .copyBurst _ _ => 0
  | .copyComplete _ => 0
  | .engineCommandComplete _ => 0
  | .streamRefill _ _ _ => 0
  | .cpeWaitReturn _ => 0
  | .barrierWake _ => 0
  | .lockWordTake _ => 0
  | .idleWake _ => 0
  | .idleTimeout _ => 0
  | .atsTranslationCompletion _ _ _ _ _ _ => 0
  | .pageRequestResponse _ _ => 0
  | .pageRequestTimeout _ => 0
  | .atsInvalidateRequest _ _ _ => 0
  | .invalidationComplete _ => 0
  | .hostPostedWrite _ _ => 0
  | .peerAccess _ _ _ _ => 0
  | .peerTimeout _ => 0
  | .latchTake _ => 0
  | .traceSample _ _ => 0
  | .powerManagerTick _ _ => 0
  | .clockStepUp => 0
  | .thermalTrip => 0
  | .powerLoss => 0
  | .wakeN _ => 0
  | .latchN => 0
  | .tsync => 0
  | .attest _ => 0
  | .certs => 0
  | .reset => 0
  | .timeset _ => 0
  | .status => 0
  | .power _ => 0
  | .loadObject _ _ _ => 0
  | .unloadObject _ _ => 0
  | .lrec _ _ => 0
  | .killt _ _ => 0
  | .tlbInvalidate _ _ _ _ => 0
  | .tlbInvalidateVi _ _ _ => 0
  | .debugStop _ _ => 0
  | .step _ _ => 0
  | .resume _ _ => 0
  | .debugMemoryViewRead _ _ _ _ => 0
  | .debugMemoryViewWrite _ _ _ _ => 0
  | .interfaceTableWrite _ _ _ => 0
  | .functionLevelReset _ => 0
  | .registerWrite _ _ => 0
  | .notAnInstruction w _ => w.toNat
  | .stirrupElementService _ _ => 0
  | .hostPortCompletion _ _ => 0
  | .peerElementCompletion _ _ => 0

/-- The word of an instruction. -/
def encode (i : Instr) : BitVec 32 := BitVec.ofNat 32 (encodeNat i)

end Sys2Proof
end

