-- ==== Sys2Proof/Machine/Launch.lean ====
section
/-! DEFINITION. The submission port and the ends of launches: LREC, KILLT, held continuations and the end of a launch
(R47, R50, R272 to R274, R279, R316). -/

namespace Sys2Proof.Machine

/-! ## The launch record (R272) -/

/-- A launch record by doubleword, from its 256 bytes. -/
def recordOf (n : Nat) : Sparse Word :=
  (List.range 32).foldl (fun c i => Sparse.set 0 c i (BitVec.ofNat 64 (n / 2 ^ (64 * i)))) []

/-- The `bytes`-byte field at `off` of a record. -/
abbrev recField (r : Sparse Word) (off bytes : Nat) : Nat := slotField r off bytes

def recLevels (r : Sparse Word) : Nat := recField r 6 1
def recEntry (r : Sparse Word) : Nat := recField r 8 8
def recPool (r : Sparse Word) : BitVec 32 := BitVec.ofNat 32 (recField r 0x20 4)
def recFlags (r : Sparse Word) : BitVec 3 := BitVec.ofNat 3 (recField r 7 1)
def recTiles (r : Sparse Word) : Nat := recField r 0x2C 1
def recSpan (r : Sparse Word) : BitVec 8 := BitVec.ofNat 8 (recField r 0x2D 1)
def recQueue (r : Sparse Word) : Nat := recField r 0x28 2
def recExtent (r : Sparse Word) (n : Nat) : Nat := recField r (0x40 + 16 * n) 4
def recDomain (r : Sparse Word) (n : Nat) : Nat := recField r (0x44 + 16 * n) 1
def recScope (r : Sparse Word) (n : Nat) : Nat := recField r (0x45 + 16 * n) 1

/-- The tasks of a launch: the product of its extents (R274). -/
def recTasks (r : Sparse Word) : Nat := (List.range (recLevels r)).foldl (fun acc n => acc * recExtent r n) 1

/-- Level `n` is in range, or zero at and above NLEVEL (R272, R273). -/
def levelOk (r : Sparse Word) (n : Nat) : Bool :=
  if n < recLevels r then
    recExtent r n != 0 && decide (recDomain r n ≤ 4) && decide (recScope r n ≤ 5) && decide (4 - recDomain r n ≤ recScope r n)
      && recField r (0x46 + 16 * n) 2 == 0 && recField r (0x48 + 16 * n) 8 == 0
      && (n == 0 || decide (recDomain r (n - 1) ≤ recDomain r n))
  else recField r (0x40 + 16 * n) 8 == 0 && recField r (0x48 + 16 * n) 8 == 0

/-- Every field is in its range and every zero field is zero (R272). -/
def recordFields (r : Sparse Word) : Bool :=
  recField r 0 4 == 0x44584C31 && recField r 4 2 == 1 && decide (1 ≤ recLevels r) && decide (recLevels r ≤ 8)
    && recField r 7 1 / 8 == 0 && recEntry r % 4 == 0 && decide (recQueue r < 256) && decide (recField r 0x2A 1 ≤ 7)
    && recField r 0x2B 1 != 0 && decide (recTiles r ≤ 8) && decide ((recSpan r).toNat % 16 ≤ 4)
    && decide ((recSpan r).toNat / 16 ≤ 2) && recField r 0x2E 2 == 0
    && (List.range 8).all (levelOk r) && (List.range 8).all fun k => recField r (0xC0 + 8 * k) 8 == 0

/-- The check of R47: the partition bears the launch, and the kernel's scratch fits. -/
def partitionOk (r : Sparse Word) (scrsize : Nat) : Bool :=
  let p := (recPool r).toNat
  let rf := p % 256
  let sp := p / 2 ^ 8 % 256
  let acc := p / 2 ^ 16 % 256
  let sb := p / 2 ^ 24
  decide (rf + sp + acc + sb ≤ 96) && vlenbOf (recPool r) != 0 && decide (vlenbOf (recPool r) * 8 ≤ sb * 4096)
    && decide (recTiles r ≤ acc / 4) && (!(recFlags r).getLsbD 0 || decide (recTiles r ≤ acc / 8))
    && decide (scrsize ≤ sp * 16384)

/-- SPAN and the domains agree (R273). -/
def spanDomains (r : Sparse Word) : Bool :=
  let ds := (List.range (recLevels r)).map (recDomain r)
  (spanDies (recSpan r) == 1 || ds.all (· == 0)) && (spanCores (recSpan r) == 1 || ds.all fun d => decide (d ≤ 2))

/-- An erratum can stand in a catalogue beside others: its ID is 1 to 65,535, and it shares neither that nor a SWBIT that
selects a legacy behaviour (R362). -/
def erratumFits (l : List Config.Erratum) (e : Config.Erratum) : Bool :=
  e.id != 0 && l.all fun x => x.id != e.id && !(x.cp && e.cp && x.swbit == e.swbit)

/-- The errata catalogue: what the firmware lists, with at most 64 entries, none of which breaks the rule of R362. -/
def catalogue (s : State) : List Config.Erratum :=
  ((Config.errata s.power.boots).foldl (fun l e => if erratumFits l e then l ++ [e] else l) []).take 64

/-- An entry of the catalogue as BAR0 shows it (R362). -/
def erratumWord (e : Config.Erratum) : Word :=
  ((((e.fixStep ++ 0#8) ++ BitVec.ofBool e.sem) ++ BitVec.ofBool e.cp) ++ e.swbit) ++ e.id

/-- The doubleword at an offset of BAR0 from 0x4000 on: ECNT and the catalogue's entries (R362). -/
def catalogueRead (s : State) (offset : Nat) : Word :=
  if offset = 0x4000 then BitVec.ofNat 64 (catalogue s).length
  else (((catalogue s)[(offset - 0x4008) / 8]?).map erratumWord).getD 0

/-- The bits of ERRATA that the catalogue assigns (R362). -/
def errataBits (s : State) : Word :=
  (catalogue s).foldl (fun w e => if e.cp then w ||| (1#64 <<< e.swbit.toNat) else w) 0

/-- SCRSIZE of the kernel whose entry is at `va`, 0 where none is (R46, R47). -/
def scratchSize (s : State) (vi va : Nat) : Nat :=
  match codeObject s vi va with
  | none => 0
  | some o => ((o.kernels.find? fun k => k.entry == va).map (·.scrsize)).getD 0

/-- A launch of interface `vi` passes R47 and R273. -/
def launchOk (s : State) (vi : Nat) (r : Sparse Word) : Bool :=
  recordFields r && partitionOk r (scratchSize s vi (recEntry r)) && spanDomains r && decide (recTasks r ≤ 2 ^ 40)
    && (hwQueue s vi (recQueue r)).isSome && BitVec.ofNat 64 (recField r 0x30 8) &&& ~~~(errataBits s) == 0
    && decide (areaSize (recPool r) (recTiles r) (recSpan r) (recFlags r) ≤ (s.vi vi).csaSize)

/-- ENTRY lies in the code region of a refused object (R43). -/
def entryRefused (s : State) (vi va : Nat) : Bool := ((codeObject s vi va).map fun o => o.state == .refused).getD false

/-! ## Submission (R273, R274, R316) -/

/-- The slot of an accepted launch (R281). -/
def launchSlot (record : Nat) (q : Nat) : Slot :=
  Sparse.set 0 (Sparse.set 0 [] 0 (BitVec.ofNat 64 record)) 3 (BitVec.ofNat 64 (q % 2 ^ 16 + 2 ^ 25))

/-- The status of a submission in LSTAT; an accepted one counts, and renumbers the interface's cores (R316, R340). -/
def judged (s : State) (vi : Nat) (status : BitVec 8) : State :=
  let v := s.vi vi
  s.setVi vi (if status = 0 then { v with status, accepted := v.accepted + 1, oosSeen := s.oos } else { v with status })

/-- ERRATA of a launch: the record's bits and those of the object's stance. An object with no stance runs with none (R49,
R363). -/
def launchErrata (s : State) (vi : Nat) (r : Sparse Word) : Word :=
  let own := BitVec.ofNat 64 (recField r 0x30 8)
  match codeObject s vi (recEntry r) with
  | none => own
  | some o => if o.errata = 0 then 0 else own ||| o.errata

/-- An accepted launch: PRIO and WEIGHT go to its queue, and its slot to the tail (R274, R280). -/
def acceptLaunch (s : State) (vi : Nat) (va : Nat) (r : Sparse Word) (d : QueueDesc) : State :=
  let q := recQueue r
  let id := s.nextLaunch
  let l : Launch := { id, vi, record := r, errata := launchErrata s vi r, queue := q, supplied := 0, ended := 0, poison := none, bindings := [] }
  match deviceWrite s vi (d.va + 0x20) (recField r 0x2A 2) 2 with
  | .ok s1 => match pushSlot s1 vi q (launchSlot va q) 0 (some id) with
    | some s2 => judged { s2 with launches := s2.launches ++ [l], nextLaunch := id + 1 } vi 0
    | none => judged s vi 13
  | _ => judged s vi 13

/-- A write to LREC submits the record at an address: BUSY until the launch unit has judged it. A write while BUSY is set is
dropped (R316). -/
def execLrec (vi : Nat) (address : BitVec 64) (s : State) : Out :=
  whenReady s (
    let v := s.vi vi
    s.setVi vi (if v.lrec.isSome then { v with dropped := true } else { v with lrec := some address }))

/-- The launch unit judges the record at an address (R273, R316): the checks behind statuses 14, 11, 10 and 13 in that order
(R50). -/
def judge (s : State) (vi va : Nat) : State :=
  match (if va % 64 = 0 then deviceRead s vi va 256 else .cause Cause.misaligned) with
  | .ok img =>
    let r := recordOf img
    if entryRefused s vi (recEntry r) then judged s vi 11
    else if launchOk s vi r = false then judged s vi 10
    else match queueDesc s vi (recQueue r) with
      | none => judged s vi 13
      | some d => if d.tail - d.head = d.rcap then judged s vi 13 else acceptLaunch s vi va r d
  | _ => judged s vi 14

/-- The launch unit takes the submission of an interface (R316). -/
def judgeSubmission (s : State) (vi : Nat) : State :=
  match (s.vi vi).lrec with
  | none => s
  | some va => if s.power.state = .ready then judge (s.setVi vi { s.vi vi with lrec := none }) vi va.toNat else s

/-- KILLT (R296, R316): the live task named, running or switched out. -/
def execKillt (vi : Nat) (task : BitVec 64) (s : State) : Out :=
  whenReady s (match hartOfTask s vi task with
    | some n => kill s n Cause.killed 0 0 (s.hart n).trap.handler
    | none =>
      match (savedTasks s vi).find? fun c => areaTaskId s vi c.1 == some task with
      | some (area, p) => killSaved s vi area p Cause.killed 0 true
      | none => s)

/-! ## Held pushes and launch ends -/

/-- A held continuation is tried again (R279). -/
def execJoinPushRetry (held : Nat) (s : State) : Out :=
  whenReady s (match s.held[held]? with
    | none => s
    | some h => match pushSlot s h.vi (slotField h.slot 0x18 2) h.slot h.status h.root with
      | some s => { s with held := s.held.eraseIdx held }
      | none => s)

/-- A launch whose every task has ended ends: release at system scope, which waits for peers and for the flushing read of the
host port (R238), and JOINP is decremented (R274). -/
def execLaunchEnd (launch : Nat) (s : State) : Out :=
  whenReady s (match s.launches.find? fun l => l.id == launch with
    | none => s
    | some l =>
      if l.closed ∨ l.supplied < recTasks l.record ∨ l.ended < l.supplied ∨ s.out.any (fun r => r.kind == 3) = true then s
      else if s.posted ≠ [] then askFlush s l.vi
      else
        let s := { s with
          launches := s.launches.map fun x => if x.id = launch then { x with closed := true } else x }
        decrementAt s l.vi 0 l.queue (BitVec.ofNat 64 (recField l.record 0x18 8)) l.poison)

end Sys2Proof.Machine
end

