-- ==== Sys2Proof/Machine/Scheduler.lean ====
section
/-! DEFINITION. The distributor and the vector sequencer: placement, bindings, task start, pre-emption and time slices
(R43, R106, R274 to R277, R282 to R285, R299, R311, R314, R393). -/

namespace Sys2Proof.Machine

/-! ## Idle slots and spans (R277, R393) -/

/-- Hart slot `n` holds a task or serves a span. -/
def occupied (s : State) (n : Nat) : Bool := s.harts.any fun c => c.2.live && (c.1 == n || n ∈ c.2.slots)

/-- The idle hart slots of a core of the package that is in service, lowest first (R2). -/
def idleSlots (s : State) (core : Nat) : List Nat :=
  if s.oos.getLsbD core ∨ s.build.cores ≤ core then [] else ((List.range 4).map fun k => 4 * core + k).filter fun n => !occupied s n

/-- The cores of a span whose home is `core`, in span position order (R277). -/
def spanList (core : Nat) (span : BitVec 8) : List Nat :=
  (List.range (spanDies span)).flatMap fun i => (List.range (spanCores span)).map fun j => core + 256 * i + j

/-- A core can take a hart of interface `vi` with a partition: it is in the mask, it has an idle slot, and it holds the
partition or is wholly idle (R106, R282, R311). -/
def coreFits (s : State) (vi : Nat) (pool : BitVec 32) (core : Nat) : Bool :=
  let idle := idleSlots s core
  (s.vi vi).hasCore core && !idle.isEmpty && ((s.core core).poolpart == pool || idle.length == 4)

/-- The span and the hart slots of a task whose home slot would be `n`, if it fits (R277, R282). -/
def placeAt (s : State) (vi : Nat) (pool : BitVec 32) (span : BitVec 8) (n : Nat) : Option (List Nat × List Nat) :=
  let core := n / 4
  let cores := spanList core span
  if core % spanCores span = 0 ∧ core / 256 % spanDies span = 0 ∧ n ∈ idleSlots s core ∧ cores.all (coreFits s vi pool) = true then
    some (cores, n :: (cores.drop 1).map fun c => ((idleSlots s c).head?).getD (4 * c))
  else none

/-- Every hart slot where a task would fit, lowest first. -/
def placeable (s : State) (vi : Nat) (pool : BitVec 32) (span : BitVec 8) : List Nat :=
  (List.range s.build.harts).filter fun n => (placeAt s vi pool span n).isSome

/-- Slot `a` goes before slot `b`: more idle slots on its core, then the lower core, then the lower slot (R393). -/
def slotBefore (s : State) (a b : Nat) : Bool :=
  let ia := (idleSlots s (a / 4)).length
  let ib := (idleSlots s (b / 4)).length
  decide (ib < ia) || (ia == ib && decide (a < b))

/-- The first of some slots in the order of R393. -/
def bestSlot (s : State) : List Nat → Option Nat
  | [] => none
  | n :: l => some (l.foldl (fun a b => if slotBefore s b a then b else a) n)

/-- The slots in the order in which the distributor takes them (R393). -/
def idleOrder (s : State) : List Nat :=
  let all := (List.range s.build.cores).map fun c => idleSlots s c
  [4, 3, 2, 1].flatMap fun k => (all.filter fun l => l.length == k).flatMap id

/-! ## Instance bindings (R275) -/

/-- Hart slot `n` lies in the unit of a binding. -/
def Binding.contains (b : Binding) (n : Nat) : Bool :=
  match b.slot with
  | some k => n == k
  | none => decide (b.firstCore ≤ n / 4) && decide (n / 4 < b.firstCore + b.cores)

/-- The unit of a domain that holds hart slot `n`: its first core, its cores, and its slot (R272). -/
def unitOf (b : Build) (domain n : Nat) : Nat × Nat × Option Nat :=
  let core := n / 4
  match domain with
  | 0 => (0, b.cores, none)
  | 1 => (core / 256 * 256, 256, none)
  | 2 => (core / 16 * 16, 16, none)
  | 3 => (core, 1, none)
  | _ => (core, 1, some n)

/-- The idle hart slots of a unit. -/
def unitIdle (s : State) (u : Nat × Nat × Option Nat) : Nat :=
  match u.2.2 with
  | some n => (n ∈ idleSlots s (n / 4) : Bool).toNat
  | none => (List.range u.2.1).foldl (fun acc k => acc + (idleSlots s (u.1 + k)).length) 0

/-- The index tuple of task `k` of a launch; the last level varies fastest (R274). -/
def indexPath (r : Sparse Word) (k : Nat) : List Nat :=
  ((List.range (recLevels r)).reverse.foldl (fun acc n => (acc.2 % recExtent r n :: acc.1, acc.2 / recExtent r n))
    (([] : List Nat), k)).1

/-- The binding of the level-`n` instance that holds an index tuple. -/
def Launch.binding (l : Launch) (path : List Nat) (n : Nat) : Option Binding :=
  l.bindings.find? fun b => b.level == n && b.path == path.take (n + 1)

/-- The index tuple of a running task. -/
def Task.path (t : Task) (levels : Nat) : List Nat := (List.range levels).map fun k => (Sparse.get 0 t.lpath k).toNat

/-- A task of the launch with index prefix `path` runs, is switched out, or is still to be supplied. -/
def instanceLives (s : State) (l : Launch) (path : List Nat) : Bool :=
  let k := path.length
  s.harts.any (fun c => c.2.live && c.2.task.launch == some l.id && c.2.task.path k == path)
    || s.saves.any (fun c => c.launch == some l.id && c.path.take k == path)
    || (decide (l.supplied < recTasks l.record) && (indexPath l.record l.supplied).take k == path)

/-- Bindings last until the last task of their instance ends (R275). -/
def dropBindings (s : State) : State :=
  { s with launches := s.launches.map fun l =>
      if l.bindings.isEmpty then l else { l with bindings := l.bindings.filter fun b => instanceLives s l b.path } }

/-- Bind levels `n` on, `fuel` of them, for a task of the launch: the slots left, and the new bindings (R275, R393).
`slots` are those where the task fits inside the units so far. -/
def bindLevels (s : State) (l : Launch) (path : List Nat) : Nat → Nat → List Nat → List Binding → Option (List Nat × List Binding)
  | 0, _, slots, new => if slots.isEmpty then none else some (slots, new)
  | fuel + 1, n, slots, new =>
    match l.binding path n with
    | some b => bindLevels s l path fuel (n + 1) (slots.filter b.contains) new
    | none =>
      match (slots.map (unitOf s.build (recDomain l.record n))).eraseDups with
      | [] => none
      | u0 :: us =>
        let u := us.foldl (fun a b => if unitIdle s a < unitIdle s b then b else a) u0
        let b : Binding := { level := n, path := path.take (n + 1), firstCore := u.1, cores := u.2.1, slot := u.2.2 }
        bindLevels s l path fuel (n + 1) (slots.filter b.contains) (new ++ [b])

/-! ## Waiting entries (R281, R282) -/

/-- An entry of a queue, as the distributor sees it. -/
inductive Waiting where
  | launch (l : Launch)
  | slot (c : Slot)
  | saved (c : Slot) (l : Option Launch)

/-- Entry `e` of a queue. A launch supplies its tasks only at the head (R274). -/
def waitingAt (s : State) (vi q : Nat) (d : QueueDesc) (e : Nat) : Option Waiting :=
  (readSlot s vi d e).bind fun c =>
    let flags := slotField c 0x1B 1
    if flags.testBit 1 then
      if e = d.head then
        ((slotNote s vi q e).bind (·.root)).bind fun id => (s.launches.find? fun l => l.id == id).map Waiting.launch
      else none
    else if flags.testBit 0 then
      let task : Word := match deviceRead s vi (slotDw c 0 + 0x20) 8 with
        | .ok v => BitVec.ofNat 64 v
        | _ => 0
      some (.saved c (((savedOf s vi task).bind (·.launch)).bind fun id => s.launches.find? fun l => l.id == id))
    else some (.slot c)

/-- The partition and the span that an entry's task needs. -/
def Waiting.needs : Waiting → BitVec 32 × BitVec 8
  | .launch l => (recPool l.record, recSpan l.record)
  | .slot c => (BitVec.ofNat 32 (slotField c 0x50 4), BitVec.ofNat 8 (slotField c 0x59 1))
  | .saved c _ => (BitVec.ofNat 32 (slotField c 0x50 4), BitVec.ofNat 8 (slotField c 0x59 1))

/-- The index tuple in a slot's LPATH. -/
def slotPath (c : Slot) (levels : Nat) : List Nat := (List.range levels).map fun k => slotField c (0x20 + 4 * k) 4

/-- The bindings that an entry's task already has (R275). -/
def Waiting.bound : Waiting → List Binding
  | .launch l => (List.range (recLevels l.record)).filterMap (l.binding (indexPath l.record l.supplied))
  | .slot _ => []
  | .saved c l => match l with
    | none => []
    | some l => (List.range (recLevels l.record)).filterMap (l.binding (slotPath c (recLevels l.record)))

/-- The slots where an entry's task can start, and the bindings that its start makes. -/
def Waiting.slots (w : Waiting) (s : State) (vi : Nat) : Option (List Nat × List Binding) :=
  let (pool, span) := w.needs
  let all := (placeable s vi pool span).filter fun n => w.bound.all fun b => b.contains n
  match w with
  | .launch l => bindLevels s l (indexPath l.record l.supplied) (recLevels l.record) 0 all []
  | _ => if all.isEmpty then none else some (all, [])

/-- An entry of an interface: queue, descriptor, entry number. -/
structure Entry where
  q : Nat
  d : QueueDesc
  e : Nat
  w : Waiting

/-- The first sixteen entries of a queue (R282). -/
def queueEntries (s : State) (vi q : Nat) : List Entry :=
  match queueDesc s vi q with
  | none => []
  | some d => (List.range (min 16 (d.tail - d.head))).filterMap fun k =>
    (waitingAt s vi q d (d.head + k)).map fun w => { q, d, e := d.head + k, w }

/-- Where an entry would start for idle slot `h`, if it can run on it: its slot and new bindings (R282, R393). A task that is
bound to no instance starts on `h`. -/
def startFor (s : State) (vi h : Nat) (x : Entry) : Option (Nat × List Binding) :=
  let free : Bool := match x.w with
    | .launch _ => false
    | .slot _ => true
    | .saved _ l => l.isNone
  if x.w.bound.any fun b => !b.contains h then none
  else if free then
    let (pool, span) := x.w.needs
    (placeAt s vi pool span h).map fun _ => (h, [])
  else (x.w.slots s vi).bind fun c => (bestSlot s c.1).map fun n => (n, c.2)

/-- The earliest entry of a queue that can run on `h`. -/
def queueChoice (s : State) (vi h q : Nat) : Option (Entry × Nat × List Binding) :=
  (queueEntries s vi q).findSome? fun x => (startFor s vi h x).map fun c => (x, c.1, c.2)

/-- Queue `b` goes before queue `a`: higher PRIO, then less V, then the lower hardware queue (R282). -/
def queueBefore (s : State) (vi : Nat) (b a : Entry) : Bool :=
  let v (x : Entry) : Rat := ((hwQueue s vi x.q).map s.qv).getD 0
  decide (a.d.prio < b.d.prio) || (a.d.prio == b.d.prio && (decide (v b < v a) || (decide (v b = v a) && decide (b.q < a.q))))

/-- What an interface would start for `h` (R282 steps 2 to 4). -/
def viChoice (s : State) (h vi : Nat) : Option (Entry × Nat × List Binding) :=
  let v := s.vi vi
  if v.tsw = 0 ∨ v.hasCore (h / 4) = false then none
  else match (List.range 256).filterMap (queueChoice s vi h) with
    | [] => none
    | c :: cs => some (cs.foldl (fun a b => if queueBefore s vi b.1 a.1 then b else a) c)

/-! ## Task start (R276) -/

/-- The scratch sections of the object that holds the entry are zero on the cores of the span (R38, R276). -/
def zeroScratch (s : State) (vi pc : Nat) (span : List Nat) : State :=
  match codeObject s vi pc with
  | none => s
  | some o => span.foldl (fun s c =>
    let k := s.core c
    let inside (lo hi : Nat) : Bool := o.scratches.any fun x => decide (x.addr ≤ lo) && decide (hi ≤ x.addr + x.size)
    s.setCore c { k with
      scratch := k.scratch.filter fun b => !inside b.1 (b.1 + 1)
      lost := k.lost.filter fun b => !inside (512 * b) (512 * b + 512) }) s

/-- The cores of a span hold the partition (R106). -/
def partitionCores (s : State) (pool : BitVec 32) (span : List Nat) : State :=
  span.foldl (fun s c => s.setCore c { s.core c with poolpart := pool }) s

/-- The page that failed its hash in the object of the launch that a task descends from, whatever has become of the object
since (R43). -/
def refusedRoot (s : State) (root : Option Nat) : Option Nat :=
  (root.bind fun id => s.launches.find? fun l => l.id == id).bind (·.refused)

/-- A task starts on hart `n` at `pc` with `args` in x3 and `status` in x10 (R276). A task that descends from a launch whose
object was refused is killed before its first instruction (R43). -/
def startTask (s : State) (n : Nat) (span slots : List Nat) (t : Task) (pc args : Word) (status : BitVec 8) : State :=
  let v := s.vi t.vi
  let s := s.setVi t.vi { v with nextTask := v.nextTask + 1 }
  let s := zeroScratch (partitionCores s t.start.poolpart span) t.vi pc.toNat span
  let x := Sparse.set 0 (Sparse.set 0 (Sparse.set 0 [] 3 args) 4 t.start.rtbase) 10 (status.setWidth 64)
  let s := takeCheckpoint (s.setHart n { (s.hart n).vacant with
    live := true, pc, x, span, slots, ckmask := t.start.ckmask &&& 0xFFFFFFFE
    task := { t with id := BitVec.ofNat 64 v.nextTask } }) n
  match refusedRoot s t.root with
  | some page => kill s n Cause.codeHash pc (BitVec.ofNat 64 page) false
  | none => s

/-- The start attributes of a launch's tasks (R276). -/
def Launch.start (l : Launch) : Start :=
  let r := l.record
  { ckmask := BitVec.ofNat 32 (recField r 0x24 4), poolpart := recPool r, tiles := recTiles r, span := recSpan r
    flags := recFlags r, errata := l.errata, rtbase := BitVec.ofNat 64 (recField r 0x38 8) }

/-- LVL0 to LVL7 of an index tuple. -/
def pathOf (path : List Nat) : Sparse (BitVec 32) :=
  path.zipIdx.foldl (fun m c => Sparse.set 0 m c.2 (BitVec.ofNat 32 c.1)) []

/-- The launch unit supplies the next task of a launch; the slot leaves the queue with the last one (R274, R276). -/
def startLaunched (s : State) (vi : Nat) (x : Entry) (l : Launch) (n : Nat) (span slots : List Nat) (new : List Binding) : State :=
  let r := l.record
  let args := BitVec.ofNat 64 (recField r 0x10 8)
  let t : Task :=
    { vi, queue := x.q, prio := x.d.prio, weight := x.d.weight, frame := args, joinp := 0, level := recLevels r - 1
      lpath := pathOf (indexPath r l.supplied), start := l.start, launch := some l.id, root := some l.id }
  let s := if recTasks r ≤ l.supplied + 1 then removeEntry s vi x.q x.d x.e else s
  let s := { s with launches := s.launches.map fun k =>
      if k.id = l.id then { k with supplied := k.supplied + 1, bindings := k.bindings ++ new } else k }
  startTask s n span slots t (BitVec.ofNat 64 (recEntry r)) args 0

/-- The task of a slot written by a spawn or a join starts (R276, R281). -/
def startQueued (s : State) (vi : Nat) (x : Entry) (c : Slot) (n : Nat) (span slots : List Nat) : State :=
  let w (i : Nat) : Word := Sparse.get 0 c i
  let note := slotNote s vi x.q x.e
  let t : Task :=
    { vi, queue := x.q, prio := x.d.prio, weight := x.d.weight, frame := w 1, joinp := w 2, level := slotField c 0x1A 1
      lpath := pathOf (slotPath c 8), spawnk := slotField c 0x1C 4
      start := { ckmask := BitVec.ofNat 32 (slotField c 0x54 4), poolpart := BitVec.ofNat 32 (slotField c 0x50 4)
                 tiles := slotField c 0x58 1, span := BitVec.ofNat 8 (slotField c 0x59 1)
                 flags := BitVec.ofNat 3 (slotField c 0x5A 1), errata := w 9, rtbase := w 12 }
      launch := none, root := note.bind (·.root), seq := slotDw c 8, seqBase := slotDw c 8 }
  startTask (removeEntry s vi x.q x.d x.e) n span slots t (w 0) (w 1) ((note.map (·.status)).getD 0)

/-- The chosen entry starts on slot `n` (R276, R309). -/
def startEntry (s : State) (vi : Nat) (x : Entry) (n : Nat) (new : List Binding) : State :=
  let (pool, span) := x.w.needs
  match placeAt s vi pool span n with
  | none => s
  | some (cores, slots) =>
    match x.w with
    | .launch l => startLaunched s vi x l n cores slots new
    | .slot c => startQueued s vi x c n cores slots
    | .saved c _ => resumeTask (partitionCores s pool cores) n vi x.q x.e x.d (slotDw c 0) cores slots

/-! ## The choice (R282, R314, R393) -/

/-- The candidates for `h`, each with what it would start. -/
def candidatesFor (s : State) (h : Nat) : List (Nat × Entry × Nat × List Binding) :=
  s.vis.filterMap fun c => (viChoice s h c.1).map fun x => (c.1, x)

/-- An interface that becomes a candidate catches up in virtual time (R314). -/
def catchUp (s : State) (cands : List Nat) : State :=
  let least (vi : Nat) : Option Rat := cands.foldl (fun acc b =>
    if b = vi then acc
    else match acc with
      | none => some (s.vi b).vtime
      | some w => some (min w (s.vi b).vtime)) none
  { s with vis := s.vis.map fun c =>
      let is := decide (c.1 ∈ cands)
      let vtime := if is && !c.2.candidate then max c.2.vtime ((least c.1).getD c.2.vtime) else c.2.vtime
      (c.1, { c.2 with candidate := is, vtime }) }

/-- The distributor's choice for idle slot `h` (R282, R314). -/
def chooseFor (s : State) (h : Nat) : Option State :=
  match candidatesFor s h with
  | [] => none
  | c :: cs =>
    let s := catchUp s ((c :: cs).map (·.1))
    let w (x : Nat × Entry × Nat × List Binding) : Rat := (s.vi x.1).vtime
    let (vi, x, n, new) := cs.foldl (fun a b => if w b < w a ∨ (w b = w a ∧ b.1 < a.1) then b else a) c
    some (startEntry s vi x n new)

/-! ## Requests of the distributor (R283, R299, R311) -/

/-- The running tasks of an interface, by hart. -/
def runningTasks (s : State) (vi : Nat) : List Nat := (s.harts.filter fun c => c.2.live && c.2.task.vi == vi).map (·.1)

/-- A request is pending against a task of the interface, or one saves its context. -/
def requestPending (s : State) (vi : Nat) : Bool :=
  (runningTasks s vi).any fun n => (s.hart n).preempt.isSome || match (s.hart n).wait with
    | .save .. => true
    | _ => false

/-- Entries that wait with no slot free for them. -/
def starved (s : State) (vi : Nat) : List Entry :=
  ((List.range 256).flatMap (queueEntries s vi)).filter fun x => (x.w.slots s vi).isNone

/-- Victim `b` goes before victim `a`: lower priority, larger queue V, higher hart (R283). -/
def victimBefore (s : State) (b a : Nat) : Bool :=
  let t (n : Nat) : Task := (s.hart n).task
  let v (n : Nat) : Rat := ((hwQueue s (t n).vi (t n).queue).map s.qv).getD 0
  decide ((t b).prio < (t a).prio)
    || ((t b).prio == (t a).prio && (decide (v a < v b) || (decide (v a = v b) && decide (a < b))))

/-- The victims of priority below `prio`, first victim first. -/
def victims (s : State) (vi prio : Nat) : List Nat :=
  let ins (x : Nat) (l : List Nat) : List Nat := l.takeWhile (victimBefore s · x) ++ x :: l.dropWhile (victimBefore s · x)
  ((runningTasks s vi).filter fun n => decide ((s.hart n).task.prio < prio)).foldl (fun l x => ins x l) []

/-- The state with the highest-numbered span core of the task on hart `n` reclaimed, where it may be (R186, R277). -/
def reclaimed (s : State) (n : Nat) : Option State :=
  let h := s.hart n
  if 1 < h.span.length ∧ h.task.start.tiles = 0 then some (leaveSpan s n (h.span.length - 1)) else none

/-- Make room for the highest-priority entry that no slot is free for: reclaim one span core where that is enough, or ask the
victim of R283 to leave. An instruction in flight that never trims completes first (R147). -/
def makeRoom (s : State) (vi : Nat) : State :=
  if requestPending s vi then s
  else match starved s vi with
    | [] => s
    | x0 :: xs =>
      let x := xs.foldl (fun a b => if queueBefore s vi b a then b else a) x0
      let vs := victims s vi x.d.prio
      let room := vs.findSome? fun n => ((reclaimed s n).filter fun s' => (x.w.slots s' vi).isSome).map fun s' => (n, s')
      match room, vs with
      | some (n, s'), _ => if (s.hart n).whole then s else s'
      | none, n :: _ => raiseRequest s n Cause.preempt
      | none, [] => s

/-- Tasks on cores that have left their interface's mask are switched out (R311). -/
def leaveMask (s : State) : State :=
  s.harts.foldl (fun s c =>
    let h := s.hart c.1
    if h.live && h.span.any (fun k => !(s.vi h.task.vi).hasCore k) then raiseRequest s c.1 Cause.preempt else s) s

/-- Queue `hw` of an interface holds an entry or runs a task (R311). -/
def queueBusy (s : State) (vi hw : Nat) : Bool :=
  let q := countBelow (s.vi vi).hasQueue hw
  ((queueDesc s vi q).map fun d => !d.empty).getD false || (runningTasks s vi).any fun n => (s.hart n).task.queue == q

/-- A table with the queues that satisfy `f` as its QMASK. -/
def withQueues (t : Sparse Word) (f : Nat → Bool) : Sparse Word :=
  (List.range 4).foldl (fun t w => Sparse.set 0 t (16 + w)
    ((List.range 64).foldl (fun m k => if f (64 * w + k) then m ||| (1#64 <<< k) else m) 0)) t

/-- An interface gives up the queues that its written entry leaves out, once they are idle; the rest of the entry takes effect
(R311). -/
def giveQueues (s : State) (vi : Nat) (v : Vi) : Vi :=
  let wanted : Vi := { v with table := v.staged }
  { v with table := withQueues v.staged fun k => v.hasQueue k && (wanted.hasQueue k || queueBusy s vi k) }

/-- An interface takes the queues that its written entry names and no interface holds (R280, R311). -/
def takeQueues (s : State) (vi : Nat) : State :=
  let v := s.vi vi
  let wanted : Vi := { v with table := v.staged }
  let takes (k : Nat) : Bool := wanted.hasQueue k && !(s.vis.any fun c => c.2.hasQueue k)
  s.setVi vi { v with table := withQueues v.table fun k => v.hasQueue k || takes k }

/-- The entries that VI 0 has written take effect (R311). -/
def takeTables (s : State) : State :=
  let vis : Sparse Vi := s.vis.map fun (c : Nat × Vi) => (c.1, giveQueues s c.1 c.2)
  (vis.map fun c => c.1).foldl takeQueues { s with vis }

/-- The distributor makes one choice (R282, R283, R311, R314, R393). -/
def execDistributorChoice (s : State) : Out :=
  whenReady s (
    let s := dropBindings (leaveMask (takeTables s))
    let s := ((idleOrder s).findSome? (chooseFor s)).getD s
    s.vis.foldl (fun s c => makeRoom s c.1) s)

/-! ## Slices (R283, R314) -/

/-- The state with the slots of hart `n` free, as a trial. -/
def withoutHart (s : State) (n : Nat) : State :=
  { s with harts := s.harts.map fun c => if c.1 = n then (c.1, { c.2 with live := false }) else c }

/-- An entry of interface `vi` with priority at least `prio` waits for the slot of hart `n`. -/
def waitsForSlot (s : State) (vi prio n : Nat) : Bool :=
  ((starved s vi).filter fun x => decide (prio ≤ x.d.prio)).any fun x =>
    match x.w.slots (withoutHart s n) vi with
    | some c => n ∈ c.1
    | none => false

/-- The queue quantum of a task expires (R283). -/
def execSliceEnd (hart : Nat) (s : State) : Out :=
  whenReady s (
    let h := s.hart hart
    match queueDesc s h.task.vi h.task.queue with
    | none => s
    | some d =>
      if h.live = false ∨ d.quantum = 0 ∨ (h.counters.slotcyc - h.slice).toNat < d.quantum then s
      else if waitsForSlot s h.task.vi h.task.prio hart then raiseRequest s hart Cause.sliceEnd
      else s.setHart hart { h with slice := h.counters.slotcyc })

/-- The conditions of R314 for the task on hart `n`. -/
def viSliceOver (s : State) (n : Nat) : Bool :=
  let h := s.hart n
  let a := s.vi h.task.vi
  h.live && a.viq != 0 && decide (a.viq ≤ h.counters.slotcyc.toNat)
    && s.vis.any fun c => c.1 != h.task.vi && c.2.tsw != 0 && c.2.hasCore (n / 4) && decide (c.2.vtime < a.vtime)
      && !(starved s c.1).isEmpty

/-- The cross-interface quantum of a task expires: the victim on its core leaves (R314). -/
def execViSliceEnd (hart : Nat) (s : State) : Out :=
  whenReady s (
    let core := hart / 4
    let w (n : Nat) : Rat := (s.vi (s.hart n).task.vi).vtime
    match ((List.range 4).map fun k => 4 * core + k).filter (viSliceOver s) with
    | [] => s
    | n0 :: rest =>
      if viSliceOver s hart then
        raiseRequest s (rest.foldl (fun a b => if w a < w b ∨ (w a = w b ∧ a < b) then b else a) n0) Cause.sliceEnd
      else s)

/-! ## The vector sequencer (R285) -/

/-- The instruction goes to the vector queue: its word is of the majors 0x10 to 0x1D (R24, R57). -/
def usesSequencer (i : Instr) (w : BitVec 32) : Bool :=
  match i with
  | .notAnInstruction _ _ => false
  | _ => decide (0x10 ≤ w.toNat / 2 ^ 26) && decide (w.toNat / 2 ^ 26 ≤ 0x1D)

/-- The hart holds a task that waits for nothing and that the debugger has not stopped. -/
def Hart.running (h : Hart) : Bool := h.live && decide (h.wait = .run) && !h.dbg.halted && !h.dbg.stepped && h.dbg.stop.isNone

/-- The word that a hart fetches next, where its page is filled. -/
def nextWord (s : State) (n : Nat) : Option (BitVec 32) :=
  let h := s.hart n
  let pc := h.pc.toNat
  (codeObject s h.task.vi pc).bind fun o =>
    if (pc - o.codebase) / 65536 ∈ o.filled then some (Sparse.get 0 o.words ((pc - o.codebase) / 4)) else none

/-- Hart `n` has a vector instruction ready for the sequencer of a core. DESIGN CHOICE (entry 93): what the vector queue of a hart that
stands at another instruction still holds is timing, and open. -/
noncomputable def vectorReady (s : State) (core n : Nat) : Bool :=
  (s.hart n).running
    && ((nextWord s n).any (fun w => usesSequencer (decode w) w) || n ∈ (s.core core).ready && Config.freeEvents n 259 s.free % 2 == 1)

/-- The harts among those named that the core serves and that can go on. -/
def sequencerCandidates (s : State) (core : Nat) (ready : List Nat) : List Nat :=
  if s.oos.getLsbD core then []
  else ready.eraseDups.filter fun n => (s.hart n).running && core ∈ (s.hart n).span

/-- A hart that becomes a candidate catches up in virtual time. -/
def catchUpHarts (k : Core) (cands : List Nat) : Sparse Rat :=
  cands.foldl (fun vh n =>
    if n ∈ k.ready then vh
    else
      let others := (cands.filter (· != n)).map fun m => Sparse.get 0 k.vh m
      match others with
      | [] => vh
      | x :: xs => Sparse.put vh n (max (Sparse.get 0 k.vh n) (xs.foldl min x))) k.vh

/-- Hart `b` goes before hart `a` at the sequencer. -/
def sequencedBefore (s : State) (vh : Sparse Rat) (b a : Nat) : Bool :=
  let p (n : Nat) : Nat := (s.hart n).task.prio
  let v (n : Nat) : Rat := Sparse.get 0 vh n
  decide (p a < p b) || (p a == p b && (decide (v b < v a) || (decide (v b = v a) && decide (b < a))))

/-- A core whose sequencer has chosen among the harts with a vector instruction ready (R285). -/
def sequencerChoice (s : State) (core : Nat) (ready : List Nat) : Core :=
  let k := s.core core
  let cands := sequencerCandidates s core ready
  let vh := catchUpHarts k cands
  let keeps : Option Nat := k.chosen.filter fun n => decide (n ∈ cands) && decide (k.used < 4096)
  match keeps, cands with
  | some _, _ => { k with vh, ready := cands }
  | none, [] => { k with vh, ready := [], chosen := none, used := 0 }
  | none, n :: rest =>
    { k with
      vh, ready := cands, used := 0
      chosen := some (rest.foldl (fun a b => if sequencedBefore s vh b a then b else a) n) }

/-- The vector sequencer of a core chooses among the harts with a vector instruction ready (R285). -/
def execVectorSequencerChoice (core : Nat) (ready : List Nat) (s : State) : Out :=
  whenReady s (s.setCore core (sequencerChoice s core ready))

/-- A vector instruction of hart `n` is ready: the sequencer of each core of its span chooses, with the harts that are ready there still;
one whose vector queue is empty has lost its turn, and catches up when it returns (R285). -/
noncomputable def askSequencers (s : State) (n : Nat) : State :=
  (s.hart n).span.foldl (fun s core =>
    s.setCore core (sequencerChoice s core ((s.core core).ready.filter (vectorReady s core) ++ [n]))) s

/-- The sequencer of each core of its span serves hart `n` (R285). -/
def sequenced (s : State) (n : Nat) : Bool := (s.hart n).span.all fun core => (s.core core).chosen == some n

end Sys2Proof.Machine
end

