-- ==== Sys2Proof/Machine/Outside.lean ====
section
/-! DEFINITION. The host and peer packages: translation completions, page requests, host writes and completions, peer
elements, and invalidations (R238, R256, R257, R325 to R330, R387, R394). -/

namespace Sys2Proof.Machine

/-! ## Answers -/

/-- Hand an answer to the owner of a request. A hart that waits for one performs its instruction again. -/
def deliver (s : State) (o : Owner) (a : Answer) : State :=
  match o with
  | .hart n =>
    let h := s.hart n
    if h.live then
      s.setHart n { h with answers := h.answers ++ [a], wait := if h.wait = .answer then .run else h.wait }
    else s
  | .stream n =>
    let h := s.hart n
    if h.live then s.setHart n { h with streamAnswers := h.streamAnswers ++ [a] } else s
  | .command id => mapCommand s id fun c => { c with answers := c.answers ++ [a] }
  | .copy id => mapCopy s id fun c => { c with answers := c.answers ++ [a] }
  | _ => s

/-- A hart that waits for an answer performs its instruction again. -/
def wakeHart (s : State) (n : Nat) : State :=
  let h := s.hart n
  if h.live ∧ h.wait = .answer then s.setHart n { h with wait := .run } else s

/-- The hart that waits for an answer of an owner performs its instruction again; the writes of a task are waited for by the hart
that runs it (R239). -/
def wake (s : State) (o : Owner) : State :=
  match o with
  | .hart n => wakeHart s n
  | .task vi id => match hartOfTask s vi id with
    | some n => wakeHart s n
    | none => s
  | _ => s

/-- The request numbered `id`. -/
def requestOf (s : State) (id : Nat) : Option ExtReq := s.out.find? fun r => r.id == id

/-- The request is answered. -/
def settleRequest (s : State) (id : Nat) : State := { s with out := s.out.filter fun r => r.id != id }

/-- The interface of a request's owner. -/
def ownerVi (s : State) (o : Owner) : Option Nat :=
  match o with
  | .hart n => if (s.hart n).live then some (s.hart n).task.vi else none
  | .stream n => if (s.hart n).live then some (s.hart n).task.vi else none
  | .command id => (s.commands.find? fun c => c.id == id).map fun c => c.by_.vi
  | .copy id => (s.copies.find? fun c => c.id == id).map fun c => c.by_.vi
  | .task vi _ => some vi
  | .device vi => some vi

/-! ## Address translation services (R327, R387) -/

/-- The Translation Request that a page's completion answers. -/
def pageWaiters (s : State) (vi page : Nat) : List ExtReq := s.out.filter fun r => r.kind == 4 && r.loc == .host vi page

/-- A completion gives a waiting request some permission that it needs (R387). -/
def grantsSome (r : ExtReq) (canRead canWrite : Bool) : Bool := (r.value.testBit 0 && canRead) || (r.value.testBit 1 && canWrite)

/-- Everyone who waits for a request goes on; where nothing was cached for it, each learns that the translation failed. -/
def answerWaiter (kept : Bool) (page : Nat) (s : State) (r : ExtReq) : State :=
  let failed : Answer := { kind := 4, loc := .host 0 (page / 4096), bytes := 4096, value := 0, cause := 0 }
  (r.owner :: r.also).foldl (fun s o => if kept then wake s o else deliver s o failed) (settleRequest s r.id)

/-- The completion of a request that an invalidation has covered is discarded, and one new request goes out for those still waiting
(R387). -/
def askAgain (s : State) (r : ExtReq) : State :=
  let s := settleRequest s r.id
  { s with out := s.out ++ [{ r with id := s.nextReq, op := 0 }], nextReq := s.nextReq + 1 }

/-- How many translations IOD0 caches (R324). -/
def atcCapacity : Nat := 16384

/-- The cached range of a completion, up to 1 GiB around the page (R327). -/
def atcRange (vi page log2size host : Nat) (canRead canWrite : Bool) : AtcEntry :=
  let size := 2 ^ min log2size 30
  let base := page / size * size
  { vi, base, size, host := host / 2 ^ log2size * 2 ^ log2size + (base - page / 2 ^ log2size * 2 ^ log2size), canRead, canWrite }

/-- A Translation Completion for a page: the range of 2^`log2size` bytes lies at host address `host` (R327); where the cache is
full its oldest entry makes room. -/
def execAtsTranslationCompletion (vi page log2size host : Nat) (canRead canWrite : Bool) (s : State) : Out :=
  whenReady s (
    let page := page / 4096 * 4096
    let rs := pageWaiters s vi page
    if rs.isEmpty ∨ log2size < 12 then s
    else if rs.any fun r => r.op == 1 then rs.foldl askAgain s
    else
      let kept := rs.any fun r => grantsSome r canRead canWrite
      let e := atcRange vi page log2size host canRead canWrite
      let s := if kept then { s with atc := e :: s.atc.take (atcCapacity - 1) } else s
      rs.foldl (answerWaiter kept page) s)

/-! ## Page requests (R328) -/

/-- A free page request slot goes to the lowest-numbered hart that found none and may have it. -/
def promoteParked (s : State) : State :=
  match s.harts.find? fun c => match c.2.wait with
    | .parked _ sent _ _ => c.2.live && !sent && pageSlotFree s c.2.task.vi
    | _ => false with
  | some (n, h) => match h.wait with
    | .parked va _ _ ea => s.setHart n { h with wait := .parked va true (BitVec.ofNat 64 s.uptime) ea }
    | _ => s
  | none => s

/-- The parked instruction of hart `n` translates again (R328). -/
def unpark (s : State) (n : Nat) (va : Word) : State :=
  let h := s.hart n
  promoteParked ({ s with atc := s.atc.filter fun e =>
      !(e.vi == h.task.vi && decide (e.base ≤ va.toNat) && decide (va.toNat < e.base + e.size)) }.setHart n
    { h with wait := .run, answers := h.answers.filter fun a => a.kind != 4 })

/-- The parked instruction of hart `n` traps PAGE_REQUEST_FAILED at its leading element, which is at `ea` (R328). -/
def failParked (s : State) (n : Nat) (ea : Word) : State :=
  promoteParked (onHart (s.setHart n { s.hart n with wait := .run }) n fun s => memTrap s Cause.pageRequestFailed ea.toNat)

/-- The host's response to a hart's Page Request (R328). -/
def execPageRequestResponse (hart : Nat) (success : Bool) (s : State) : Out :=
  whenReady s (match (s.hart hart).wait with
    | .parked va true _ ea =>
      if (s.hart hart).live = false then s
      else if success then unpark s hart va
      else failParked s hart ea
    | _ => s)

/-- A Page Request has had no response for 100 ms (R328). At a hart that found no slot it is only the time to look again. -/
def execPageRequestTimeout (hart : Nat) (s : State) : Out :=
  whenReady s (match (s.hart hart).wait with
    | .parked _ false _ _ => promoteParked s
    | .parked _ true since ea =>
      if (s.hart hart).live && decide (10 ^ 8 ≤ (BitVec.ofNat 64 s.uptime - since).toNat) then failParked s hart ea else s
    | _ => s)

/-! ## Host accesses (R238, R256, R257) -/

/-- Little-endian value of bytes. -/
def bytesValue (l : List (BitVec 8)) : Nat := l.foldr (fun b acc => b.toNat + 256 * acc) 0

/-- A posted write of the host reaches its home in device memory (R257). -/
def execHostPostedWrite (address : Nat) (bytes : List (BitVec 8)) (s : State) : Out :=
  whenReady s (
    if (List.range bytes.length).all (fun k => homeExists s.build (address + k)) then s.writeHome none address (bytesValue bytes) bytes.length
    else s)

/-- The operation of a request, without the number of its access. -/
def ExtReq.code (r : ExtReq) : Nat := r.op % tagUnit r.kind

/-- A hart's tag on a line beyond a port, set where the read was served (R256, R258): operation 1 scalar, 2 vector. A peer's home counts
the tags that it holds, and the hart notes its own (R330). -/
def portTag (s : State) (r : ExtReq) (v : Nat) : State :=
  match r.owner with
  | .hart n =>
    let l : Link := { agent := n, line := r.loc.line, vector := r.code == 2, place := r.loc, value := v }
    if r.code = 1 then { s with links := l :: s.links.filter fun x => !(x.agent == n && !x.vector && x.place == r.loc) }
    else if r.code = 2 then
      if r.loc.package.isSome then { s with links := s.links ++ [l] } else addVectorLink s n r.loc v
    else s
  | _ => s

/-- The party that the port's write for a request belongs to. -/
def ExtReq.writer (s : State) (r : ExtReq) : Owner :=
  match r.owner with
  | .hart n => (s.hart n).owner
  | o => o

/-- The conditional write of an atomic operation at the host port (R256): a lock word is written only where it is free (R263). -/
def portWrite (s : State) (r : ExtReq) (old : Nat) : State :=
  if r.code = 8 ∧ old ≠ 0 then s
  else s.writeOut (r.writer s) none (s.ordAt r.loc) r.loc 0 (8 * r.bytes) (atomicNew r.code r.bytes old r.value)

/-- What an AtomicOp of the host gave its element: the old value, or the status of a conditional store, which compares with what
its link read (R256). -/
def atomicResult (r : ExtReq) (old : Nat) : Nat := if r.code = 17 then (old != r.value / 2 ^ 64).toNat else old

/-- An AtomicOp of the host wrote the place: a conditional store that found its value, a lock word that was free, any other. -/
def atomicWrote (r : ExtReq) (old : Nat) : Bool :=
  if r.code = 17 then old == r.value / 2 ^ 64 else if r.code = 24 then old == 0 else true

/-- An answer to a request. -/
def ExtReq.answer (r : ExtReq) (v : Nat) (cause : BitVec 8) : Answer :=
  { kind := r.kind, loc := r.loc, bytes := r.bytes, value := v % 2 ^ (8 * r.bytes), cause, tag := r.op / tagUnit r.kind }

/-- The port reads again for an atomic operation whose link another write took (R256). -/
def retryAtomic (s : State) (r : ExtReq) : State :=
  let s := settleRequest s r.id
  { s with out := s.out ++ [{ r with id := s.nextReq, broken := false }], nextReq := s.nextReq + 1 }

/-- A lock word that a request took for a hart which no longer waits for it is given back (R263). -/
def giveWordBack (s : State) (r : ExtReq) (old : Nat) : State :=
  match r.owner with
  | .device _ => if r.locks && old == 0 then s.writeOut r.owner none (s.ordAt r.loc) r.loc 0 64 0 else s
  | _ => s

/-- What a completion from the host does for its request. -/
def hostAnswer (s : State) (r : ExtReq) (a : HostAnswer) : State :=
  let reply (s : State) (v : Nat) (cause : BitVec 8) : State := deliver (settleRequest s r.id) r.owner (r.answer v cause)
  match r.kind, a with
  | 0, .data v => reply (portTag s r (v % 2 ^ (8 * r.bytes))) v 0
  | 1, .data v =>
    let old := v % 2 ^ (8 * r.bytes)
    if r.code < 16 then if r.broken then retryAtomic s r else reply (giveWordBack (portWrite s r old) r old) old 0
    else reply (giveWordBack (if atomicWrote r old then touchLine s none r.loc.line else s) r old) (atomicResult r old) 0
  | 2, .flushed => reply { s with posted := s.posted.filter fun w => decide (r.id < w.seq) } 0 0
  | 0, .unsupported => reply s 0 Cause.pagePerm
  | 1, .unsupported => reply s 0 Cause.pagePerm
  | _, _ => s

/-- A completion arrives at the host port (R238, R256). -/
def execHostPortCompletion (request : Nat) (answer : HostAnswer) (s : State) : Out :=
  whenReady s (match requestOf s request with
    | none => s
    | some r => match r.loc with
      | .host .. => hostAnswer s r answer
      | _ => s)

/-! ## Peers (R330) -/

/-- A peer refuses a store that an invalidation performs from a save area, or cannot be reached: the task is killed with SAVE_FAULT
(R394). -/
def savedStoreFailed (s : State) (vi : Nat) (id : Word) : State :=
  match (savedOf s vi id).filter (·.committing) with
  | some k => match (savedTasks s vi).find? fun c => c.1 == k.area with
    | some (area, p) => killSaved s vi area p Cause.saveFault 0 false
    | none => s
  | none => s

/-- What the response of a peer does beside answering its request: the tag that its home set is noted (R258), a lock word that nobody
waits for is given back (R263), a hart that waits for its older tags to be cleared goes on, and a failed store of a save area kills its
task. -/
def peerEffect (s : State) (r : ExtReq) (v : Nat) (cause : BitVec 8) : State :=
  match r.kind, r.owner with
  | 0, _ => if cause = 0 then portTag s r v else s
  | 1, _ => if cause = 0 then giveWordBack s r v else s
  | 3, .task vi id => if cause = 0 then s else savedStoreFailed s vi id
  | 5, _ => wakeHart s r.value
  | _, _ => s

/-- The response of a peer package to an element that this device sent: its value, or PAGE_PERM (R330). An engine learns what
became of its write. DESIGN CHOICE (entry 5): a task's store is judged when its element is performed, with its cause there; no rule gives
a cause that its home then answers at the commit any place, and the store is not performed. -/
def peerAnswer (s : State) (r : ExtReq) (v : Nat) (cause : BitVec 8) : State :=
  let v := v % 2 ^ (8 * r.bytes)
  wake (deliver (peerEffect (settleRequest s r.id) r v cause) r.owner (r.answer v cause)) r.owner

/-- Act on a request to a peer package. -/
def withPeerRequest (s : State) (request : Nat) (k : ExtReq → State) : State :=
  match requestOf s request with
  | none => s
  | some r => match r.loc with
    | .peer .. => k r
    | _ => s

/-- The response of a peer package arrives over Rein (R330). -/
def execPeerElementCompletion (request : Nat) (answer : Option Nat) (s : State) : Out :=
  whenReady s (withPeerRequest s request fun r => match answer with
    | some v => peerAnswer s r v 0
    | none => peerAnswer s r 0 Cause.pagePerm)

/-- A peer package cannot be reached within 1 ms: the element ends with POISON (R330). -/
def execPeerTimeout (request : Nat) (s : State) : Out :=
  whenReady s (withPeerRequest s request fun r => peerAnswer s r 0 Cause.poison)

/-- The bytes that a peer's operation touches, and whether it reads and writes (R330). -/
def peerShape : PeerOp → Nat × Bool × Bool
  | .read n => (n, true, false)
  | .write n _ _ => (n, false, true)
  | .link n _ => (n, true, false)
  | .storeConditional n _ _ => (n, false, true)
  | .unlink _ => (0, false, false)
  | _ => (8, true, true)

/-- An inbound window admits an element (R330): permission bits 0 R and 1 W. -/
def Window.admits (w : Window) (package a n : Nat) (r w_ : Bool) : Bool :=
  decide (w.base.toNat ≤ a) && decide (a + n ≤ w.base.toNat + w.size.toNat)
    && (Sparse.get 0 w.mask (package / 64)).getLsbD (package % 64)
    && (!r || w.perms.getLsbD 0) && (!w_ || w.perms.getLsbD 1)

/-- The number of a peer's agent among the holders of links. -/
def peerAgent (package agent : Nat) : Nat := 2 ^ 16 + package * 2 ^ 32 + agent

/-- A peer's element at its home here: the cause or the value, and the state after it (R258, R330). -/
def peerPerform (s : State) (who : Nat) (op : PeerOp) (a : Nat) : BitVec 8 × Nat × State :=
  let loc := Loc.home a
  let atomic (code : Nat) (v : Word) : BitVec 8 × Nat × State :=
    let old := s.mem.read a 8
    (0, old, s.writeHome none a (atomicNew code 8 old v.toNat) 8)
  let shape := peerShape op
  if shape.2.1 && s.mem.poisoned a shape.1 then (Cause.poison, 0, s)
  else match op with
  | .read n => (0, s.mem.read a n, s)
  | .write n v mask =>
    let old := s.mem.read a n
    (0, 0, s.writeHome (some who) a (old - (old &&& mask) + (v &&& mask)) n)
  | .link n vector =>
    let v := s.mem.read a n
    let others := s.links.filter fun l => !(l.agent == who && !l.vector)
    (0, v, if vector then addVectorLink s who loc v
      else { s with links := { agent := who, line := loc.line, vector := false, place := loc, value := v } :: others })
  | .storeConditional n vector v =>
    let ok := (linkOn s who vector loc).isSome
    let s := if vector then s else dropLinkKind s who false
    if ok then (0, 0, s.writeHome none a v.toNat n) else (0, 1, s)
  | .unlink vector => (0, 0, dropLinkKind s who vector)
  | .lock v =>
    let old := s.mem.read a 8
    (0, old, if old = 0 then s.writeHome none a v.toNat 8 else s)
  | .swap v => atomic 2 v
  | .fadd v => atomic 3 v
  | .fmin v => atomic 4 v
  | .fmax v => atomic 5 v
  | .fand v => atomic 6 v
  | .for_ v => atomic 7 v

/-- An element of a peer package is admitted by a window and performed at its home (R330). -/
def execPeerAccess (package agent : Nat) (op : PeerOp) (address : Nat) (s : State) : Out :=
  whenReady s (
    let (n, r, w) := peerShape op
    let a := address % 2 ^ 52
    let reply (s : State) (cause : BitVec 8) (v : Nat) : State := { s with replies := s.replies ++ [.peer package agent cause v] }
    if n ≠ 0 ∧ !(s.windows.any fun c => c.2.admits package a n r w) then reply s Cause.pagePerm 0
    else if !((List.range n).all fun k => homeExists s.build (a + k)) then reply s Cause.pagePerm 0
    else
      let (cause, v, s) := peerPerform s (peerAgent package agent) op a
      reply s cause v)

/-! ## Invalidations (R325, R326, R394) -/

/-- The invalidation covers some of `[a, a + n)` of an interface. -/
def Inval.covers (i : Inval) (vi a n : Nat) : Bool :=
  i.vi == vi && (i.whole || i.stage2 || (decide (a < i.base + i.size) && decide (i.base < a + n)))

/-- Some buffered store was translated by a covered entry. -/
def Inval.coversStores (i : Inval) (vi : Nat) (sb : List SbEntry) : Bool :=
  sb.any fun e => i.covers vi e.va (ceilDiv (e.bit + e.bits) 8)

/-- A covered lock word that a hart has still to take is translated again (R263, R326), and is given up at its old place; one that fails
now is a cause at its element. -/
def relock (i : Inval) (s : State) (n : Nat) : State :=
  let h := s.hart n
  match h.wait with
  | .lock todo cause base index =>
    let again (w : Nat × Loc) : Res Loc :=
      if i.covers h.task.vi w.1 8 then (translateNow s deviceUnit h.task.vi w.1 true true).map (·.loc) else .ok w.2
    let todo' := todo.map fun w => match again w with
      | .ok l => (w.1, l)
      | _ => w
    let moved (l : Loc) : Bool := (todo.zip todo').any fun w => w.1.2 == l && w.2.2 != l
    let s := giveUpWords s n moved
    let s := s.setHart n { s.hart n with wait := .lock todo' cause base index }
    match todo.findSome? fun w => match again w with
      | .cause c => some (w.1, c)
      | _ => none with
    | some (w, c) => onHart s n fun s => failWord s c base index w (todo'.filter (·.1 != w))
    | none => s
  | _ => s

/-- A commit that an invalidation asks of the hart can begin or go on: the hart stands at an instruction boundary, parks at one or is
saved there, or commits inside a store in flight (R326). -/
def Hart.flushable (h : Hart) : Bool :=
  match h.wait with
  | .run => h.committing || h.answers.isEmpty && !h.whole
  | .fetch .. => true
  | .parked .. => true
  | .save .. => true
  | _ => false

/-- The hart that holds a covered store makes an implicit commit at its next instruction boundary or element (R326). -/
def flushHart (i : Inval) (s : State) (n : Nat) : State :=
  let h := s.hart n
  if h.live && h.flushable && (h.committing || i.coversStores h.task.vi h.sb) then flushCommit s n else s

/-- The images of a converted save: SBUSED and STATE (R394 steps 2 and 3). -/
def convertArea (s : State) (vi area : Nat) : Res State :=
  (deviceRead s vi area 0x100).bind fun img =>
    (writePieces vi ((List.range (descField img 0x1D 1)).map fun q =>
      (area + 0x2000 + q * descField img 0x10 4 + 0x68, 4, 0)) s).bind fun s => deviceWrite s vi (area + 6) 1 1

/-- The image of the buffer in a task's area can be read (R394). -/
def imageReadable (s : State) (vi area : Nat) : Res Nat :=
  (deviceRead s vi area 0x100).bind fun hd =>
    (deviceRead s vi (area + 0x2068) 4).bind fun used => bufferImage s vi area (areaStart hd) used

/-- Perform saved stores of a task in the order of a commit, up to a strongly ordered one that waits for the one before it (R95, R240). -/
def performSaved (o : Owner) : List SbEntry → State → State × List SbEntry
  | [], s => (s, [])
  | e :: rest, s => if e.strongly && strongPending s o then (s, e :: rest) else performSaved o rest (performAs s o none e)

/-- Replace what the device keeps for a switched-out task. -/
def mapSaved (s : State) (vi : Nat) (task : Word) (f : Saved → Saved) : State :=
  { s with saves := s.saves.map fun x => if x.vi = vi ∧ x.task = task then f x else x }

/-- A switched-out task whose save holds covered stores has them performed from its area, in the order of a commit; once all of them are,
the save is a commit save, whose checkpoint is the point where the task left (R394). -/
def flushSaved (i : Inval) (s : State) (k : Saved) : State :=
  if k.committing || i.coversStores k.vi k.sb then
    let fail (s : State) : State := match (savedTasks s k.vi).find? fun c => c.1 == k.area with
      | some (area, p) => killSaved s k.vi area p Cause.saveFault 0 false
      | none => s
    match if k.committing then .ok 0 else imageReadable s k.vi k.area with
    | .ok _ =>
      let (s, rest) := performSaved (.task k.vi k.task) k.sb s
      if !rest.isEmpty || peerWritePending s k.vi k.task then
        mapSaved s k.vi k.task fun x => { x with sb := rest, committing := true }
      else match convertArea s k.vi k.area with
        | .ok s => mapSaved s k.vi k.task fun x => { x with sb := [], marks := {}, committing := false, ckvs := 0 }
        | _ => fail s
    | _ => fail s
  else s

/-- A Translation Request outstanding for a covered page is to be discarded when it is answered (R387). -/
def coverRequest (i : Inval) (r : ExtReq) : ExtReq :=
  match r.loc with
  | .host vi page => if r.kind = 4 ∧ i.covers vi page 4096 = true then { r with op := 1 } else r
  | _ => r

/-- The covered stores of every hart and of every switched-out task are performed, and lock words translated again (R326,
R394). -/
def flushAll (i : Inval) (s : State) : State :=
  let s := (s.harts.map (·.1)).foldl (relock i) s
  let s := (s.harts.map (·.1)).foldl (flushHart i) s
  askFlush (s.saves.foldl (flushSaved i) s) i.vi

/-- An invalidation begins (R326): what it covers is dropped, and covered stores are performed. -/
def beginInval (s : State) (i : Inval) : State :=
  let s := { s with
    tlb := s.tlb.filter fun t => !i.covers t.vi t.base t.size
    atc := s.atc.filter fun e => !i.covers e.vi e.base e.size
    out := s.out.map (coverRequest i)
    invals := s.invals ++ [i] }
  let v := s.vi i.vi
  flushAll i (s.setVi i.vi { v with atsEpoch := v.atsEpoch + 1 })

/-- The page sizes of INVC (R325). -/
def invSize (size : BitVec 2) : Nat := match size.toNat with
  | 0 => 2 ^ 12
  | 1 => 2 ^ 16
  | 2 => 2 ^ 21
  | _ => 2 ^ 30

/-- A write of INVC by the driver of `vi`: only VI 0 may name stage 2 or another interface, and none while BUSY (R325). -/
def invcWrite (s : State) (vi target : Nat) (stage2 : Bool) (k : State → State) : State :=
  if (vi ≠ 0 ∧ (stage2 = true ∨ target ≠ vi)) ∨ s.invals.any (fun i => i.port == some vi) = true then s else k s

/-- INVC for one page (R325). -/
def execTlbInvalidate (vi target : Nat) (size : BitVec 2) (stage2 : Bool) (s : State) : Out :=
  whenReady s (invcWrite s vi target stage2 fun s =>
    let n := invSize size
    beginInval s { port := some vi, vi := target, base := (s.vi vi).inva.toNat / n * n, size := n, whole := false, stage2 })

/-- INVC with the whole-VI bit (R325). -/
def execTlbInvalidateVi (vi target : Nat) (stage2 : Bool) (s : State) : Out :=
  whenReady s (invcWrite s vi target stage2 fun s =>
    beginInval s { port := some vi, vi := target, base := 0, size := 0, whole := true, stage2 })

/-- A host ATS Invalidate Request (R326, R329). -/
def execAtsInvalidateRequest (vi page log2size : Nat) (s : State) : Out :=
  whenReady s (
    let n := 2 ^ log2size
    beginInval s { port := none, vi, base := page / n * n, size := n, whole := false, stage2 := false })

/-- An access that an invalidation may cover is still to be performed: one on its way to a party outside, a write posted to the
host, or a buffered store (R326). -/
def accessPending (s : State) (i : Inval) : Bool :=
  (s.out.any fun r => r.kind ∈ [0, 1, 3] && ownerVi s r.owner == some i.vi)
    || (s.posted.any fun w => w.vi == i.vi)
    || (s.saves.any fun k => k.vi == i.vi && (k.committing || i.coversStores k.vi k.sb))
    || s.harts.any fun c => c.2.live && i.coversStores c.2.task.vi c.2.sb

/-- An invalidation completes once every covered access is performed (R326); INVS counts one that INVC began (R325). -/
def execInvalidationComplete (index : Nat) (s : State) : Out :=
  whenReady s (match s.invals[index]? with
    | none => s
    | some i =>
      let s := flushAll i s
      if accessPending s i then s
      else
        let s := { s with invals := s.invals.eraseIdx index }
        match i.port with
        | none => s
        | some p => let v := s.vi p; s.setVi p { v with invsDone := v.invsDone + 1 })

end Sys2Proof.Machine
end

