-- ==== Sys2Proof/Machine/Hash.lean ====
section
/-! DEFINITION. The SHA-2 functions that object hashes and signatures use: SHA-384 (R41, R44), and SHA-256 and SHA-512 inside
SLH-DSA-SHA2-192s (R44). PRESUMED (entry 7): the spec names these functions; their definition is FIPS 180-4. -/

namespace Sys2Proof.Machine

/-- A run of bytes. -/
abbrev Bytes := List (BitVec 8)

/-- What tells one SHA-2 function of `w`-bit words from another: round constants, initial values, and the rotation and shift
amounts of its four mixing functions (FIPS 180-4, 4.1 and 4.2). -/
structure Sha (w : Nat) where
  k : List (BitVec w)
  init : List (BitVec w)
  big0 : Nat × Nat × Nat
  big1 : Nat × Nat × Nat
  small0 : Nat × Nat × Nat
  small1 : Nat × Nat × Nat

/-- A mixing function of three rotations. -/
def bigSigma {w : Nat} (r : Nat × Nat × Nat) (x : BitVec w) : BitVec w :=
  x.rotateRight r.1 ^^^ x.rotateRight r.2.1 ^^^ x.rotateRight r.2.2

/-- A mixing function of two rotations and a shift. -/
def smallSigma {w : Nat} (r : Nat × Nat × Nat) (x : BitVec w) : BitVec w :=
  x.rotateRight r.1 ^^^ x.rotateRight r.2.1 ^^^ (x >>> r.2.2)

/-- The big-endian number of some bytes. -/
def bigEndian (l : Bytes) : Nat := l.foldl (fun acc b => acc * 256 + b.toNat) 0

/-- A number as `n` bytes, big-endian. -/
def toBytes : Nat → Nat → Bytes
  | 0, _ => []
  | n + 1, x => toBytes n (x / 256) ++ [BitVec.ofNat 8 x]

/-- Runs of `n` items, `fuel` of them. -/
def chunks {α : Type} (n : Nat) : Nat → List α → List (List α)
  | 0, _ => []
  | fuel + 1, l => if l.isEmpty then [] else l.take n :: chunks n fuel (l.drop n)

/-- The padded message of a function of `w`-bit words, whose blocks are 2w bytes (FIPS 180-4, 5.1). -/
def shaPad (w : Nat) (m : Bytes) : Bytes :=
  let block := 2 * w
  let zeros := (2 * block - 1 - w / 4 - m.length % block) % block
  m ++ [0x80] ++ List.replicate zeros 0 ++ toBytes (w / 4) (8 * m.length)

/-- `fuel` more words of the message schedule, the latest first. -/
def Sha.schedule {w : Nat} (f : Sha w) : Nat → List (BitVec w) → List (BitVec w)
  | 0, l => l
  | fuel + 1, l =>
    let at_ (k : Nat) : BitVec w := l.getD k 0
    f.schedule fuel ((smallSigma f.small1 (at_ 1) + at_ 6 + smallSigma f.small0 (at_ 14) + at_ 15) :: l)

/-- The working variables of a round. -/
structure Round (w : Nat) where
  a : BitVec w
  b : BitVec w
  c : BitVec w
  d : BitVec w
  e : BitVec w
  f : BitVec w
  g : BitVec w
  h : BitVec w

/-- One round, with its constant and its word of the schedule. -/
def Sha.round {w : Nat} (s : Sha w) (v : Round w) (kw : BitVec w × BitVec w) : Round w :=
  let ch := (v.e &&& v.f) ^^^ (~~~v.e &&& v.g)
  let maj := (v.a &&& v.b) ^^^ (v.a &&& v.c) ^^^ (v.b &&& v.c)
  let t1 := v.h + bigSigma s.big1 v.e + ch + kw.1 + kw.2
  let t2 := bigSigma s.big0 v.a + maj
  { a := t1 + t2, b := v.a, c := v.b, d := v.c, e := v.d + t1, f := v.e, g := v.f, h := v.g }

/-- The hash value after one block (FIPS 180-4, 6.2.2 and 6.4.2). -/
def Sha.compress {w : Nat} (s : Sha w) (hash : List (BitVec w)) (block : Bytes) : List (BitVec w) :=
  let words := (chunks (w / 8) 16 block).map fun c => BitVec.ofNat w (bigEndian c)
  let schedule := (s.schedule (s.k.length - 16) words.reverse).reverse
  let at_ (k : Nat) : BitVec w := hash.getD k 0
  let r := (s.k.zip schedule).foldl s.round ⟨at_ 0, at_ 1, at_ 2, at_ 3, at_ 4, at_ 5, at_ 6, at_ 7⟩
  List.zipWith (· + ·) hash [r.a, r.b, r.c, r.d, r.e, r.f, r.g, r.h]

/-- The hash of a message, all of its words. -/
def Sha.hash {w : Nat} (s : Sha w) (m : Bytes) : Bytes :=
  let p := shaPad w m
  ((chunks (2 * w) (p.length / (2 * w)) p).foldl s.compress s.init).flatMap fun x => toBytes (w / 8) x.toNat

/-- The round constants of SHA-384 and SHA-512. -/
def sha512Rounds : List (BitVec 64) :=
  [0x428a2f98d728ae22, 0x7137449123ef65cd, 0xb5c0fbcfec4d3b2f, 0xe9b5dba58189dbbc]
    ++ [0x3956c25bf348b538, 0x59f111f1b605d019, 0x923f82a4af194f9b, 0xab1c5ed5da6d8118]
    ++ [0xd807aa98a3030242, 0x12835b0145706fbe, 0x243185be4ee4b28c, 0x550c7dc3d5ffb4e2]
    ++ [0x72be5d74f27b896f, 0x80deb1fe3b1696b1, 0x9bdc06a725c71235, 0xc19bf174cf692694]
    ++ [0xe49b69c19ef14ad2, 0xefbe4786384f25e3, 0x0fc19dc68b8cd5b5, 0x240ca1cc77ac9c65]
    ++ [0x2de92c6f592b0275, 0x4a7484aa6ea6e483, 0x5cb0a9dcbd41fbd4, 0x76f988da831153b5]
    ++ [0x983e5152ee66dfab, 0xa831c66d2db43210, 0xb00327c898fb213f, 0xbf597fc7beef0ee4]
    ++ [0xc6e00bf33da88fc2, 0xd5a79147930aa725, 0x06ca6351e003826f, 0x142929670a0e6e70]
    ++ [0x27b70a8546d22ffc, 0x2e1b21385c26c926, 0x4d2c6dfc5ac42aed, 0x53380d139d95b3df]
    ++ [0x650a73548baf63de, 0x766a0abb3c77b2a8, 0x81c2c92e47edaee6, 0x92722c851482353b]
    ++ [0xa2bfe8a14cf10364, 0xa81a664bbc423001, 0xc24b8b70d0f89791, 0xc76c51a30654be30]
    ++ [0xd192e819d6ef5218, 0xd69906245565a910, 0xf40e35855771202a, 0x106aa07032bbd1b8]
    ++ [0x19a4c116b8d2d0c8, 0x1e376c085141ab53, 0x2748774cdf8eeb99, 0x34b0bcb5e19b48a8]
    ++ [0x391c0cb3c5c95a63, 0x4ed8aa4ae3418acb, 0x5b9cca4f7763e373, 0x682e6ff3d6b2b8a3]
    ++ [0x748f82ee5defb2fc, 0x78a5636f43172f60, 0x84c87814a1f0ab72, 0x8cc702081a6439ec]
    ++ [0x90befffa23631e28, 0xa4506cebde82bde9, 0xbef9a3f7b2c67915, 0xc67178f2e372532b]
    ++ [0xca273eceea26619c, 0xd186b8c721c0c207, 0xeada7dd6cde0eb1e, 0xf57d4f7fee6ed178]
    ++ [0x06f067aa72176fba, 0x0a637dc5a2c898a6, 0x113f9804bef90dae, 0x1b710b35131c471b]
    ++ [0x28db77f523047d84, 0x32caab7b40c72493, 0x3c9ebe0a15c9bebc, 0x431d67c49c100d4c]
    ++ [0x4cc5d4becb3e42b6, 0x597f299cfc657e2a, 0x5fcb6fab3ad6faec, 0x6c44198c4a475817]

/-- The round constants of SHA-256. -/
def sha256Rounds : List (BitVec 32) :=
  [0x428a2f98, 0x71374491, 0xb5c0fbcf, 0xe9b5dba5, 0x3956c25b, 0x59f111f1, 0x923f82a4, 0xab1c5ed5]
    ++ [0xd807aa98, 0x12835b01, 0x243185be, 0x550c7dc3, 0x72be5d74, 0x80deb1fe, 0x9bdc06a7, 0xc19bf174]
    ++ [0xe49b69c1, 0xefbe4786, 0x0fc19dc6, 0x240ca1cc, 0x2de92c6f, 0x4a7484aa, 0x5cb0a9dc, 0x76f988da]
    ++ [0x983e5152, 0xa831c66d, 0xb00327c8, 0xbf597fc7, 0xc6e00bf3, 0xd5a79147, 0x06ca6351, 0x14292967]
    ++ [0x27b70a85, 0x2e1b2138, 0x4d2c6dfc, 0x53380d13, 0x650a7354, 0x766a0abb, 0x81c2c92e, 0x92722c85]
    ++ [0xa2bfe8a1, 0xa81a664b, 0xc24b8b70, 0xc76c51a3, 0xd192e819, 0xd6990624, 0xf40e3585, 0x106aa070]
    ++ [0x19a4c116, 0x1e376c08, 0x2748774c, 0x34b0bcb5, 0x391c0cb3, 0x4ed8aa4a, 0x5b9cca4f, 0x682e6ff3]
    ++ [0x748f82ee, 0x78a5636f, 0x84c87814, 0x8cc70208, 0x90befffa, 0xa4506ceb, 0xbef9a3f7, 0xc67178f2]

/-- SHA-512. -/
def sha512Fn : Sha 64 :=
  { k := sha512Rounds
    init := [0x6a09e667f3bcc908, 0xbb67ae8584caa73b, 0x3c6ef372fe94f82b, 0xa54ff53a5f1d36f1]
    ++ [0x510e527fade682d1, 0x9b05688c2b3e6c1f, 0x1f83d9abfb41bd6b, 0x5be0cd19137e2179]
    big0 := (28, 34, 39), big1 := (14, 18, 41), small0 := (1, 8, 7), small1 := (19, 61, 6) }

/-- SHA-384: SHA-512 from other initial values, cut to 48 bytes. -/
def sha384Fn : Sha 64 :=
  { sha512Fn with
    init := [0xcbbb9d5dc1059ed8, 0x629a292a367cd507, 0x9159015a3070dd17, 0x152fecd8f70e5939]
    ++ [0x67332667ffc00b31, 0x8eb44a8768581511, 0xdb0c2e0d64f98fa7, 0x47b5481dbefa4fa4] }

/-- SHA-256. -/
def sha256Fn : Sha 32 :=
  { k := sha256Rounds
    init := [0x6a09e667, 0xbb67ae85, 0x3c6ef372, 0xa54ff53a, 0x510e527f, 0x9b05688c, 0x1f83d9ab, 0x5be0cd19]
    big0 := (2, 13, 22), big1 := (6, 11, 25), small0 := (7, 18, 3), small1 := (17, 19, 10) }

def sha256 (m : Bytes) : Bytes := sha256Fn.hash m
def sha384 (m : Bytes) : Bytes := (sha384Fn.hash m).take 48
def sha512 (m : Bytes) : Bytes := sha512Fn.hash m

/-- MGF1 over a hash of `hlen` bytes: `n` bytes from a seed (RFC 8017, B.2.1). -/
def mgf1 (hash : Bytes → Bytes) (hlen : Nat) (seed : Bytes) (n : Nat) : Bytes :=
  ((List.range (ceilDiv n hlen)).flatMap fun k => hash (seed ++ toBytes 4 k)).take n

end Sys2Proof.Machine
end

