-- ==== Sys2Proof/Machine/Signature.lean ====
section
/-! DEFINITION. The two signatures of an object: RSASSA-PSS and SLH-DSA-SHA2-192s (R44, R45). PRESUMED (entry 7): the spec names
the schemes and their parameters; what verifies is that of RFC 8017 and FIPS 205. -/

namespace Sys2Proof.Machine

/-! ## RSASSA-PSS with SHA-384, MGF1 with SHA-384 and a 48-byte salt (RFC 8017, 8.1.2 and 9.1.2) -/

/-- `x` to the power 65,537, modulo `n`. -/
def rsaPublic (n x : Nat) : Nat := ((List.range 16).foldl (fun y _ => y * y % n) (x % n)) * x % n

/-- Two runs of bytes, added without carry. -/
def xorBytes (a b : Bytes) : Bytes := List.zipWith (· ^^^ ·) a b

/-- The encoded message `em` of `bits` bits is one of the message. -/
def pssOk (m em : Bytes) (bits : Nat) : Bool :=
  let top := 8 * em.length - bits
  let db := em.take (em.length - 49)
  let h := (em.drop (em.length - 49)).take 48
  let clear := xorBytes db (mgf1 sha384 48 h db.length)
  let plain := match clear with
    | [] => []
    | b :: l => BitVec.ofNat 8 (b.toNat % 2 ^ (8 - top)) :: l
  let salt := plain.drop (plain.length - 48)
  let fill := plain.take (plain.length - 48)
  decide (98 ≤ em.length) && em.getLast? == some 0xBC
    && decide ((db.headD 0).toNat < 2 ^ (8 - top))
    && fill == List.replicate (fill.length - 1) 0 ++ [1]
    && sha384 (List.replicate 8 0 ++ sha384 m ++ salt) == h

/-- The signature `sig` of a message verifies under a modulus, both big-endian. -/
def rsaVerifies (modulus m sig : Bytes) : Bool :=
  let n := bigEndian modulus
  let s := bigEndian sig
  let bits := bitLen n - 1
  let em := rsaPublic n s
  sig.length == modulus.length && decide (1 < n) && decide (s < n) && decide (em < 256 ^ ceilDiv bits 8)
    && pssOk m (toBytes (ceilDiv bits 8) em) bits

/-! ## SLH-DSA-SHA2-192s (FIPS 205): n = 24, h = 63, d = 7, h' = 9, a = 14, k = 17, w = 16, m = 39 -/

/-- An address of a hash call (FIPS 205, 4.2): layer, tree, type and its last three words. -/
structure Adrs where
  layer : Nat := 0
  tree : Nat := 0
  type : Nat := 0
  keyPair : Nat := 0
  word2 : Nat := 0
  word3 : Nat := 0

/-- The compressed address of the SHA-2 parameter sets (FIPS 205, 11.2). -/
def Adrs.bytes (x : Adrs) : Bytes :=
  toBytes 1 x.layer ++ toBytes 8 x.tree ++ toBytes 1 x.type ++ toBytes 4 x.keyPair ++ toBytes 4 x.word2 ++ toBytes 4 x.word3

/-- F (FIPS 205, 11.2.2). -/
def slhF (seed : Bytes) (x : Adrs) (m : Bytes) : Bytes := (sha256 (seed ++ List.replicate 40 0 ++ x.bytes ++ m)).take 24

/-- H and T (FIPS 205, 11.2.2). -/
def slhH (seed : Bytes) (x : Adrs) (m : Bytes) : Bytes := (sha512 (seed ++ List.replicate 104 0 ++ x.bytes ++ m)).take 24

/-- The first `k` digits of `b` bits of a run of bytes (FIPS 205, algorithm 4). -/
def base2b (m : Bytes) (b k : Nat) : List Nat :=
  let x := bigEndian m
  (List.range k).map fun i => x / 2 ^ (8 * m.length - b * (i + 1)) % 2 ^ b

/-- Part `i` of a signature of 24-byte values. -/
def part (sig : Bytes) (i : Nat) : Bytes := (sig.drop (24 * i)).take 24

/-- A chain of `k` steps from step `i` (FIPS 205, algorithm 5). -/
def wotsChain (seed : Bytes) (x : Adrs) : Nat → Nat → Bytes → Bytes
  | 0, _, m => m
  | k + 1, i, m => wotsChain seed x k (i + 1) (slhF seed { x with word3 := i } m)

/-- The one-time public key that a signature of a 24-byte value gives (FIPS 205, algorithm 8). -/
def wotsKey (seed : Bytes) (x : Adrs) (sig m : Bytes) : Bytes :=
  let digits := base2b m 4 48
  let sum := digits.foldl (fun acc d => acc + (15 - d)) 0
  let all := digits ++ base2b (toBytes 2 (sum * 16)) 4 3
  let ends := all.zipIdx.flatMap fun d => wotsChain seed { x with type := 0, word2 := d.2 } (15 - d.1) d.1 (part sig d.2)
  slhH seed { x with type := 1, word2 := 0, word3 := 0 } ends

/-- The root that a leaf at index `i` and its authentication path give, from height `k` up (FIPS 205, algorithms 11 and 17). -/
def pathRoot (seed : Bytes) (x : Adrs) (i : Nat) : List Bytes → Nat → Bytes → Bytes
  | [], _, node => node
  | a :: path, k, node =>
    let y := { x with word2 := k + 1, word3 := i / 2 ^ (k + 1) }
    pathRoot seed x i path (k + 1) (slhH seed y (if i / 2 ^ k % 2 = 0 then node ++ a else a ++ node))

/-- The root of the tree that signs a value with leaf `i` (FIPS 205, algorithm 11); a signature is 51 + 9 values. -/
def xmssRoot (seed : Bytes) (x : Adrs) (i : Nat) (sig m : Bytes) : Bytes :=
  let leaf := wotsKey seed { x with keyPair := i } sig m
  pathRoot seed { x with type := 2 } i ((List.range 9).map fun k => part sig (51 + k)) 0 leaf

/-- The root of the topmost tree (FIPS 205, algorithm 13): layers `j` on, `fuel` of them. -/
def hyperRoot (seed : Bytes) (sig : Bytes) : Nat → Nat → Nat → Nat → Bytes → Bytes
  | 0, _, _, _, m => m
  | fuel + 1, j, tree, leaf, m =>
    let root := xmssRoot seed { layer := j, tree } leaf (sig.drop (1440 * j)) m
    hyperRoot seed sig fuel (j + 1) (tree / 512) (tree % 512) root

/-- The few-time public key of a digest (FIPS 205, algorithm 17). -/
def forsKey (seed : Bytes) (x : Adrs) (sig md : Bytes) : Bytes :=
  let roots := (base2b md 14 17).zipIdx.flatMap fun c =>
    let i := c.2 * 2 ^ 14 + c.1
    let own := sig.drop (360 * c.2)
    let leaf := slhF seed { x with type := 3, word3 := i } (part own 0)
    pathRoot seed { x with type := 3 } i ((List.range 14).map fun k => part own (k + 1)) 0 leaf
  slhH seed { x with type := 4 } roots

/-- The signature of a message verifies under a public key (FIPS 205, algorithms 20 and 24): pure mode, empty context. -/
def slhVerifies (key m sig : Bytes) : Bool :=
  let seed := key.take 24
  let root := (key.drop 24).take 24
  let r := sig.take 24
  let inner := sha512 (r ++ seed ++ root ++ [0, 0] ++ m)
  let digest := mgf1 sha512 64 (r ++ seed ++ inner) 39
  let tree := bigEndian ((digest.drop 30).take 7) % 2 ^ 54
  let leaf := bigEndian ((digest.drop 37).take 2) % 2 ^ 9
  let fors := forsKey seed { tree, keyPair := leaf } ((sig.drop 24).take 6120) (digest.take 30)
  sig.length == 16224 && key.length == 48 && hyperRoot seed (sig.drop 6144) 7 0 tree leaf fors == root

end Sys2Proof.Machine
end

