-- ==== Sys2Proof/Machine/Loader.lean ====
section
/-! DEFINITION. Objects: the loader's checks, loading and unloading, and the fills of code frames (R36 to R50, R370). -/

namespace Sys2Proof.Machine

/-! ## The image (R37) -/

/-- The SHA-384 digest of a run of bytes, as the number that its 48 bytes form in an image (R41, R44). -/
def digest (m : List (BitVec 8)) : Nat := bytesValue (sha384 m)

/-- A field of `n` bytes at offset `o` of an image; bytes beyond its end read 0. -/
def imgField (img : List (BitVec 8)) (o n : Nat) : Nat := bytesValue ((img.drop o).take n)

/-- A run of bytes of an image. -/
def imgBytes (img : List (BitVec 8)) (o n : Nat) : List (BitVec 8) := (img.drop o).take n

/-- Every byte of a run is zero. -/
def imgZero (img : List (BitVec 8)) (o n : Nat) : Bool := imgField img o n == 0

/-- The header's fields (R37). -/
structure Header where
  kind : Nat
  codebase : Nat
  npage : Nat
  nsect : Nat
  sectoff : Nat
  nsym : Nat
  nreloc : Nat
  symoff : Nat
  reloff : Nat
  stroff : Nat
  strsize : Nat
  nkern : Nat
  kernoff : Nat
  hashoff : Nat
  errataoff : Nat
  nerrata : Nat
  sigoff : Nat
  pageoff : Nat
  filesize : Nat

/-- The header of an image. -/
def headerOf (img : List (BitVec 8)) : Header :=
  let f := imgField img
  { kind := f 6 1, codebase := f 8 8, npage := f 0x10 4, nsect := f 0x14 4, sectoff := f 0x18 8, nsym := f 0x20 4
    nreloc := f 0x24 4, symoff := f 0x28 8, reloff := f 0x30 8, stroff := f 0x38 8, strsize := f 0x40 4, nkern := f 0x44 4
    kernoff := f 0x48 8, hashoff := f 0x50 8, errataoff := f 0x58 8, nerrata := f 0x60 4, sigoff := f 0x68 8
    pageoff := f 0x70 8, filesize := f 0x78 8 }

/-- Status 1: MAGIC, VERSION and the zero fields of the header. -/
def headerOk (img : List (BitVec 8)) : Bool :=
  decide (256 ≤ img.length) && imgField img 0 4 == 0x59424C47 && imgField img 4 2 == 1 && imgField img 7 1 / 4 == 0
    && imgZero img 8 2 && imgZero img 0x64 4 && imgZero img 0x80 128

/-! ## Signatures (R44, R45) -/

/-- The size of the signature block. -/
def sigSize : Nat := 17144

/-- Status 4: the image has its size, and the signature block lies in it and is well formed. -/
def signatureOk (img : List (BitVec 8)) (h : Header) : Bool :=
  let o := h.sigoff
  h.filesize == img.length && decide (o + sigSize ≤ img.length) && imgField img o 4 == 0x4B474953 && imgField img (o + 4) 4 == sigSize
    && imgField img (o + 8) 48 == digest (imgBytes img (o + 0x68) 384)
    && imgField img (o + 0x38) 48 == digest (imgBytes img (o + 0x368) 48)

/-- Entry `e` of a trust list: its two key identifiers (R370). -/
def trustEntry (v : Vi) (e : Nat) : Nat × Nat :=
  let f (o : Nat) : Nat := (List.range 6).foldl (fun acc k => acc + (Sparse.get 0 v.trust (o + k)).toNat * 2 ^ (64 * k)) 0
  (f (12 * e), f (12 * e + 6))

/-- Status 5: the pair of key identifiers is on the trust list of the interface. An entry of zeros is none. -/
def trusted (v : Vi) (rsa slh : Nat) : Bool :=
  (List.range 32).any fun e => trustEntry v e != (0, 0) && trustEntry v e == (rsa, slh)

/-- Status 6: RSASIG verifies over the bytes below SIGOFF. -/
def rsaOk (img : List (BitVec 8)) (h : Header) : Bool :=
  rsaVerifies (imgBytes img (h.sigoff + 0x68) 384) (img.take h.sigoff) (imgBytes img (h.sigoff + 0x1E8) 384)

/-- Status 7: SLHSIG verifies over the same bytes. -/
def slhOk (img : List (BitVec 8)) (h : Header) : Bool :=
  slhVerifies (imgBytes img (h.sigoff + 0x368) 48) (img.take h.sigoff) (imgBytes img (h.sigoff + 0x398) 16224)

/-! ## Tables (R36, R38, R46) -/

/-- A section table entry (R38). -/
structure SectEntry where
  type : Nat
  perm : Nat
  align : Nat
  addr : Nat
  size : Nat
  fileoff : Nat

/-- The section table. The zero fields of an entry, PERM bits 7:3 among them, have no status of their own: they are ignored (R5). -/
def sectionsOf (img : List (BitVec 8)) (h : Header) : List SectEntry :=
  (List.range h.nsect).map fun k =>
    let o := h.sectoff + 48 * k
    { type := imgField img (o + 4) 1, perm := imgField img (o + 5) 1 % 8, align := imgField img (o + 6) 1
      addr := imgField img (o + 8) 8, size := imgField img (o + 0x10) 8, fileoff := imgField img (o + 0x18) 8 }

/-- The type has contents in the file beside the code pages. -/
def hasContents (type : Nat) : Bool := type == 2 || type == 3 || type == 6 || type == 7 || type == 8

/-- The file ranges of the argument tables of the kernels (R46). -/
def argTables (img : List (BitVec 8)) (h : Header) : List (Nat × Nat) :=
  (List.range h.nkern).map fun k =>
    let o := h.kernoff + 288 * k
    (imgField img (o + 0x10) 8, 16 * imgField img (o + 4) 2)

/-- Two ranges share a byte. -/
def rangesMeet (a b : Nat × Nat) : Bool := decide (a.1 < b.1 + b.2) && decide (b.1 < a.1 + a.2) && a.2 != 0 && b.2 != 0

/-- No two of the ranges share a byte. -/
def apart : List (Nat × Nat) → Bool
  | [] => true
  | a :: l => !(l.any (rangesMeet a)) && apart l

/-- Status 2: every table and section lies inside the file and none overlaps another; all of them but the text section and hint
and Phiys sections lie below SIGOFF (R36). That a hint or Phiys section reaches SIGOFF is judged by status 8 (R48). -/
def tablesOk (img : List (BitVec 8)) (h : Header) : Bool :=
  let tables : List (Nat × Nat) :=
    [(0, 256), (h.sectoff, 48 * h.nsect), (h.symoff, 24 * h.nsym), (h.reloff, 24 * h.nreloc), (h.stroff, h.strsize)
    , (h.kernoff, 288 * h.nkern), (h.hashoff, 48 * h.npage), (h.errataoff, 4 * h.nerrata)] ++ argTables img h
  let ss := (sectionsOf img h).filter fun c => hasContents c.type
  let text := ((sectionsOf img h).filter fun c => c.type == 1).map fun c => (c.fileoff, c.size)
  let low := (ss.filter fun c => c.type != 6 && c.type != 7).map fun c => (c.fileoff, c.size)
  let hints := (ss.filter fun c => c.type == 6 || c.type == 7).map fun c => (c.fileoff, c.size)
  let pages : Nat × Nat := (h.pageoff, 65536 * h.npage)
  decide (1 ≤ h.npage) && decide (h.npage ≤ 65536) && decide (h.nkern ≤ 4096) && decide (h.nerrata ≤ 64)
    && h.pageoff % 65536 == 0 && h.filesize == h.pageoff + 65536 * h.npage && decide (h.sigoff + sigSize ≤ h.pageoff)
    && (tables ++ low).all (fun r => r.2 == 0 || decide (r.1 + r.2 ≤ h.sigoff))
    && (hints ++ text).all (fun r => decide (r.1 + r.2 ≤ h.filesize))
    && apart (tables ++ low ++ hints ++ [pages]) && apart (tables ++ low ++ hints ++ text)

/-- Status 3: a loadable object with no relocation and no undefined symbol (R39). -/
def linkedOk (img : List (BitVec 8)) (h : Header) : Bool :=
  h.kind == 2 && h.nreloc == 0 && (List.range h.nsym).all fun k => imgField img (h.symoff + 24 * k + 4) 1 != 2

/-- PERM that each type carries (R38). -/
def permOf (type : Nat) : Option Nat :=
  match type with
  | 1 => some 4
  | 2 => some 3
  | 3 => some 1
  | 4 => some 3
  | 5 => some 3
  | 6 => some 0
  | 7 => some 0
  | 8 => some 0
  | _ => none

/-- The section is mapped into the address space beside the code. -/
def SectEntry.mapped (c : SectEntry) : Bool := c.type == 2 || c.type == 3 || c.type == 4

/-- The rules of R38 for one section. Two points the spec leaves open, both DESIGN CHOICES of the model: R50 names no check of a
text section's FILEOFF against PAGEOFF nor of its SIZE against NPAGE pages, so neither refuses a load (log entry 95); and the
ADDR of a scratch section, an offset into the pool, is not held to 2^ALIGN (log entry 96). -/
def SectEntry.ok (c : SectEntry) (h : Header) : Bool :=
  permOf c.type == some c.perm && decide (c.align ≤ 16) && (hasContents c.type || c.type == 1 || c.fileoff == 0)
    && (if c.type = 1 then c.addr == h.codebase && c.addr % 2 ^ c.align == 0 else true)
    && (if c.mapped then
          canonical c.addr && canonical (c.addr + (c.size - 1)) && decide (c.addr + c.size ≤ 2 ^ 64) && c.addr % 2 ^ c.align == 0
        else true)
    && (if c.type = 5 then decide (c.addr < 2 ^ 24) else true)
    && (if c.type = 6 ∨ c.type = 7 then decide (c.fileoff + c.size ≤ h.sigoff) else true)

/-- The ranges of addresses that an object maps: its code region and its mapped sections. -/
def Object.ranges (o : Object) : List (Nat × Nat) :=
  (o.codebase, 65536 * o.npage) :: o.sections.map fun c => (c.addr, c.size)

/-- Status 8: the section rules, and no overlap with each other, with the code region or with the other objects of the
interface (R38, R48, R50). `old` is a refused object that this load replaces. -/
def sectionsOk (s : State) (vi : Nat) (old : Option Nat) (img : List (BitVec 8)) (h : Header) : Bool :=
  let cs := sectionsOf img h
  let mine := (h.codebase, 65536 * h.npage) :: (cs.filter SectEntry.mapped).map fun c => (c.addr, c.size)
  let others := (s.objects.filter fun o => o.vi == vi && some o.id != old).flatMap Object.ranges
  cs.all (fun c => c.ok h) && (cs.filter fun c => c.type == 1).length == 1 && canonical h.codebase
    && canonical (h.codebase + 65536 * h.npage - 1) && apart mine && mine.all fun r => !(others.any (rangesMeet r))

/-- The switch bit of an entry of the stance, where the device lists its id as compatibility-preserved (R49). Bits 31:16 of the
entry are zero bits that no status names: they are ignored (R5). -/
def stanceBit (s : State) (e : Nat) : Option Word :=
  (((catalogue s).find? fun k => k.id.toNat == e % 2 ^ 16).filter (·.cp)).map fun k => 1#64 <<< k.swbit.toNat

/-- Status 9 and ERRATA of the object: the bits of its stance (R49). -/
def stanceOf (s : State) (img : List (BitVec 8)) (h : Header) : Option Word :=
  (List.range h.nerrata).foldl (fun acc k => acc.bind fun w =>
    (stanceBit s (imgField img (h.errataoff + 4 * k) 4)).map fun b => w ||| b) (some 0)

/-- The first status that a load fails with, in the order of R50, or 0. -/
def loadStatus (s : State) (vi : Nat) (old : Option Nat) (img : List (BitVec 8)) : BitVec 8 :=
  let h := headerOf img
  if !headerOk img then 1
  else if !signatureOk img h then 4
  else if !trusted (s.vi vi) (imgField img (h.sigoff + 8) 48) (imgField img (h.sigoff + 0x38) 48) then 5
  else if !rsaOk img h then 6
  else if !slhOk img h then 7
  else if !tablesOk img h then 2
  else if !linkedOk img h then 3
  else if !sectionsOk s vi old img h then 8
  else if (stanceOf s img h).isNone then 9
  else 0

/-! ## Loading -/

/-- Page `n` of the image has the hash of its entry (R41). -/
def pageMatches (img : List (BitVec 8)) (h : Header) (n : Nat) : Bool :=
  digest (imgBytes img (h.pageoff + 65536 * n) 65536) == imgField img (h.hashoff + 48 * n) 48

/-- The mapped sections with the places that the loader gave them. -/
def placedSections (img : List (BitVec 8)) (h : Header) (places : List Nat) : List (SectEntry × Nat) :=
  ((sectionsOf img h).filter SectEntry.mapped).zip places

/-- The places are device memory, one for each mapped section, and apart from each other and from every section loaded. -/
def placesOk (s : State) (img : List (BitVec 8)) (h : Header) (places : List Nat) : Bool :=
  let ps := placedSections img h places
  let mine := ps.map fun c => (c.2, c.1.size)
  let others := s.objects.flatMap fun o => o.sections.map fun c => (c.place, c.size)
  places.length == ((sectionsOf img h).filter SectEntry.mapped).length
    && mine.all (fun r => r.2 == 0 || (homeExists s.build r.1 && homeExists s.build (r.1 + r.2 - 1) && r.1 / 2 ^ 36 == (r.1 + r.2 - 1) / 2 ^ 36
        || decide (2 ^ 48 ≤ r.1) && homeExists s.build r.1 && homeExists s.build (r.1 + r.2 - 1)))
    && apart mine && mine.all fun r => !(others.any (rangesMeet r))

/-- The object that an image gives (R37, R38, R41, R46). -/
def objectOf (s : State) (id vi : Nat) (img : List (BitVec 8)) (h : Header) (places : List Nat) : Object :=
  { id, vi, state := .loaded, codebase := h.codebase, npage := h.npage
    hashes := (List.range h.npage).map fun n => imgField img (h.hashoff + 48 * n) 48
    filled := [], filling := [], words := []
    sections := (placedSections img h places).map fun c =>
      { addr := c.1.addr, size := c.1.size, canRead := c.1.perm.testBit 0, canWrite := c.1.perm.testBit 1, place := c.2 }
    scratches := ((sectionsOf img h).filter fun c => c.type == 5).map fun c => { addr := c.addr, size := c.size }
    kernels := (List.range h.nkern).map fun k =>
      let o := h.kernoff + 288 * k
      { entry := imgField img (o + 0x28) 8, scrsize := imgField img (o + 0xC) 4 }
    errata := (stanceOf s img h).getD 0 }

/-- The contents of the mapped sections reach device memory (R38). -/
def placeContents (s : State) (img : List (BitVec 8)) (ps : List (SectEntry × Nat)) : State :=
  ps.foldl (fun s c =>
    let v := if c.1.type = 4 then 0 else imgField img c.1.fileoff c.1.size
    s.writeHome none c.2 v c.1.size) s

/-- The refused object that an image reloads: the one at its CODEBASE (R43). -/
def reloads (s : State) (vi : Nat) (img : List (BitVec 8)) : Option Nat :=
  (s.objects.find? fun o => o.vi == vi && o.state == .refused && o.codebase == (headerOf img).codebase).map (·.id)

/-- The loader answers an interface. -/
def loadReply (s : State) (vi : Nat) (status : BitVec 8) (id : Nat) : State :=
  { s with replies := s.replies ++ [.load vi status id] }

/-- The fetches that wait on a fill of an object which is unloaded or replaced are made again; the fill is forgotten. R43 does
not say what becomes of a fill in progress: DESIGN CHOICE, log entry 97. -/
def refetch (s : State) (obj : Nat) : State :=
  { s with harts := s.harts.map fun c =>
    match c.2.wait with
    | .fetch o _ => if o = obj then (c.1, { c.2 with wait := .run }) else c
    | _ => c }

/-- A load (R50), or the reload of a refused object, which checks every page (R43). The spec gives no status to a reload whose
page does not match: it is open, and not 0. -/
def execLoadObject (vi : Nat) (image : List (BitVec 8)) (places : List Nat) (s : State) : Out :=
  whenReady s (
    let h := headerOf image
    let old := reloads s vi image
    let status := loadStatus s vi old image
    if status ≠ 0 then loadReply s vi status 0
    else if old.isSome && !((List.range h.npage).all (pageMatches image h)) then
      let (v, s) := s.draw
      loadReply s vi (BitVec.ofNat 8 (v % 255 + 1)) 0
    else if placesOk s image h places = false then s
    else
      let id := old.getD s.nextObj
      let s := placeContents s image (placedSections image h places)
      let rest := s.objects.filter fun o => o.id != id
      loadReply (refetch { s with objects := objectOf s id vi image h places :: rest, nextObj := max s.nextObj (id + 1) } id)
        vi 0 id)

/-! ## Tasks of an object (R43) -/

/-- A launch has its ENTRY in the object's code region. -/
def Object.launched (o : Object) (s : State) (root : Option Nat) : Bool :=
  ((root.bind fun id => s.launches.find? fun l => l.id == id).map fun l => l.vi == o.vi && o.covers (recEntry l.record)).getD false

/-- The running tasks of the object, by hart. -/
def Object.harts (o : Object) (s : State) : List Nat :=
  (s.harts.filter fun c => c.2.live && c.2.task.vi == o.vi && (o.launched s c.2.task.root || o.covers c.2.pc.toNat)).map (·.1)

/-- The switched-out tasks of the object, by area; one whose area cannot be read is known by what the device keeps of it. -/
def Object.savedAreas (o : Object) (s : State) : List Nat :=
  ((savedTasks s o.vi).filter fun c =>
    match savedTaskAt s o.vi c.1 with
    | some t => o.covers t.pc.toNat || o.launched s ((savedOf s o.vi t.id).bind (·.root))
    | none => false).map (·.1)

/-- An unload (R43, R50): status 12 while tasks of a loaded object live. A hart that waits on a fill of a refused object which
is unloaded fetches again (`refetch`, log entry 97). -/
def execUnloadObject (vi obj : Nat) (s : State) : Out :=
  whenReady s (match s.objects.find? fun o => o.id == obj && o.vi == vi with
    | none => s
    | some o =>
      if o.state == .loaded && !((o.harts s).isEmpty && (o.savedAreas s).isEmpty) then
        { s with replies := s.replies ++ [.unload vi 12] }
      else refetch { s with objects := s.objects.filter fun x => x.id != obj, replies := s.replies ++ [.unload vi 0] } obj)

/-! ## Code fills (R42, R43) -/

/-- The words of page `page` from its bytes. -/
def pageWords (m : Sparse (BitVec 32)) (page : Nat) (bytes : List (BitVec 8)) : Sparse (BitVec 32) :=
  (List.range 16384).foldl (fun m k => Sparse.set 0 m (page * 16384 + k) (BitVec.ofNat 32 (imgField bytes (4 * k) 4))) m

/-- A hart waits on the fill of a page of the object. -/
def Hart.waitsFill (h : Hart) (obj page : Nat) : Bool :=
  match h.wait with
  | .fetch o p => o == obj && p == page
  | _ => false

/-- The fill matched: the frame is mapped, and the fetches that wait on it go on (R42). -/
def fillMatched (s : State) (o : Object) (page : Nat) (bytes : List (BitVec 8)) : State :=
  let s := s.mapObject o.id fun o =>
    { o with filled := page :: o.filled, filling := o.filling.filter (· != page), words := pageWords o.words page bytes }
  { s with harts := s.harts.map fun c => if c.2.waitsFill o.id page then (c.1, { c.2 with wait := .run }) else c }

/-- The descent of a launch whose ENTRY lies in the object's code region is refused: a task of it that has not started is killed
when it is chosen, whatever becomes of the object (R43). -/
def Launch.refuse (o : Object) (page : Nat) (l : Launch) : Launch :=
  if l.vi = o.vi ∧ o.covers (recEntry l.record) = true then { l with refused := some (o.codebase + page * 65536) } else l

/-- The fill did not match: every task of the object is killed, and it is refused (R43). DESIGN CHOICE (entry 69): the spec gives
the kills no order; harts come by number, then save areas in the order of their slots. -/
def fillFailed (s : State) (o : Object) (page : Nat) : State :=
  let tval := BitVec.ofNat 64 (o.codebase + page * 65536)
  let s := (o.harts s).foldl (fun s n =>
    let h := s.hart n
    kill s n Cause.codeHash h.pc tval h.trap.handler) s
  let s := (o.savedAreas s).foldl (fun s a =>
    match (savedTasks s o.vi).find? fun c => c.1 == a with
    | some (area, p) => killSaved s o.vi area p Cause.codeHash tval false
    | none => s) s
  { s with launches := s.launches.map (Launch.refuse o page) }.mapObject o.id fun o =>
    { o with state := .refused, filling := o.filling.filter (· != page) }

/-- A fill ends: `content` is the page as read from the image, or none for an uncorrectable error (R42, R43). -/
def execCodeFillComplete (obj page : Nat) (content : Option (List (BitVec 8))) (s : State) : Out :=
  whenReady s (match s.objects.find? fun o => o.id == obj with
    | none => s
    | some o =>
      if !(page ∈ o.filling) then s
      else match content with
        | none => fillFailed s o page
        | some bytes =>
          if bytes.length = 65536 ∧ digest bytes = o.hashes.getD page 0 then fillMatched s o page bytes
          else fillFailed s o page)

end Sys2Proof.Machine
end

