-- ==== Sys2Proof/Machine/Trace.lean ====
section
/-! DEFINITION. trc: marks, latches and latched shadows of other cores (R342, R344, R345). -/

namespace Sys2Proof.Machine

/-- `trc.mark` (R345, R346). -/
def execTrcMark (a b : BitVec 5) (s : State) : Out :=
  let h := s.h
  .next (retire (traceRecord s s.cur 6 ((h.rx b).setWidth 8) (h.rx a) h.pc))

/-- The time of a latch requested now: the next multiple of 1,024 ns at least 2,048 ns away (R344). -/
def latchTime (s : State) : Nat := roundUp (s.time.toNat + 2048) 1024

/-- Request a latch for an interface's cores, or for every counter (R344): a request joins a latch that is pending. -/
def requestLatch (s : State) (vi : Option Nat) : Nat × State :=
  let t := match s.latches.find? fun l => decide (s.time.toNat < l.time) with
    | some l => l.time
    | none => latchTime s
  (t, { s with latches := s.latches ++ [{ time := t, vi }] })

/-- The latches of an interface's task cover its own cores; VI 0's cover everything (R344). -/
def latchScope (vi : Nat) : Option Nat := if vi = 0 then none else some vi

/-- `trc.latch` (R344, R345). -/
def execTrcLatch (d : BitVec 5) (s : State) : Out :=
  let (t, s) := requestLatch s (latchScope s.h.task.vi)
  .next (writeX s d (BitVec.ofNat 64 t))

/-- A pending latch covers a core (R344). -/
def Latch.coversCore (l : Latch) (s : State) (core : Nat) : Bool :=
  match l.vi with
  | none => true
  | some v => (s.vi v).hasCore core

/-- The shadow `num` of a core, its cluster or its die, as interface `vi` reads it (R342, R345). -/
def coreShadow (s : State) (vi core num : Nat) : Word :=
  let k := num % 8
  if num ≤ 0x19F then Sparse.get 0 (s.core core).shadow (num - 0x80)
  else if num ≤ 0x1A7 then
    if holdsUnit s vi (core / 16 * 16) 16 then Sparse.get 0 (Sparse.get {} s.clusters (core / 16)).shadow k else 0
  else if holdsUnit s vi (core / 256 * 256) 256 then Sparse.get 0 (Sparse.get {} s.dies (core / 256)).shadow k else 0

/-- `trc.ctrr` (R345): it waits while a latch that covers the core is pending, whatever number it names. -/
def execTrcCtrr (d a b : BitVec 5) (s : State) : Out :=
  let h := s.h
  let num := (h.rx a).toNat
  .next (match coreOfId s h.task.vi (h.rx b).toNat with
    | none => writeX s d (0 - 1)
    | some core =>
      if s.latches.any fun l => l.coversCore s core then s
      else if num < 0x190 ∨ 0x1AF < num then writeX s d (0 - 1)
      else writeX s d (coreShadow s h.task.vi core num))

end Sys2Proof.Machine
end

