-- ==== Sys2Proof/Machine/Debug.lean ====
section
/-! DEFINITION. The debug interface and the trace sampler: stop, step, resume, the memory view and the control registers
of a halted hart (R346 to R350). -/

namespace Sys2Proof.Machine

/-! ## The hart that a function selects -/

/-- The hart that a function names by HARTID as it reads it: VI 0 reaches every hart, a virtual function the harts of its
own tasks (R347). -/
def reachedHart (s : State) (vi id : Nat) : Option Nat :=
  (coreOfId s vi (id / 4)).bind fun core =>
    let n := 4 * core + id % 4
    if vi = 0 ∨ ((s.hart n).live = true ∧ (s.hart n).task.vi = vi) then some n else none

/-- Act on the hart that a function selects; where it reaches none, nothing happens. -/
def withReached (s : State) (vi id : Nat) (k : Nat → State) : State :=
  match reachedHart s vi id with
  | some n => k n
  | none => s

/-! ## Stop, step and resume (R347 to R349) -/

/-- A halt request on hart `n` takes the path of R300 with halting in place of switching, and ends `sys.idle` (R75, R348). A parked
hart under precise-debug waits for its next commit point. DESIGN CHOICE (entry 42): a hart that is halted, and an empty slot, take no
request, whatever DCTL then reads. -/
def requestHalt (s : State) (n : Nat) : State :=
  let h := s.hart n
  let pend := s.setHart n { h with dbg := { h.dbg with haltReq := true, haltSince := s.cycle } }
  if h.live = false ∨ h.dbg.halted = true ∨ h.dbg.haltReq = true then s
  else match h.wait with
    | .streams .. => halt s n Cause.debugStop
    | .cwait .. => halt s n Cause.debugStop
    | .cdrain .. => halt s n Cause.debugStop
    | .barrier .. => halt s n Cause.debugStop
    | .idle .. => halt (s.setHart n { h with wait := .run }) n Cause.debugStop
    | .command => halt s n Cause.debugStop
    | .parked .. => if h.task.start.flags.getLsbD 1 then pend else halt (s.setHart n { h with wait := .run }) n Cause.debugStop
    | .lock .. =>
      let s := giveLocksBack s n
      halt (s.setHart n { s.hart n with wait := .run, vstart := 0 }) n Cause.debugStop
    | _ => pend

/-- Hart `n` goes on from (PC, VSTART), for one instruction or until the next stop. A strip breakpoint that stopped it does
not stop it again at the same `setvl` (R348, R349). -/
def letGo (s : State) (n : Nat) (stepping : Bool) : State :=
  let h := s.hart n
  if h.live && h.dbg.halted then
    s.setHart n { h with
      answers := []
      dbg := { h.dbg with
        halted := false, stepping, stepped := false, stop := none, haltReq := false, passed := h.dbg.passed || h.dbg.cause == Cause.stripBreak } }
  else s

/-- DCTL HALT (R347, R348): a write of bit 0. -/
def writeHalt (s : State) (n : Nat) : State := requestHalt (s.setHart n { s.hart n with dbg := { (s.hart n).dbg with haltBit := true } }) n

/-- DCTL HALT (R347, R348). -/
def execDebugStop (vi hart : Nat) (s : State) : Out := whenReady s (withReached s vi hart (writeHalt s))

/-- DCTL STEP: one instruction of a halted hart (R349). -/
def execStep (vi hart : Nat) (s : State) : Out := whenReady s (withReached s vi hart fun n => letGo s n true)

/-- DCTL RESUME (R347, R348). -/
def execResume (vi hart : Nat) (s : State) : Out := whenReady s (withReached s vi hart fun n => letGo s n false)

/-! ## The memory view (R350) -/

/-- Answer the debugger. -/
def viewReply (s : State) (v : Option Nat) : State := { s with replies := s.replies ++ [.view v] }

/-- An access of the memory view for hart `n`: what only a party outside can answer is asked for while the hart is halted,
and the debugger's access is performed again. -/
def viewSettle {α : Type} (s : State) (n : Nat) (r : Res α) (k : α → State) : State :=
  let ask (kind : Nat) (loc : Loc) (bytes value op : Nat) : State :=
    if (s.hart n).live && (s.hart n).dbg.halted then requestOnce s (.hart n) kind loc bytes value op else viewReply s none
  match r with
  | .ok a => k a
  | .ats vi page need => if (s.hart n).live && (s.hart n).dbg.halted then askTranslation s (.hart n) vi page need else viewReply s none
  | .ext kind loc bytes value op => ask kind loc bytes value op
  | _ => viewReply s none

/-- The places of eight bytes through the translation of hart `n`. -/
def viewSpots (s : State) (n va : Nat) (r w : Bool) : Res (List Spot) :=
  checkSpots { s with cur := n } va 8 { r, w, align := 0, device := true }

/-- Read eight bytes of memory through the translation of hart `n`, its buffered stores over them (R67, R350). -/
def viewMemory (s : State) (n va : Nat) : State :=
  viewSettle s n ((viewSpots s n va true false).bind fun l => readSpots s (s.hart n).sb (s.hart n).answers l) fun v =>
    let h := s.hart n
    viewReply (s.setHart n { h with answers := if h.dbg.halted then [] else h.answers }) (some v)

/-- Read element `e` of tile `z` on a span position; it waits while an array entry on the tile has not retired (R178, R350). -/
def viewTile (s : State) (n z position e : Nat) : State :=
  let h := s.hart n
  if h.array.any (fun a => a.tile == z) then s
  else if z < h.task.start.tiles ∧ position < h.span.length ∧ e < 4096 then
    viewReply s (some (Sparse.get 0 h.matrix.tiles (tileKey position z (e / 64) (e % 64))).toNat)
  else viewReply s none

/-! ## The in-flight table (R350) -/

/-- An entry of the in-flight table: PC, SORD, ACH, KIND, STATE and CAUSE. -/
def flightEntry (pc sord : Word) (ach kind state cause : Nat) : Nat :=
  pack [(0, 8, pc.toNat), (8, 8, sord.toNat), (0x10, 8, ach), (0x18, 1, kind), (0x19, 1, state), (0x1A, 1, cause)]

/-- How far command `q` of the task is, and whether it runs. -/
def progressOf (s : State) (t : Task) (q : Nat) : Nat × Bool :=
  match (s.commands.find? fun c => c.by_.vi == t.vi && c.by_.task == t.id && c.seq == q) with
  | some c => (c.done, c.started || c.done != 0)
  | none => ((s.copies.find? fun c => c.by_.vi == t.vi && c.by_.task == t.id && c.seq == q).map fun c =>
      (c.wptr, c.engine.isSome)).getD (0, false)

/-- The entry of a command or copy. -/
def Completion.flight (s : State) (t : Task) (e : Completion) : Nat :=
  let (done, runs) := progressOf s t e.seq
  flightEntry e.pc e.sord (if e.complete then e.n else done) (if e.copy then 5 else 4)
    (if e.complete then 3 else if runs then 2 else 1) e.cause.toNat

/-- Insert by age, behind those of the same age. -/
def insertAge (x : Word × Nat) : List (Word × Nat) → List (Word × Nat)
  | [] => [x]
  | y :: l => if x.1 < y.1 then x :: y :: l else y :: insertAge x l

/-- The asynchronous operations of a hart that have not yet retired or been read, oldest first (R350). Of a gather in flight the
achieved length reads 0 (DESIGN CHOICE, entry 70). -/
def inFlightTable (s : State) (h : Hart) : List Nat :=
  let arrays := h.array.map fun e => (e.age, flightEntry e.pc e.sord 0 1 (if e.accepted then 2 else 1) 0)
  let gathers := h.gathers.map fun g => (g.age, flightEntry g.pc g.sord 0 (if g.probe then 3 else 2) 2 0)
  let commands := (h.task.ctab.filter fun c => !(c.2.complete && c.2.read)).map fun c => (c.2.age, c.2.flight s h.task)
  ((arrays ++ gathers ++ commands).foldl (fun l x => insertAge x l) []).map (·.2)

/-- The doubleword at an offset from 0x3000 of BAR0: the table's sixteen entries, and at 0x3200 how many it does not hold. -/
def tableRead (s : State) (h : Hart) (offset : Nat) : Word :=
  let l := inFlightTable s h
  if offset = 0x200 then BitVec.ofNat 64 (l.length - 16)
  else BitVec.ofNat 64 ((l.take 16).getD (offset / 32) 0 / 2 ^ (64 * (offset / 8 % 4)))

/-! ## Reads of control registers (R347) -/

/-- DCTL as it reads: the bits that clear themselves read 0. -/
def Debug.dctl (d : Debug) : Word :=
  BitVec.ofNat 64 (d.haltBit.toNat + 4 * d.claim.toNat + 8 * d.trace.toNat + 16 * d.sample.toNat)

/-- DSTAT. -/
def Debug.dstat (d : Debug) : Word := BitVec.ofNat 64 (d.halted.toNat + 256 * d.cause.toNat)

/-- The debug registers as the interface reads them. -/
def Debug.read (d : Debug) (num : Nat) : Word :=
  match num with
  | 0x200 => d.dctl
  | 0x201 => d.dstat
  | 0x202 => d.trbase
  | 0x203 => d.trcap
  | 0x204 => d.trhead
  | 0x205 => d.trtail
  | 0x206 => d.trlost
  | 0x207 => d.sper
  | _ =>
    if 0x208 ≤ num ∧ num ≤ 0x20B then Sparse.get 0 d.bps (num - 0x208)
    else if 0x20C ≤ num ∧ num ≤ 0x20F then Sparse.get 0 d.bpo (num - 0x20C)
    else 0

/-- Control register `num` of hart `n` as the debug interface reads it, at any time (R347). -/
def debugRead (s : State) (n num : Nat) : Word :=
  if 0x200 ≤ num then (s.hart n).dbg.read num else (controlRead { s with cur := n } num).getD 0

/-- A debugger's read: of the memory view, the tile window or the in-flight table (R350), or of a control register (R347). -/
def execDebugMemoryViewRead (vi hart : Nat) (window : ViewWindow) (address : Nat) (s : State) : Out :=
  whenReady s (withReached s vi hart fun n => match window with
    | .table => viewReply s (some (tableRead s (s.hart n) address).toNat)
    | .register => viewReply s (some (debugRead s n address).toNat)
    | .memory => viewMemory s n address
    | .tile z position => viewTile s n z position address)

/-- A debugger's write through the memory view: performed at once at its home (R350). -/
def execDebugMemoryViewWrite (vi hart address : Nat) (value : BitVec 64) (s : State) : Out :=
  whenReady s (withReached s vi hart fun n =>
    viewSettle s n (viewSpots s n address false true) fun l =>
      let es := entriesOf 0 64 value.toNat l
      viewReply (es.foldl (performAs · (.device (s.hart n).task.vi) none ·) s) (some 0))

/-! ## Registers of the selected hart (R71, R347) -/

/-- SPER holds 0 or 1,024 to 2^32; another value is ignored. -/
def sperOk (v : Word) : Bool := v == 0 || (decide (1024 ≤ v.toNat) && decide (v.toNat ≤ 2 ^ 32))

/-- The debug registers beyond DCTL after a write; read-only numbers ignore it (R347). -/
def Debug.write (d : Debug) (num : Nat) (v : Word) : Debug :=
  match num with
  | 0x202 => { d with trbase := v &&& ~~~0x3F#64 }
  | 0x203 => { d with trcap := v }
  | 0x204 => { d with trhead := v }
  | 0x206 => { d with trlost := d.trlost &&& ~~~v }
  | 0x207 => if sperOk v then { d with sper := v } else d
  | _ =>
    if 0x208 ≤ num ∧ num ≤ 0x20B then { d with bps := Sparse.set 0 d.bps (num - 0x208) v }
    else if 0x20C ≤ num ∧ num ≤ 0x20F then { d with bpo := Sparse.set 0 d.bpo (num - 0x20C) v }
    else d

/-- A write of DCTL of hart `n` (R347). -/
def writeDctl (s : State) (n : Nat) (v : Word) : State :=
  let h := s.hart n
  let d := h.dbg
  let s := s.setHart n { h with dbg := { d with
    haltBit := v.getLsbD 0, claim := v.getLsbD 2, trace := v.getLsbD 3, sample := v.getLsbD 4
    sampledAt := if d.sample then d.sampledAt else h.counters.slotcyc
    haltReq := d.haltReq && v.getLsbD 0 } }
  let s := if v.getLsbD 1 then letGo s n true else if v.getLsbD 5 then letGo s n false else s
  if v.getLsbD 0 then requestHalt s n else s

/-- A write of control register `num` of hart `n` by the debugger: only DCTL while the hart is not halted (R347). -/
def debugWrite (s : State) (n num : Nat) (v : Word) : State :=
  let h := s.hart n
  if num = 0x200 then writeDctl s n v
  else if h.dbg.halted = false then s
  else if 0x200 ≤ num then s.setHart n { h with dbg := h.dbg.write num v }
  else onHart s n fun s => (controlWrite s num v).getD s

/-! ## Samples (R346) -/

/-- A sample of hart `n` is due: SLOTCYC has passed a multiple of SPER since the last one. -/
def sampleDue (h : Hart) : Bool :=
  h.live && h.dbg.sample && h.dbg.sper != 0
    && decide (h.dbg.sampledAt.toNat / h.dbg.sper.toNat < h.counters.slotcyc.toNat / h.dbg.sper.toNat)

/-- The oldest instruction of a hart that has not finished: an array operation or a gather in flight, or else the one at PC (R346). -/
def Hart.unfinished (h : Hart) : Word :=
  match h.array, h.gathers with
  | [], [] => h.pc
  | e :: _, [] => e.pc
  | [], g :: _ => g.pc
  | e :: _, g :: _ => if e.age ≤ g.age then e.pc else g.pc

/-- A KIND 7 record every SPER cycles of SLOTCYC (R346); `slip` is the class of R341 where no rule names it. -/
def execTraceSample (hart : Nat) (slip : BitVec 2) (s : State) : Out :=
  whenReady s (
    let h := s.hart hart
    if sampleDue h then
      let p := h.dbg.sper.toNat
      let cls := h.slipClass.getD slip.toNat
      traceRecord (s.setHart hart { h with
        dbg := { h.dbg with sampledAt := BitVec.ofNat 64 ((h.dbg.sampledAt.toNat / p + 1) * p) } })
        hart 7 (BitVec.ofNat 8 cls) 0 h.unfinished
    else s)

end Sys2Proof.Machine
end

