-- ==== Sys2Proof/Machine/Latch.lean ====
section
/-! DEFINITION. The global latch (R342, R344). -/

namespace Sys2Proof.Machine

/-- Some of the latches that are taken together covers a core. -/
def latched (s : State) (ls : List Latch) (core : Nat) : Bool := ls.any fun l => l.coversCore s core

/-- Counters 0x100 to 0x105 of a hart, as its shadows take them. -/
def Counters.latch (c : Counters) : Counters :=
  let vs : List Word := [c.slotcyc, c.beats, c.arrcyc, c.strips, c.trims, c.rewinds]
  { c with shadow := vs.zipIdx.foldl (fun m v => Sparse.set 0 m (0x100 + v.2) v.1) c.shadow }

/-- Counters 0x110 to 0x11F of a core, LTIME and LSEQ. -/
def Core.latch (c : Core) (t : Word) : Core :=
  { c with
    shadow := (List.range 8).foldl (fun m k => Sparse.set 0 (Sparse.set 0 m (0x110 + k) (Sparse.get 0 c.ccnt k))
      (0x118 + k) ((Sparse.get 0 c.csel k).setWidth 64)) c.shadow
    ltime := t, lseq := c.lseq + 1 }

/-- The counters of a cluster or die, LTIME and LSEQ. -/
def SharedCounters.latch (c : SharedCounters) (t : Word) : SharedCounters :=
  { c with shadow := c.values, ltime := t, lseq := c.lseq + 1 }

/-- Latch `k` units of a store. -/
def latchShared (m : Sparse SharedCounters) (t : Word) (k : Nat) : Sparse SharedCounters :=
  (List.range k).foldl (fun m i => Sparse.put m i ((Sparse.get {} m i).latch t)) m

/-- Take the latches `ls` of time `t`: each covered counter goes to its shadow. -/
def takeLatches (s : State) (ls : List Latch) (t : Word) : State :=
  let all := ls.any fun l => l.vi.isNone
  let harts := s.harts.map fun c =>
    if latched s ls (c.1 / 4) then (c.1, { c.2 with counters := c.2.counters.latch }) else c
  let s := { s with harts }
  let s := (List.range s.build.cores).foldl (fun s k => if latched s ls k then s.setCore k ((s.core k).latch t) else s) s
  if all then { s with clusters := latchShared s.clusters t s.build.clusters, dies := latchShared s.dies t s.build.dies } else s

/-- A pending latch, with those that joined it, is taken where TIME has reached its time (R344). -/
def takeIfDue (s : State) (l : Latch) : State :=
  if s.time.toNat < l.time then s
  else
    let ls := s.latches.filter fun x => x.time == l.time
    takeLatches { s with latches := s.latches.filter fun x => x.time != l.time } ls (BitVec.ofNat 64 l.time)

/-- As time passes, every pending latch whose time TIME has reached is taken (R344). -/
def dueLatches (s : State) : State :=
  if s.power.state = .ready then (s.latches.map (·.time)).eraseDups.foldl (fun s t => takeIfDue s { time := t, vi := none }) s
  else s

/-- TIME has reached the time of a pending latch, and of those that joined it (R344). -/
def execLatchTake (index : Nat) (s : State) : Out :=
  whenReady s (match s.latches[index]? with
    | none => s
    | some l => takeIfDue s l)

/-- The falling edge of LATCH_N: a latch of every counter of the package (R344). -/
def execLatchN (s : State) : Out := whenReady s (requestLatch s none).2

end Sys2Proof.Machine
end

