-- ==== Sys2Proof/Machine/Matrix.lean ====
section
/-! DEFINITION. The matrix array as instructions see it: mop and mctl (R165 to R181, R392). -/

namespace Sys2Proof.Machine

/-- The tile is allocated to the hart (R165; step 6 of R27). -/
def tileGuard (s : State) (z : Nat) (k : State) : State :=
  if z < s.h.task.start.tiles then k else wordTrap s Cause.tileUnallocated

/-! ## mop and mopu -/

/-- The elements that the registers of a group hold, when the group is a bound stream. -/
def Vc.held (c : Vc) : Nat := c.share * c.cores

/-- One register of an operand group on one span position (R167): its image, filled from a bound stream (R203). -/
def operandReg (h : Hart) (c : Vc) (src : Source) (base k q : Nat) : Nat :=
  if (h.streamOver base 1).isNone then h.vreg q (base + k)
  else
    let per := c.vlenb * 8 / c.sew
    (List.range per).foldl (fun v j => v + src.get (q * c.share + k * per + j) * 2 ^ (j * c.sew)) 0

/-- The k-slices of an operand group, span position by span position. -/
def operandSlices (h : Hart) (c : Vc) (src : Source) (base : Nat) : List Nat :=
  (List.range c.cores).flatMap fun q => (List.range c.grp).map fun k => operandReg h c src base k q

/-- The scale register of an operand on each span position; 31 names none (R17, R172). -/
def scaleRegs (h : Hart) (r : BitVec 5) : Option (List Nat) :=
  if r = 31 then none else some ((List.range h.span.length).map fun q => h.vreg q r.toNat)

/-- SA and SB name registers only for formats with scales (R17). -/
def scaleFieldsOk (zw : Word) (sa sb : BitVec 5) : Bool :=
  (sa == 31 || scaledCode (zwA zw).code) && (sb == 31 || scaledCode (zwB zw).code)

/-- The cause with its TVAL that reading the operand streams whole meets (R203). -/
def operandStop (c : Vc) (srcs : List Source) : Option (BitVec 8 × Nat) :=
  (List.range c.held).findSome? fun i => srcs.findSome? fun t => t.cause i

/-- What holds an array operation back: a lost or a missing operand, or a lost scale register (R203, R208, R335). -/
def operandHold (h : Hart) (c : Vc) (srcs : List Source) (scales : List (BitVec 5)) : Option (State → State) :=
  match scales.findSome? fun r => if r = 31 then none
      else (List.range h.span.length).findSome? fun q => h.lostReg q r.toNat with
  | some f => some fun s => failInterval s s.cur f
  | none => (List.range c.held).findSome? (heldBack srcs)

/-- `mop` and `mopu` behind their decode checks (R177, R178, R392): they wait while the array queue is full, and then the
operation enters it. `check` gives the checks of the entry and the unfolding operand. SA and SB name a register only where the format of the
tile has scales (R17). DESIGN CHOICE (entry 63): of a scale field that R17 refuses and a descriptor that R176 refuses, the
scale field is judged first, in the order in which R392 names them. -/
def matrixOp (s : State) (z : BitVec 3) (groups : List (BitVec 5)) (b sa sb : BitVec 5)
    (check : State → (Option (Word × Word × Word) → State) → State) (a : Hart → Vc → List Nat) : Out :=
  let h := s.h
  let c := h.vc 0
  let srcs := groups.map fun r => h.source c r.toNat c.sew
  let zw := Sparse.get 0 h.matrix.zw z.toNat
  let scaleOk (side : ZwSide) (r : BitVec 5) : Bool := r == 31 || !scaledCode side.code || h.writeOk r.toNat 1
  .next (vectorGuard s c (alignedTo c.grp groups && groups.all (fun r => h.readOk c r.toNat c.grp c.sew) && scaleOk (zwA zw) sa && scaleOk (zwB zw) sb)
    (tileGuard s z.toNat
      (if scaleFieldsOk zw sa sb then
        check s fun unfold =>
          if c.vl = 0 then vectorRetire s
          else if 4 ≤ h.array.length then stalled s s.cur (some 1)
          else match operandHold h c srcs [sa, sb], operandStop c srcs with
            | some hold, _ => hold s
            | none, some (cause, ea) => memTrap (s.setH (h.pop (groups.map (·.toNat)) 0 true)) cause ea
            | none, none =>
              let e : ArrayEntry :=
                { pc := h.pc, sord := h.strip.sord, tile := z.toNat, slices := c.grp, unfold, a := a h c
                  b := operandSlices h c (h.source c b.toNat c.sew) b.toNat
                  scaleA := scaleRegs h sa, scaleB := scaleRegs h sb, rm := BitVec.ofNat 3 c.rm, buffered := h.sb.length
                  accepted := false, zw := 0, mvl := 0, padding := [], age := h.instret }
              let h1 := h.pop (groups.map (·.toNat)) c.vl false
              vectorRetire (s.setH { h1 with array := h1.array ++ [e] })
      else wordTrap s Cause.reservedField)))

/-- `mop.mop` (R167, R177). -/
def execMopMop (z : BitVec 3) (a b sa sb : BitVec 5) (_x _y : Bool) (s : State) : Out :=
  matrixOp s z [a, b] b sa sb (fun _ k => k none) fun h c => operandSlices h c (h.source c a.toNat c.sew) a.toNat

/-- `mop.mopu` (R174 to R177): the descriptor that x[A] names is judged first. -/
def execMopMopu (z : BitVec 3) (a b sa sb : BitVec 5) (_y : Bool) (s : State) : Out :=
  matrixOp s z [b] b sa sb (fun s k =>
    let h := s.h
    let xa := h.rx a
    let d := xa.toNat / 2 ^ 62
    let even := Sparse.get 0 h.matrix.ufd (2 * d)
    let odd := Sparse.get 0 h.matrix.ufd (2 * d + 1)
    let side := zwA (Sparse.get 0 h.matrix.zw z.toNat)
    if ufdOk even odd = false then wordTrap s Cause.illegalType
    else if h.spBytes * 8 < ufdEnd even (storageWidth side.code side.w) then
      trapEntry s Cause.bound h.pc h.vstart (BitVec.ofNat 64 (ufdBits even 23 0))
    else k (some (xa, even, odd))) fun _ _ => []

/-! ## mctl -/

/-- A function on a tile waits until every earlier array entry of the hart on that tile has retired and the arrays of its span perform no
operation, and ends the tile's panel (R163, R179, R183). -/
def afterTile (s : State) (z : Nat) (k : State → State) : State :=
  if s.h.allRetired (fun e => e.tile == z) && s.h.span.all (arrayFree s) then k (endPanel s s.cur z) else stalled s s.cur none

/-- A function on a tile that task mode allows (R163, R179). -/
def onTile (s : State) (z : Nat) (k : State → State) : State := taskMode s (tileGuard s z (afterTile s z k))

/-- The tile was written in this interval (R303, R338). -/
def Hart.tileWritten (h : Hart) (z : Nat) : Hart :=
  { h with marks := { h.marks with tiles := z :: h.marks.tiles }, dirty := { h.dirty with tiles := Sparse.set false h.dirty.tiles z true } }

/-- `mctl.mzero` (R179). DESIGN CHOICE (entry 84): it zeroes the tile, and takes its cycle, whatever VL is; R86 performs no element of a
vector instruction at VL 0, and R179 names no VL. -/
def execMctlMzero (z : BitVec 3) (s : State) : Out :=
  .next (onTile s z.toNat fun s =>
    let h := s.h
    let tiles := h.matrix.tiles.filter fun c => c.1 / 4096 % 8 != z.toNat
    vectorRetire (chargeArray (s.setH ({ h with matrix := { h.matrix with tiles } }.tileWritten z.toNat)) s.cur 1))

/-- Rows that [lo, hi) covers in rows of `n`. -/
def rowsCovered (lo hi n : Nat) : Nat := if hi ≤ lo then 0 else (hi - 1) / n - lo / n + 1

/-- The value that `mdrain` gives element `i` (R180). -/
def drainValue (h : Hart) (c : Vc) (z : Nat) (top : Nat) (i u : Nat) : Nat × Flags :=
  let mvl := h.matrix.mvl.toNat
  let zw := Sparse.get 0 h.matrix.zw z
  let e := i % c.share
  let w := top + e / mvl
  let v := if w < mvl then (Sparse.get 0 h.matrix.tiles (tileKey (i / c.share) z w (e % mvl))).toNat else 0
  if c.fam = 2 ∧ zwAcct zw < 2 then
    let n := signed v 32
    fp32.round c.rm ⟨decide (n < 0), n.natAbs, -(zwQz zw : Int), false⟩ false u
  else (v, 0)

/-- `mctl.mdrain` (R180). DEDUCED (entry 89): the Cinch lane checks it as it does an instruction of R331's majors, since R391 has a lane
check fail in a strip that computes with nothing else. -/
def execMctlMdrain (d a : BitVec 5) (z : BitVec 3) (m : BitVec 2) (s : State) : Out :=
  let h := s.h
  let c := h.vc m
  let slots := h.slotsOf d.toNat c.grp
  .next (vectorGuard s c (c.sew == 32 && decide (c.fam < 3) && alignedTo c.grp [d] && h.writeOk d.toNat c.grp && c.predOk false)
    (tileGuard s z.toNat (claimed s c slots [] <| afterTile s z.toNat fun s =>
      let h := s.h
      let active := h.active c
      let draws := c.rm == 5 && c.fam == 2 && decide (zwAcct (Sparse.get 0 h.matrix.zw z.toNat) < 2)
      let r := runElements s c active true fun r i =>
        let (v, fl) := drainValue h c z.toNat (h.rx a).toNat i (if draws then drawFraction h.strip.rngs r.count else 0)
        Elt.ok v fl
      endRun s c [] r fun s e =>
        let h1 := (s.h.marked c slots []).writeGroup c active d.toNat 32 e r.vals
        let s := laneEnd (s.setH (if draws then h1.drawn r.count else h1)) c active 32 1 0 0 e
        chargeArrayBy s s.cur fun q =>
          rowsCovered (c.start - q * c.share) (min (e - q * c.share) c.share) h.matrix.mvl.toNat)))

/-- The context of `mld` and `mst`: MVL² elements stand for VL (R181). -/
def Hart.windowVc (h : Hart) : Vc := { h.plainVc with vl := h.matrix.mvl.toNat * h.matrix.mvl.toNat }

/-- The access of window element `i` (R181). -/
def windowAccess (s : State) (base i : Nat) (need : Need) : List Access :=
  [memAccess s (base + 4 * i) 0 4 { need with align := 4 }]

/-- End a window transfer (R181): a trim leaves VL as it is and reports row and column. `put` performs the elements below
the achieved end. -/
def windowEnd {α : Type} (s : State) (start : Nat) (r : Run α) (put : State → State) : State :=
  match r.hold with
  | some k => k s
  | none =>
    let cols := s.h.matrix.mvl.toNat
    match r.stop with
    | some (i, cause, tval) =>
      if isFault cause && i == start then trapEntry s cause s.h.pc s.h.vstart (BitVec.ofNat 64 tval)
      else
        let s := trimMark (put s) i cause
        let h := s.h
        vectorRetire (chargeArray (s.setH { h with achr := BitVec.ofNat 64 (i / cols), achc := BitVec.ofNat 64 (i % cols) })
          s.cur (rowsCovered start i cols))
    | none => vectorRetire (chargeArray (put s) s.cur (rowsCovered start (cols * cols) cols))

/-- Window element `i` of tile `z` on span position `q`. -/
def windowKey (mvl q z i : Nat) : Nat := tileKey q z (i / mvl) (i % mvl)

/-- `mctl.mld` (R181): the image goes into the tile's copy on every span core. -/
def execMctlMld (a : BitVec 5) (z : BitVec 3) (s : State) : Out :=
  .next (onTile s z.toNat fun s =>
    let h := s.h
    let c := h.windowVc
    let base := (h.rx a).toNat
    if h.strip.vl = 0 ∨ c.vl ≤ c.start then vectorRetire s
    else
      let check (s : State) (i : Nat) : Elt (List (List Spot × Nat)) :=
        checked (i == c.start) true (windowAccess s base i (loads false))
      let r1 := runElements s c (fun _ => true) true fun _ i => check s i
      match r1.hold with
      | some k => k s
      | none => loadCommits s (r1.vals.flatMap fun v => v.2.flatMap (·.1)) fun s =>
        let r := rerun s c (fun _ => true) r1 fun _ i =>
          (check s i).andThen fun ps => eltOf false ((base + 4 * i) % 2 ^ 64) (readFields s 32 i 0 ps)
        let s := if r.hold.isSome then rememberReads s (r1.vals.reverse.flatMap fun v => elementReads v.1 v.2) else s
        windowEnd s c.start r fun s =>
          let h := s.h
          let tiles := r.vals.foldl (fun t v => (List.range c.cores).foldl (fun t q =>
            Sparse.set 0 t (windowKey h.matrix.mvl.toNat q z.toNat v.1) (BitVec.ofNat 32 (v.2.getD 0 0))) t) h.matrix.tiles
          if r.vals.isEmpty then s else s.setH ({ h with matrix := { h.matrix with tiles } }.tileWritten z.toNat))

/-- `mctl.mst` (R181): the tile's copy on the home core is stored. -/
def execMctlMst (a : BitVec 5) (z : BitVec 3) (s : State) : Out :=
  .next (onTile s z.toNat fun s =>
    let h := s.h
    let c := h.windowVc
    let base := (h.rx a).toNat
    if h.strip.vl = 0 ∨ c.vl ≤ c.start then vectorRetire s
    else
      let r := runElements s c (fun _ => true) true fun _ i =>
        checked (i == c.start) true (windowAccess s base i (stores false))
      if r.hold.isSome then windowEnd s c.start r id
      else
        let items := r.vals.reverse.map fun v =>
          let bits := (Sparse.get 0 h.matrix.tiles (windowKey h.matrix.mvl.toNat 0 z.toNat v.1)).toNat
          (v.1, (v.2.flatMap fun p => entriesOf p.2 32 bits p.1), 32)
        enterElements s items fun s => windowEnd s c.start r id)

/-- `mctl.mset` (R179). -/
def execMctlMset (a : BitVec 5) (s : State) : Out :=
  let v := s.h.rx a
  .next (taskMode s (if 1 ≤ v.toNat ∧ v.toNat ≤ 64 then
      let h := s.h
      if h.allTaken (fun _ => true) then vectorRetire (s.setH { h with matrix := { h.matrix with mvl := v.setWidth 7 } })
      else stalled s s.cur none
    else wordTrap s Cause.illegalType))

/-- The image that `zwset` accepts (R169). -/
def zwOk (v : Word) : Bool :=
  let a := zwA v
  let b := zwB v
  let isFloat (k : ZwSide) : Bool := decide (8 ≤ k.code)
  let isAsym (k : ZwSide) : Bool := k.code == 4 || k.code == 5
  decide (a.code < 20) && decide (b.code < 20) && zwBits v 61 38 == 0 && zwAcct v != 3
    && decide (a.q ≤ 16) && decide (b.q ≤ 16) && decide (zwQz v ≤ 48)
    && (zwAcct v == 2 || (!isFloat a && !isFloat b)) && (zwAcct v != 2 || zwQz v == 0)
    && (a.q == 0 || !isFloat a) && (b.q == 0 || !isFloat b) && (!a.zp || isAsym a) && (!b.zp || isAsym b)

/-- `mctl.zwset` (R169, R171, R179). -/
def execMctlZwset (a : BitVec 5) (z : BitVec 3) (s : State) : Out :=
  let v := s.h.rx a
  .next (taskMode s (tileGuard s z.toNat (if zwOk v then
      let s1 := endPanel s s.cur z.toNat
      let h := s1.h
      let mine (e : ArrayEntry) : Bool := e.tile == z.toNat
      if h.allTaken mine then
        vectorRetire (s1.setH { h with
          matrix := { h.matrix with zw := Sparse.set 0 h.matrix.zw z.toNat v }
          array := h.array.map fun e => if mine e then { e with replaced := true } else e })
      else stalled s s.cur none
    else wordTrap s Cause.illegalType)))

end Sys2Proof.Machine
end

