-- ==== Sys2Proof/Machine/MemScalar.lean ====
section
/-! DEFINITION. Scalar loads and stores: ld and st (R62 to R67). -/

namespace Sys2Proof.Machine

/-- The effective address x[A] + sext(I, 12) (R62). -/
def effective (s : State) (a : BitVec 5) (i : BitVec 12) : Nat := (s.h.rx a + i.signExtend 64).toNat

/-- A plain load of `n` bytes, extended to 64 bits (R63). -/
def load (s : State) (d a : BitVec 5) (i : BitVec 12) (n : Nat) (sign : Bool) : Out :=
  .next (scalarLoad s (effective s a i) n false fun s v _ =>
    writeX s d (if sign then BitVec.ofInt 64 (signed v (8 * n)) else BitVec.ofNat 64 v))

/-- A plain store of the low `n` bytes of x[B] (R64, R66). -/
def store (s : State) (b a : BitVec 5) (i : BitVec 12) (n : Nat) : Out :=
  let ea := effective s a i
  .next (settle s ea (scalarPage s s.cur ea n false true false) fun p =>
    enterStore s [scalarEntry p ea n (s.h.rx b).toNat] 8 retire)

/-- `ld.b` (R63). -/
def execLdB (d a : BitVec 5) (i : BitVec 12) (s : State) : Out := load s d a i 1 true

/-- `ld.bu` (R63). -/
def execLdBu (d a : BitVec 5) (i : BitVec 12) (s : State) : Out := load s d a i 1 false

/-- `ld.h` (R63). -/
def execLdH (d a : BitVec 5) (i : BitVec 12) (s : State) : Out := load s d a i 2 true

/-- `ld.hu` (R63). -/
def execLdHu (d a : BitVec 5) (i : BitVec 12) (s : State) : Out := load s d a i 2 false

/-- `ld.w` (R63). -/
def execLdW (d a : BitVec 5) (i : BitVec 12) (s : State) : Out := load s d a i 4 true

/-- `ld.wu` (R63). -/
def execLdWu (d a : BitVec 5) (i : BitVec 12) (s : State) : Out := load s d a i 4 false

/-- `ld.d` (R63). -/
def execLdD (d a : BitVec 5) (i : BitVec 12) (s : State) : Out := load s d a i 8 false

/-- `ld.ll` (R63, R258): a doubleword, with the hart's scalar link on its line. -/
def execLdLl (d a : BitVec 5) (i : BitVec 12) (s : State) : Out :=
  let ea := effective s a i
  .next (settle s ea (scalarPage s s.cur ea 8 true false false) fun p =>
    beforeLoad s p fun s => clearScalarLink s p.loc fun s =>
      settle s ea (if placePoisoned s p.loc 8 then .cause Cause.poison
          else (linkedRead s s.h.answers p.loc 8 false).map fun v => overlay s.h.sb p.loc 8 v) fun v =>
        writeX (setScalarLink s s.cur p.loc v) d (BitVec.ofNat 64 v))

/-- `ld.acq` (R65): a doubleword at x[A], with acquire. In a model whose harts perform one instruction at a time the acquire adds
nothing more. -/
def execLdAcq (d a : BitVec 5) (_p : BitVec 3) (s : State) : Out :=
  .next (scalarLoad s (s.h.rx a).toNat 8 true fun s v _ => writeX s d (BitVec.ofNat 64 v))

/-- `st.b` (R64). -/
def execStB (b a : BitVec 5) (i : BitVec 12) (s : State) : Out := store s b a i 1

/-- `st.h` (R64). -/
def execStH (b a : BitVec 5) (i : BitVec 12) (s : State) : Out := store s b a i 2

/-- `st.w` (R64). -/
def execStW (b a : BitVec 5) (i : BitVec 12) (s : State) : Out := store s b a i 4

/-- `st.d` (R64). -/
def execStD (b a : BitVec 5) (i : BitVec 12) (s : State) : Out := store s b a i 8

/-- `st.rel` (R65): a commit point, then its own store behind a release at the scope. -/
def execStRel (b a : BitVec 5) (p : BitVec 3) (s : State) : Out :=
  let ea := (s.h.rx a).toNat
  .next (settle s ea (scalarPage s s.cur ea 8 false true true) fun page =>
    let e := scalarEntry page ea 8 (s.h.rx b).toNat
    committed s fun s =>
      if page.ord = .strong then afterStrong s fun s => finishCommit (performStore s s.cur e)
      else released s p.toNat fun s => finishCommit (performStore s s.cur e))

end Sys2Proof.Machine
end

