-- ==== Sys2Proof/Machine/Power.lean ====
section
/-! DEFINITION. Power and the clock, bring-up, and the management interface (R365 to R371). -/

namespace Sys2Proof.Machine

/-! ## The clock (R365) -/

/-- `z` clamped to a range. -/
def clampNat (z lo hi : Nat) : Nat := if z < lo then lo else if hi < z then hi else z

/-- Power exceeds PLIM. -/
def overPower (p : Power) (watts : Nat) : Bool := decide (p.plim < watts)

/-- A junction exceeds 105 °C. -/
def overHeat (junctions : List Int) : Bool := junctions.any fun j => decide (105 < j)

/-- Power and every junction are below their limits. -/
def belowLimits (p : Power) (watts : Nat) (junctions : List Int) : Bool :=
  decide (watts < p.plim) && junctions.all fun j => decide (j < 105)

/-- The clock is held below FMAX by power (PWL) or temperature (THL). -/
def Power.held (p : Power) (pwl thl : Bool) : Power :=
  { p with pwl := pwl && decide (p.fcur < p.fmax), thl := thl && decide (p.fcur < p.fmax) }

/-- One measurement of the power manager (R365). -/
def Power.measure (p : Power) (watts : Nat) (junctions : List Int) : Power :=
  let hot := overHeat junctions
  let big := overPower p watts
  let below := belowLimits p watts junctions
  let p := { p with junctions, below, calm := if below then p.calm else 0 }
  if hot || big then { p with fcur := max 1500 (p.fcur - 50) }.held (p.pwl || big) (p.thl || hot) else p

/-- The tasks of the device are lost, without a save or a kill record (R367). -/
def loseTasks (s : State) : State := { s with harts := s.harts.map fun c => (c.1, c.2.vacant) }

/-- A junction at 115 °C or more: the clock stops and the device enters FAULT (R367). -/
def thermalTrip (s : State) : State :=
  let s := loseTasks s
  { s with power := { s.power with state := .fault, alert := true } }

/-- The device in OFF holds nothing; what it has told the parties outside stands (R368). -/
def switchOff (s : State) : State :=
  { State.reset with
    build := s.build, agenda := s.agenda, free := s.free, cur := s.cur, steps := s.steps, replies := s.replies
    power := { plim := s.build.powerLimit, boots := s.power.boots } }

/-- A tick of the power manager (R365, R367). -/
def execPowerManagerTick (watts : Nat) (junctions : List Int) (s : State) : Out :=
  whenReady s (
    let s := { s with power := s.power.measure watts junctions }
    if junctions.any fun j => decide (115 ≤ j) then thermalTrip s else s)

/-- The clock goes up by one step after 1 ms below both limits (R365). -/
def execClockStepUp (s : State) : Out :=
  whenReady s (
    let p := s.power
    if 10 ^ 6 ≤ p.calm ∧ p.fcur < p.fmax then
      { s with power := { p with fcur := min p.fmax (p.fcur + 50), calm := 0 }.held p.pwl p.thl }
    else s)

/-- A thermal trip: READY enters FAULT (R367), and in a device that is in FAULT already a trip returns it to OFF (R368; DEDUCED,
entry 68). -/
def execThermalTrip (s : State) : Out :=
  .next (match s.power.state with
    | .ready => thermalTrip s
    | .fault => switchOff s
    | .off => s)

/-- PLIM and FMAX as a write leaves them, clamped, PLIM to the package limit; the clock never exceeds FMAX (R365). -/
def Power.write (b : Build) (p : Power) (plim fmax : Nat) : Power :=
  let fmax := clampNat fmax 1500 3000
  { p with plim := clampNat plim 600 b.powerLimit, fmax, fcur := min p.fcur fmax }.held p.pwl p.thl

/-! ## OFF and bring-up (R368) -/

/-- Loss of power (R368). -/
def execPowerLoss (s : State) : Out := .next (switchOff s)

/-- The management command RESET, in any state (R368). -/
def execReset (s : State) : Out := .next (switchOff s)

/-- The cores that fail the tests of step 4, as OOS. -/
def failedOos (cores : List Nat) : BitVec 1024 := cores.foldl (fun m c => m ||| (1#1024 <<< c)) 0

/-- The failure code of a bring-up, if it fails (R368): the first step that fails; step 4 fails when fewer than 512 cores of the
HG-4's 1,024 pass, and half of the cores of another package (R2). -/
def bringUpFailure (b : Build) (r : BringUp) : Option (BitVec 8) :=
  let passed := countBelow (fun c => !(failedOos r.failedCores).getLsbD c) b.cores
  let early := r.failCode.filter fun c => c == 1 || c == 2 || c == 3
  let late := r.failCode.filter fun c => c == 5 || c == 6
  early.or (if 2 * passed < b.cores then some 4 else late)

/-- The cores out of service after a bring-up: those that step 4 found failing, once it was reached (R339, R368). -/
def wakeOos (s : State) (result : BringUp) (code : Option (BitVec 8)) : BitVec 1024 :=
  match code with
  | some c => if c.toNat < 4 then s.oos else failedOos result.failedCores
  | none => failedOos result.failedCores

/-- WAKE_N: a full bring-up from OFF, which ends in READY or in FAULT, with the firmware that flash then holds (R368). -/
def execWakeN (result : BringUp) (s : State) : Out :=
  .next (if s.power.state = .off then
      let code := bringUpFailure s.build result
      let s := { s with power := { s.power with boots := s.power.boots + 1 }, oos := wakeOos s result code }
      match code with
      | some c => { s with power := { s.power with state := .fault, code := c, alert := true } }
      | none => { s with power := { s.power with state := .ready }, time := s.power.timeset }
    else s)

/-! ## Management commands (R369, R371) -/

/-- Management commands other than STATUS are not answered in OFF (R371). -/
def managed (s : State) (k : State) : Out := .next (if s.power.state = .off then s else k)

/-- Answer a command. -/
def answered (s : State) (r : Reply) : State := { s with replies := s.replies ++ [r] }

/-- The identity keys exist: bring-up has passed step 2, which derives them (R369). -/
def Power.hasKeys (p : Power) : Bool := p.code != 1 && p.code != 2

/-- ATTEST (R369): the report and its two signatures. -/
def execAttest (nonce : BitVec 256) (s : State) : Out :=
  let m := Config.firmwareMeasurement s.power.boots
  let version := Config.securityVersion s.power.boots
  let body := [nonce.toNat, m.toNat, version.toNat, Config.stepping.toNat, s.oos.toNat]
  managed s (if s.power.hasKeys then
    answered s (.attest nonce m version Config.stepping s.oos (Config.rsaSign m body) (Config.slhSign m body))
    else s)

/-- CERTS (R369). -/
def execCerts (s : State) : Out :=
  let m := Config.firmwareMeasurement s.power.boots
  managed s (if s.power.hasKeys then answered s (.certs (Config.rsaCertificate m) (Config.slhCertificate m)) else s)

/-- TIMESET: the value that the next TSYNC edge loads (R371). -/
def execTimeset (value : BitVec 64) (s : State) : Out := managed s { s with power := { s.power with timeset := value } }

/-- The rising edge of TSYNC (R371). -/
def execTsync (s : State) : Out := whenReady s { s with time := s.power.timeset }

/-- The number of a device state in a STATUS reply. -/
def PowerState.number : PowerState → Nat
  | .off => 0
  | .ready => 1
  | .fault => 2

/-- STATUS, which OFF answers too (R371). -/
def execStatus (s : State) : Out :=
  let p := s.power
  .next (answered s (.status p.state.number p.code p.fcur p.junctions))

/-- A write of PWRCFG by VI 0 in this cycle takes effect after a POWER write of the same cycle (R371). -/
def afterPower (s : State) (p : Power) : Power :=
  match p.written with
  | some (at_, plim, fmax) => if s.power.state = .ready ∧ at_ = s.cycle then Power.write s.build p plim fmax else p
  | none => p

/-- POWER: a write of (PLIM, FMAX) as PWRCFG makes it, and their values (R371). -/
def execPower (write : Option (BitVec 16 × BitVec 16)) (s : State) : Out :=
  let p := match write with
    | some (plim, fmax) => Power.write s.build s.power plim.toNat fmax.toNat
    | none => s.power
  let reply := Reply.power (BitVec.ofNat 16 p.plim) (BitVec.ofNat 16 p.fmax)
  managed s (answered { s with power := if write.isSome then afterPower s p else p } reply)

end Sys2Proof.Machine
end

