-- ==== Sys2Proof/Machine/Registers.lean ====
section
/-! DEFINITION. Registers that the host writes: the management BAR, the submission port and the debug window, the
interface table, the reset of a function, and words that are no instruction (R5, R27, R311, R313, R316, R317, R321, R325,
R330, R339, R342, R347, R365, R370). -/

namespace Sys2Proof.Machine

/-! ## The interface table (R311, R321) -/

/-- The bits of doubleword `i` of an interface-table entry that are not zero fields (R311, R321). -/
def tableMask (i : Nat) : Word :=
  match i with
  | 20 => 0x0000FFFFFFFFFFFF
  | 25 => 0x00000000FFFFFFFF
  | 26 => 0xFFFFFFFFFFFFF000
  | 27 => 0xFFFFFFFFFFFFF000
  | 28 => 0x0000007F000FFFFF
  | 29 => 0xFFFFFFFFFFFFF000
  | 30 => 0xFFFFFFFFFFFFF000
  | 31 => 0
  | _ => 0xFFFFFFFFFFFFFFFF

/-- VI 0 writes a doubleword of the interface table; it takes effect at the next distributor choice (R311). -/
def execInterfaceTableWrite (vi offset : Nat) (value : BitVec 64) (s : State) : Out :=
  whenReady s (
    if vi < 256 ∧ offset < 256 ∧ offset % 8 = 0 then
      let v := s.vi vi
      s.setVi vi { v with staged := Sparse.set 0 v.staged (offset / 8) (value &&& tableMask (offset / 8)) }
    else s)

/-! ## Writes of other registers -/

/-- S1ROOT by the interface's own driver: it takes effect at once (R321). -/
def writeS1root (v : Vi) (value : Word) : Vi :=
  let w := value &&& tableMask 26
  { v with table := Sparse.set 0 v.table 26 w, staged := Sparse.set 0 v.staged 26 w }

/-- A field of an inbound window (R330). -/
def Window.write (w : Window) (field : Nat) (value : Word) : Window :=
  match field with
  | 0 => { w with base := value }
  | 1 => { w with size := value }
  | 2 => { w with perms := value &&& 3 }
  | _ => { w with mask := Sparse.set 0 w.mask (field - 3) value }

/-- An event code of a cluster or die counter (R342). -/
def setSharedEvent (m : Sparse SharedCounters) (unit counter : Nat) (value : Word) : Sparse SharedCounters :=
  let c := Sparse.get {} m unit
  Sparse.put m unit { c with events := Sparse.set 0 c.events counter (value &&& 0xFF) }

/-- VI 0 writes PWRCFG (R365, R371). -/
def writePower (s : State) (plim fmax : Nat) : State :=
  { s with power := { Power.write s.build s.power plim fmax with written := some (s.cycle, plim, fmax) } }

/-- A write to a device register that has no row of its own. -/
def execRegisterWrite (target : RegTarget) (value : BitVec 64) (s : State) : Out :=
  whenReady s (match target with
    | .relcfg => reviewFaults { s with relcfg :=
        { window := (value >>> 16).setWidth 32, rwlim := (value >>> 8).setWidth 4, thresh := value.setWidth 8 } }
    | .pwrcfg => writePower s (value.toNat % 2 ^ 16) (value.toNat / 2 ^ 16 % 2 ^ 16)
    | .trust vi offset =>
      if vi < 256 ∧ offset < 3072 ∧ offset % 8 = 0 then
        let v := s.vi vi
        s.setVi vi { v with trust := Sparse.set 0 v.trust (offset / 8) value }
      else s
    | .lstat vi => let v := s.vi vi; s.setVi vi { v with dropped := v.dropped && !value.getLsbD 9 }
    | .evhead vi => let v := s.vi vi; s.setVi vi { v with evhead := value }
    | .evlost vi => let v := s.vi vi; s.setVi vi { v with evlost := v.evlost &&& ~~~value }
    | .s1root vi => s.setVi vi (writeS1root (s.vi vi) value)
    | .inva vi => let v := s.vi vi; s.setVi vi { v with inva := value &&& ~~~0xFFF#64 }
    | .dsel vi => let v := s.vi vi; s.setVi vi { v with dsel := value }
    | .dbg vi number => withReached s vi (s.vi vi).dsel.toNat fun n => debugWrite s n number value
    | .window window field =>
      if window < 64 ∧ field < 7 then
        { s with windows := Sparse.put s.windows window ((Sparse.get {} s.windows window).write field value) }
      else s
    | .queueDescriptor vi queue =>
      if queue < 256 then let v := s.vi vi; s.setVi vi { v with descs := Sparse.set 0 v.descs queue value } else s
    | .sharedCounterEvent die unit counter =>
      if 8 ≤ counter ∨ (if die then s.build.dies else s.build.clusters) ≤ unit then s
      else if die then { s with dies := setSharedEvent s.dies unit counter value }
      else { s with clusters := setSharedEvent s.clusters unit counter value }
    | .zeroRange => s)

/-! ## What the BARs read (R313, R316, R325, R339, R362, R365, R370) -/

/-- RELCFG as it reads: a field of 0 reads as its default. -/
def RelCfg.image (r : RelCfg) : Word :=
  BitVec.ofNat 64 (r.span / 10 ^ 9 * 2 ^ 16 + r.limit * 2 ^ 8 + r.lasting)

/-- PWRCFG as it reads. -/
def Power.image (p : Power) : Word :=
  BitVec.ofNat 64 (p.thl.toNat * 2 ^ 49 + p.pwl.toNat * 2 ^ 48 + p.fcur * 2 ^ 32 + p.fmax * 2 ^ 16 + p.plim)

/-- A doubleword of the management BAR (R313). The ranges that the map marks zero read 0. -/
def managementRead (s : State) (offset : Nat) : Word :=
  if offset = 0x800 then s.relcfg.image
  else if 0x880 ≤ offset ∧ offset < 0x900 then (s.oos >>> (8 * (offset - 0x880))).setWidth 64
  else if offset = 0x900 then s.power.image
  else if 0x10000 ≤ offset ∧ offset < 0x110000 then Sparse.get 0 (s.vi ((offset - 0x10000) / 4096)).trust (offset % 4096 / 8)
  else if 0x200000 ≤ offset ∧ offset < 0x210000 then Sparse.get 0 (s.vi ((offset - 0x200000) / 256)).staged (offset % 256 / 8)
  else 0

/-- LSTAT as it reads (R316). -/
def Vi.lstat (v : Vi) : Word :=
  BitVec.ofNat 64 (v.status.toNat + 256 * v.lrec.isSome.toNat + 512 * v.dropped.toNat + 2 ^ 32 * v.accepted.toNat)

/-- INVS as it reads (R325). -/
def invsImage (s : State) (vi : Nat) : Word :=
  BitVec.ofNat 64 ((s.invals.any fun i => i.port == some vi).toNat + 2 ^ 32 * (s.vi vi).invsDone.toNat)

/-- A doubleword of a function's BAR0 (R316, R325, R347, R350, R362): registers that are only written read 0, and so does what no
rule places there. -/
def portRead (s : State) (vi offset : Nat) : Word :=
  let v := s.vi vi
  let selected (k : Nat → Word) : Word := ((reachedHart s vi v.dsel.toNat).map k).getD 0
  if offset = 0x08 then v.lstat
  else if offset = 0x18 then v.evhead
  else if offset = 0x20 then v.evtail
  else if offset = 0x28 then v.evlost
  else if offset = 0x40 then invsImage s vi
  else if offset = 0x1000 then v.dsel
  else if 0x1008 ≤ offset ∧ offset < 0x2108 then selected fun n => debugRead s n ((offset - 0x1008) / 8)
  else if 0x3000 ≤ offset ∧ offset < 0x3208 then selected fun n => tableRead s (s.hart n) (offset - 0x3000)
  else if 0x4000 ≤ offset ∧ offset < 0x4208 then catalogueRead s offset
  else 0

/-! ## Function-level reset (R317) -/

/-- The commands of an interface end with VI_RESET records; an apply leaves its bin in order (R223, R317). -/
def resetCommands (s : State) (vi : Nat) : State :=
  let s := s.commands.foldl (fun s c =>
    if c.by_.vi = vi then writeRecord (if c.finished then s else endCommand s c Cause.viReset) c.by_ c.seq c.done false Cause.viReset else s) s
  let s := s.copies.foldl (fun s c =>
    if c.by_.vi = vi then writeRecord s c.by_ c.seq c.wptr true Cause.viReset else s) s
  { s with commands := s.commands.filter fun c => c.by_.vi != vi, copies := s.copies.filter fun c => c.by_.vi != vi }

/-- A queue of the interface holds no entry: HEAD := TAIL. -/
def emptyQueue (vi : Nat) (s : State) (q : Nat) : State :=
  match queueDesc s vi q with
  | none => s
  | some d => match deviceWrite s vi (d.va + 0x10) d.tail 8 with
    | .ok s => s
    | _ => s

/-- The queues of an interface are emptied, and what waits for them is gone. -/
def emptyQueues (s : State) (vi : Nat) : State :=
  let s := (List.range 256).foldl (emptyQueue vi) s
  { s with
    held := s.held.filter fun h => h.vi != vi
    notes := s.notes.filter fun n => n.vi != vi
    saves := s.saves.filter fun c => c.vi != vi
    launches := s.launches.filter fun l => l.vi != vi }

/-- The port registers of an interface return to zero and its save areas are free; an invalidation in progress goes on. -/
def clearPort (s : State) (vi : Nat) : State :=
  let v := s.vi vi
  let invals := s.invals.map fun i : Inval => if i.port = some vi then { i with port := none } else i
  { s with invals }.setVi vi
    { v with status := 0, lrec := none, dropped := false, accepted := 0, evhead := 0, evtail := 0, evlost := 0, inva := 0, invsDone := 0, areas := [] }

/-- A function-level reset of a virtual function (R317): its tasks end with no save, no record, no decrement and no lock write. -/
def execFunctionLevelReset (vi : Nat) (s : State) : Out :=
  whenReady s (
    if vi = 0 ∨ 256 ≤ vi then s
    else clearPort (emptyQueues ((runningTasks s vi).foldl freeSlot (resetCommands s vi)) vi) vi)

/-! ## Words that are no instruction (R27) -/

/-- The cause of a word that is no instruction. -/
def WordFault.cause : WordFault → BitVec 8
  | .illegalMajor => Cause.illegalMajor
  | .reservedFn => Cause.reservedFn
  | .reservedField => Cause.reservedField

/-- A word that reaches decode and is no instruction traps as a whole; TVAL is the word (R27, R28). -/
def execNotAnInstruction (w : BitVec 32) (why : WordFault) (s : State) : Out :=
  .next (wordTrap { s with ir := w } (WordFault.cause why))

end Sys2Proof.Machine
end

