-- ==== Sys2Proof/Machine/Scalar.lean ====
section
/-! DEFINITION. The scalar arithmetic: sop, sopi and lui (R59 to R61). -/

namespace Sys2Proof.Machine

/-! ## The operations of R59 and R60 -/

/-- 1 or 0. -/
def bool64 (b : Bool) : Word := if b then 1 else 0

/-- How many bits of `n` below `k` are set. -/
def popBelow (n : Nat) : Nat → Nat
  | 0 => 0
  | k + 1 => popBelow n k + (n.testBit k).toNat

/-- Zero bits below the lowest set bit, among the bits from `i` up to `i + k`; `k` where none is set (R59). -/
def trailing (n : Nat) : Nat → Nat → Nat
  | _, 0 => 0
  | i, k + 1 => if n.testBit i then 0 else trailing n (i + 1) k + 1

/-- Zero bits above the highest set bit of a `w`-bit number (R59). -/
def leading (n w : Nat) : Nat := w - bitLen (n % 2 ^ w)

/-- The high 64 bits of the signed product (R59). -/
def mulHigh (a b : Word) : Word := BitVec.ofInt 64 ((a.toInt * b.toInt).fdiv (2 ^ 64))

/-- The high 64 bits of the unsigned product (R59). -/
def mulHighU (a b : Word) : Word := BitVec.ofNat 64 (a.toNat * b.toNat / 2 ^ 64)

/-- Signed division truncated toward zero, with the cases of R60. -/
def divS (a b : Word) : Word := if b = 0 then BitVec.allOnes 64 else BitVec.ofInt 64 (a.toInt.tdiv b.toInt)

/-- Unsigned division (R60). -/
def divU (a b : Word) : Word := if b = 0 then BitVec.allOnes 64 else BitVec.ofNat 64 (a.toNat / b.toNat)

/-- Signed remainder, of the dividend's sign (R60). -/
def remS (a b : Word) : Word := if b = 0 then a else BitVec.ofInt 64 (a.toInt.tmod b.toInt)

/-- Unsigned remainder (R60). -/
def remU (a b : Word) : Word := if b = 0 then a else BitVec.ofNat 64 (a.toNat % b.toNat)

/-- The result of a two-operand function goes to x[d] (R56, R59). -/
def binary (s : State) (d a b : BitVec 5) (f : Word → Word → Word) : Out :=
  .next (writeX s d (f (s.h.rx a) (s.h.rx b)))

/-- The result of a one-operand function goes to x[d]. -/
def unary (s : State) (d a : BitVec 5) (f : Word → Word) : Out := .next (writeX s d (f (s.h.rx a)))

/-- The second operand is the sign-extended immediate (R22). -/
def immediate (s : State) (d a : BitVec 5) (i : BitVec 12) (f : Word → Word → Word) : Out :=
  .next (writeX s d (f (s.h.rx a) (i.signExtend 64)))

/-- The second operand is the shift amount (R22). -/
def shifted (s : State) (d a : BitVec 5) (i : BitVec 6) (f : Word → Nat → Word) : Out :=
  .next (writeX s d (f (s.h.rx a) i.toNat))

/-! ## sop -/

/-- `sop.add` (R59). -/
def execSopAdd (d a b : BitVec 5) (s : State) : Out := binary s d a b fun a b => a + b

/-- `sop.sub` (R59). -/
def execSopSub (d a b : BitVec 5) (s : State) : Out := binary s d a b fun a b => a - b

/-- `sop.and` (R59). -/
def execSopAnd (d a b : BitVec 5) (s : State) : Out := binary s d a b fun a b => a &&& b

/-- `sop.or` (R59). -/
def execSopOr (d a b : BitVec 5) (s : State) : Out := binary s d a b fun a b => a ||| b

/-- `sop.xor` (R59). -/
def execSopXor (d a b : BitVec 5) (s : State) : Out := binary s d a b fun a b => a ^^^ b

/-- `sop.andn` (R59). -/
def execSopAndn (d a b : BitVec 5) (s : State) : Out := binary s d a b fun a b => a &&& ~~~b

/-- `sop.sll` (R59). -/
def execSopSll (d a b : BitVec 5) (s : State) : Out := binary s d a b fun a b => a <<< (b.toNat % 64)

/-- `sop.srl` (R59). -/
def execSopSrl (d a b : BitVec 5) (s : State) : Out := binary s d a b fun a b => a >>> (b.toNat % 64)

/-- `sop.sra` (R59). -/
def execSopSra (d a b : BitVec 5) (s : State) : Out := binary s d a b fun a b => a.sshiftRight (b.toNat % 64)

/-- `sop.slt` (R59). -/
def execSopSlt (d a b : BitVec 5) (s : State) : Out := binary s d a b fun a b => bool64 (a.slt b)

/-- `sop.sltu` (R59). -/
def execSopSltu (d a b : BitVec 5) (s : State) : Out := binary s d a b fun a b => bool64 (a.ult b)

/-- `sop.min` (R59). -/
def execSopMin (d a b : BitVec 5) (s : State) : Out := binary s d a b fun a b => if a.slt b then a else b

/-- `sop.max` (R59). -/
def execSopMax (d a b : BitVec 5) (s : State) : Out := binary s d a b fun a b => if a.slt b then b else a

/-- `sop.minu` (R59). -/
def execSopMinu (d a b : BitVec 5) (s : State) : Out := binary s d a b fun a b => if a.ult b then a else b

/-- `sop.maxu` (R59). -/
def execSopMaxu (d a b : BitVec 5) (s : State) : Out := binary s d a b fun a b => if a.ult b then b else a

/-- `sop.mul` (R59). -/
def execSopMul (d a b : BitVec 5) (s : State) : Out := binary s d a b fun a b => a * b

/-- `sop.mulh` (R59). -/
def execSopMulh (d a b : BitVec 5) (s : State) : Out := binary s d a b fun a b => mulHigh a b

/-- `sop.mulhu` (R59). -/
def execSopMulhu (d a b : BitVec 5) (s : State) : Out := binary s d a b fun a b => mulHighU a b

/-- `sop.div` (R60). -/
def execSopDiv (d a b : BitVec 5) (s : State) : Out := binary s d a b fun a b => divS a b

/-- `sop.divu` (R60). -/
def execSopDivu (d a b : BitVec 5) (s : State) : Out := binary s d a b fun a b => divU a b

/-- `sop.rem` (R60). -/
def execSopRem (d a b : BitVec 5) (s : State) : Out := binary s d a b fun a b => remS a b

/-- `sop.remu` (R60). -/
def execSopRemu (d a b : BitVec 5) (s : State) : Out := binary s d a b fun a b => remU a b

/-- `sop.clz` (R59). -/
def execSopClz (d a : BitVec 5) (s : State) : Out := unary s d a fun a => BitVec.ofNat 64 (leading a.toNat 64)

/-- `sop.ctz` (R59). -/
def execSopCtz (d a : BitVec 5) (s : State) : Out := unary s d a fun a => BitVec.ofNat 64 (trailing a.toNat 0 64)

/-- `sop.pop` (R59). -/
def execSopPop (d a : BitVec 5) (s : State) : Out := unary s d a fun a => BitVec.ofNat 64 (popBelow a.toNat 64)

/-! ## sopi and lui -/

/-- `sopi.addi` (R22, R59). -/
def execSopiAddi (d a : BitVec 5) (i : BitVec 12) (s : State) : Out := immediate s d a i fun a b => a + b

/-- `sopi.andi` (R22, R59). -/
def execSopiAndi (d a : BitVec 5) (i : BitVec 12) (s : State) : Out := immediate s d a i fun a b => a &&& b

/-- `sopi.ori` (R22, R59). -/
def execSopiOri (d a : BitVec 5) (i : BitVec 12) (s : State) : Out := immediate s d a i fun a b => a ||| b

/-- `sopi.xori` (R22, R59). -/
def execSopiXori (d a : BitVec 5) (i : BitVec 12) (s : State) : Out := immediate s d a i fun a b => a ^^^ b

/-- `sopi.slti` (R22, R59). -/
def execSopiSlti (d a : BitVec 5) (i : BitVec 12) (s : State) : Out := immediate s d a i fun a b => bool64 (a.slt b)

/-- `sopi.sltiu` (R22, R59). -/
def execSopiSltiu (d a : BitVec 5) (i : BitVec 12) (s : State) : Out := immediate s d a i fun a b => bool64 (a.ult b)

/-- `sopi.muli` (R22, R59). -/
def execSopiMuli (d a : BitVec 5) (i : BitVec 12) (s : State) : Out := immediate s d a i fun a b => a * b

/-- `sopi.slli` (R22, R59). -/
def execSopiSlli (d a : BitVec 5) (i : BitVec 6) (s : State) : Out := shifted s d a i fun a n => a <<< n

/-- `sopi.srli` (R22, R59). -/
def execSopiSrli (d a : BitVec 5) (i : BitVec 6) (s : State) : Out := shifted s d a i fun a n => a >>> n

/-- `sopi.srai` (R22, R59). -/
def execSopiSrai (d a : BitVec 5) (i : BitVec 6) (s : State) : Out := shifted s d a i fun a n => a.sshiftRight n

/-- `lui` (R61): sext(I, 21) · 2,048. -/
def execLui (d : BitVec 5) (i : BitVec 21) (s : State) : Out := .next (writeX s d (i.signExtend 64 <<< 11))

end Sys2Proof.Machine
end

