-- ==== Sys2Proof/Machine/Sys.lean ====
section
/-! DEFINITION. The functions of `sys`: service, return, idle, break, fence, code prefetch, commit and cache maintenance
(R73 to R78, R100, R205, R242). -/

namespace Sys2Proof.Machine

/-! ## Service, return and break -/

/-- `sys.svc` (R73): SVC with TPC at the next word. The spec gives TVAL no value here: it is open. -/
def execSysSvc (s : State) : Out :=
  let (v, s) := s.draw
  .next (trapEntry s Cause.svc (s.h.pc + 4) s.h.vstart (BitVec.ofNat 64 v))

/-- `sys.tret` (R74). -/
def execSysTret (s : State) : Out :=
  let t := s.h.trap
  .next (if t.handler = false then wordTrap s Cause.privileged
    else if t.tpc.toNat % 4 ≠ 0 then memTrap s Cause.misaligned t.tpc.toNat
    else trapReturn s)

/-- `sys.brk` (R76): the debugger's stop where it claimed BREAK, else a trap, whose TVAL is open. -/
def execSysBrk (s : State) : Out :=
  let (v, s') := s.draw
  .next (if s.h.dbg.claim then halt s s.cur Cause.break_
    else trapEntry s' Cause.break_ s'.h.pc s'.h.vstart (BitVec.ofNat 64 v))

/-! ## Commit points -/

/-- `sys.scommit` (R100). -/
def execSysScommit (s : State) : Out := .next (committed s finishCommit)

/-- `sys.idle` (R75): commit, then wait at the next word, unless a request is already pending. -/
def execSysIdle (s : State) : Out :=
  .next (committed s fun s =>
    let s := finishCommit s
    let h := s.h
    if h.live && decide (h.wait = .run) && !h.dbg.halted then s.setH { h with wait := .idle h.llLine false s.cycle } else s)

/-- `sys.fence` (R242): kinds 2 and 3 release before the checkpoint. Kinds 1 and 3 acquire, which asks nothing more of
a hart that performs one instruction at a time. -/
def execSysFence (k : BitVec 2) (p : BitVec 3) (s : State) : Out :=
  .next (committed s fun s =>
    if k.getLsbD 1 then released s p.toNat finishCommit else finishCommit s)

/-! ## Code prefetch -/

/-- The pages of an object that the lines of `[lo, hi)` touch and that hold no frame yet. -/
def Object.wanted (o : Object) (lo hi : Nat) : List Nat :=
  (List.range o.npage).filter fun p =>
    decide (lo < o.codebase + (p + 1) * 65536) && decide (o.codebase + p * 65536 < hi) && !(p ∈ o.filled) && !(p ∈ o.filling)

/-- `sys.ipf` (R205): start the fill of each code page that the range touches. -/
def execSysIpf (a b : BitVec 5) (s : State) : Out :=
  let h := s.h
  let lo := (h.rx a).toNat / 64 * 64
  let n := min (h.rx b).toNat 262144
  let hi := roundUp ((h.rx a).toNat + n) 64
  .next (retire (if n = 0 then s else
    { s with objects := s.objects.map fun o =>
        if o.vi = h.task.vi then { o with filling := o.wanted lo hi ++ o.filling } else o }))

/-! ## Cache maintenance (R77, R78) -/

/-- The action of a maintenance function on one line of its home (R77). -/
inductive Maint where
  | inv | clean | flush
  deriving DecidableEq, Repr

/-- Perform the action at a place: on the running hart's L1 data cache, which `dclean` leaves, and on the die cache, of which only
HBM4E lines have a copy. -/
def Maint.act (m : Maint) (s : State) (loc : Loc) : State :=
  match loc with
  | .home a =>
    let s := if m = .clean then s else s.dropL1 (s.cur / 4) a
    if isHbm a then
      match m with
      | .inv => { s with mem := s.mem.discardLine a }
      | .clean => { s with mem := s.mem.cleanLine a }
      | .flush => { s with mem := s.mem.cleanLine a }
    else s
  | _ => s

/-- x[A] and x[B] after the lines up to `line` are done (R78). DESIGN CHOICE (entry 71): where A and B name one register, it
holds the length that x[B] holds. -/
def progress (s : State) (a b : BitVec 5) (start len line : Nat) : State :=
  if b = 0 ∨ line ≤ start then s
  else s.setH ((s.h.wx a (BitVec.ofNat 64 line)).wx b (BitVec.ofNat 64 (len - (line - start))))

/-- The lines from `line` up, `n` of them, of the range `[start, start + len)`; `stop` is the number of lines after which
a pending pre-emption request meets the instruction (R77, R78). DESIGN CHOICE (entry 72): a range that passes 2^64 does not wrap to
address 0; the line at 2^64 is not canonical. -/
def maintLines (m : Maint) (a b : BitVec 5) (start len : Nat) : State → Nat → Option Nat → Nat → State
  | s, _, _, 0 => retire s
  | s, line, stop, n + 1 =>
    if stop = some 0 then
      let s := progress s a b start len line
      s.setH s.h.metRequest
    else
      let r : Res Page :=
        if line < 2 ^ 64 ∧ canonical line = true then translateFor s s.cur line (m != .inv) (m == .inv)
        else .cause Cause.noncanonical
      match r with
      | .ok p => maintLines m a b start len (m.act s p.loc) (line + 64) (stop.map (· - 1)) n
      | .ats .. => settle s line r fun _ => s
      | _ => settle (progress s a b start len line) line r fun _ => s

/-- A maintenance function over [x[A], x[A] + x[B]) (R77). -/
def maintain (m : Maint) (a b : BitVec 5) (s : State) : Out :=
  let start := (s.h.rx a).toNat
  let len := (s.h.rx b).toNat
  .next (maintLines m a b start len s (start / 64 * 64) s.h.meetElement (lineCount start len))

/-- `sys.dinv` (R77): discard without writing back. -/
def execSysDinv (a b : BitVec 5) (s : State) : Out := maintain .inv a b s

/-- `sys.dclean` (R77): write modified lines to their memory. -/
def execSysDclean (a b : BitVec 5) (s : State) : Out := maintain .clean a b s

/-- `sys.dflush` (R77): clean, then discard. -/
def execSysDflush (a b : BitVec 5) (s : State) : Out := maintain .flush a b s

end Sys2Proof.Machine
end

