-- ==== Sys2Proof/Machine/VPerm.lean ====
section
/-! DEFINITION. Rearrangement, reductions, scans and selection: vperm, vred, vscan and vsel (R145 to R162). -/

namespace Sys2Proof.Machine

/-! ## Die slices (R145) -/

/-- The die on which span position `q` lies (R277). -/
def Hart.dieAt (h : Hart) (q : Nat) : Nat := h.span.getD q 0 / 256

/-- The slice of a die: its first element and how many of its elements lie below VL. -/
def Hart.sliceOn (h : Hart) (c : Vc) (die : Nat) : Nat × Nat :=
  let qs := (List.range c.cores).filter fun q => h.dieAt q == die
  let b := qs.headD 0 * c.share
  (b, min c.vl (b + qs.length * c.share) - b)

/-- The slice of element `i`. -/
def Hart.sliceOf (h : Hart) (c : Vc) (i : Nat) : Nat × Nat := h.sliceOn c (h.dieAt (i / c.share))

/-- The span lies on one die. -/
def Hart.oneDie (h : Hart) : Bool := h.span.all fun k => k / 256 == h.dieAt 0

/-- Every element counts as active: the function ignores the guard. -/
def everyElement (_ : Nat) : Bool := true

/-! ## Functions that complete whole (R147) -/

/-- Read the sources whole: a missing stream element makes the instruction wait; a cause at element `i` traps at VSTART,
or trims there before the function runs (R203, entry 64). `k` gets the context with VL as it then is. An element that the function
does not use raises nothing. -/
def wholeRead (s : State) (c : Vc) (rs : List Nat) (srcs : List Source) (used : Nat → Bool) (k : State → Vc → State) : State :=
  match (withinSpan s c).or ((List.range c.vl).findSome? (heldBack srcs) |>.map fun hold s => hold (markWhole s)) with
  | some hold => hold s
  | none =>
    let at_ (i : Nat) : Option (Nat × BitVec 8 × Nat) :=
      if used i then (srcs.findSome? fun t => t.cause i).map fun x => (i, x) else none
    match (List.range (c.vl - c.start)).findSome? fun j => at_ (c.start + j) with
    | none => vectorRetire (k (s.setH (s.h.pop rs c.vl false)) c)
    | some (i, cause, ea) =>
      if i = c.start then trapEntry (s.setH (s.h.pop rs 0 true)) cause s.h.pc s.h.vstart (BitVec.ofNat 64 ea)
      else vectorRetire (k (trimAt (s.setH (s.h.pop rs i true)) i cause) { c with vl := i })

/-- The registers of a whole-vector function: groups at SEW. -/
def Vc.groupsOk (c : Vc) (h : Hart) (srcs : List (BitVec 5)) : Bool :=
  alignedTo c.grp srcs && srcs.all fun r => h.readOk c r.toNat c.grp c.sew

/-- A destination group at SEW. -/
def Vc.destOk (c : Vc) (h : Hart) (d : BitVec 5) : Bool := alignedTo c.grp [d] && h.writeOk d.toNat c.grp

/-- Write a group from sources read whole. `f` gives the value of active element `i`, after `n` active ones, from the
elements of the sources by number and index; none leaves it unchanged. -/
def wholeGroup (s : State) (m : BitVec 2) (typeOk : Vc → Bool) (srcs : List (BitVec 5)) (d : BitVec 5) (beats : Nat)
    (f : Vc → (Nat → Nat → Nat) → Nat → Nat → Option Nat) : Out :=
  let h := s.h
  let c := h.vc m
  let rs := srcs.map (·.toNat)
  let ss := rs.map fun r => h.source c r c.sew
  let slots := h.slotsOf d.toNat c.grp
  .next (vectorGuard s c (typeOk c && c.groupsOk h srcs && c.destOk h d && c.predOk false)
    (claimed s c slots [] <| wholeRead s c rs ss everyElement fun s c =>
      let active := h.active c
      let r := runElements s c active false fun r i => Elt.ok (f c (elementOf ss) r.count i) 0
      let h1 := (s.h.marked c slots []).writeGroup c active d.toNat c.sew c.vl
        (r.vals.filterMap fun v => v.2.map fun x => (v.1, x))
      laneEnd (s.setH h1) c active c.sew beats 0 1 c.vl))

/-! ## vperm -/

/-- vperm takes every type (R149). -/
def anyType (_ : Vc) : Bool := true

/-- The local element of source 0 at `t`, or 0 beyond the slice. -/
def localOr (b n : Nat) (get : Nat → Nat → Nat) (t : Nat) : Nat := if t < n then get 0 (b + t) else 0

/-- `vperm.perm` (R150). -/
def execVpermPerm (d a b : BitVec 5) (_x _y : Bool) (m : BitVec 2) (s : State) : Out :=
  wholeGroup s m anyType [a, b] d 2 fun c get _ i =>
    let (b0, n) := s.h.sliceOf c i
    some (localOr b0 n get (get 1 i))

/-- `vperm.slup` (R150). -/
def execVpermSlup (d a b : BitVec 5) (_x : Bool) (m : BitVec 2) (s : State) : Out :=
  let k := (s.h.rx b).toNat
  wholeGroup s m anyType [a] d 1 fun c get _ i =>
    let (b0, _) := s.h.sliceOf c i
    if k ≤ i - b0 then some (get 0 (i - k)) else none

/-- `vperm.sldn` (R150). -/
def execVpermSldn (d a b : BitVec 5) (_x : Bool) (m : BitVec 2) (s : State) : Out :=
  let k := (s.h.rx b).toNat
  wholeGroup s m anyType [a] d 1 fun c get _ i =>
    let (b0, n) := s.h.sliceOf c i
    some (localOr b0 n get (i - b0 + k))

/-- The low SEW bits of an x register, for a whole-vector function. -/
def Vc.low (c : Vc) (s : State) (r : BitVec 5) : Nat := (s.h.rx r).toNat % 2 ^ c.sew

/-- `vperm.sl1up` (R150). -/
def execVpermSl1up (d a b : BitVec 5) (_x : Bool) (m : BitVec 2) (s : State) : Out :=
  wholeGroup s m anyType [a] d 1 fun c get _ i =>
    let (b0, _) := s.h.sliceOf c i
    some (if b0 < i then get 0 (i - 1) else c.low s b)

/-- `vperm.sl1dn` (R150). -/
def execVpermSl1dn (d a b : BitVec 5) (_x : Bool) (m : BitVec 2) (s : State) : Out :=
  wholeGroup s m anyType [a] d 1 fun c get _ i =>
    let (b0, n) := s.h.sliceOf c i
    some (if i - b0 + 1 < n then get 0 (i + 1) else c.low s b)

/-- `vperm.rshp` (R151). -/
def execVpermRshp (d a b : BitVec 5) (_x _y : Bool) (m : BitVec 2) (s : State) : Out :=
  wholeGroup s m anyType [a, b] d 2 fun c get _ i =>
    let (b0, n) := s.h.sliceOf c i
    let cols := max 1 (get 1 b0)
    let rows := ceilDiv n cols
    let j := i - b0
    some (localOr b0 n get (j % rows * cols + j / rows))

/-- `vperm.xch` (R152). -/
def execVpermXch (d a b : BitVec 5) (_x _y : Bool) (m : BitVec 2) (s : State) : Out :=
  let h := s.h
  let dies := 2 ^ (h.task.start.span.toNat / 16 % 4)
  wholeGroup s m anyType [a, b] d 4 fun c get _ i =>
    let die := h.dieAt (i / c.share)
    let (b0, _) := h.sliceOn c die
    let mask := get 1 b0 % dies
    let (b1, n1) := h.sliceOn c (h.dieAt 0 + ((die - h.dieAt 0) ^^^ mask))
    some (localOr b1 n1 get (i - b0))

/-- `vperm.bcast` (R150). -/
def execVpermBcast (d b : BitVec 5) (m : BitVec 2) (s : State) : Out :=
  wholeGroup s m anyType [] d 1 fun c _ _ _ => some (c.low s b)

/-- A result of `w` bits in an x register: sign-extended under FAM 0, else zero-extended (R150, R153). -/
def Vc.extend (c : Vc) (v : Nat) : Word := BitVec.ofNat 64 (if c.fam = 0 then wrap (signed v c.sew) 64 else v)

/-- One beat on each span core, and the checks of the lane that holds element `t` (R148, R331). -/
def chargeOne (s : State) (c : Vc) (t : Nat) : State :=
  startChecks (chargeBeats s (fun _ => 1) (fun _ => 0)) { c with start := 0 } (· == t) c.sew c.vl

/-- `vperm.ext` (R150). -/
def execVpermExt (d a b : BitVec 5) (_x : Bool) (m : BitVec 2) (s : State) : Out :=
  let h := s.h
  let c := { h.vc m with start := 0 }
  let src := h.source c a.toNat c.sew
  let t := (h.rx b).toNat
  .next (vectorGuard s c (c.groupsOk h [a])
    (wholeRead s c [a.toNat] [src] (· == t) fun s c =>
      chargeOne (s.setH (s.h.wx d (c.extend (if t < c.vl then src.get t else 0)))) c t))

/-- `vperm.ins` (R150): only the register that holds element t is written. -/
def execVpermIns (d a b : BitVec 5) (m : BitVec 2) (s : State) : Out :=
  let h := s.h
  let c := { h.vc m with start := 0, tp := false }
  let t := (h.rx b).toNat
  let slots := if t < c.vl then [h.files.vslot (c.place d.toNat c.sew t).2.1] else []
  .next (vectorGuard s c (c.destOk h d)
    (match withinSpan s c with
    | some hold => hold s
    | none => claimed s c slots [] <|
      let h1 := if t < c.vl then (h.marked c slots []).putElement c d.toNat c.sew t (c.low s a) else h
      vectorRetire (chargeOne (s.setH h1) c t)))

/-! ## vred -/

/-- The charge of a reduction or a scan (R148). DESIGN CHOICE (entry 87): a reduction's destination is an x register, and its groups are
counted by SEW. -/
def foldEnd (s : State) (c : Vc) (active : Nat → Bool) (e : Nat) : State :=
  laneEnd s c active c.sew 1 (if 1 < c.cores then 4 else 0) 1 e

/-- The active elements of [VSTART, e), lowest first. -/
def Vc.activeList (c : Vc) (active : Nat → Bool) (e : Nat) : List Nat :=
  ((List.range (e - c.start)).map fun j => c.start + j).filter active

/-- An integer reduction (R153, R154): `f` folds the carried value and the active elements. -/
def reduceInt (s : State) (d a b : BitVec 5) (m : BitVec 2) (f : Vc → Nat → List Nat → Nat) : Out :=
  let h := s.h
  let c := h.vc m
  let src := h.source c a.toNat c.sew
  .next (vectorGuard s c (c.intType && c.groupsOk h [a] && c.predOk false)
    (wholeRead s c [a.toNat] [src] (h.active c) fun s c =>
      let active := h.active c
      let v := f c (c.low s b) ((c.activeList active c.vl).map src.get)
      foldEnd (s.setH (s.h.wx d (c.extend v))) c active c.vl))

/-- `vred.sum` (R154). -/
def execVredSum (d a b : BitVec 5) (_x : Bool) (m : BitVec 2) (s : State) : Out :=
  reduceInt s d a b m fun c v l => c.result (l.foldl (fun t x => t + c.int x) (c.int v))

/-- `vred.min` (R154). -/
def execVredMin (d a b : BitVec 5) (_x : Bool) (m : BitVec 2) (s : State) : Out :=
  reduceInt s d a b m fun c v l => l.foldl (laneIMin c) v

/-- `vred.max` (R154). -/
def execVredMax (d a b : BitVec 5) (_x : Bool) (m : BitVec 2) (s : State) : Out :=
  reduceInt s d a b m fun c v l => l.foldl (laneIMax c) v

/-- `vred.minu` (R154). -/
def execVredMinu (d a b : BitVec 5) (_x : Bool) (m : BitVec 2) (s : State) : Out :=
  reduceInt s d a b m fun _ v l => l.foldl min v

/-- `vred.maxu` (R154). -/
def execVredMaxu (d a b : BitVec 5) (_x : Bool) (m : BitVec 2) (s : State) : Out :=
  reduceInt s d a b m fun _ v l => l.foldl max v

/-- `vred.and` (R154). -/
def execVredAnd (d a b : BitVec 5) (_x : Bool) (m : BitVec 2) (s : State) : Out :=
  reduceInt s d a b m fun _ v l => l.foldl (· &&& ·) v

/-- `vred.or` (R154). -/
def execVredOr (d a b : BitVec 5) (_x : Bool) (m : BitVec 2) (s : State) : Out :=
  reduceInt s d a b m fun _ v l => l.foldl (· ||| ·) v

/-- `vred.xor` (R154). -/
def execVredXor (d a b : BitVec 5) (_x : Bool) (m : BitVec 2) (s : State) : Out :=
  reduceInt s d a b m fun _ v l => l.foldl (· ^^^ ·) v

/-- RM 5 rounds as RNE in reductions and scans (R155, R157). -/
def Vc.foldRm (c : Vc) : Nat := if c.rm = 5 then 0 else c.rm

/-- Flags attributed to elements. -/
abbrev Attributed := List (Nat × Flags)

/-- T(s, s + n) of R155: the value with the lowest active element, and the attributed flags. `leaf` gives the active
elements. -/
def sumTree (f : Fmt) (rm : Nat) (leaf : Nat → Option Nat) : Nat → Nat → Nat → Option (Nat × Nat) × Attributed
  | 0, _, _ => (none, [])
  | fuel + 1, s, n =>
    if n = 0 then (none, [])
    else if n = 1 then
      match leaf s with
      | none => (none, [])
      | some v =>
        if (f.value v).isSignalling then (some (f.canonNan, s), [(s, Flags.nv)]) else (some (v, s), [])
    else
      let p := 2 ^ (n - 1).log2
      let (l, fl) := sumTree f rm leaf fuel s p
      let (r, fr) := sumTree f rm leaf fuel (s + p) (n - p)
      match l, r with
      | some (x, i), some (y, j) =>
        let (v, fv) := addVal f rm (f.value x) (f.value y) 0
        (some (v, i), fl ++ fr ++ [(j, fv)])
      | some x, none => (some x, fl)
      | none, y => (y, fr)

/-- Depth of the tree that holds any VL. -/
def treeDepth : Nat := 80

/-- `fsum` over the active elements `l`, all in [start, e) (R155). -/
def sumOver (c : Vc) (get : Nat → Nat) (v : Nat) (l : List Nat) (e : Nat) : Nat × Attributed :=
  match sumTree c.fmt c.foldRm (fun i => if i ∈ l then some (get i) else none) treeDepth c.start (e - c.start) with
  | (none, fl) => (v, fl)
  | (some (t, _), fl) =>
    let (r, fr) := addVal c.fmt c.foldRm (c.fmt.value v) (c.fmt.value t) 0
    (r, fl ++ [(l.getLastD 0, fr)])

/-- `fmin` and `fmax` over the active elements `l` (R154). -/
def minMaxOver (isMax : Bool) (c : Vc) (get : Nat → Nat) (v : Nat) (l : List Nat) (_e : Nat) : Nat × Attributed :=
  l.foldl (fun acc i => let (r, fl) := minMax c.fmt isMax acc.1 (get i); (r, acc.2 ++ [(i, fl)])) (v, [])

/-- The flags attributed to element `i`. -/
def flagsAt (at_ : Attributed) (i : Nat) : Flags := at_.foldl (fun f a => if a.1 = i then f ||| a.2 else f) 0

/-- The lowest element with an enabled flag, with its cause (R156). -/
def lowestFlag (at_ : Attributed) (ftrim : Flags) : Option (Nat × BitVec 8) :=
  (at_.foldl (fun acc a =>
      if a.2 &&& ftrim = 0 then acc
      else match acc with
        | some i => some (min i a.1)
        | none => some a.1) none).bind fun i => (flagCause (flagsAt at_ i) ftrim).map fun c => (i, c)

/-- How a float reduction ends: the range end, the result with its flags, and the cause that cut it. -/
structure Reduced where
  e : Nat
  value : Nat
  at_ : Attributed
  cause : Option (BitVec 8 × Nat)

/-- The loop of R156 from range end `e`; `meets` is the element at which a scheduling cause waits. Each round's range is
shorter than the one before. -/
def retryReduction (comp : Nat → Nat × Attributed) (ftrim : Flags) (meets : Option (Nat × BitVec 8)) :
    Nat → Nat → Option (BitVec 8 × Nat) → Reduced
  | 0, e, cause => ⟨e, (comp e).1, [], cause⟩
  | fuel + 1, e, cause =>
    let (v, at_) := comp e
    let cut := meets.filter fun i => decide (i.1 < e)
    match lowestFlag at_ ftrim, cut with
    | some (i, k), some (p, j) =>
      if i ≤ p then retryReduction comp ftrim meets fuel i (some (k, i))
      else retryReduction comp ftrim meets fuel p (some (j, p))
    | some (i, k), none => retryReduction comp ftrim meets fuel i (some (k, i))
    | none, some (p, j) => retryReduction comp ftrim meets fuel p (some (j, p))
    | none, none => ⟨e, v, at_, cause⟩

/-- A float reduction (R153 to R156). -/
def reduceFloat (s : State) (d a b : BitVec 5) (m : BitVec 2)
    (f : Vc → (Nat → Nat) → Nat → List Nat → Nat → Nat × Attributed) : Out :=
  let h := s.h
  let c := h.vc m
  let rs := [a.toNat]
  let src := h.source c a.toNat c.sew
  .next (vectorGuard s c (c.floatType && c.groupsOk h [a] && c.predOk false)
    (match (List.range c.vl).findSome? (heldBack [src]) with
    | some hold => hold s
    | none =>
      let active := h.active c
      let first := (List.range (c.vl - c.start)).findSome? fun j =>
        if active (c.start + j) then (src.cause (c.start + j)).map fun x => (c.start + j, x) else none
      let e0 := match first with
        | some x => x.1
        | none => max c.vl c.start
      let meets := (h.cut c).filter fun i => decide (c.start ≤ i.1)
      let r := retryReduction (fun e => f c src.get (c.low s b) (c.activeList active e) e) h.ftrim meets
        (e0 + 2 - c.start) e0 (first.map (·.2))
      let stop (s : State) (cause : BitVec 8) (tval : Nat) : State :=
        trapEntry (s.setH (s.h.pop rs 0 true)) cause s.h.pc s.h.vstart (BitVec.ofNat 64 tval)
      let finish (s : State) : State :=
        let fl := r.at_.foldl (fun x y => x ||| y.2) 0
        vectorRetire (foldEnd (s.setH ((s.h.raise fl).wx d (BitVec.ofNat 64 r.value))) c active r.e)
      match r.cause with
      | some (cause, tval) =>
        if r.e = c.start ∧ isFault cause = true then stop s cause tval
        else finish (trimAt (s.setH (s.h.pop rs r.e true)) r.e cause)
      | none => finish (s.setH (s.h.pop rs c.vl false))))

/-- `vred.fsum` (R155). -/
def execVredFsum (d a b : BitVec 5) (_x : Bool) (m : BitVec 2) (s : State) : Out := reduceFloat s d a b m sumOver

/-- `vred.fmin` (R154). -/
def execVredFmin (d a b : BitVec 5) (_x : Bool) (m : BitVec 2) (s : State) : Out := reduceFloat s d a b m (minMaxOver false)

/-- `vred.fmax` (R154). -/
def execVredFmax (d a b : BitVec 5) (_x : Bool) (m : BitVec 2) (s : State) : Out := reduceFloat s d a b m (minMaxOver true)

/-! ## vscan -/

/-- A scan (R157): the running value goes through the active elements; element `i` takes it before the step under EX, else
after. `float` functions trim. -/
def scan (s : State) (d a b : BitVec 5) (m : BitVec 2) (ex float : Bool) (f : Vc → Nat → Nat → Nat × Flags) : Out :=
  let h := s.h
  let c := h.vc m
  let src := h.source c a.toNat c.sew
  let slots := h.slotsOf d.toNat c.grp
  let active := h.active c
  let c0 := c.low s b
  let runOf (r : Run (Nat × Nat)) : Nat := (r.vals.head?.map fun v => v.2.2).getD c0
  .next (vectorGuard s c ((if float then c.floatType else c.intType) && c.groupsOk h [a] && c.destOk h d && c.predOk false)
    (claimed s c slots [] <|
      let r := runElements s c active float (fromSources [src] fun r i =>
        let (v, fl) := f c (runOf r) (src.get i)
        ((if ex then runOf r else v, v), fl))
      endRun s c [a.toNat] r fun s e =>
        let h1 := (s.h.marked c slots []).writeGroup c active d.toNat c.sew e (r.vals.map fun v => (v.1, v.2.1))
        let w := if float then BitVec.ofNat 64 (runOf r) else c.extend (runOf r)
        foldEnd (s.setH (h1.wx b w)) c active e))

/-- `vscan.sum` (R157). -/
def execVscanSum (d a b : BitVec 5) (_x : Bool) (m : BitVec 2) (ex : Bool) (s : State) : Out :=
  scan s d a b m ex false fun c r v => (c.result (c.int r + c.int v), 0)

/-- `vscan.fsum` (R157). DESIGN CHOICE (entry 74): under RM 5, which rounds here as RNE, it takes no draw. -/
def execVscanFsum (d a b : BitVec 5) (_x : Bool) (m : BitVec 2) (ex : Bool) (s : State) : Out :=
  scan s d a b m ex true fun c r v => addVal c.fmt c.foldRm (c.fmt.value r) (c.fmt.value v) 0

/-- `vscan.min` (R157): operands as FAM reads them. -/
def execVscanMin (d a b : BitVec 5) (_x : Bool) (m : BitVec 2) (ex : Bool) (s : State) : Out :=
  scan s d a b m ex false fun c r v => (if c.int v < c.int r then v else r, 0)

/-- `vscan.max` (R157). -/
def execVscanMax (d a b : BitVec 5) (_x : Bool) (m : BitVec 2) (ex : Bool) (s : State) : Out :=
  scan s d a b m ex false fun c r v => (if c.int r < c.int v then v else r, 0)

/-- `vscan.fmin` (R157). -/
def execVscanFmin (d a b : BitVec 5) (_x : Bool) (m : BitVec 2) (ex : Bool) (s : State) : Out :=
  scan s d a b m ex true fun c r v => minMax c.fmt false r v

/-- `vscan.fmax` (R157). -/
def execVscanFmax (d a b : BitVec 5) (_x : Bool) (m : BitVec 2) (ex : Bool) (s : State) : Out :=
  scan s d a b m ex true fun c r v => minMax c.fmt true r v

/-! ## vsel -/

/-- SEW of at least 8 (R158). -/
def Vc.bytes (c : Vc) : Bool := decide (8 ≤ c.sew)

/-- Write `vals` to the group at `d` from element `c.start` on, with the tail from there (R159, R113). -/
def packed (s : State) (c : Vc) (slots : List Nat) (d : BitVec 5) (vals : List Nat) (e : Nat) : State :=
  let h := vals.zipIdx.foldl (fun h v => h.putElement c d.toNat c.sew (c.start + v.2) v.1) (s.h.marked c slots [])
  s.setH (h.zeroTail c d.toNat c.sew (max e c.start))

/-- `vsel.cmpr` (R159). -/
def execVselCmpr (d a : BitVec 5) (_x : Bool) (m : BitVec 2) (s : State) : Out :=
  let h := s.h
  let c := h.vc m
  let src := h.source c a.toNat c.sew
  let slots := h.slotsOf d.toNat c.grp
  .next (vectorGuard s c (c.bytes && h.oneDie && c.groupsOk h [a] && c.destOk h d && c.predOk false)
    (claimed s c slots [] <| wholeRead s c [a.toNat] [src] (h.active c) fun s c =>
      let active := h.active c
      let vals := (c.activeList active c.vl).map src.get
      let vl := if c.start < c.vl then c.start + vals.length else c.vl
      laneEnd ((packed s c slots d vals vl).setVl vl) c active c.sew 1 0 1 c.vl))

/-- `vsel.expd` (R159). -/
def execVselExpd (d a : BitVec 5) (_x : Bool) (m : BitVec 2) (s : State) : Out :=
  wholeGroup s m (fun c => c.bytes && s.h.oneDie) [a] d 1 fun c get n _ => some (get 0 (c.start + n))

/-- `vsel.iota` (R159). -/
def execVselIota (d : BitVec 5) (m : BitVec 2) (s : State) : Out :=
  wholeGroup s m Vc.bytes [] d 1 fun c _ _ i => some (i % 2 ^ c.sew)

/-- `x` ranks strictly below `y` (R160). -/
def Vc.ranksBelow (c : Vc) (x y : Nat) : Bool :=
  match c.fam with
  | 0 => decide (signed x c.sew < signed y c.sew)
  | 1 => decide (x < y)
  | _ =>
    let a := c.fmt.value x
    let b := c.fmt.value y
    (b.isNan && !a.isNan) || a.lt b

/-- Insert an element behind every one that does not rank below it. -/
def insertRank (below : Nat → Nat → Bool) (x : Nat) : List Nat → List Nat
  | [] => [x]
  | y :: l => if below y x then x :: y :: l else y :: insertRank below x l

/-- The elements of `l` in descending rank, the lower index first among equals (R160). -/
def ranked (below : Nat → Nat → Bool) (l : List Nat) : List Nat := l.foldl (fun acc x => insertRank below x acc) []

/-- The types of `topk` and `topkm` (R158). -/
def Vc.topType (c : Vc) : Bool := c.bytes && (decide (c.fam < 2) || c.floatType)

/-- The choice of `topk` and `topkm` (R160): the loop that finds where it stops, and then `put` with the chosen elements and
the achieved end. Its beats are charged by groups of the destination's element width `w` (R148). -/
def topOf (s : State) (c : Vc) (a b : BitVec 5) (w : Nat) (put : State → List Nat → (Nat → Nat) → Nat → State) : State :=
  let h := s.h
  let src := h.source c a.toNat c.sew
  let active := h.active c
  let r := runElements s c active (c.fam == 2) (fromSources [src] fun _ i =>
    (src.get i, if c.fam == 2 && (c.fmt.value (src.get i)).isSignalling then Flags.nv else 0))
  endRun s c [a.toNat] r fun s e =>
    let order := ranked (fun x y => c.ranksBelow (src.get x) (src.get y)) (c.activeList active e)
    startChecks (charge (put s (order.take (h.rx b).toNat) src.get e) c active w 4 0 1 e) c active c.sew e

/-- `vsel.topk` (R160). -/
def execVselTopk (d a b : BitVec 5) (_x : Bool) (m : BitVec 2) (s : State) : Out :=
  let h := s.h
  let c := h.vc m
  let slots := h.slotsOf d.toNat c.grp
  .next (vectorGuard s c (c.topType && h.oneDie && c.groupsOk h [a] && c.destOk h d && c.predOk false)
    (claimed s c slots [] <| topOf s c a b c.sew fun s l get _ =>
      let vl := if c.start < c.vl then c.start + l.length else c.vl
      (packed s c slots d (l.map get) vl).setVl vl))

/-- `vsel.topkm` (R160). -/
def execVselTopkm (d : BitVec 4) (a b : BitVec 5) (_x : Bool) (m : BitVec 2) (s : State) : Out :=
  let h := s.h
  let c := h.vc m
  let k := d.toNat
  .next (vectorGuard s c (c.topType && h.oneDie && c.groupsOk h [a] && c.predOk true)
    (claimed s c [] (h.predSlots k) <| topOf s c a b 1 fun s l _ e =>
      let active := h.active c
      s.setH ((s.h.marked c [] (h.predSlots k)).writePred c active k e
        ((c.activeList active e).map fun i => (i, decide (i ∈ l))))))

/-- The merge of R161, by `fuel` steps over the rest of both lists. -/
def intersect (umax : Nat) : Nat → List Nat → List Nat → List Nat
  | 0, _, _ => []
  | fuel + 1, x :: xs, y :: ys =>
    if x = umax ∨ y = umax then []
    else if x < y then intersect umax fuel xs (y :: ys)
    else if y < x then intersect umax fuel (x :: xs) ys
    else x :: intersect umax fuel xs ys
  | _ + 1, _, _ => []

/-- A function of two whole lists that ignores the guard and VSTART (R158): `f` gives the elements of D and the new VL. -/
def listOp (s : State) (d a b : BitVec 5) (m : BitVec 2) (typeOk : Vc → Bool) (f : Vc → List Nat → List Nat → List Nat × Nat) : Out :=
  let h := s.h
  let c := { h.vc m with start := 0 }
  let ss := [h.source c a.toNat c.sew, h.source c b.toNat c.sew]
  let slots := h.slotsOf d.toNat c.grp
  .next (vectorGuard s c (c.bytes && typeOk c && h.oneDie && c.groupsOk h [a, b] && c.destOk h d)
    (claimed s c slots [] <| wholeRead s c [a.toNat, b.toNat] ss everyElement fun s c =>
      let (vals, vl) := f c ((List.range c.vl).map (elementOf ss 0)) ((List.range c.vl).map (elementOf ss 1))
      laneEnd ((packed s c slots d vals vl).setVl vl) c everyElement c.sew 2 0 1 c.vl))

/-- `vsel.isect` (R161). -/
def execVselIsect (d a b : BitVec 5) (_x _y : Bool) (m : BitVec 2) (s : State) : Out :=
  listOp s d a b m anyType fun c l r =>
    let o := intersect (2 ^ c.sew - 1) (l.length + r.length) l r
    (o, o.length)

/-- The boundaries of R162: `rows` is rowptr, `b0` the part count asked for. DESIGN CHOICE (entry 85): the rule gives no result where a
row pointer lies below the first; every difference is taken modulo 2^SEW. -/
def splitRows (sew : Nat) (rows : List Nat) (b0 : Nat) : List Nat :=
  let n := rows.length - 1
  let p := min (max 1 b0) n
  let off (r : Nat) : Nat := (rows.getD r 0 + 2 ^ sew - rows.getD 0 0) % 2 ^ sew
  let z := off n
  let part (r : Nat) : Nat := ((List.range p).filter fun q => decide (q * z / p ≤ off r)).length - 1
  let parts := (List.range n).map part
  ((List.range p).map fun q => (parts.findIdx? fun t => decide (q ≤ t)).getD n) ++ [n]

/-- `vsel.eqsplit` (R162). -/
def execVselEqsplit (d a b : BitVec 5) (_x _y : Bool) (m : BitVec 2) (s : State) : Out :=
  listOp s d a b m (fun c => c.sew == 32 || c.sew == 64) fun c l r =>
    if l.length ≤ 1 then (l.map fun _ => 0, l.length)
    else
      let o := splitRows c.sew l (r.headD 0)
      (o, o.length)

end Sys2Proof.Machine
end

