-- ==== Sys2Proof/Machine/Dispatch.lean ====
section
/-! DEFINITION. One arm for every row of the opcode table: each calls that row's meaning. -/

namespace Sys2Proof.Machine

def exec (i : Instr) (s : State) : Host.Outcome State Fault Refusal :=
  match i with
  | .sopAdd d a b => Sys2Proof.Machine.execSopAdd d a b s
  | .sopSub d a b => Sys2Proof.Machine.execSopSub d a b s
  | .sopAnd d a b => Sys2Proof.Machine.execSopAnd d a b s
  | .sopOr d a b => Sys2Proof.Machine.execSopOr d a b s
  | .sopXor d a b => Sys2Proof.Machine.execSopXor d a b s
  | .sopAndn d a b => Sys2Proof.Machine.execSopAndn d a b s
  | .sopSll d a b => Sys2Proof.Machine.execSopSll d a b s
  | .sopSrl d a b => Sys2Proof.Machine.execSopSrl d a b s
  | .sopSra d a b => Sys2Proof.Machine.execSopSra d a b s
  | .sopSlt d a b => Sys2Proof.Machine.execSopSlt d a b s
  | .sopSltu d a b => Sys2Proof.Machine.execSopSltu d a b s
  | .sopMin d a b => Sys2Proof.Machine.execSopMin d a b s
  | .sopMax d a b => Sys2Proof.Machine.execSopMax d a b s
  | .sopMinu d a b => Sys2Proof.Machine.execSopMinu d a b s
  | .sopMaxu d a b => Sys2Proof.Machine.execSopMaxu d a b s
  | .sopMul d a b => Sys2Proof.Machine.execSopMul d a b s
  | .sopMulh d a b => Sys2Proof.Machine.execSopMulh d a b s
  | .sopMulhu d a b => Sys2Proof.Machine.execSopMulhu d a b s
  | .sopDiv d a b => Sys2Proof.Machine.execSopDiv d a b s
  | .sopDivu d a b => Sys2Proof.Machine.execSopDivu d a b s
  | .sopRem d a b => Sys2Proof.Machine.execSopRem d a b s
  | .sopRemu d a b => Sys2Proof.Machine.execSopRemu d a b s
  | .sopClz d a => Sys2Proof.Machine.execSopClz d a s
  | .sopCtz d a => Sys2Proof.Machine.execSopCtz d a s
  | .sopPop d a => Sys2Proof.Machine.execSopPop d a s
  | .sopiAddi d a imm => Sys2Proof.Machine.execSopiAddi d a imm s
  | .sopiAndi d a imm => Sys2Proof.Machine.execSopiAndi d a imm s
  | .sopiOri d a imm => Sys2Proof.Machine.execSopiOri d a imm s
  | .sopiXori d a imm => Sys2Proof.Machine.execSopiXori d a imm s
  | .sopiSlti d a imm => Sys2Proof.Machine.execSopiSlti d a imm s
  | .sopiSltiu d a imm => Sys2Proof.Machine.execSopiSltiu d a imm s
  | .sopiSlli d a imm => Sys2Proof.Machine.execSopiSlli d a imm s
  | .sopiSrli d a imm => Sys2Proof.Machine.execSopiSrli d a imm s
  | .sopiSrai d a imm => Sys2Proof.Machine.execSopiSrai d a imm s
  | .sopiMuli d a imm => Sys2Proof.Machine.execSopiMuli d a imm s
  | .lui d imm => Sys2Proof.Machine.execLui d imm s
  | .ldB d a imm => Sys2Proof.Machine.execLdB d a imm s
  | .ldBu d a imm => Sys2Proof.Machine.execLdBu d a imm s
  | .ldH d a imm => Sys2Proof.Machine.execLdH d a imm s
  | .ldHu d a imm => Sys2Proof.Machine.execLdHu d a imm s
  | .ldW d a imm => Sys2Proof.Machine.execLdW d a imm s
  | .ldWu d a imm => Sys2Proof.Machine.execLdWu d a imm s
  | .ldD d a imm => Sys2Proof.Machine.execLdD d a imm s
  | .ldLl d a imm => Sys2Proof.Machine.execLdLl d a imm s
  | .ldAcq d a p => Sys2Proof.Machine.execLdAcq d a p s
  | .stB b a imm => Sys2Proof.Machine.execStB b a imm s
  | .stH b a imm => Sys2Proof.Machine.execStH b a imm s
  | .stW b a imm => Sys2Proof.Machine.execStW b a imm s
  | .stD b a imm => Sys2Proof.Machine.execStD b a imm s
  | .stRel b a p => Sys2Proof.Machine.execStRel b a p s
  | .brEq a b imm => Sys2Proof.Machine.execBrEq a b imm s
  | .brNe a b imm => Sys2Proof.Machine.execBrNe a b imm s
  | .brLt a b imm => Sys2Proof.Machine.execBrLt a b imm s
  | .brGe a b imm => Sys2Proof.Machine.execBrGe a b imm s
  | .brLtu a b imm => Sys2Proof.Machine.execBrLtu a b imm s
  | .brGeu a b imm => Sys2Proof.Machine.execBrGeu a b imm s
  | .jal d imm => Sys2Proof.Machine.execJal d imm s
  | .jalr d a imm => Sys2Proof.Machine.execJalr d a imm s
  | .ctlCrr d imm => Sys2Proof.Machine.execCtlCrr d imm s
  | .ctlCrw d a imm => Sys2Proof.Machine.execCtlCrw d a imm s
  | .ctlCrs d a imm => Sys2Proof.Machine.execCtlCrs d a imm s
  | .ctlCrc d a imm => Sys2Proof.Machine.execCtlCrc d a imm s
  | .sysSvc => Sys2Proof.Machine.execSysSvc s
  | .sysTret => Sys2Proof.Machine.execSysTret s
  | .sysIdle => Sys2Proof.Machine.execSysIdle s
  | .sysFence k p => Sys2Proof.Machine.execSysFence k p s
  | .sysBrk => Sys2Proof.Machine.execSysBrk s
  | .sysIpf a b => Sys2Proof.Machine.execSysIpf a b s
  | .sysScommit => Sys2Proof.Machine.execSysScommit s
  | .sysDinv a b => Sys2Proof.Machine.execSysDinv a b s
  | .sysDclean a b => Sys2Proof.Machine.execSysDclean a b s
  | .sysDflush a b => Sys2Proof.Machine.execSysDflush a b s
  | .brot a b imm => Sys2Proof.Machine.execBrot a b imm s
  | .setvl d a f imm => Sys2Proof.Machine.execSetvl d a f imm s
  | .mdset g n => Sys2Proof.Machine.execMdset g n s
  | .samoLl d a p q r => Sys2Proof.Machine.execSamoLl d a p q r s
  | .samoSc d a b p q r => Sys2Proof.Machine.execSamoSc d a b p q r s
  | .samoSwap d a b p q r => Sys2Proof.Machine.execSamoSwap d a b p q r s
  | .samoFadd d a b p q r => Sys2Proof.Machine.execSamoFadd d a b p q r s
  | .samoFmin d a b p q r => Sys2Proof.Machine.execSamoFmin d a b p q r s
  | .samoFmax d a b p q r => Sys2Proof.Machine.execSamoFmax d a b p q r s
  | .samoFand d a b p q r => Sys2Proof.Machine.execSamoFand d a b p q r s
  | .samoFor d a b p q r => Sys2Proof.Machine.execSamoFor d a b p q r s
  | .valuAdd d a b x y m => Sys2Proof.Machine.execValuAdd d a b x y m s
  | .valuSub d a b x y m => Sys2Proof.Machine.execValuSub d a b x y m s
  | .valuRsub d a b x y m => Sys2Proof.Machine.execValuRsub d a b x y m s
  | .valuAnd d a b x y m => Sys2Proof.Machine.execValuAnd d a b x y m s
  | .valuOr d a b x y m => Sys2Proof.Machine.execValuOr d a b x y m s
  | .valuXor d a b x y m => Sys2Proof.Machine.execValuXor d a b x y m s
  | .valuAndn d a b x y m => Sys2Proof.Machine.execValuAndn d a b x y m s
  | .valuSll d a b x y m => Sys2Proof.Machine.execValuSll d a b x y m s
  | .valuSrl d a b x y m => Sys2Proof.Machine.execValuSrl d a b x y m s
  | .valuSra d a b x y m => Sys2Proof.Machine.execValuSra d a b x y m s
  | .valuMin d a b x y m => Sys2Proof.Machine.execValuMin d a b x y m s
  | .valuMax d a b x y m => Sys2Proof.Machine.execValuMax d a b x y m s
  | .valuMinu d a b x y m => Sys2Proof.Machine.execValuMinu d a b x y m s
  | .valuMaxu d a b x y m => Sys2Proof.Machine.execValuMaxu d a b x y m s
  | .valuMul d a b x y m => Sys2Proof.Machine.execValuMul d a b x y m s
  | .valuMulh d a b x y m => Sys2Proof.Machine.execValuMulh d a b x y m s
  | .valuMulhu d a b x y m => Sys2Proof.Machine.execValuMulhu d a b x y m s
  | .valuAdds d a b x y m => Sys2Proof.Machine.execValuAdds d a b x y m s
  | .valuSubs d a b x y m => Sys2Proof.Machine.execValuSubs d a b x y m s
  | .valuAddsu d a b x y m => Sys2Proof.Machine.execValuAddsu d a b x y m s
  | .valuSubsu d a b x y m => Sys2Proof.Machine.execValuSubsu d a b x y m s
  | .valuAbs d a x m => Sys2Proof.Machine.execValuAbs d a x m s
  | .valuMv d a x m => Sys2Proof.Machine.execValuMv d a x m s
  | .valuMerge d a b x y m => Sys2Proof.Machine.execValuMerge d a b x y m s
  | .valuEq d a b x y m => Sys2Proof.Machine.execValuEq d a b x y m s
  | .valuNe d a b x y m => Sys2Proof.Machine.execValuNe d a b x y m s
  | .valuLt d a b x y m => Sys2Proof.Machine.execValuLt d a b x y m s
  | .valuLtu d a b x y m => Sys2Proof.Machine.execValuLtu d a b x y m s
  | .valuLe d a b x y m => Sys2Proof.Machine.execValuLe d a b x y m s
  | .valuLeu d a b x y m => Sys2Proof.Machine.execValuLeu d a b x y m s
  | .valuxAdd d a b x m => Sys2Proof.Machine.execValuxAdd d a b x m s
  | .valuxSub d a b x m => Sys2Proof.Machine.execValuxSub d a b x m s
  | .valuxRsub d a b x m => Sys2Proof.Machine.execValuxRsub d a b x m s
  | .valuxAnd d a b x m => Sys2Proof.Machine.execValuxAnd d a b x m s
  | .valuxOr d a b x m => Sys2Proof.Machine.execValuxOr d a b x m s
  | .valuxXor d a b x m => Sys2Proof.Machine.execValuxXor d a b x m s
  | .valuxAndn d a b x m => Sys2Proof.Machine.execValuxAndn d a b x m s
  | .valuxSll d a b x m => Sys2Proof.Machine.execValuxSll d a b x m s
  | .valuxSrl d a b x m => Sys2Proof.Machine.execValuxSrl d a b x m s
  | .valuxSra d a b x m => Sys2Proof.Machine.execValuxSra d a b x m s
  | .valuxMin d a b x m => Sys2Proof.Machine.execValuxMin d a b x m s
  | .valuxMax d a b x m => Sys2Proof.Machine.execValuxMax d a b x m s
  | .valuxMinu d a b x m => Sys2Proof.Machine.execValuxMinu d a b x m s
  | .valuxMaxu d a b x m => Sys2Proof.Machine.execValuxMaxu d a b x m s
  | .valuxMul d a b x m => Sys2Proof.Machine.execValuxMul d a b x m s
  | .valuxMulh d a b x m => Sys2Proof.Machine.execValuxMulh d a b x m s
  | .valuxMulhu d a b x m => Sys2Proof.Machine.execValuxMulhu d a b x m s
  | .valuxAdds d a b x m => Sys2Proof.Machine.execValuxAdds d a b x m s
  | .valuxSubs d a b x m => Sys2Proof.Machine.execValuxSubs d a b x m s
  | .valuxAddsu d a b x m => Sys2Proof.Machine.execValuxAddsu d a b x m s
  | .valuxSubsu d a b x m => Sys2Proof.Machine.execValuxSubsu d a b x m s
  | .valuxMv d b m => Sys2Proof.Machine.execValuxMv d b m s
  | .valuxMerge d a b x m => Sys2Proof.Machine.execValuxMerge d a b x m s
  | .valuxEq d a b x m => Sys2Proof.Machine.execValuxEq d a b x m s
  | .valuxNe d a b x m => Sys2Proof.Machine.execValuxNe d a b x m s
  | .valuxLt d a b x m => Sys2Proof.Machine.execValuxLt d a b x m s
  | .valuxLtu d a b x m => Sys2Proof.Machine.execValuxLtu d a b x m s
  | .valuxLe d a b x m => Sys2Proof.Machine.execValuxLe d a b x m s
  | .valuxLeu d a b x m => Sys2Proof.Machine.execValuxLeu d a b x m s
  | .vfpAdd d a b x y m => Sys2Proof.Machine.execVfpAdd d a b x y m s
  | .vfpSub d a b x y m => Sys2Proof.Machine.execVfpSub d a b x y m s
  | .vfpMul d a b x y m => Sys2Proof.Machine.execVfpMul d a b x y m s
  | .vfpDiv d a b x y m => Sys2Proof.Machine.execVfpDiv d a b x y m s
  | .vfpSqrt d a x m => Sys2Proof.Machine.execVfpSqrt d a x m s
  | .vfpMin d a b x y m => Sys2Proof.Machine.execVfpMin d a b x y m s
  | .vfpMax d a b x y m => Sys2Proof.Machine.execVfpMax d a b x y m s
  | .vfpSgnj d a b x y m => Sys2Proof.Machine.execVfpSgnj d a b x y m s
  | .vfpSgnjn d a b x y m => Sys2Proof.Machine.execVfpSgnjn d a b x y m s
  | .vfpSgnjx d a b x y m => Sys2Proof.Machine.execVfpSgnjx d a b x y m s
  | .vfpEq d a b x y m => Sys2Proof.Machine.execVfpEq d a b x y m s
  | .vfpLt d a b x y m => Sys2Proof.Machine.execVfpLt d a b x y m s
  | .vfpLe d a b x y m => Sys2Proof.Machine.execVfpLe d a b x y m s
  | .vfpClass d a x m => Sys2Proof.Machine.execVfpClass d a x m s
  | .vfpRec d a x m => Sys2Proof.Machine.execVfpRec d a x m s
  | .vfpRsq d a x m => Sys2Proof.Machine.execVfpRsq d a x m s
  | .vfpExp2 d a x m => Sys2Proof.Machine.execVfpExp2 d a x m s
  | .vfpLog2 d a x m => Sys2Proof.Machine.execVfpLog2 d a x m s
  | .vfpxAdd d a b x m => Sys2Proof.Machine.execVfpxAdd d a b x m s
  | .vfpxSub d a b x m => Sys2Proof.Machine.execVfpxSub d a b x m s
  | .vfpxMul d a b x m => Sys2Proof.Machine.execVfpxMul d a b x m s
  | .vfpxDiv d a b x m => Sys2Proof.Machine.execVfpxDiv d a b x m s
  | .vfpxMin d a b x m => Sys2Proof.Machine.execVfpxMin d a b x m s
  | .vfpxMax d a b x m => Sys2Proof.Machine.execVfpxMax d a b x m s
  | .vfpxSgnj d a b x m => Sys2Proof.Machine.execVfpxSgnj d a b x m s
  | .vfpxSgnjn d a b x m => Sys2Proof.Machine.execVfpxSgnjn d a b x m s
  | .vfpxSgnjx d a b x m => Sys2Proof.Machine.execVfpxSgnjx d a b x m s
  | .vfpxEq d a b x m => Sys2Proof.Machine.execVfpxEq d a b x m s
  | .vfpxLt d a b x m => Sys2Proof.Machine.execVfpxLt d a b x m s
  | .vfpxLe d a b x m => Sys2Proof.Machine.execVfpxLe d a b x m s
  | .vfmaMadd d a b c x y w m => Sys2Proof.Machine.execVfmaMadd d a b c x y w m s
  | .vfmaNmadd d a b c x y w m => Sys2Proof.Machine.execVfmaNmadd d a b c x y w m s
  | .vfmsMsub d a b c x y w m => Sys2Proof.Machine.execVfmsMsub d a b c x y w m s
  | .vfmsNmsub d a b c x y w m => Sys2Proof.Machine.execVfmsNmsub d a b c x y w m s
  | .vimacMacc d a b c x y w m => Sys2Proof.Machine.execVimacMacc d a b c x y w m s
  | .vimacNmsac d a b c x y w m => Sys2Proof.Machine.execVimacNmsac d a b c x y w m s
  | .vcvtI2f d a x m => Sys2Proof.Machine.execVcvtI2f d a x m s
  | .vcvtU2f d a x m => Sys2Proof.Machine.execVcvtU2f d a x m s
  | .vcvtF2i d a x m => Sys2Proof.Machine.execVcvtF2i d a x m s
  | .vcvtF2u d a x m => Sys2Proof.Machine.execVcvtF2u d a x m s
  | .vcvtFwid d a x m => Sys2Proof.Machine.execVcvtFwid d a x m s
  | .vcvtFnar d a x m => Sys2Proof.Machine.execVcvtFnar d a x m s
  | .vcvtIwid d a x m => Sys2Proof.Machine.execVcvtIwid d a x m s
  | .vcvtUwid d a x m => Sys2Proof.Machine.execVcvtUwid d a x m s
  | .vcvtInar d a x m => Sys2Proof.Machine.execVcvtInar d a x m s
  | .vcvtBscale d a b x y m => Sys2Proof.Machine.execVcvtBscale d a b x y m s
  | .vcvtQuant d a b x y m => Sys2Proof.Machine.execVcvtQuant d a b x y m s
  | .vcvtDequant d a b x y m => Sys2Proof.Machine.execVcvtDequant d a b x y m s
  | .vcvtFrnd d a x m => Sys2Proof.Machine.execVcvtFrnd d a x m s
  | .vcvtPack d a x m => Sys2Proof.Machine.execVcvtPack d a x m s
  | .vcvtUnpack d a x m => Sys2Proof.Machine.execVcvtUnpack d a x m s
  | .vpredAnd d a b m => Sys2Proof.Machine.execVpredAnd d a b m s
  | .vpredOr d a b m => Sys2Proof.Machine.execVpredOr d a b m s
  | .vpredXor d a b m => Sys2Proof.Machine.execVpredXor d a b m s
  | .vpredAndn d a b m => Sys2Proof.Machine.execVpredAndn d a b m s
  | .vpredNot d a m => Sys2Proof.Machine.execVpredNot d a m s
  | .vpredSet d m => Sys2Proof.Machine.execVpredSet d m s
  | .vpredClr d m => Sys2Proof.Machine.execVpredClr d m s
  | .vpredFirst d a m => Sys2Proof.Machine.execVpredFirst d a m s
  | .vpredCnt d a m => Sys2Proof.Machine.execVpredCnt d a m s
  | .vpredMv d a m => Sys2Proof.Machine.execVpredMv d a m s
  | .vpermPerm d a b x y m => Sys2Proof.Machine.execVpermPerm d a b x y m s
  | .vpermSlup d a b x m => Sys2Proof.Machine.execVpermSlup d a b x m s
  | .vpermSldn d a b x m => Sys2Proof.Machine.execVpermSldn d a b x m s
  | .vpermSl1up d a b x m => Sys2Proof.Machine.execVpermSl1up d a b x m s
  | .vpermSl1dn d a b x m => Sys2Proof.Machine.execVpermSl1dn d a b x m s
  | .vpermRshp d a b x y m => Sys2Proof.Machine.execVpermRshp d a b x y m s
  | .vpermXch d a b x y m => Sys2Proof.Machine.execVpermXch d a b x y m s
  | .vpermBcast d b m => Sys2Proof.Machine.execVpermBcast d b m s
  | .vpermExt d a b x m => Sys2Proof.Machine.execVpermExt d a b x m s
  | .vpermIns d a b m => Sys2Proof.Machine.execVpermIns d a b m s
  | .vredSum d a b x m => Sys2Proof.Machine.execVredSum d a b x m s
  | .vredFsum d a b x m => Sys2Proof.Machine.execVredFsum d a b x m s
  | .vredMin d a b x m => Sys2Proof.Machine.execVredMin d a b x m s
  | .vredMax d a b x m => Sys2Proof.Machine.execVredMax d a b x m s
  | .vredMinu d a b x m => Sys2Proof.Machine.execVredMinu d a b x m s
  | .vredMaxu d a b x m => Sys2Proof.Machine.execVredMaxu d a b x m s
  | .vredFmin d a b x m => Sys2Proof.Machine.execVredFmin d a b x m s
  | .vredFmax d a b x m => Sys2Proof.Machine.execVredFmax d a b x m s
  | .vredAnd d a b x m => Sys2Proof.Machine.execVredAnd d a b x m s
  | .vredOr d a b x m => Sys2Proof.Machine.execVredOr d a b x m s
  | .vredXor d a b x m => Sys2Proof.Machine.execVredXor d a b x m s
  | .vscanSum d a b x m h => Sys2Proof.Machine.execVscanSum d a b x m h s
  | .vscanFsum d a b x m h => Sys2Proof.Machine.execVscanFsum d a b x m h s
  | .vscanMin d a b x m h => Sys2Proof.Machine.execVscanMin d a b x m h s
  | .vscanMax d a b x m h => Sys2Proof.Machine.execVscanMax d a b x m h s
  | .vscanFmin d a b x m h => Sys2Proof.Machine.execVscanFmin d a b x m h s
  | .vscanFmax d a b x m h => Sys2Proof.Machine.execVscanFmax d a b x m h s
  | .vselCmpr d a x m => Sys2Proof.Machine.execVselCmpr d a x m s
  | .vselExpd d a x m => Sys2Proof.Machine.execVselExpd d a x m s
  | .vselTopk d a b x m => Sys2Proof.Machine.execVselTopk d a b x m s
  | .vselTopkm d a b x m => Sys2Proof.Machine.execVselTopkm d a b x m s
  | .vselIota d m => Sys2Proof.Machine.execVselIota d m s
  | .vselIsect d a b x y m => Sys2Proof.Machine.execVselIsect d a b x y m s
  | .vselEqsplit d a b x y m => Sys2Proof.Machine.execVselEqsplit d a b x y m s
  | .vrngBits d m => Sys2Proof.Machine.execVrngBits d m s
  | .vrngUnif d m => Sys2Proof.Machine.execVrngUnif d m s
  | .vldUnit d a m => Sys2Proof.Machine.execVldUnit d a m s
  | .vldStrd d a b m => Sys2Proof.Machine.execVldStrd d a b m s
  | .vldIdx d a b y m => Sys2Proof.Machine.execVldIdx d a b y m s
  | .vldSeg d a m u => Sys2Proof.Machine.execVldSeg d a m u s
  | .vldTile d a b m => Sys2Proof.Machine.execVldTile d a b m s
  | .vldSp d a m => Sys2Proof.Machine.execVldSp d a m s
  | .vldSpx d a b m => Sys2Proof.Machine.execVldSpx d a b m s
  | .vldFill d a => Sys2Proof.Machine.execVldFill d a s
  | .vldPrb d a b y m => Sys2Proof.Machine.execVldPrb d a b y m s
  | .vstUnit d a x m => Sys2Proof.Machine.execVstUnit d a x m s
  | .vstStrd d a b x m => Sys2Proof.Machine.execVstStrd d a b x m s
  | .vstIdx d a b x y m => Sys2Proof.Machine.execVstIdx d a b x y m s
  | .vstSeg d a x m u => Sys2Proof.Machine.execVstSeg d a x m u s
  | .vstTile d a b x m => Sys2Proof.Machine.execVstTile d a b x m s
  | .vstSp d a x m => Sys2Proof.Machine.execVstSp d a x m s
  | .vstSpx d a b x m => Sys2Proof.Machine.execVstSpx d a b x m s
  | .vstSpill d a x => Sys2Proof.Machine.execVstSpill d a x s
  | .vstrSbind d a m => Sys2Proof.Machine.execVstrSbind d a m s
  | .vstrSunbind d m => Sys2Proof.Machine.execVstrSunbind d m s
  | .vstrSadv d b m => Sys2Proof.Machine.execVstrSadv d b m s
  | .vatomGld d a b y m => Sys2Proof.Machine.execVatomGld d a b y m s
  | .vatomScc d a b x y m => Sys2Proof.Machine.execVatomScc d a b x y m s
  | .vatomLock a b y => Sys2Proof.Machine.execVatomLock a b y s
  | .vatomUnlock a b y => Sys2Proof.Machine.execVatomUnlock a b y s
  | .mopMop z a b s_ t x y => Sys2Proof.Machine.execMopMop z a b s_ t x y s
  | .mopMopu z a b s_ t y => Sys2Proof.Machine.execMopMopu z a b s_ t y s
  | .mctlMzero z => Sys2Proof.Machine.execMctlMzero z s
  | .mctlMdrain d a z m => Sys2Proof.Machine.execMctlMdrain d a z m s
  | .mctlMld a z => Sys2Proof.Machine.execMctlMld a z s
  | .mctlMst a z => Sys2Proof.Machine.execMctlMst a z s
  | .mctlMset a => Sys2Proof.Machine.execMctlMset a s
  | .mctlZwset a z => Sys2Proof.Machine.execMctlZwset a z s
  | .engGsp d a b c o e => Sys2Proof.Machine.execEngGsp d a b c o e s
  | .engSsp d a b c o e => Sys2Proof.Machine.execEngSsp d a b c o e s
  | .engSadd d a b c o e => Sys2Proof.Machine.execEngSadd d a b c o e s
  | .engBapply d a b c o e => Sys2Proof.Machine.execEngBapply d a b c o e s
  | .cpeCpy d a b c o e => Sys2Proof.Machine.execCpeCpy d a b c o e s
  | .cpeCwait d a o e => Sys2Proof.Machine.execCpeCwait d a o e s
  | .cpeCptr d a => Sys2Proof.Machine.execCpeCptr d a s
  | .cpeCdrain d o e => Sys2Proof.Machine.execCpeCdrain d o e s
  | .barWait d a b o e => Sys2Proof.Machine.execBarWait d a b o e s
  | .barInit d a b c o e => Sys2Proof.Machine.execBarInit d a b c o e s
  | .barInv a o e => Sys2Proof.Machine.execBarInv a o e s
  | .wlPush d a b c o e => Sys2Proof.Machine.execWlPush d a b c o e s
  | .wlPopb d a b c o e => Sys2Proof.Machine.execWlPopb d a b c o e s
  | .wlDins d a b c o e => Sys2Proof.Machine.execWlDins d a b c o e s
  | .wlCnt d a o e => Sys2Proof.Machine.execWlCnt d a o e s
  | .taskSpawn d a b c o e => Sys2Proof.Machine.execTaskSpawn d a b c o e s
  | .taskJoin a b o e => Sys2Proof.Machine.execTaskJoin a b o e s
  | .taskDep d a b => Sys2Proof.Machine.execTaskDep d a b s
  | .taskExit => Sys2Proof.Machine.execTaskExit s
  | .trcMark a b => Sys2Proof.Machine.execTrcMark a b s
  | .trcLatch d => Sys2Proof.Machine.execTrcLatch d s
  | .trcCtrr d a b => Sys2Proof.Machine.execTrcCtrr d a b s
  | .setvlStreamGrant hart => Sys2Proof.Machine.execSetvlStreamGrant hart s
  | .codeFillComplete obj page content => Sys2Proof.Machine.execCodeFillComplete obj page content s
  | .idxLineArrival hart => Sys2Proof.Machine.execIdxLineArrival hart s
  | .arrayAccept core => Sys2Proof.Machine.execArrayAccept core s
  | .arrayRetire core mismatch => Sys2Proof.Machine.execArrayRetire core mismatch s
  | .cinchLaneCheck hart mismatch => Sys2Proof.Machine.execCinchLaneCheck hart mismatch s
  | .teaselScrub found => Sys2Proof.Machine.execTeaselScrub found s
  | .teaselBlockRepair found => Sys2Proof.Machine.execTeaselBlockRepair found s
  | .distributorChoice => Sys2Proof.Machine.execDistributorChoice s
  | .sliceEnd hart => Sys2Proof.Machine.execSliceEnd hart s
  | .viSliceEnd hart => Sys2Proof.Machine.execViSliceEnd hart s
  | .preWinExpiry hart => Sys2Proof.Machine.execPreWinExpiry hart s
  | .saveComplete hart => Sys2Proof.Machine.execSaveComplete hart s
  | .vectorSequencerChoice core ready => Sys2Proof.Machine.execVectorSequencerChoice core ready s
  | .joinPushRetry held => Sys2Proof.Machine.execJoinPushRetry held s
  | .launchEnd launch => Sys2Proof.Machine.execLaunchEnd launch s
  | .copyBurst engine bytes => Sys2Proof.Machine.execCopyBurst engine bytes s
  | .copyComplete copy => Sys2Proof.Machine.execCopyComplete copy s
  | .engineCommandComplete command => Sys2Proof.Machine.execEngineCommandComplete command s
  | .streamRefill hart stream count => Sys2Proof.Machine.execStreamRefill hart stream count s
  | .cpeWaitReturn hart => Sys2Proof.Machine.execCpeWaitReturn hart s
  | .barrierWake hart => Sys2Proof.Machine.execBarrierWake hart s
  | .lockWordTake hart => Sys2Proof.Machine.execLockWordTake hart s
  | .idleWake hart => Sys2Proof.Machine.execIdleWake hart s
  | .idleTimeout hart => Sys2Proof.Machine.execIdleTimeout hart s
  | .atsTranslationCompletion vi page log2size host canRead canWrite => Sys2Proof.Machine.execAtsTranslationCompletion vi page log2size host canRead canWrite s
  | .pageRequestResponse hart success => Sys2Proof.Machine.execPageRequestResponse hart success s
  | .pageRequestTimeout hart => Sys2Proof.Machine.execPageRequestTimeout hart s
  | .atsInvalidateRequest vi page log2size => Sys2Proof.Machine.execAtsInvalidateRequest vi page log2size s
  | .invalidationComplete index => Sys2Proof.Machine.execInvalidationComplete index s
  | .hostPostedWrite address bytes => Sys2Proof.Machine.execHostPostedWrite address bytes s
  | .peerAccess package agent op address => Sys2Proof.Machine.execPeerAccess package agent op address s
  | .peerTimeout request => Sys2Proof.Machine.execPeerTimeout request s
  | .latchTake index => Sys2Proof.Machine.execLatchTake index s
  | .traceSample hart slip => Sys2Proof.Machine.execTraceSample hart slip s
  | .powerManagerTick watts junctions => Sys2Proof.Machine.execPowerManagerTick watts junctions s
  | .clockStepUp => Sys2Proof.Machine.execClockStepUp s
  | .thermalTrip => Sys2Proof.Machine.execThermalTrip s
  | .powerLoss => Sys2Proof.Machine.execPowerLoss s
  | .wakeN result => Sys2Proof.Machine.execWakeN result s
  | .latchN => Sys2Proof.Machine.execLatchN s
  | .tsync => Sys2Proof.Machine.execTsync s
  | .attest nonce => Sys2Proof.Machine.execAttest nonce s
  | .certs => Sys2Proof.Machine.execCerts s
  | .reset => Sys2Proof.Machine.execReset s
  | .timeset value => Sys2Proof.Machine.execTimeset value s
  | .status => Sys2Proof.Machine.execStatus s
  | .power write => Sys2Proof.Machine.execPower write s
  | .loadObject vi image places => Sys2Proof.Machine.execLoadObject vi image places s
  | .unloadObject vi obj => Sys2Proof.Machine.execUnloadObject vi obj s
  | .lrec vi address => Sys2Proof.Machine.execLrec vi address s
  | .killt vi task => Sys2Proof.Machine.execKillt vi task s
  | .tlbInvalidate vi target size stage2 => Sys2Proof.Machine.execTlbInvalidate vi target size stage2 s
  | .tlbInvalidateVi vi target stage2 => Sys2Proof.Machine.execTlbInvalidateVi vi target stage2 s
  | .debugStop vi hart => Sys2Proof.Machine.execDebugStop vi hart s
  | .step vi hart => Sys2Proof.Machine.execStep vi hart s
  | .resume vi hart => Sys2Proof.Machine.execResume vi hart s
  | .debugMemoryViewRead vi hart window address => Sys2Proof.Machine.execDebugMemoryViewRead vi hart window address s
  | .debugMemoryViewWrite vi hart address value => Sys2Proof.Machine.execDebugMemoryViewWrite vi hart address value s
  | .interfaceTableWrite vi offset value => Sys2Proof.Machine.execInterfaceTableWrite vi offset value s
  | .functionLevelReset vi => Sys2Proof.Machine.execFunctionLevelReset vi s
  | .registerWrite target value => Sys2Proof.Machine.execRegisterWrite target value s
  | .notAnInstruction w why => Sys2Proof.Machine.execNotAnInstruction w why s
  | .stirrupElementService command count => Sys2Proof.Machine.execStirrupElementService command count s
  | .hostPortCompletion request answer => Sys2Proof.Machine.execHostPortCompletion request answer s
  | .peerElementCompletion request answer => Sys2Proof.Machine.execPeerElementCompletion request answer s

end Sys2Proof.Machine
end

