-- ==== Sys2Proof/Machine/Fetch.lean ====
section
/-! DEFINITION. What a step does around an instruction: the passing of time, the fetch of the word at the hart's PC
(R14, R42), the end of a debugger's single step (R349), and moves that no instruction makes (R77, R88, R324). -/

namespace Sys2Proof.Machine

/-! ## Time -/

/-- `k` cycles pass on hart `n`: SLOTCYC counts each, and each falls into one slip class, which is open where no rule
names it (R341, entry 4). -/
def passCycles (h : Hart) (n free k : Nat) : Hart :=
  if h.live = false then h
  else
    let c := h.counters
    let open1 := Config.freeEvents n 256 free % (k + 1)
    let open2 := Config.freeEvents n 257 free % (k - open1 + 1)
    let open3 := Config.freeEvents n 258 free % (k - open1 - open2 + 1)
    let add (cls opened : Nat) (w : Word) : Word :=
      match h.slipClass with
      | some c => if c = cls then w + BitVec.ofNat 64 k else w
      | none => w + BitVec.ofNat 64 opened
    { h with counters :=
      { c with
        slotcyc := c.slotcyc + BitVec.ofNat 64 k
        slips := add 0 open1 c.slips, slipv := add 1 open2 c.slipv, slipm := add 2 open3 c.slipm } }

/-- The timing events of a core in a tick: L1 and TLB misses (R343, entry 4). -/
def missEvents (c : Core) (core free : Nat) : Core :=
  { c with ccnt := (List.range 8).foldl (fun m i =>
      match (Sparse.get 0 c.csel i).toNat with
      | 4 => Sparse.put m i (Sparse.get 0 m i + BitVec.ofNat 64 (Config.freeEvents core 4 free))
      | 5 => Sparse.put m i (Sparse.get 0 m i + BitVec.ofNat 64 (Config.freeEvents core 5 free))
      | _ => m) c.ccnt }

/-- The events of a cluster or die in a tick: a code of 0 counts none, and the spec gives no event to any other code
(R342, entry 10). -/
def sharedEvents (c : SharedCounters) (unit free : Nat) : SharedCounters :=
  { c with values := (List.range 8).foldl (fun m i =>
      if Sparse.get 0 c.events i = 0 then m
      else Sparse.put m i (Sparse.get 0 m i + BitVec.ofNat 64 (Config.freeEvents unit (512 + i) free))) c.values }

/-- Time passes before a turn while the clock runs (R71, R341 to R343, R367; entry 4), and the step takes its number
(entry 59). -/
def tick (s : State) : State :=
  let s := { s with steps := s.steps + 1, outer := [] }
  if s.power.state = .ready then
    let k := Config.freeCycles s.free
    { s with
      free := s.free + 1
      cycle := s.cycle + BitVec.ofNat 64 k
      time := s.time + BitVec.ofNat 64 (Config.freeNanos s.free)
      uptime := s.uptime + Config.freeNanos s.free
      power := s.power.pass (Config.freeNanos s.free)
      harts := s.harts.map fun c => (c.1, passCycles c.2 c.1 s.free k)
      cores := s.cores.map fun c => (c.1, missEvents c.2 c.1 s.free)
      clusters := s.clusters.map fun c => (c.1, sharedEvents c.2 (1024 + c.1) s.free)
      dies := s.dies.map fun c => (c.1, sharedEvents c.2 (2048 + c.1) s.free) }
  else s

/-! ## Fetch -/

/-- A fetch of the running hart: the word, or the state of a hart that waits for a fill (R42) or took FETCH_FAULT (R14). -/
inductive Fetched where
  | word (w : BitVec 32)
  | other (s : State)

/-- Fetch the word at the PC of the running hart (R14, R42). DESIGN CHOICE (entry 66): R42 fills the pages of a loaded object; a task
that is not of a refused object fetches from its pages as from those of a loaded one. A PC that no `jalr` checked (TVEC, an
entry, a debugger's write) meets the alignment rule of R14 here (entry 12). DESIGN CHOICE (entry 94): TVAL of FETCH_FAULT is the PC. -/
def fetch (s : State) : Fetched :=
  let h := s.h
  let pc := h.pc.toNat
  if pc % 4 ≠ 0 then .other (trapEntry s Cause.misaligned h.pc h.vstart h.pc)
  else match codeObject s h.task.vi pc with
  | none => .other (trapEntry s Cause.fetchFault h.pc h.vstart h.pc)
  | some o =>
    let page := (pc - o.codebase) / 65536
    if page ∈ o.filled then .word (Sparse.get 0 o.words ((pc - o.codebase) / 4))
    else
      let s1 := if page ∈ o.filling then s else s.mapObject o.id fun o => { o with filling := page :: o.filling }
      .other (s1.setH { s1.h with wait := .fetch o.id page })

/-- The hart can perform an instruction: it holds a task, waits for nothing, is not halted, and no stop or step of the debugger is
over. -/
def Hart.ready (h : Hart) : Bool := h.running

/-- Hart `n` begins an instruction: nothing holds it back yet. -/
def beginTurn (s : State) (n : Nat) : State := s.setHart n { s.hart n with stall := none, whole := false }

/-! ## Single step -/

/-- Something of hart `n` moved on in this turn: its instruction completed, trimmed, trapped or rewound. -/
def movedOn (before after : Hart) : Bool :=
  after.pc != before.pc || after.vstart != before.vstart || after.instret != before.instret
    || after.trap != before.trap

/-- The instruction of a step is over and its halt can be reported: the hart waits for nothing, or leaves its slot, and every earlier
instruction and check is over (R348, R349). The step of a `mop` ends when the array accepts it; the Cinch row then still checks it
(R332), and the report waits for that. -/
def Hart.stepOver (h : Hart) : Bool :=
  (match h.wait with
  | .run => true
  | .save .. => true
  | _ => false) && h.quiet

/-- After a turn: hart `n` under STEP whose instruction is over halts again, and one that a stop has met halts once it may (R348,
R349). -/
def endStepOf (n : Nat) (before : Hart) (s : State) : State :=
  let h := s.hart n
  match h.dbg.stop with
  | some c => if h.live && h.quiet then halt s n c else s
  | none =>
    if h.live && h.dbg.stepping && !h.dbg.halted && (h.dbg.stepped || movedOn before h) then
      if h.stepOver then halt s n Cause.step
      else s.setHart n { h with dbg := { h.dbg with stepped := true } }
    else s

/-- After a turn: every hart that the debugger steps or stops (R348, R349). -/
def endStep (before s : State) : State := before.harts.foldl (fun s c => endStepOf c.1 c.2 s) s

/-- The hart waits inside the instruction at PC. -/
def Wait.inside : Wait → Bool
  | .run => false
  | .fetch .. => false
  | .save .. => false
  | _ => true

/-- Hart `n` has performed a word in this turn: its core remembers the order of issue. An instruction issues once, be it performed again
after a wait; one whose operands or whose turn at the sequencer are not there has not issued (R57). -/
def noteIssue (n : Nat) (before s : State) : State :=
  let b := before.hart n
  let h := s.hart n
  if b.issued || !(movedOn b h || h.wait.inside) then s
  else
    let k := s.core (n / 4)
    let s := s.setCore (n / 4) { k with issued := k.issued.filter (· != n) ++ [n] }
    if movedOn b h then s else s.setHart n { h with issued := true }

/-- An instruction that the errata of its task affect reproduces its legacy behaviour (R363). DESIGN CHOICE (entry 8): no rule says what
that is; what it leaves in the x registers, the vector and predicate registers and FFLAGS is open. -/
def legacy (w : BitVec 32) (before s : State) : State :=
  let n := before.cur
  let e := before.h.task.start.errata
  let h := s.hart n
  if e = 0 ∨ Config.legacyWord e w = false ∨ h.live = false ∨ h.task.id ≠ before.h.task.id then s
  else
    let v (k : Nat) : Nat := Config.legacyValue e s.free k
    let keys (k : Nat) : List Nat := (List.range h.span.length).flatMap fun q => (List.range k).map fun r => q * k + r
    { s with free := s.free + 1 }.setHart n { h with
      x := (List.range 31).foldl (fun m r => Sparse.set 0 m (r + 1) (BitVec.ofNat 64 (v r))) h.x
      files := { h.files with
        v := (keys 32).foldl (fun m k => Sparse.set 0 m k (v (2 ^ 16 + k) % 2 ^ (8 * h.vlenb))) h.files.v
        p := (keys 16).foldl (fun m k => Sparse.set 0 m k (v (2 ^ 17 + k) % 2 ^ h.vlenb)) h.files.p }
      strip := { h.strip with fflags := BitVec.ofNat 5 (v 31) } }

/-- Of the harts named, which timing has made ready, the one of the core that issued least recently (R57). -/
def leastRecent (s : State) (ready : List Nat) : Option Nat :=
  let ready := ready.filter fun n => (s.hart n).ready
  (ready.find? fun n => !(n ∈ (s.core (n / 4)).issued)).or
    (match ready with
    | [] => none
    | n :: _ => (s.core (n / 4)).issued.find? fun m => m ∈ ready)

/-! ## Moves that no instruction makes -/

/-- How many translations a unit holds: 2,048 in a core's TLB, 4,096 in a Stirrup instance's cache (R207, R324). -/
def tlbCapacity (s : State) (unit : Nat) : Nat :=
  if unit < s.build.cores then 2048
  else if 1024 ≤ unit ∧ unit < 1024 + s.build.stirrups then 4096
  else 0

/-- A unit takes the translation of an address into its cache, at the leaf's size (R324). Where it is full, its oldest
entry makes room. Nothing is taken where a code region, the window or a section decides a part of the leaf. -/
def tlbFill (s : State) (unit vi va : Nat) : State :=
  match walkSized s (s.vi vi) va with
  | .ok (page, size) =>
    let base := va / size * size
    let v := s.vi vi
    let meets (a n : Nat) : Bool := decide (a < base + size) && decide (base < a + n)
    let decided := (s.objects.any fun o => o.vi == vi && (meets o.codebase (o.npage * 65536) || o.sections.any fun c => meets c.addr c.size))
      || meets v.hwBase v.hwSize
    let mine := s.tlb.filter fun t => t.unit == unit
    let kept := if tlbCapacity s unit ≤ mine.length then
        match mine.getLast? with
        | some t => s.tlb.filter fun x => x != t
        | none => s.tlb
      else s.tlb
    let first : Page := { page with loc := page.loc.minus (va - base) }
    if decided || tlbCapacity s unit == 0 then s
    else { s with tlb := { unit, vi, base, size, page := first } :: kept }
  | _ => s

/-- A core's L1 data cache takes a line of home memory, as a load that misses does (R200); a poisoned line is not taken. It holds 2,048
lines. -/
def l1Fill (s : State) (core line : Nat) : State :=
  let a := line * 64
  let mine := (s.l1.filter fun c => l1Core c.1 == core).length
  if s.build.cores ≤ core ∨ !homeExists s.build a ∨ !homeExists s.build (a + 63) ∨ s.mem.poisoned a 64 = true ∨ 64 * 2048 ≤ mine
      ∨ (Sparse.find s.l1 (core * 2 ^ 52 + a)).isSome = true then s
  else { s with l1 := (List.range 64).foldl (fun m k => Sparse.put m (core * 2 ^ 52 + a + k) (s.mem.byte (a + k))) s.l1 }

/-- A unit drops its cached translation of an address (R324). -/
def tlbDrop (s : State) (unit vi va : Nat) : State :=
  { s with tlb := s.tlb.filter fun t => !(t.unit == unit && t.vi == vi && decide (t.base ≤ va) && decide (va < t.base + t.size)) }

/-- A pooled-memory port reports a 64-byte block of the second tier as poisoned (R323). -/
def portPoison (s : State) (block : Nat) : State :=
  if !Config.isModule && homeExists s.build (64 * block) && !isHbm (64 * block) then
    { s with mem := { s.mem with poison := Sparse.set false s.mem.poison block true } }
  else s

/-- A code frame of an object is taken for other use: the page is filled and checked again when it is next fetched (R42). -/
def evictFrame (s : State) (obj page : Nat) : State :=
  s.mapObject obj fun o => { o with filled := o.filled.filter (· != page) }

/-- A pending pre-emption or halt request meets the vector instruction of hart `n` at an element (R88, R300, R348). -/
def meetAt (s : State) (n element : Nat) : State :=
  let h := s.hart n
  match h.preempt with
  | some p => s.setHart n { h with preempt := some { p with element := some element } }
  | none => s.setHart n { h with dbg := { h.dbg with haltElement := some element } }

/-! ## A program placed for the next step -/

/-- The object that holds one word at address `pc` (R37, R42): one filled code page around it. -/
def oneWordObject (id vi : Nat) (pc : Nat) (w : BitVec 32) : Object :=
  let codebase := pc / 65536 * 65536
  { id, vi, state := .loaded, codebase, npage := 1, hashes := [], filled := [0], filling := []
    words := [((pc - codebase) / 4, w)], sections := [], scratches := [], kernels := [], errata := 0 }

/-- `s` with the word `w` where hart `s.cur` fetches next, and that hart about to fetch. -/
def placeWord (s : State) (w : BitVec 32) : State :=
  let h := s.h
  let s := s.setH { h with
    live := true, wait := .run, preempt := none, committing := false, pc := h.pc &&& ~~~3
    dbg := { h.dbg with halted := false, stepped := false, stop := none } }
  let s := h.span.foldl (fun s core => s.setCore core { s.core core with chosen := some s.cur, used := 0, ready := [s.cur] }) s
  { s with
    power := { s.power with state := .ready }
    agenda := []
    objects := oneWordObject s.nextObj h.task.vi (h.pc &&& ~~~3).toNat w :: s.objects }

end Sys2Proof.Machine
end

