-- ==== Sys2Proof/Machine/Step.lean ====
section
/-! DEFINITION. One step of the device: the turn at the head of the agenda, or the next instruction of the current
hart (entry 2). -/

namespace Sys2Proof.Machine

noncomputable section

/-- The outcome after a turn that began in `before`. -/
def closeTurn (before : State) (o : Host.Outcome State Fault Refusal) : Host.Outcome State Fault Refusal :=
  match o with
  | .next s => .next (endStep before s)
  | o => o

/-- The outcome of the word `w`, which hart `n` performed from `before`. -/
def closeHart (n : Nat) (w : BitVec 32) (before : State) (o : Host.Outcome State Fault Refusal) : Host.Outcome State Fault Refusal :=
  match o with
  | .next s => closeTurn before (.next (noteIssue n before (legacy w before s)))
  | o => o

/-- The running hart performs the word `w`: a vector instruction waits until the sequencers of its span serve the hart (R285). -/
def perform (w : BitVec 32) (s : State) : Host.Outcome State Fault Refusal :=
  if usesSequencer (decode w) w then
    let s := askSequencers s s.cur
    if sequenced s s.cur then exec (decode w) { s with ir := w } else .next (stalled s s.cur none)
  else exec (decode w) { s with ir := w }

/-- Hart `n`, whose commit is not under way, fetches and performs its next word. -/
def instructionTurn (n : Nat) (s : State) : Host.Outcome State Fault Refusal :=
  match fetch s with
  | .other s' => closeTurn s (.next s')
  | .word w => closeHart n w s (perform w s)

/-- Hart `n` takes its turn: it goes on with the commit that it has under way (R93), or performs the word at its PC, or does nothing
where it cannot (R57). -/
def hartTurn (n : Nat) (s : State) : Host.Outcome State Fault Refusal :=
  let s := { s with cur := n }
  if s.power.state = .ready ∧ s.h.ready = true then
    let s := beginTurn s n
    if s.h.committing then closeTurn s (.next (resumeCommit s id)) else instructionTurn n s
  else .next s

/-- What one turn does. -/
def turn (t : Turn) (s : State) : Host.Outcome State Fault Refusal :=
  match t with
  | .hart n => hartTurn n s
  | .issue ready => match leastRecent s ready with
    | some n => hartTurn n s
    | none => .next s
  | .event i => if i.isWord then .next s else closeTurn s (exec i s)
  | .judge vi => closeTurn s (.next (judgeSubmission s vi))
  | .portPoison block => .next (portPoison s block)
  | .evict obj page => .next (evictFrame s obj page)
  | .tlbFill unit vi va => .next (tlbFill s unit vi va)
  | .tlbDrop unit vi va => .next (tlbDrop s unit vi va)
  | .l1Fill core line => .next (l1Fill s core line)
  | .l1Drop core line => .next (s.dropL1 core (64 * line))
  | .writeBack line => .next { s with mem := s.mem.cleanLine line }
  | .meet n element => .next (meetAt s n element)

/-- One step (entry 2): time passes, latches that are due are taken, and the next turn is taken. A device in FAULT has no clock:
it stops unless something is due (R367). -/
def step (s : State) : Host.Outcome State Fault Refusal :=
  match s.agenda with
  | t :: rest => turn t (dueLatches (tick { s with agenda := rest }))
  | [] => if s.power.state = .fault then .fault .clockStopped else hartTurn s.cur (dueLatches (tick s))

/-- `s` with the `nbits` bits of `w` stored where the next step fetches its instruction (entry 11). -/
def State.withFetchWord (s : State) (nbits w : Nat) : State :=
  placeWord s (BitVec.ofNat 32 (w % 2 ^ nbits))

end

end Sys2Proof.Machine
end

