-- ==== Sys2Proof/Laws/PerInstr.lean ====
section
/-! SUPPORT. The encoder and the decoder agree, instruction by instruction: the fields of a word as its digits, and for
each constructor of `Instr` that decoding its word gives it back. -/

namespace Sys2Proof

/-! ## Digits -/

/-- A number from its fields, lowest first, each with its width. -/
def ofDigits : List (Nat × Nat) → Nat
  | [] => 0
  | (w, v) :: l => v + 2 ^ w * ofDigits l

/-- Every field fits its width. -/
def FieldsFit : List (Nat × Nat) → Prop
  | [] => True
  | (w, v) :: l => v < 2 ^ w ∧ FieldsFit l

/-- The widths of fields add up. -/
def widthOf : List (Nat × Nat) → Nat
  | [] => 0
  | (w, _) :: l => w + widthOf l

theorem ofDigits_lt (l : List (Nat × Nat)) (h : FieldsFit l) : ofDigits l < 2 ^ widthOf l := by
  induction l with
  | nil => simp [ofDigits, widthOf]
  | cons p l ih =>
    obtain ⟨w, v⟩ := p
    have h1 := ih h.2
    have h2 : v < 2 ^ w := h.1
    simp only [ofDigits, widthOf, Nat.pow_add]
    have h3 := Nat.mul_le_mul_left (2 ^ w) h1
    rw [Nat.mul_succ] at h3
    omega

theorem fld_head (w v r : Nat) (h : v < 2 ^ w) : fld (v + 2 ^ w * r) 0 w = v := by
  simp [fld, Nat.add_mul_mod_self_left, Nat.mod_eq_of_lt h]

theorem fld_tail (w v r lo k : Nat) (h : v < 2 ^ w) : fld (v + 2 ^ w * r) (w + lo) k = fld r lo k := by
  unfold fld
  rw [Nat.pow_add, ← Nat.div_div_eq_div_mul, Nat.add_mul_div_left _ _ (Nat.two_pow_pos w), Nat.div_eq_of_lt h, Nat.zero_add]

/-- Field `k` of a number made of fields that fit. -/
theorem fld_ofDigits (l : List (Nat × Nat)) (h : FieldsFit l) (k : Nat) (w v : Nat) (hk : l[k]? = some (w, v)) :
    fld (ofDigits l) (widthOf (l.take k)) w = v := by
  induction l generalizing k with
  | nil => simp at hk
  | cons p l ih =>
    obtain ⟨w', v'⟩ := p
    cases k with
    | zero =>
      simp only [List.getElem?_cons_zero, Option.some.injEq, Prod.mk.injEq] at hk
      obtain ⟨rfl, rfl⟩ := hk
      simpa [widthOf, ofDigits] using fld_head w' v' (ofDigits l) h.1
    | succ k =>
      simp only [List.getElem?_cons_succ] at hk
      simp only [ofDigits, List.take_succ_cons, widthOf]
      rw [fld_tail _ _ _ _ _ h.1]
      exact ih h.2 k hk

/-- A run of two adjacent zero fields. -/
theorem fld_run {n lo w k : Nat} (h1 : fld n lo w = 0) (h2 : fld n (lo + w) k = 0) : fld n lo (w + k) = 0 := by
  unfold fld at *
  rw [Nat.pow_add, Nat.mod_mul, h1, Nat.div_div_eq_div_mul, ← Nat.pow_add, h2]
  simp

/-- A field is the bit vector that it was made from. -/
theorem bits_of {n lo w : Nat} {v : BitVec w} (h : fld n lo w = v.toNat) : bits n lo w = v := by
  unfold bits; rw [h]; simp

/-- A one-bit field is the flag that it was made from. -/
theorem flag_of {n lo : Nat} {v : Bool} (h : fld n lo 1 = v.toNat) : flag n lo = v := by
  unfold flag; rw [h]; cases v <;> rfl

/-- Field `k` of a number, which lies at bit `lo`. -/
theorem fld_at {n : Nat} {l : List (Nat × Nat)} (hn : n = ofDigits l) (h : FieldsFit l) (k : Nat) {lo w v : Nat}
    (hk : l[k]? = some (w, v)) (hlo : widthOf (l.take k) = lo) : fld n lo w = v := by
  rw [hn, ← hlo]; exact fld_ofDigits l h k w v hk

/-- A word made of fields decodes as the number does. -/
theorem decode_of {i j : Instr} (l : List (Nat × Nat)) (h : FieldsFit l) (w : widthOf l = 32)
    (en : encodeNat i = ofDigits l) (e : ∀ n, n = ofDigits l → decodeNat n = j) : decode (encode i) = j := by
  have := ofDigits_lt l h
  rw [w] at this
  unfold decode encode
  rw [en, BitVec.toNat_ofNat, Nat.mod_eq_of_lt this, e _ rfl]

/-! ## The majors -/

theorem decodeNat_sop {n : Nat} (h : fld n 26 6 = 1) : decodeNat n = decodeSop n := by unfold decodeNat; rw [h]; rfl
theorem decodeNat_sopi {n : Nat} (h : fld n 26 6 = 2) : decodeNat n = decodeSopi n := by unfold decodeNat; rw [h]; rfl
theorem decodeNat_lui {n : Nat} (h : fld n 26 6 = 3) : decodeNat n = decodeLui n := by unfold decodeNat; rw [h]; rfl
theorem decodeNat_ld {n : Nat} (h : fld n 26 6 = 4) : decodeNat n = decodeLd n := by unfold decodeNat; rw [h]; rfl
theorem decodeNat_st {n : Nat} (h : fld n 26 6 = 5) : decodeNat n = decodeSt n := by unfold decodeNat; rw [h]; rfl
theorem decodeNat_br {n : Nat} (h : fld n 26 6 = 6) : decodeNat n = decodeBr n := by unfold decodeNat; rw [h]; rfl
theorem decodeNat_jal {n : Nat} (h : fld n 26 6 = 7) : decodeNat n = decodeJal n := by unfold decodeNat; rw [h]; rfl
theorem decodeNat_jalr {n : Nat} (h : fld n 26 6 = 8) : decodeNat n = decodeJalr n := by unfold decodeNat; rw [h]; rfl
theorem decodeNat_ctl {n : Nat} (h : fld n 26 6 = 9) : decodeNat n = decodeCtl n := by unfold decodeNat; rw [h]; rfl
theorem decodeNat_sys {n : Nat} (h : fld n 26 6 = 10) : decodeNat n = decodeSys n := by unfold decodeNat; rw [h]; rfl
theorem decodeNat_brot {n : Nat} (h : fld n 26 6 = 11) : decodeNat n = decodeBrot n := by unfold decodeNat; rw [h]; rfl
theorem decodeNat_setvl {n : Nat} (h : fld n 26 6 = 12) : decodeNat n = decodeSetvl n := by unfold decodeNat; rw [h]; rfl
theorem decodeNat_mdset {n : Nat} (h : fld n 26 6 = 13) : decodeNat n = decodeMdset n := by unfold decodeNat; rw [h]; rfl
theorem decodeNat_samo {n : Nat} (h : fld n 26 6 = 14) : decodeNat n = decodeSamo n := by unfold decodeNat; rw [h]; rfl
theorem decodeNat_valu {n : Nat} (h : fld n 26 6 = 16) : decodeNat n = decodeValu n := by unfold decodeNat; rw [h]; rfl
theorem decodeNat_valux {n : Nat} (h : fld n 26 6 = 17) : decodeNat n = decodeValux n := by unfold decodeNat; rw [h]; rfl
theorem decodeNat_vfp {n : Nat} (h : fld n 26 6 = 18) : decodeNat n = decodeVfp n := by unfold decodeNat; rw [h]; rfl
theorem decodeNat_vfpx {n : Nat} (h : fld n 26 6 = 19) : decodeNat n = decodeVfpx n := by unfold decodeNat; rw [h]; rfl
theorem decodeNat_vfma {n : Nat} (h : fld n 26 6 = 20) : decodeNat n = decodeVfma n := by unfold decodeNat; rw [h]; rfl
theorem decodeNat_vfms {n : Nat} (h : fld n 26 6 = 21) : decodeNat n = decodeVfms n := by unfold decodeNat; rw [h]; rfl
theorem decodeNat_vimac {n : Nat} (h : fld n 26 6 = 22) : decodeNat n = decodeVimac n := by unfold decodeNat; rw [h]; rfl
theorem decodeNat_vcvt {n : Nat} (h : fld n 26 6 = 23) : decodeNat n = decodeVcvt n := by unfold decodeNat; rw [h]; rfl
theorem decodeNat_vpred {n : Nat} (h : fld n 26 6 = 24) : decodeNat n = decodeVpred n := by unfold decodeNat; rw [h]; rfl
theorem decodeNat_vperm {n : Nat} (h : fld n 26 6 = 25) : decodeNat n = decodeVperm n := by unfold decodeNat; rw [h]; rfl
theorem decodeNat_vred {n : Nat} (h : fld n 26 6 = 26) : decodeNat n = decodeVred n := by unfold decodeNat; rw [h]; rfl
theorem decodeNat_vscan {n : Nat} (h : fld n 26 6 = 27) : decodeNat n = decodeVscan n := by unfold decodeNat; rw [h]; rfl
theorem decodeNat_vsel {n : Nat} (h : fld n 26 6 = 28) : decodeNat n = decodeVsel n := by unfold decodeNat; rw [h]; rfl
theorem decodeNat_vrng {n : Nat} (h : fld n 26 6 = 29) : decodeNat n = decodeVrng n := by unfold decodeNat; rw [h]; rfl
theorem decodeNat_vld {n : Nat} (h : fld n 26 6 = 32) : decodeNat n = decodeVld n := by unfold decodeNat; rw [h]; rfl
theorem decodeNat_vst {n : Nat} (h : fld n 26 6 = 33) : decodeNat n = decodeVst n := by unfold decodeNat; rw [h]; rfl
theorem decodeNat_vstr {n : Nat} (h : fld n 26 6 = 34) : decodeNat n = decodeVstr n := by unfold decodeNat; rw [h]; rfl
theorem decodeNat_vatom {n : Nat} (h : fld n 26 6 = 35) : decodeNat n = decodeVatom n := by unfold decodeNat; rw [h]; rfl
theorem decodeNat_mop {n : Nat} (h : fld n 26 6 = 40) : decodeNat n = decodeMop n := by unfold decodeNat; rw [h]; rfl
theorem decodeNat_mctl {n : Nat} (h : fld n 26 6 = 41) : decodeNat n = decodeMctl n := by unfold decodeNat; rw [h]; rfl
theorem decodeNat_eng {n : Nat} (h : fld n 26 6 = 48) : decodeNat n = decodeEng n := by unfold decodeNat; rw [h]; rfl
theorem decodeNat_cpe {n : Nat} (h : fld n 26 6 = 49) : decodeNat n = decodeCpe n := by unfold decodeNat; rw [h]; rfl
theorem decodeNat_bar {n : Nat} (h : fld n 26 6 = 50) : decodeNat n = decodeBar n := by unfold decodeNat; rw [h]; rfl
theorem decodeNat_wl {n : Nat} (h : fld n 26 6 = 51) : decodeNat n = decodeWl n := by unfold decodeNat; rw [h]; rfl
theorem decodeNat_task {n : Nat} (h : fld n 26 6 = 52) : decodeNat n = decodeTask n := by unfold decodeNat; rw [h]; rfl
theorem decodeNat_trc {n : Nat} (h : fld n 26 6 = 53) : decodeNat n = decodeTrc n := by unfold decodeNat; rw [h]; rfl

end Sys2Proof

namespace Sys2Proof.Laws.RoundTrip

/-- The instruction has a word, and its fields hold no reserved value, so decoding its word gives it back. -/
def Statement (i : Instr) : Prop :=
  i.isWord = true → i.wellFormed = true → (∀ w why, i ≠ .notAnInstruction w why) → decode (encode i) = i

/-- `sop.add`. -/
theorem sopAdd (d : BitVec 5) (a : BitVec 5) (b : BitVec 5) : Statement (.sopAdd d a b) := by
  intro _ _ _
  have hL : FieldsFit [(11, 0), (5, b.toNat), (5, a.toNat), (5, d.toNat), (6, 1)] := ⟨by decide, b.isLt, a.isLt, d.isLt, by decide, trivial⟩
  refine decode_of [(11, 0), (5, b.toNat), (5, a.toNat), (5, d.toNat), (6, 1)] hL rfl (by change 67108864 + d.toNat * 2097152 + a.toNat * 65536 + b.toNat * 2048 = _; simp only [ofDigits]; omega) fun num hn => ?_
  refine (decodeNat_sop (fld_at hn hL 4 (lo := 26) (w := 6) rfl rfl)).trans ?_
  unfold decodeSop
  rw [fld_at hn hL 0 (lo := 0) (w := 11) rfl rfl]
  exact congr (congr (congrArg Instr.sopAdd (bits_of (v := d) (fld_at hn hL 3 (lo := 21) (w := 5) rfl rfl))) (bits_of (v := a) (fld_at hn hL 2 (lo := 16) (w := 5) rfl rfl))) (bits_of (v := b) (fld_at hn hL 1 (lo := 11) (w := 5) rfl rfl))

/-- `sop.sub`. -/
theorem sopSub (d : BitVec 5) (a : BitVec 5) (b : BitVec 5) : Statement (.sopSub d a b) := by
  intro _ _ _
  have hL : FieldsFit [(11, 1), (5, b.toNat), (5, a.toNat), (5, d.toNat), (6, 1)] := ⟨by decide, b.isLt, a.isLt, d.isLt, by decide, trivial⟩
  refine decode_of [(11, 1), (5, b.toNat), (5, a.toNat), (5, d.toNat), (6, 1)] hL rfl (by change 67108865 + d.toNat * 2097152 + a.toNat * 65536 + b.toNat * 2048 = _; simp only [ofDigits]; omega) fun num hn => ?_
  refine (decodeNat_sop (fld_at hn hL 4 (lo := 26) (w := 6) rfl rfl)).trans ?_
  unfold decodeSop
  rw [fld_at hn hL 0 (lo := 0) (w := 11) rfl rfl]
  exact congr (congr (congrArg Instr.sopSub (bits_of (v := d) (fld_at hn hL 3 (lo := 21) (w := 5) rfl rfl))) (bits_of (v := a) (fld_at hn hL 2 (lo := 16) (w := 5) rfl rfl))) (bits_of (v := b) (fld_at hn hL 1 (lo := 11) (w := 5) rfl rfl))

/-- `sop.and`. -/
theorem sopAnd (d : BitVec 5) (a : BitVec 5) (b : BitVec 5) : Statement (.sopAnd d a b) := by
  intro _ _ _
  have hL : FieldsFit [(11, 2), (5, b.toNat), (5, a.toNat), (5, d.toNat), (6, 1)] := ⟨by decide, b.isLt, a.isLt, d.isLt, by decide, trivial⟩
  refine decode_of [(11, 2), (5, b.toNat), (5, a.toNat), (5, d.toNat), (6, 1)] hL rfl (by change 67108866 + d.toNat * 2097152 + a.toNat * 65536 + b.toNat * 2048 = _; simp only [ofDigits]; omega) fun num hn => ?_
  refine (decodeNat_sop (fld_at hn hL 4 (lo := 26) (w := 6) rfl rfl)).trans ?_
  unfold decodeSop
  rw [fld_at hn hL 0 (lo := 0) (w := 11) rfl rfl]
  exact congr (congr (congrArg Instr.sopAnd (bits_of (v := d) (fld_at hn hL 3 (lo := 21) (w := 5) rfl rfl))) (bits_of (v := a) (fld_at hn hL 2 (lo := 16) (w := 5) rfl rfl))) (bits_of (v := b) (fld_at hn hL 1 (lo := 11) (w := 5) rfl rfl))

/-- `sop.or`. -/
theorem sopOr (d : BitVec 5) (a : BitVec 5) (b : BitVec 5) : Statement (.sopOr d a b) := by
  intro _ _ _
  have hL : FieldsFit [(11, 3), (5, b.toNat), (5, a.toNat), (5, d.toNat), (6, 1)] := ⟨by decide, b.isLt, a.isLt, d.isLt, by decide, trivial⟩
  refine decode_of [(11, 3), (5, b.toNat), (5, a.toNat), (5, d.toNat), (6, 1)] hL rfl (by change 67108867 + d.toNat * 2097152 + a.toNat * 65536 + b.toNat * 2048 = _; simp only [ofDigits]; omega) fun num hn => ?_
  refine (decodeNat_sop (fld_at hn hL 4 (lo := 26) (w := 6) rfl rfl)).trans ?_
  unfold decodeSop
  rw [fld_at hn hL 0 (lo := 0) (w := 11) rfl rfl]
  exact congr (congr (congrArg Instr.sopOr (bits_of (v := d) (fld_at hn hL 3 (lo := 21) (w := 5) rfl rfl))) (bits_of (v := a) (fld_at hn hL 2 (lo := 16) (w := 5) rfl rfl))) (bits_of (v := b) (fld_at hn hL 1 (lo := 11) (w := 5) rfl rfl))

/-- `sop.xor`. -/
theorem sopXor (d : BitVec 5) (a : BitVec 5) (b : BitVec 5) : Statement (.sopXor d a b) := by
  intro _ _ _
  have hL : FieldsFit [(11, 4), (5, b.toNat), (5, a.toNat), (5, d.toNat), (6, 1)] := ⟨by decide, b.isLt, a.isLt, d.isLt, by decide, trivial⟩
  refine decode_of [(11, 4), (5, b.toNat), (5, a.toNat), (5, d.toNat), (6, 1)] hL rfl (by change 67108868 + d.toNat * 2097152 + a.toNat * 65536 + b.toNat * 2048 = _; simp only [ofDigits]; omega) fun num hn => ?_
  refine (decodeNat_sop (fld_at hn hL 4 (lo := 26) (w := 6) rfl rfl)).trans ?_
  unfold decodeSop
  rw [fld_at hn hL 0 (lo := 0) (w := 11) rfl rfl]
  exact congr (congr (congrArg Instr.sopXor (bits_of (v := d) (fld_at hn hL 3 (lo := 21) (w := 5) rfl rfl))) (bits_of (v := a) (fld_at hn hL 2 (lo := 16) (w := 5) rfl rfl))) (bits_of (v := b) (fld_at hn hL 1 (lo := 11) (w := 5) rfl rfl))

/-- `sop.andn`. -/
theorem sopAndn (d : BitVec 5) (a : BitVec 5) (b : BitVec 5) : Statement (.sopAndn d a b) := by
  intro _ _ _
  have hL : FieldsFit [(11, 5), (5, b.toNat), (5, a.toNat), (5, d.toNat), (6, 1)] := ⟨by decide, b.isLt, a.isLt, d.isLt, by decide, trivial⟩
  refine decode_of [(11, 5), (5, b.toNat), (5, a.toNat), (5, d.toNat), (6, 1)] hL rfl (by change 67108869 + d.toNat * 2097152 + a.toNat * 65536 + b.toNat * 2048 = _; simp only [ofDigits]; omega) fun num hn => ?_
  refine (decodeNat_sop (fld_at hn hL 4 (lo := 26) (w := 6) rfl rfl)).trans ?_
  unfold decodeSop
  rw [fld_at hn hL 0 (lo := 0) (w := 11) rfl rfl]
  exact congr (congr (congrArg Instr.sopAndn (bits_of (v := d) (fld_at hn hL 3 (lo := 21) (w := 5) rfl rfl))) (bits_of (v := a) (fld_at hn hL 2 (lo := 16) (w := 5) rfl rfl))) (bits_of (v := b) (fld_at hn hL 1 (lo := 11) (w := 5) rfl rfl))

/-- `sop.sll`. -/
theorem sopSll (d : BitVec 5) (a : BitVec 5) (b : BitVec 5) : Statement (.sopSll d a b) := by
  intro _ _ _
  have hL : FieldsFit [(11, 6), (5, b.toNat), (5, a.toNat), (5, d.toNat), (6, 1)] := ⟨by decide, b.isLt, a.isLt, d.isLt, by decide, trivial⟩
  refine decode_of [(11, 6), (5, b.toNat), (5, a.toNat), (5, d.toNat), (6, 1)] hL rfl (by change 67108870 + d.toNat * 2097152 + a.toNat * 65536 + b.toNat * 2048 = _; simp only [ofDigits]; omega) fun num hn => ?_
  refine (decodeNat_sop (fld_at hn hL 4 (lo := 26) (w := 6) rfl rfl)).trans ?_
  unfold decodeSop
  rw [fld_at hn hL 0 (lo := 0) (w := 11) rfl rfl]
  exact congr (congr (congrArg Instr.sopSll (bits_of (v := d) (fld_at hn hL 3 (lo := 21) (w := 5) rfl rfl))) (bits_of (v := a) (fld_at hn hL 2 (lo := 16) (w := 5) rfl rfl))) (bits_of (v := b) (fld_at hn hL 1 (lo := 11) (w := 5) rfl rfl))

/-- `sop.srl`. -/
theorem sopSrl (d : BitVec 5) (a : BitVec 5) (b : BitVec 5) : Statement (.sopSrl d a b) := by
  intro _ _ _
  have hL : FieldsFit [(11, 7), (5, b.toNat), (5, a.toNat), (5, d.toNat), (6, 1)] := ⟨by decide, b.isLt, a.isLt, d.isLt, by decide, trivial⟩
  refine decode_of [(11, 7), (5, b.toNat), (5, a.toNat), (5, d.toNat), (6, 1)] hL rfl (by change 67108871 + d.toNat * 2097152 + a.toNat * 65536 + b.toNat * 2048 = _; simp only [ofDigits]; omega) fun num hn => ?_
  refine (decodeNat_sop (fld_at hn hL 4 (lo := 26) (w := 6) rfl rfl)).trans ?_
  unfold decodeSop
  rw [fld_at hn hL 0 (lo := 0) (w := 11) rfl rfl]
  exact congr (congr (congrArg Instr.sopSrl (bits_of (v := d) (fld_at hn hL 3 (lo := 21) (w := 5) rfl rfl))) (bits_of (v := a) (fld_at hn hL 2 (lo := 16) (w := 5) rfl rfl))) (bits_of (v := b) (fld_at hn hL 1 (lo := 11) (w := 5) rfl rfl))

/-- `sop.sra`. -/
theorem sopSra (d : BitVec 5) (a : BitVec 5) (b : BitVec 5) : Statement (.sopSra d a b) := by
  intro _ _ _
  have hL : FieldsFit [(11, 8), (5, b.toNat), (5, a.toNat), (5, d.toNat), (6, 1)] := ⟨by decide, b.isLt, a.isLt, d.isLt, by decide, trivial⟩
  refine decode_of [(11, 8), (5, b.toNat), (5, a.toNat), (5, d.toNat), (6, 1)] hL rfl (by change 67108872 + d.toNat * 2097152 + a.toNat * 65536 + b.toNat * 2048 = _; simp only [ofDigits]; omega) fun num hn => ?_
  refine (decodeNat_sop (fld_at hn hL 4 (lo := 26) (w := 6) rfl rfl)).trans ?_
  unfold decodeSop
  rw [fld_at hn hL 0 (lo := 0) (w := 11) rfl rfl]
  exact congr (congr (congrArg Instr.sopSra (bits_of (v := d) (fld_at hn hL 3 (lo := 21) (w := 5) rfl rfl))) (bits_of (v := a) (fld_at hn hL 2 (lo := 16) (w := 5) rfl rfl))) (bits_of (v := b) (fld_at hn hL 1 (lo := 11) (w := 5) rfl rfl))

/-- `sop.slt`. -/
theorem sopSlt (d : BitVec 5) (a : BitVec 5) (b : BitVec 5) : Statement (.sopSlt d a b) := by
  intro _ _ _
  have hL : FieldsFit [(11, 9), (5, b.toNat), (5, a.toNat), (5, d.toNat), (6, 1)] := ⟨by decide, b.isLt, a.isLt, d.isLt, by decide, trivial⟩
  refine decode_of [(11, 9), (5, b.toNat), (5, a.toNat), (5, d.toNat), (6, 1)] hL rfl (by change 67108873 + d.toNat * 2097152 + a.toNat * 65536 + b.toNat * 2048 = _; simp only [ofDigits]; omega) fun num hn => ?_
  refine (decodeNat_sop (fld_at hn hL 4 (lo := 26) (w := 6) rfl rfl)).trans ?_
  unfold decodeSop
  rw [fld_at hn hL 0 (lo := 0) (w := 11) rfl rfl]
  exact congr (congr (congrArg Instr.sopSlt (bits_of (v := d) (fld_at hn hL 3 (lo := 21) (w := 5) rfl rfl))) (bits_of (v := a) (fld_at hn hL 2 (lo := 16) (w := 5) rfl rfl))) (bits_of (v := b) (fld_at hn hL 1 (lo := 11) (w := 5) rfl rfl))

/-- `sop.sltu`. -/
theorem sopSltu (d : BitVec 5) (a : BitVec 5) (b : BitVec 5) : Statement (.sopSltu d a b) := by
  intro _ _ _
  have hL : FieldsFit [(11, 10), (5, b.toNat), (5, a.toNat), (5, d.toNat), (6, 1)] := ⟨by decide, b.isLt, a.isLt, d.isLt, by decide, trivial⟩
  refine decode_of [(11, 10), (5, b.toNat), (5, a.toNat), (5, d.toNat), (6, 1)] hL rfl (by change 67108874 + d.toNat * 2097152 + a.toNat * 65536 + b.toNat * 2048 = _; simp only [ofDigits]; omega) fun num hn => ?_
  refine (decodeNat_sop (fld_at hn hL 4 (lo := 26) (w := 6) rfl rfl)).trans ?_
  unfold decodeSop
  rw [fld_at hn hL 0 (lo := 0) (w := 11) rfl rfl]
  exact congr (congr (congrArg Instr.sopSltu (bits_of (v := d) (fld_at hn hL 3 (lo := 21) (w := 5) rfl rfl))) (bits_of (v := a) (fld_at hn hL 2 (lo := 16) (w := 5) rfl rfl))) (bits_of (v := b) (fld_at hn hL 1 (lo := 11) (w := 5) rfl rfl))

/-- `sop.min`. -/
theorem sopMin (d : BitVec 5) (a : BitVec 5) (b : BitVec 5) : Statement (.sopMin d a b) := by
  intro _ _ _
  have hL : FieldsFit [(11, 11), (5, b.toNat), (5, a.toNat), (5, d.toNat), (6, 1)] := ⟨by decide, b.isLt, a.isLt, d.isLt, by decide, trivial⟩
  refine decode_of [(11, 11), (5, b.toNat), (5, a.toNat), (5, d.toNat), (6, 1)] hL rfl (by change 67108875 + d.toNat * 2097152 + a.toNat * 65536 + b.toNat * 2048 = _; simp only [ofDigits]; omega) fun num hn => ?_
  refine (decodeNat_sop (fld_at hn hL 4 (lo := 26) (w := 6) rfl rfl)).trans ?_
  unfold decodeSop
  rw [fld_at hn hL 0 (lo := 0) (w := 11) rfl rfl]
  exact congr (congr (congrArg Instr.sopMin (bits_of (v := d) (fld_at hn hL 3 (lo := 21) (w := 5) rfl rfl))) (bits_of (v := a) (fld_at hn hL 2 (lo := 16) (w := 5) rfl rfl))) (bits_of (v := b) (fld_at hn hL 1 (lo := 11) (w := 5) rfl rfl))

/-- `sop.max`. -/
theorem sopMax (d : BitVec 5) (a : BitVec 5) (b : BitVec 5) : Statement (.sopMax d a b) := by
  intro _ _ _
  have hL : FieldsFit [(11, 12), (5, b.toNat), (5, a.toNat), (5, d.toNat), (6, 1)] := ⟨by decide, b.isLt, a.isLt, d.isLt, by decide, trivial⟩
  refine decode_of [(11, 12), (5, b.toNat), (5, a.toNat), (5, d.toNat), (6, 1)] hL rfl (by change 67108876 + d.toNat * 2097152 + a.toNat * 65536 + b.toNat * 2048 = _; simp only [ofDigits]; omega) fun num hn => ?_
  refine (decodeNat_sop (fld_at hn hL 4 (lo := 26) (w := 6) rfl rfl)).trans ?_
  unfold decodeSop
  rw [fld_at hn hL 0 (lo := 0) (w := 11) rfl rfl]
  exact congr (congr (congrArg Instr.sopMax (bits_of (v := d) (fld_at hn hL 3 (lo := 21) (w := 5) rfl rfl))) (bits_of (v := a) (fld_at hn hL 2 (lo := 16) (w := 5) rfl rfl))) (bits_of (v := b) (fld_at hn hL 1 (lo := 11) (w := 5) rfl rfl))

/-- `sop.minu`. -/
theorem sopMinu (d : BitVec 5) (a : BitVec 5) (b : BitVec 5) : Statement (.sopMinu d a b) := by
  intro _ _ _
  have hL : FieldsFit [(11, 13), (5, b.toNat), (5, a.toNat), (5, d.toNat), (6, 1)] := ⟨by decide, b.isLt, a.isLt, d.isLt, by decide, trivial⟩
  refine decode_of [(11, 13), (5, b.toNat), (5, a.toNat), (5, d.toNat), (6, 1)] hL rfl (by change 67108877 + d.toNat * 2097152 + a.toNat * 65536 + b.toNat * 2048 = _; simp only [ofDigits]; omega) fun num hn => ?_
  refine (decodeNat_sop (fld_at hn hL 4 (lo := 26) (w := 6) rfl rfl)).trans ?_
  unfold decodeSop
  rw [fld_at hn hL 0 (lo := 0) (w := 11) rfl rfl]
  exact congr (congr (congrArg Instr.sopMinu (bits_of (v := d) (fld_at hn hL 3 (lo := 21) (w := 5) rfl rfl))) (bits_of (v := a) (fld_at hn hL 2 (lo := 16) (w := 5) rfl rfl))) (bits_of (v := b) (fld_at hn hL 1 (lo := 11) (w := 5) rfl rfl))

/-- `sop.maxu`. -/
theorem sopMaxu (d : BitVec 5) (a : BitVec 5) (b : BitVec 5) : Statement (.sopMaxu d a b) := by
  intro _ _ _
  have hL : FieldsFit [(11, 14), (5, b.toNat), (5, a.toNat), (5, d.toNat), (6, 1)] := ⟨by decide, b.isLt, a.isLt, d.isLt, by decide, trivial⟩
  refine decode_of [(11, 14), (5, b.toNat), (5, a.toNat), (5, d.toNat), (6, 1)] hL rfl (by change 67108878 + d.toNat * 2097152 + a.toNat * 65536 + b.toNat * 2048 = _; simp only [ofDigits]; omega) fun num hn => ?_
  refine (decodeNat_sop (fld_at hn hL 4 (lo := 26) (w := 6) rfl rfl)).trans ?_
  unfold decodeSop
  rw [fld_at hn hL 0 (lo := 0) (w := 11) rfl rfl]
  exact congr (congr (congrArg Instr.sopMaxu (bits_of (v := d) (fld_at hn hL 3 (lo := 21) (w := 5) rfl rfl))) (bits_of (v := a) (fld_at hn hL 2 (lo := 16) (w := 5) rfl rfl))) (bits_of (v := b) (fld_at hn hL 1 (lo := 11) (w := 5) rfl rfl))

/-- `sop.mul`. -/
theorem sopMul (d : BitVec 5) (a : BitVec 5) (b : BitVec 5) : Statement (.sopMul d a b) := by
  intro _ _ _
  have hL : FieldsFit [(11, 15), (5, b.toNat), (5, a.toNat), (5, d.toNat), (6, 1)] := ⟨by decide, b.isLt, a.isLt, d.isLt, by decide, trivial⟩
  refine decode_of [(11, 15), (5, b.toNat), (5, a.toNat), (5, d.toNat), (6, 1)] hL rfl (by change 67108879 + d.toNat * 2097152 + a.toNat * 65536 + b.toNat * 2048 = _; simp only [ofDigits]; omega) fun num hn => ?_
  refine (decodeNat_sop (fld_at hn hL 4 (lo := 26) (w := 6) rfl rfl)).trans ?_
  unfold decodeSop
  rw [fld_at hn hL 0 (lo := 0) (w := 11) rfl rfl]
  exact congr (congr (congrArg Instr.sopMul (bits_of (v := d) (fld_at hn hL 3 (lo := 21) (w := 5) rfl rfl))) (bits_of (v := a) (fld_at hn hL 2 (lo := 16) (w := 5) rfl rfl))) (bits_of (v := b) (fld_at hn hL 1 (lo := 11) (w := 5) rfl rfl))

/-- `sop.mulh`. -/
theorem sopMulh (d : BitVec 5) (a : BitVec 5) (b : BitVec 5) : Statement (.sopMulh d a b) := by
  intro _ _ _
  have hL : FieldsFit [(11, 16), (5, b.toNat), (5, a.toNat), (5, d.toNat), (6, 1)] := ⟨by decide, b.isLt, a.isLt, d.isLt, by decide, trivial⟩
  refine decode_of [(11, 16), (5, b.toNat), (5, a.toNat), (5, d.toNat), (6, 1)] hL rfl (by change 67108880 + d.toNat * 2097152 + a.toNat * 65536 + b.toNat * 2048 = _; simp only [ofDigits]; omega) fun num hn => ?_
  refine (decodeNat_sop (fld_at hn hL 4 (lo := 26) (w := 6) rfl rfl)).trans ?_
  unfold decodeSop
  rw [fld_at hn hL 0 (lo := 0) (w := 11) rfl rfl]
  exact congr (congr (congrArg Instr.sopMulh (bits_of (v := d) (fld_at hn hL 3 (lo := 21) (w := 5) rfl rfl))) (bits_of (v := a) (fld_at hn hL 2 (lo := 16) (w := 5) rfl rfl))) (bits_of (v := b) (fld_at hn hL 1 (lo := 11) (w := 5) rfl rfl))

/-- `sop.mulhu`. -/
theorem sopMulhu (d : BitVec 5) (a : BitVec 5) (b : BitVec 5) : Statement (.sopMulhu d a b) := by
  intro _ _ _
  have hL : FieldsFit [(11, 17), (5, b.toNat), (5, a.toNat), (5, d.toNat), (6, 1)] := ⟨by decide, b.isLt, a.isLt, d.isLt, by decide, trivial⟩
  refine decode_of [(11, 17), (5, b.toNat), (5, a.toNat), (5, d.toNat), (6, 1)] hL rfl (by change 67108881 + d.toNat * 2097152 + a.toNat * 65536 + b.toNat * 2048 = _; simp only [ofDigits]; omega) fun num hn => ?_
  refine (decodeNat_sop (fld_at hn hL 4 (lo := 26) (w := 6) rfl rfl)).trans ?_
  unfold decodeSop
  rw [fld_at hn hL 0 (lo := 0) (w := 11) rfl rfl]
  exact congr (congr (congrArg Instr.sopMulhu (bits_of (v := d) (fld_at hn hL 3 (lo := 21) (w := 5) rfl rfl))) (bits_of (v := a) (fld_at hn hL 2 (lo := 16) (w := 5) rfl rfl))) (bits_of (v := b) (fld_at hn hL 1 (lo := 11) (w := 5) rfl rfl))

/-- `sop.div`. -/
theorem sopDiv (d : BitVec 5) (a : BitVec 5) (b : BitVec 5) : Statement (.sopDiv d a b) := by
  intro _ _ _
  have hL : FieldsFit [(11, 18), (5, b.toNat), (5, a.toNat), (5, d.toNat), (6, 1)] := ⟨by decide, b.isLt, a.isLt, d.isLt, by decide, trivial⟩
  refine decode_of [(11, 18), (5, b.toNat), (5, a.toNat), (5, d.toNat), (6, 1)] hL rfl (by change 67108882 + d.toNat * 2097152 + a.toNat * 65536 + b.toNat * 2048 = _; simp only [ofDigits]; omega) fun num hn => ?_
  refine (decodeNat_sop (fld_at hn hL 4 (lo := 26) (w := 6) rfl rfl)).trans ?_
  unfold decodeSop
  rw [fld_at hn hL 0 (lo := 0) (w := 11) rfl rfl]
  exact congr (congr (congrArg Instr.sopDiv (bits_of (v := d) (fld_at hn hL 3 (lo := 21) (w := 5) rfl rfl))) (bits_of (v := a) (fld_at hn hL 2 (lo := 16) (w := 5) rfl rfl))) (bits_of (v := b) (fld_at hn hL 1 (lo := 11) (w := 5) rfl rfl))

/-- `sop.divu`. -/
theorem sopDivu (d : BitVec 5) (a : BitVec 5) (b : BitVec 5) : Statement (.sopDivu d a b) := by
  intro _ _ _
  have hL : FieldsFit [(11, 19), (5, b.toNat), (5, a.toNat), (5, d.toNat), (6, 1)] := ⟨by decide, b.isLt, a.isLt, d.isLt, by decide, trivial⟩
  refine decode_of [(11, 19), (5, b.toNat), (5, a.toNat), (5, d.toNat), (6, 1)] hL rfl (by change 67108883 + d.toNat * 2097152 + a.toNat * 65536 + b.toNat * 2048 = _; simp only [ofDigits]; omega) fun num hn => ?_
  refine (decodeNat_sop (fld_at hn hL 4 (lo := 26) (w := 6) rfl rfl)).trans ?_
  unfold decodeSop
  rw [fld_at hn hL 0 (lo := 0) (w := 11) rfl rfl]
  exact congr (congr (congrArg Instr.sopDivu (bits_of (v := d) (fld_at hn hL 3 (lo := 21) (w := 5) rfl rfl))) (bits_of (v := a) (fld_at hn hL 2 (lo := 16) (w := 5) rfl rfl))) (bits_of (v := b) (fld_at hn hL 1 (lo := 11) (w := 5) rfl rfl))

/-- `sop.rem`. -/
theorem sopRem (d : BitVec 5) (a : BitVec 5) (b : BitVec 5) : Statement (.sopRem d a b) := by
  intro _ _ _
  have hL : FieldsFit [(11, 20), (5, b.toNat), (5, a.toNat), (5, d.toNat), (6, 1)] := ⟨by decide, b.isLt, a.isLt, d.isLt, by decide, trivial⟩
  refine decode_of [(11, 20), (5, b.toNat), (5, a.toNat), (5, d.toNat), (6, 1)] hL rfl (by change 67108884 + d.toNat * 2097152 + a.toNat * 65536 + b.toNat * 2048 = _; simp only [ofDigits]; omega) fun num hn => ?_
  refine (decodeNat_sop (fld_at hn hL 4 (lo := 26) (w := 6) rfl rfl)).trans ?_
  unfold decodeSop
  rw [fld_at hn hL 0 (lo := 0) (w := 11) rfl rfl]
  exact congr (congr (congrArg Instr.sopRem (bits_of (v := d) (fld_at hn hL 3 (lo := 21) (w := 5) rfl rfl))) (bits_of (v := a) (fld_at hn hL 2 (lo := 16) (w := 5) rfl rfl))) (bits_of (v := b) (fld_at hn hL 1 (lo := 11) (w := 5) rfl rfl))

/-- `sop.remu`. -/
theorem sopRemu (d : BitVec 5) (a : BitVec 5) (b : BitVec 5) : Statement (.sopRemu d a b) := by
  intro _ _ _
  have hL : FieldsFit [(11, 21), (5, b.toNat), (5, a.toNat), (5, d.toNat), (6, 1)] := ⟨by decide, b.isLt, a.isLt, d.isLt, by decide, trivial⟩
  refine decode_of [(11, 21), (5, b.toNat), (5, a.toNat), (5, d.toNat), (6, 1)] hL rfl (by change 67108885 + d.toNat * 2097152 + a.toNat * 65536 + b.toNat * 2048 = _; simp only [ofDigits]; omega) fun num hn => ?_
  refine (decodeNat_sop (fld_at hn hL 4 (lo := 26) (w := 6) rfl rfl)).trans ?_
  unfold decodeSop
  rw [fld_at hn hL 0 (lo := 0) (w := 11) rfl rfl]
  exact congr (congr (congrArg Instr.sopRemu (bits_of (v := d) (fld_at hn hL 3 (lo := 21) (w := 5) rfl rfl))) (bits_of (v := a) (fld_at hn hL 2 (lo := 16) (w := 5) rfl rfl))) (bits_of (v := b) (fld_at hn hL 1 (lo := 11) (w := 5) rfl rfl))

/-- `sop.clz`. -/
theorem sopClz (d : BitVec 5) (a : BitVec 5) : Statement (.sopClz d a) := by
  intro _ _ _
  have hL : FieldsFit [(11, 22), (5, 0), (5, a.toNat), (5, d.toNat), (6, 1)] := ⟨by decide, by decide, a.isLt, d.isLt, by decide, trivial⟩
  refine decode_of [(11, 22), (5, 0), (5, a.toNat), (5, d.toNat), (6, 1)] hL rfl (by change 67108886 + d.toNat * 2097152 + a.toNat * 65536 = _; simp only [ofDigits]; omega) fun num hn => ?_
  refine (decodeNat_sop (fld_at hn hL 4 (lo := 26) (w := 6) rfl rfl)).trans ?_
  unfold decodeSop
  rw [fld_at hn hL 0 (lo := 0) (w := 11) rfl rfl]
  refine (if_pos (fld_at hn hL 1 (lo := 11) (w := 5) rfl rfl)).trans ?_
  exact congr (congrArg Instr.sopClz (bits_of (v := d) (fld_at hn hL 3 (lo := 21) (w := 5) rfl rfl))) (bits_of (v := a) (fld_at hn hL 2 (lo := 16) (w := 5) rfl rfl))

/-- `sop.ctz`. -/
theorem sopCtz (d : BitVec 5) (a : BitVec 5) : Statement (.sopCtz d a) := by
  intro _ _ _
  have hL : FieldsFit [(11, 23), (5, 0), (5, a.toNat), (5, d.toNat), (6, 1)] := ⟨by decide, by decide, a.isLt, d.isLt, by decide, trivial⟩
  refine decode_of [(11, 23), (5, 0), (5, a.toNat), (5, d.toNat), (6, 1)] hL rfl (by change 67108887 + d.toNat * 2097152 + a.toNat * 65536 = _; simp only [ofDigits]; omega) fun num hn => ?_
  refine (decodeNat_sop (fld_at hn hL 4 (lo := 26) (w := 6) rfl rfl)).trans ?_
  unfold decodeSop
  rw [fld_at hn hL 0 (lo := 0) (w := 11) rfl rfl]
  refine (if_pos (fld_at hn hL 1 (lo := 11) (w := 5) rfl rfl)).trans ?_
  exact congr (congrArg Instr.sopCtz (bits_of (v := d) (fld_at hn hL 3 (lo := 21) (w := 5) rfl rfl))) (bits_of (v := a) (fld_at hn hL 2 (lo := 16) (w := 5) rfl rfl))

/-- `sop.pop`. -/
theorem sopPop (d : BitVec 5) (a : BitVec 5) : Statement (.sopPop d a) := by
  intro _ _ _
  have hL : FieldsFit [(11, 24), (5, 0), (5, a.toNat), (5, d.toNat), (6, 1)] := ⟨by decide, by decide, a.isLt, d.isLt, by decide, trivial⟩
  refine decode_of [(11, 24), (5, 0), (5, a.toNat), (5, d.toNat), (6, 1)] hL rfl (by change 67108888 + d.toNat * 2097152 + a.toNat * 65536 = _; simp only [ofDigits]; omega) fun num hn => ?_
  refine (decodeNat_sop (fld_at hn hL 4 (lo := 26) (w := 6) rfl rfl)).trans ?_
  unfold decodeSop
  rw [fld_at hn hL 0 (lo := 0) (w := 11) rfl rfl]
  refine (if_pos (fld_at hn hL 1 (lo := 11) (w := 5) rfl rfl)).trans ?_
  exact congr (congrArg Instr.sopPop (bits_of (v := d) (fld_at hn hL 3 (lo := 21) (w := 5) rfl rfl))) (bits_of (v := a) (fld_at hn hL 2 (lo := 16) (w := 5) rfl rfl))

/-- `sopi.addi`. -/
theorem sopiAddi (d : BitVec 5) (a : BitVec 5) (i : BitVec 12) : Statement (.sopiAddi d a i) := by
  intro _ _ _
  have hL : FieldsFit [(12, i.toNat), (4, 0), (5, a.toNat), (5, d.toNat), (6, 2)] := ⟨i.isLt, by decide, a.isLt, d.isLt, by decide, trivial⟩
  refine decode_of [(12, i.toNat), (4, 0), (5, a.toNat), (5, d.toNat), (6, 2)] hL rfl (by change 134217728 + d.toNat * 2097152 + a.toNat * 65536 + i.toNat = _; simp only [ofDigits]; omega) fun num hn => ?_
  refine (decodeNat_sopi (fld_at hn hL 4 (lo := 26) (w := 6) rfl rfl)).trans ?_
  unfold decodeSopi
  rw [fld_at hn hL 1 (lo := 12) (w := 4) rfl rfl]
  exact congr (congr (congrArg Instr.sopiAddi (bits_of (v := d) (fld_at hn hL 3 (lo := 21) (w := 5) rfl rfl))) (bits_of (v := a) (fld_at hn hL 2 (lo := 16) (w := 5) rfl rfl))) (bits_of (v := i) (fld_at hn hL 0 (lo := 0) (w := 12) rfl rfl))

/-- `sopi.andi`. -/
theorem sopiAndi (d : BitVec 5) (a : BitVec 5) (i : BitVec 12) : Statement (.sopiAndi d a i) := by
  intro _ _ _
  have hL : FieldsFit [(12, i.toNat), (4, 1), (5, a.toNat), (5, d.toNat), (6, 2)] := ⟨i.isLt, by decide, a.isLt, d.isLt, by decide, trivial⟩
  refine decode_of [(12, i.toNat), (4, 1), (5, a.toNat), (5, d.toNat), (6, 2)] hL rfl (by change 134221824 + d.toNat * 2097152 + a.toNat * 65536 + i.toNat = _; simp only [ofDigits]; omega) fun num hn => ?_
  refine (decodeNat_sopi (fld_at hn hL 4 (lo := 26) (w := 6) rfl rfl)).trans ?_
  unfold decodeSopi
  rw [fld_at hn hL 1 (lo := 12) (w := 4) rfl rfl]
  exact congr (congr (congrArg Instr.sopiAndi (bits_of (v := d) (fld_at hn hL 3 (lo := 21) (w := 5) rfl rfl))) (bits_of (v := a) (fld_at hn hL 2 (lo := 16) (w := 5) rfl rfl))) (bits_of (v := i) (fld_at hn hL 0 (lo := 0) (w := 12) rfl rfl))

/-- `sopi.ori`. -/
theorem sopiOri (d : BitVec 5) (a : BitVec 5) (i : BitVec 12) : Statement (.sopiOri d a i) := by
  intro _ _ _
  have hL : FieldsFit [(12, i.toNat), (4, 2), (5, a.toNat), (5, d.toNat), (6, 2)] := ⟨i.isLt, by decide, a.isLt, d.isLt, by decide, trivial⟩
  refine decode_of [(12, i.toNat), (4, 2), (5, a.toNat), (5, d.toNat), (6, 2)] hL rfl (by change 134225920 + d.toNat * 2097152 + a.toNat * 65536 + i.toNat = _; simp only [ofDigits]; omega) fun num hn => ?_
  refine (decodeNat_sopi (fld_at hn hL 4 (lo := 26) (w := 6) rfl rfl)).trans ?_
  unfold decodeSopi
  rw [fld_at hn hL 1 (lo := 12) (w := 4) rfl rfl]
  exact congr (congr (congrArg Instr.sopiOri (bits_of (v := d) (fld_at hn hL 3 (lo := 21) (w := 5) rfl rfl))) (bits_of (v := a) (fld_at hn hL 2 (lo := 16) (w := 5) rfl rfl))) (bits_of (v := i) (fld_at hn hL 0 (lo := 0) (w := 12) rfl rfl))

/-- `sopi.xori`. -/
theorem sopiXori (d : BitVec 5) (a : BitVec 5) (i : BitVec 12) : Statement (.sopiXori d a i) := by
  intro _ _ _
  have hL : FieldsFit [(12, i.toNat), (4, 3), (5, a.toNat), (5, d.toNat), (6, 2)] := ⟨i.isLt, by decide, a.isLt, d.isLt, by decide, trivial⟩
  refine decode_of [(12, i.toNat), (4, 3), (5, a.toNat), (5, d.toNat), (6, 2)] hL rfl (by change 134230016 + d.toNat * 2097152 + a.toNat * 65536 + i.toNat = _; simp only [ofDigits]; omega) fun num hn => ?_
  refine (decodeNat_sopi (fld_at hn hL 4 (lo := 26) (w := 6) rfl rfl)).trans ?_
  unfold decodeSopi
  rw [fld_at hn hL 1 (lo := 12) (w := 4) rfl rfl]
  exact congr (congr (congrArg Instr.sopiXori (bits_of (v := d) (fld_at hn hL 3 (lo := 21) (w := 5) rfl rfl))) (bits_of (v := a) (fld_at hn hL 2 (lo := 16) (w := 5) rfl rfl))) (bits_of (v := i) (fld_at hn hL 0 (lo := 0) (w := 12) rfl rfl))

/-- `sopi.slti`. -/
theorem sopiSlti (d : BitVec 5) (a : BitVec 5) (i : BitVec 12) : Statement (.sopiSlti d a i) := by
  intro _ _ _
  have hL : FieldsFit [(12, i.toNat), (4, 4), (5, a.toNat), (5, d.toNat), (6, 2)] := ⟨i.isLt, by decide, a.isLt, d.isLt, by decide, trivial⟩
  refine decode_of [(12, i.toNat), (4, 4), (5, a.toNat), (5, d.toNat), (6, 2)] hL rfl (by change 134234112 + d.toNat * 2097152 + a.toNat * 65536 + i.toNat = _; simp only [ofDigits]; omega) fun num hn => ?_
  refine (decodeNat_sopi (fld_at hn hL 4 (lo := 26) (w := 6) rfl rfl)).trans ?_
  unfold decodeSopi
  rw [fld_at hn hL 1 (lo := 12) (w := 4) rfl rfl]
  exact congr (congr (congrArg Instr.sopiSlti (bits_of (v := d) (fld_at hn hL 3 (lo := 21) (w := 5) rfl rfl))) (bits_of (v := a) (fld_at hn hL 2 (lo := 16) (w := 5) rfl rfl))) (bits_of (v := i) (fld_at hn hL 0 (lo := 0) (w := 12) rfl rfl))

/-- `sopi.sltiu`. -/
theorem sopiSltiu (d : BitVec 5) (a : BitVec 5) (i : BitVec 12) : Statement (.sopiSltiu d a i) := by
  intro _ _ _
  have hL : FieldsFit [(12, i.toNat), (4, 5), (5, a.toNat), (5, d.toNat), (6, 2)] := ⟨i.isLt, by decide, a.isLt, d.isLt, by decide, trivial⟩
  refine decode_of [(12, i.toNat), (4, 5), (5, a.toNat), (5, d.toNat), (6, 2)] hL rfl (by change 134238208 + d.toNat * 2097152 + a.toNat * 65536 + i.toNat = _; simp only [ofDigits]; omega) fun num hn => ?_
  refine (decodeNat_sopi (fld_at hn hL 4 (lo := 26) (w := 6) rfl rfl)).trans ?_
  unfold decodeSopi
  rw [fld_at hn hL 1 (lo := 12) (w := 4) rfl rfl]
  exact congr (congr (congrArg Instr.sopiSltiu (bits_of (v := d) (fld_at hn hL 3 (lo := 21) (w := 5) rfl rfl))) (bits_of (v := a) (fld_at hn hL 2 (lo := 16) (w := 5) rfl rfl))) (bits_of (v := i) (fld_at hn hL 0 (lo := 0) (w := 12) rfl rfl))

/-- `sopi.slli`. -/
theorem sopiSlli (d : BitVec 5) (a : BitVec 5) (i : BitVec 6) : Statement (.sopiSlli d a i) := by
  intro _ _ _
  have hL : FieldsFit [(6, i.toNat), (6, 0), (4, 6), (5, a.toNat), (5, d.toNat), (6, 2)] := ⟨i.isLt, by decide, by decide, a.isLt, d.isLt, by decide, trivial⟩
  refine decode_of [(6, i.toNat), (6, 0), (4, 6), (5, a.toNat), (5, d.toNat), (6, 2)] hL rfl (by change 134242304 + d.toNat * 2097152 + a.toNat * 65536 + i.toNat = _; simp only [ofDigits]; omega) fun num hn => ?_
  refine (decodeNat_sopi (fld_at hn hL 5 (lo := 26) (w := 6) rfl rfl)).trans ?_
  unfold decodeSopi
  rw [fld_at hn hL 2 (lo := 12) (w := 4) rfl rfl]
  refine (if_pos (fld_at hn hL 1 (lo := 6) (w := 6) rfl rfl)).trans ?_
  exact congr (congr (congrArg Instr.sopiSlli (bits_of (v := d) (fld_at hn hL 4 (lo := 21) (w := 5) rfl rfl))) (bits_of (v := a) (fld_at hn hL 3 (lo := 16) (w := 5) rfl rfl))) (bits_of (v := i) (fld_at hn hL 0 (lo := 0) (w := 6) rfl rfl))

/-- `sopi.srli`. -/
theorem sopiSrli (d : BitVec 5) (a : BitVec 5) (i : BitVec 6) : Statement (.sopiSrli d a i) := by
  intro _ _ _
  have hL : FieldsFit [(6, i.toNat), (6, 0), (4, 7), (5, a.toNat), (5, d.toNat), (6, 2)] := ⟨i.isLt, by decide, by decide, a.isLt, d.isLt, by decide, trivial⟩
  refine decode_of [(6, i.toNat), (6, 0), (4, 7), (5, a.toNat), (5, d.toNat), (6, 2)] hL rfl (by change 134246400 + d.toNat * 2097152 + a.toNat * 65536 + i.toNat = _; simp only [ofDigits]; omega) fun num hn => ?_
  refine (decodeNat_sopi (fld_at hn hL 5 (lo := 26) (w := 6) rfl rfl)).trans ?_
  unfold decodeSopi
  rw [fld_at hn hL 2 (lo := 12) (w := 4) rfl rfl]
  refine (if_pos (fld_at hn hL 1 (lo := 6) (w := 6) rfl rfl)).trans ?_
  exact congr (congr (congrArg Instr.sopiSrli (bits_of (v := d) (fld_at hn hL 4 (lo := 21) (w := 5) rfl rfl))) (bits_of (v := a) (fld_at hn hL 3 (lo := 16) (w := 5) rfl rfl))) (bits_of (v := i) (fld_at hn hL 0 (lo := 0) (w := 6) rfl rfl))

/-- `sopi.srai`. -/
theorem sopiSrai (d : BitVec 5) (a : BitVec 5) (i : BitVec 6) : Statement (.sopiSrai d a i) := by
  intro _ _ _
  have hL : FieldsFit [(6, i.toNat), (6, 0), (4, 8), (5, a.toNat), (5, d.toNat), (6, 2)] := ⟨i.isLt, by decide, by decide, a.isLt, d.isLt, by decide, trivial⟩
  refine decode_of [(6, i.toNat), (6, 0), (4, 8), (5, a.toNat), (5, d.toNat), (6, 2)] hL rfl (by change 134250496 + d.toNat * 2097152 + a.toNat * 65536 + i.toNat = _; simp only [ofDigits]; omega) fun num hn => ?_
  refine (decodeNat_sopi (fld_at hn hL 5 (lo := 26) (w := 6) rfl rfl)).trans ?_
  unfold decodeSopi
  rw [fld_at hn hL 2 (lo := 12) (w := 4) rfl rfl]
  refine (if_pos (fld_at hn hL 1 (lo := 6) (w := 6) rfl rfl)).trans ?_
  exact congr (congr (congrArg Instr.sopiSrai (bits_of (v := d) (fld_at hn hL 4 (lo := 21) (w := 5) rfl rfl))) (bits_of (v := a) (fld_at hn hL 3 (lo := 16) (w := 5) rfl rfl))) (bits_of (v := i) (fld_at hn hL 0 (lo := 0) (w := 6) rfl rfl))

/-- `sopi.muli`. -/
theorem sopiMuli (d : BitVec 5) (a : BitVec 5) (i : BitVec 12) : Statement (.sopiMuli d a i) := by
  intro _ _ _
  have hL : FieldsFit [(12, i.toNat), (4, 9), (5, a.toNat), (5, d.toNat), (6, 2)] := ⟨i.isLt, by decide, a.isLt, d.isLt, by decide, trivial⟩
  refine decode_of [(12, i.toNat), (4, 9), (5, a.toNat), (5, d.toNat), (6, 2)] hL rfl (by change 134254592 + d.toNat * 2097152 + a.toNat * 65536 + i.toNat = _; simp only [ofDigits]; omega) fun num hn => ?_
  refine (decodeNat_sopi (fld_at hn hL 4 (lo := 26) (w := 6) rfl rfl)).trans ?_
  unfold decodeSopi
  rw [fld_at hn hL 1 (lo := 12) (w := 4) rfl rfl]
  exact congr (congr (congrArg Instr.sopiMuli (bits_of (v := d) (fld_at hn hL 3 (lo := 21) (w := 5) rfl rfl))) (bits_of (v := a) (fld_at hn hL 2 (lo := 16) (w := 5) rfl rfl))) (bits_of (v := i) (fld_at hn hL 0 (lo := 0) (w := 12) rfl rfl))

/-- `lui`. -/
theorem lui (d : BitVec 5) (i : BitVec 21) : Statement (.lui d i) := by
  intro _ _ _
  have hL : FieldsFit [(21, i.toNat), (5, d.toNat), (6, 3)] := ⟨i.isLt, d.isLt, by decide, trivial⟩
  refine decode_of [(21, i.toNat), (5, d.toNat), (6, 3)] hL rfl (by change 201326592 + d.toNat * 2097152 + i.toNat = _; simp only [ofDigits]; omega) fun num hn => ?_
  refine (decodeNat_lui (fld_at hn hL 2 (lo := 26) (w := 6) rfl rfl)).trans ?_
  unfold decodeLui
  exact congr (congrArg Instr.lui (bits_of (v := d) (fld_at hn hL 1 (lo := 21) (w := 5) rfl rfl))) (bits_of (v := i) (fld_at hn hL 0 (lo := 0) (w := 21) rfl rfl))

/-- `ld.b`. -/
theorem ldB (d : BitVec 5) (a : BitVec 5) (i : BitVec 12) : Statement (.ldB d a i) := by
  intro _ _ _
  have hL : FieldsFit [(12, i.toNat), (4, 0), (5, a.toNat), (5, d.toNat), (6, 4)] := ⟨i.isLt, by decide, a.isLt, d.isLt, by decide, trivial⟩
  refine decode_of [(12, i.toNat), (4, 0), (5, a.toNat), (5, d.toNat), (6, 4)] hL rfl (by change 268435456 + d.toNat * 2097152 + a.toNat * 65536 + i.toNat = _; simp only [ofDigits]; omega) fun num hn => ?_
  refine (decodeNat_ld (fld_at hn hL 4 (lo := 26) (w := 6) rfl rfl)).trans ?_
  unfold decodeLd
  rw [fld_at hn hL 1 (lo := 12) (w := 4) rfl rfl]
  exact congr (congr (congrArg Instr.ldB (bits_of (v := d) (fld_at hn hL 3 (lo := 21) (w := 5) rfl rfl))) (bits_of (v := a) (fld_at hn hL 2 (lo := 16) (w := 5) rfl rfl))) (bits_of (v := i) (fld_at hn hL 0 (lo := 0) (w := 12) rfl rfl))

/-- `ld.bu`. -/
theorem ldBu (d : BitVec 5) (a : BitVec 5) (i : BitVec 12) : Statement (.ldBu d a i) := by
  intro _ _ _
  have hL : FieldsFit [(12, i.toNat), (4, 1), (5, a.toNat), (5, d.toNat), (6, 4)] := ⟨i.isLt, by decide, a.isLt, d.isLt, by decide, trivial⟩
  refine decode_of [(12, i.toNat), (4, 1), (5, a.toNat), (5, d.toNat), (6, 4)] hL rfl (by change 268439552 + d.toNat * 2097152 + a.toNat * 65536 + i.toNat = _; simp only [ofDigits]; omega) fun num hn => ?_
  refine (decodeNat_ld (fld_at hn hL 4 (lo := 26) (w := 6) rfl rfl)).trans ?_
  unfold decodeLd
  rw [fld_at hn hL 1 (lo := 12) (w := 4) rfl rfl]
  exact congr (congr (congrArg Instr.ldBu (bits_of (v := d) (fld_at hn hL 3 (lo := 21) (w := 5) rfl rfl))) (bits_of (v := a) (fld_at hn hL 2 (lo := 16) (w := 5) rfl rfl))) (bits_of (v := i) (fld_at hn hL 0 (lo := 0) (w := 12) rfl rfl))

/-- `ld.h`. -/
theorem ldH (d : BitVec 5) (a : BitVec 5) (i : BitVec 12) : Statement (.ldH d a i) := by
  intro _ _ _
  have hL : FieldsFit [(12, i.toNat), (4, 2), (5, a.toNat), (5, d.toNat), (6, 4)] := ⟨i.isLt, by decide, a.isLt, d.isLt, by decide, trivial⟩
  refine decode_of [(12, i.toNat), (4, 2), (5, a.toNat), (5, d.toNat), (6, 4)] hL rfl (by change 268443648 + d.toNat * 2097152 + a.toNat * 65536 + i.toNat = _; simp only [ofDigits]; omega) fun num hn => ?_
  refine (decodeNat_ld (fld_at hn hL 4 (lo := 26) (w := 6) rfl rfl)).trans ?_
  unfold decodeLd
  rw [fld_at hn hL 1 (lo := 12) (w := 4) rfl rfl]
  exact congr (congr (congrArg Instr.ldH (bits_of (v := d) (fld_at hn hL 3 (lo := 21) (w := 5) rfl rfl))) (bits_of (v := a) (fld_at hn hL 2 (lo := 16) (w := 5) rfl rfl))) (bits_of (v := i) (fld_at hn hL 0 (lo := 0) (w := 12) rfl rfl))

/-- `ld.hu`. -/
theorem ldHu (d : BitVec 5) (a : BitVec 5) (i : BitVec 12) : Statement (.ldHu d a i) := by
  intro _ _ _
  have hL : FieldsFit [(12, i.toNat), (4, 3), (5, a.toNat), (5, d.toNat), (6, 4)] := ⟨i.isLt, by decide, a.isLt, d.isLt, by decide, trivial⟩
  refine decode_of [(12, i.toNat), (4, 3), (5, a.toNat), (5, d.toNat), (6, 4)] hL rfl (by change 268447744 + d.toNat * 2097152 + a.toNat * 65536 + i.toNat = _; simp only [ofDigits]; omega) fun num hn => ?_
  refine (decodeNat_ld (fld_at hn hL 4 (lo := 26) (w := 6) rfl rfl)).trans ?_
  unfold decodeLd
  rw [fld_at hn hL 1 (lo := 12) (w := 4) rfl rfl]
  exact congr (congr (congrArg Instr.ldHu (bits_of (v := d) (fld_at hn hL 3 (lo := 21) (w := 5) rfl rfl))) (bits_of (v := a) (fld_at hn hL 2 (lo := 16) (w := 5) rfl rfl))) (bits_of (v := i) (fld_at hn hL 0 (lo := 0) (w := 12) rfl rfl))

/-- `ld.w`. -/
theorem ldW (d : BitVec 5) (a : BitVec 5) (i : BitVec 12) : Statement (.ldW d a i) := by
  intro _ _ _
  have hL : FieldsFit [(12, i.toNat), (4, 4), (5, a.toNat), (5, d.toNat), (6, 4)] := ⟨i.isLt, by decide, a.isLt, d.isLt, by decide, trivial⟩
  refine decode_of [(12, i.toNat), (4, 4), (5, a.toNat), (5, d.toNat), (6, 4)] hL rfl (by change 268451840 + d.toNat * 2097152 + a.toNat * 65536 + i.toNat = _; simp only [ofDigits]; omega) fun num hn => ?_
  refine (decodeNat_ld (fld_at hn hL 4 (lo := 26) (w := 6) rfl rfl)).trans ?_
  unfold decodeLd
  rw [fld_at hn hL 1 (lo := 12) (w := 4) rfl rfl]
  exact congr (congr (congrArg Instr.ldW (bits_of (v := d) (fld_at hn hL 3 (lo := 21) (w := 5) rfl rfl))) (bits_of (v := a) (fld_at hn hL 2 (lo := 16) (w := 5) rfl rfl))) (bits_of (v := i) (fld_at hn hL 0 (lo := 0) (w := 12) rfl rfl))

/-- `ld.wu`. -/
theorem ldWu (d : BitVec 5) (a : BitVec 5) (i : BitVec 12) : Statement (.ldWu d a i) := by
  intro _ _ _
  have hL : FieldsFit [(12, i.toNat), (4, 5), (5, a.toNat), (5, d.toNat), (6, 4)] := ⟨i.isLt, by decide, a.isLt, d.isLt, by decide, trivial⟩
  refine decode_of [(12, i.toNat), (4, 5), (5, a.toNat), (5, d.toNat), (6, 4)] hL rfl (by change 268455936 + d.toNat * 2097152 + a.toNat * 65536 + i.toNat = _; simp only [ofDigits]; omega) fun num hn => ?_
  refine (decodeNat_ld (fld_at hn hL 4 (lo := 26) (w := 6) rfl rfl)).trans ?_
  unfold decodeLd
  rw [fld_at hn hL 1 (lo := 12) (w := 4) rfl rfl]
  exact congr (congr (congrArg Instr.ldWu (bits_of (v := d) (fld_at hn hL 3 (lo := 21) (w := 5) rfl rfl))) (bits_of (v := a) (fld_at hn hL 2 (lo := 16) (w := 5) rfl rfl))) (bits_of (v := i) (fld_at hn hL 0 (lo := 0) (w := 12) rfl rfl))

/-- `ld.d`. -/
theorem ldD (d : BitVec 5) (a : BitVec 5) (i : BitVec 12) : Statement (.ldD d a i) := by
  intro _ _ _
  have hL : FieldsFit [(12, i.toNat), (4, 6), (5, a.toNat), (5, d.toNat), (6, 4)] := ⟨i.isLt, by decide, a.isLt, d.isLt, by decide, trivial⟩
  refine decode_of [(12, i.toNat), (4, 6), (5, a.toNat), (5, d.toNat), (6, 4)] hL rfl (by change 268460032 + d.toNat * 2097152 + a.toNat * 65536 + i.toNat = _; simp only [ofDigits]; omega) fun num hn => ?_
  refine (decodeNat_ld (fld_at hn hL 4 (lo := 26) (w := 6) rfl rfl)).trans ?_
  unfold decodeLd
  rw [fld_at hn hL 1 (lo := 12) (w := 4) rfl rfl]
  exact congr (congr (congrArg Instr.ldD (bits_of (v := d) (fld_at hn hL 3 (lo := 21) (w := 5) rfl rfl))) (bits_of (v := a) (fld_at hn hL 2 (lo := 16) (w := 5) rfl rfl))) (bits_of (v := i) (fld_at hn hL 0 (lo := 0) (w := 12) rfl rfl))

/-- `ld.ll`. -/
theorem ldLl (d : BitVec 5) (a : BitVec 5) (i : BitVec 12) : Statement (.ldLl d a i) := by
  intro _ _ _
  have hL : FieldsFit [(12, i.toNat), (4, 7), (5, a.toNat), (5, d.toNat), (6, 4)] := ⟨i.isLt, by decide, a.isLt, d.isLt, by decide, trivial⟩
  refine decode_of [(12, i.toNat), (4, 7), (5, a.toNat), (5, d.toNat), (6, 4)] hL rfl (by change 268464128 + d.toNat * 2097152 + a.toNat * 65536 + i.toNat = _; simp only [ofDigits]; omega) fun num hn => ?_
  refine (decodeNat_ld (fld_at hn hL 4 (lo := 26) (w := 6) rfl rfl)).trans ?_
  unfold decodeLd
  rw [fld_at hn hL 1 (lo := 12) (w := 4) rfl rfl]
  exact congr (congr (congrArg Instr.ldLl (bits_of (v := d) (fld_at hn hL 3 (lo := 21) (w := 5) rfl rfl))) (bits_of (v := a) (fld_at hn hL 2 (lo := 16) (w := 5) rfl rfl))) (bits_of (v := i) (fld_at hn hL 0 (lo := 0) (w := 12) rfl rfl))

/-- `ld.acq`. -/
theorem ldAcq (d : BitVec 5) (a : BitVec 5) (p : BitVec 3) : Statement (.ldAcq d a p) := by
  intro _ wf _
  have hL : FieldsFit [(3, p.toNat), (9, 0), (4, 8), (5, a.toNat), (5, d.toNat), (6, 4)] := ⟨p.isLt, by decide, by decide, a.isLt, d.isLt, by decide, trivial⟩
  refine decode_of [(3, p.toNat), (9, 0), (4, 8), (5, a.toNat), (5, d.toNat), (6, 4)] hL rfl (by change 268468224 + d.toNat * 2097152 + a.toNat * 65536 + p.toNat = _; simp only [ofDigits]; omega) fun num hn => ?_
  refine (decodeNat_ld (fld_at hn hL 5 (lo := 26) (w := 6) rfl rfl)).trans ?_
  unfold decodeLd
  rw [fld_at hn hL 2 (lo := 12) (w := 4) rfl rfl]
  refine (if_pos ⟨(fld_at hn hL 1 (lo := 3) (w := 9) rfl rfl), (by rw [fld_at hn hL 0 (lo := 0) (w := 3) rfl rfl]; exact of_decide_eq_true wf)⟩).trans ?_
  exact congr (congr (congrArg Instr.ldAcq (bits_of (v := d) (fld_at hn hL 4 (lo := 21) (w := 5) rfl rfl))) (bits_of (v := a) (fld_at hn hL 3 (lo := 16) (w := 5) rfl rfl))) (bits_of (v := p) (fld_at hn hL 0 (lo := 0) (w := 3) rfl rfl))

/-- `st.b`. -/
theorem stB (b : BitVec 5) (a : BitVec 5) (i : BitVec 12) : Statement (.stB b a i) := by
  intro _ _ _
  have hL : FieldsFit [(12, i.toNat), (4, 0), (5, a.toNat), (5, b.toNat), (6, 5)] := ⟨i.isLt, by decide, a.isLt, b.isLt, by decide, trivial⟩
  refine decode_of [(12, i.toNat), (4, 0), (5, a.toNat), (5, b.toNat), (6, 5)] hL rfl (by change 335544320 + b.toNat * 2097152 + a.toNat * 65536 + i.toNat = _; simp only [ofDigits]; omega) fun num hn => ?_
  refine (decodeNat_st (fld_at hn hL 4 (lo := 26) (w := 6) rfl rfl)).trans ?_
  unfold decodeSt
  rw [fld_at hn hL 1 (lo := 12) (w := 4) rfl rfl]
  exact congr (congr (congrArg Instr.stB (bits_of (v := b) (fld_at hn hL 3 (lo := 21) (w := 5) rfl rfl))) (bits_of (v := a) (fld_at hn hL 2 (lo := 16) (w := 5) rfl rfl))) (bits_of (v := i) (fld_at hn hL 0 (lo := 0) (w := 12) rfl rfl))

/-- `st.h`. -/
theorem stH (b : BitVec 5) (a : BitVec 5) (i : BitVec 12) : Statement (.stH b a i) := by
  intro _ _ _
  have hL : FieldsFit [(12, i.toNat), (4, 1), (5, a.toNat), (5, b.toNat), (6, 5)] := ⟨i.isLt, by decide, a.isLt, b.isLt, by decide, trivial⟩
  refine decode_of [(12, i.toNat), (4, 1), (5, a.toNat), (5, b.toNat), (6, 5)] hL rfl (by change 335548416 + b.toNat * 2097152 + a.toNat * 65536 + i.toNat = _; simp only [ofDigits]; omega) fun num hn => ?_
  refine (decodeNat_st (fld_at hn hL 4 (lo := 26) (w := 6) rfl rfl)).trans ?_
  unfold decodeSt
  rw [fld_at hn hL 1 (lo := 12) (w := 4) rfl rfl]
  exact congr (congr (congrArg Instr.stH (bits_of (v := b) (fld_at hn hL 3 (lo := 21) (w := 5) rfl rfl))) (bits_of (v := a) (fld_at hn hL 2 (lo := 16) (w := 5) rfl rfl))) (bits_of (v := i) (fld_at hn hL 0 (lo := 0) (w := 12) rfl rfl))

/-- `st.w`. -/
theorem stW (b : BitVec 5) (a : BitVec 5) (i : BitVec 12) : Statement (.stW b a i) := by
  intro _ _ _
  have hL : FieldsFit [(12, i.toNat), (4, 2), (5, a.toNat), (5, b.toNat), (6, 5)] := ⟨i.isLt, by decide, a.isLt, b.isLt, by decide, trivial⟩
  refine decode_of [(12, i.toNat), (4, 2), (5, a.toNat), (5, b.toNat), (6, 5)] hL rfl (by change 335552512 + b.toNat * 2097152 + a.toNat * 65536 + i.toNat = _; simp only [ofDigits]; omega) fun num hn => ?_
  refine (decodeNat_st (fld_at hn hL 4 (lo := 26) (w := 6) rfl rfl)).trans ?_
  unfold decodeSt
  rw [fld_at hn hL 1 (lo := 12) (w := 4) rfl rfl]
  exact congr (congr (congrArg Instr.stW (bits_of (v := b) (fld_at hn hL 3 (lo := 21) (w := 5) rfl rfl))) (bits_of (v := a) (fld_at hn hL 2 (lo := 16) (w := 5) rfl rfl))) (bits_of (v := i) (fld_at hn hL 0 (lo := 0) (w := 12) rfl rfl))

/-- `st.d`. -/
theorem stD (b : BitVec 5) (a : BitVec 5) (i : BitVec 12) : Statement (.stD b a i) := by
  intro _ _ _
  have hL : FieldsFit [(12, i.toNat), (4, 3), (5, a.toNat), (5, b.toNat), (6, 5)] := ⟨i.isLt, by decide, a.isLt, b.isLt, by decide, trivial⟩
  refine decode_of [(12, i.toNat), (4, 3), (5, a.toNat), (5, b.toNat), (6, 5)] hL rfl (by change 335556608 + b.toNat * 2097152 + a.toNat * 65536 + i.toNat = _; simp only [ofDigits]; omega) fun num hn => ?_
  refine (decodeNat_st (fld_at hn hL 4 (lo := 26) (w := 6) rfl rfl)).trans ?_
  unfold decodeSt
  rw [fld_at hn hL 1 (lo := 12) (w := 4) rfl rfl]
  exact congr (congr (congrArg Instr.stD (bits_of (v := b) (fld_at hn hL 3 (lo := 21) (w := 5) rfl rfl))) (bits_of (v := a) (fld_at hn hL 2 (lo := 16) (w := 5) rfl rfl))) (bits_of (v := i) (fld_at hn hL 0 (lo := 0) (w := 12) rfl rfl))

/-- `st.rel`. -/
theorem stRel (b : BitVec 5) (a : BitVec 5) (p : BitVec 3) : Statement (.stRel b a p) := by
  intro _ wf _
  have hL : FieldsFit [(3, p.toNat), (9, 0), (4, 4), (5, a.toNat), (5, b.toNat), (6, 5)] := ⟨p.isLt, by decide, by decide, a.isLt, b.isLt, by decide, trivial⟩
  refine decode_of [(3, p.toNat), (9, 0), (4, 4), (5, a.toNat), (5, b.toNat), (6, 5)] hL rfl (by change 335560704 + b.toNat * 2097152 + a.toNat * 65536 + p.toNat = _; simp only [ofDigits]; omega) fun num hn => ?_
  refine (decodeNat_st (fld_at hn hL 5 (lo := 26) (w := 6) rfl rfl)).trans ?_
  unfold decodeSt
  rw [fld_at hn hL 2 (lo := 12) (w := 4) rfl rfl]
  refine (if_pos ⟨(fld_at hn hL 1 (lo := 3) (w := 9) rfl rfl), (by rw [fld_at hn hL 0 (lo := 0) (w := 3) rfl rfl]; exact of_decide_eq_true wf)⟩).trans ?_
  exact congr (congr (congrArg Instr.stRel (bits_of (v := b) (fld_at hn hL 4 (lo := 21) (w := 5) rfl rfl))) (bits_of (v := a) (fld_at hn hL 3 (lo := 16) (w := 5) rfl rfl))) (bits_of (v := p) (fld_at hn hL 0 (lo := 0) (w := 3) rfl rfl))

/-- `br.eq`. -/
theorem brEq (a : BitVec 5) (b : BitVec 5) (i : BitVec 12) : Statement (.brEq a b i) := by
  intro _ _ _
  have hL : FieldsFit [(12, i.toNat), (4, 0), (5, b.toNat), (5, a.toNat), (6, 6)] := ⟨i.isLt, by decide, b.isLt, a.isLt, by decide, trivial⟩
  refine decode_of [(12, i.toNat), (4, 0), (5, b.toNat), (5, a.toNat), (6, 6)] hL rfl (by change 402653184 + a.toNat * 2097152 + b.toNat * 65536 + i.toNat = _; simp only [ofDigits]; omega) fun num hn => ?_
  refine (decodeNat_br (fld_at hn hL 4 (lo := 26) (w := 6) rfl rfl)).trans ?_
  unfold decodeBr
  rw [fld_at hn hL 1 (lo := 12) (w := 4) rfl rfl]
  exact congr (congr (congrArg Instr.brEq (bits_of (v := a) (fld_at hn hL 3 (lo := 21) (w := 5) rfl rfl))) (bits_of (v := b) (fld_at hn hL 2 (lo := 16) (w := 5) rfl rfl))) (bits_of (v := i) (fld_at hn hL 0 (lo := 0) (w := 12) rfl rfl))

/-- `br.ne`. -/
theorem brNe (a : BitVec 5) (b : BitVec 5) (i : BitVec 12) : Statement (.brNe a b i) := by
  intro _ _ _
  have hL : FieldsFit [(12, i.toNat), (4, 1), (5, b.toNat), (5, a.toNat), (6, 6)] := ⟨i.isLt, by decide, b.isLt, a.isLt, by decide, trivial⟩
  refine decode_of [(12, i.toNat), (4, 1), (5, b.toNat), (5, a.toNat), (6, 6)] hL rfl (by change 402657280 + a.toNat * 2097152 + b.toNat * 65536 + i.toNat = _; simp only [ofDigits]; omega) fun num hn => ?_
  refine (decodeNat_br (fld_at hn hL 4 (lo := 26) (w := 6) rfl rfl)).trans ?_
  unfold decodeBr
  rw [fld_at hn hL 1 (lo := 12) (w := 4) rfl rfl]
  exact congr (congr (congrArg Instr.brNe (bits_of (v := a) (fld_at hn hL 3 (lo := 21) (w := 5) rfl rfl))) (bits_of (v := b) (fld_at hn hL 2 (lo := 16) (w := 5) rfl rfl))) (bits_of (v := i) (fld_at hn hL 0 (lo := 0) (w := 12) rfl rfl))

/-- `br.lt`. -/
theorem brLt (a : BitVec 5) (b : BitVec 5) (i : BitVec 12) : Statement (.brLt a b i) := by
  intro _ _ _
  have hL : FieldsFit [(12, i.toNat), (4, 2), (5, b.toNat), (5, a.toNat), (6, 6)] := ⟨i.isLt, by decide, b.isLt, a.isLt, by decide, trivial⟩
  refine decode_of [(12, i.toNat), (4, 2), (5, b.toNat), (5, a.toNat), (6, 6)] hL rfl (by change 402661376 + a.toNat * 2097152 + b.toNat * 65536 + i.toNat = _; simp only [ofDigits]; omega) fun num hn => ?_
  refine (decodeNat_br (fld_at hn hL 4 (lo := 26) (w := 6) rfl rfl)).trans ?_
  unfold decodeBr
  rw [fld_at hn hL 1 (lo := 12) (w := 4) rfl rfl]
  exact congr (congr (congrArg Instr.brLt (bits_of (v := a) (fld_at hn hL 3 (lo := 21) (w := 5) rfl rfl))) (bits_of (v := b) (fld_at hn hL 2 (lo := 16) (w := 5) rfl rfl))) (bits_of (v := i) (fld_at hn hL 0 (lo := 0) (w := 12) rfl rfl))

/-- `br.ge`. -/
theorem brGe (a : BitVec 5) (b : BitVec 5) (i : BitVec 12) : Statement (.brGe a b i) := by
  intro _ _ _
  have hL : FieldsFit [(12, i.toNat), (4, 3), (5, b.toNat), (5, a.toNat), (6, 6)] := ⟨i.isLt, by decide, b.isLt, a.isLt, by decide, trivial⟩
  refine decode_of [(12, i.toNat), (4, 3), (5, b.toNat), (5, a.toNat), (6, 6)] hL rfl (by change 402665472 + a.toNat * 2097152 + b.toNat * 65536 + i.toNat = _; simp only [ofDigits]; omega) fun num hn => ?_
  refine (decodeNat_br (fld_at hn hL 4 (lo := 26) (w := 6) rfl rfl)).trans ?_
  unfold decodeBr
  rw [fld_at hn hL 1 (lo := 12) (w := 4) rfl rfl]
  exact congr (congr (congrArg Instr.brGe (bits_of (v := a) (fld_at hn hL 3 (lo := 21) (w := 5) rfl rfl))) (bits_of (v := b) (fld_at hn hL 2 (lo := 16) (w := 5) rfl rfl))) (bits_of (v := i) (fld_at hn hL 0 (lo := 0) (w := 12) rfl rfl))

/-- `br.ltu`. -/
theorem brLtu (a : BitVec 5) (b : BitVec 5) (i : BitVec 12) : Statement (.brLtu a b i) := by
  intro _ _ _
  have hL : FieldsFit [(12, i.toNat), (4, 4), (5, b.toNat), (5, a.toNat), (6, 6)] := ⟨i.isLt, by decide, b.isLt, a.isLt, by decide, trivial⟩
  refine decode_of [(12, i.toNat), (4, 4), (5, b.toNat), (5, a.toNat), (6, 6)] hL rfl (by change 402669568 + a.toNat * 2097152 + b.toNat * 65536 + i.toNat = _; simp only [ofDigits]; omega) fun num hn => ?_
  refine (decodeNat_br (fld_at hn hL 4 (lo := 26) (w := 6) rfl rfl)).trans ?_
  unfold decodeBr
  rw [fld_at hn hL 1 (lo := 12) (w := 4) rfl rfl]
  exact congr (congr (congrArg Instr.brLtu (bits_of (v := a) (fld_at hn hL 3 (lo := 21) (w := 5) rfl rfl))) (bits_of (v := b) (fld_at hn hL 2 (lo := 16) (w := 5) rfl rfl))) (bits_of (v := i) (fld_at hn hL 0 (lo := 0) (w := 12) rfl rfl))

/-- `br.geu`. -/
theorem brGeu (a : BitVec 5) (b : BitVec 5) (i : BitVec 12) : Statement (.brGeu a b i) := by
  intro _ _ _
  have hL : FieldsFit [(12, i.toNat), (4, 5), (5, b.toNat), (5, a.toNat), (6, 6)] := ⟨i.isLt, by decide, b.isLt, a.isLt, by decide, trivial⟩
  refine decode_of [(12, i.toNat), (4, 5), (5, b.toNat), (5, a.toNat), (6, 6)] hL rfl (by change 402673664 + a.toNat * 2097152 + b.toNat * 65536 + i.toNat = _; simp only [ofDigits]; omega) fun num hn => ?_
  refine (decodeNat_br (fld_at hn hL 4 (lo := 26) (w := 6) rfl rfl)).trans ?_
  unfold decodeBr
  rw [fld_at hn hL 1 (lo := 12) (w := 4) rfl rfl]
  exact congr (congr (congrArg Instr.brGeu (bits_of (v := a) (fld_at hn hL 3 (lo := 21) (w := 5) rfl rfl))) (bits_of (v := b) (fld_at hn hL 2 (lo := 16) (w := 5) rfl rfl))) (bits_of (v := i) (fld_at hn hL 0 (lo := 0) (w := 12) rfl rfl))

/-- `jal`. -/
theorem jal (d : BitVec 5) (i : BitVec 21) : Statement (.jal d i) := by
  intro _ _ _
  have hL : FieldsFit [(21, i.toNat), (5, d.toNat), (6, 7)] := ⟨i.isLt, d.isLt, by decide, trivial⟩
  refine decode_of [(21, i.toNat), (5, d.toNat), (6, 7)] hL rfl (by change 469762048 + d.toNat * 2097152 + i.toNat = _; simp only [ofDigits]; omega) fun num hn => ?_
  refine (decodeNat_jal (fld_at hn hL 2 (lo := 26) (w := 6) rfl rfl)).trans ?_
  unfold decodeJal
  exact congr (congrArg Instr.jal (bits_of (v := d) (fld_at hn hL 1 (lo := 21) (w := 5) rfl rfl))) (bits_of (v := i) (fld_at hn hL 0 (lo := 0) (w := 21) rfl rfl))

/-- `jalr`. -/
theorem jalr (d : BitVec 5) (a : BitVec 5) (i : BitVec 12) : Statement (.jalr d a i) := by
  intro _ _ _
  have hL : FieldsFit [(12, i.toNat), (4, 0), (5, a.toNat), (5, d.toNat), (6, 8)] := ⟨i.isLt, by decide, a.isLt, d.isLt, by decide, trivial⟩
  refine decode_of [(12, i.toNat), (4, 0), (5, a.toNat), (5, d.toNat), (6, 8)] hL rfl (by change 536870912 + d.toNat * 2097152 + a.toNat * 65536 + i.toNat = _; simp only [ofDigits]; omega) fun num hn => ?_
  refine (decodeNat_jalr (fld_at hn hL 4 (lo := 26) (w := 6) rfl rfl)).trans ?_
  unfold decodeJalr
  rw [fld_at hn hL 1 (lo := 12) (w := 4) rfl rfl]
  exact congr (congr (congrArg Instr.jalr (bits_of (v := d) (fld_at hn hL 3 (lo := 21) (w := 5) rfl rfl))) (bits_of (v := a) (fld_at hn hL 2 (lo := 16) (w := 5) rfl rfl))) (bits_of (v := i) (fld_at hn hL 0 (lo := 0) (w := 12) rfl rfl))

/-- `ctl.crr`. -/
theorem ctlCrr (d : BitVec 5) (i : BitVec 12) : Statement (.ctlCrr d i) := by
  intro _ _ _
  have hL : FieldsFit [(12, i.toNat), (4, 0), (5, 0), (5, d.toNat), (6, 9)] := ⟨i.isLt, by decide, by decide, d.isLt, by decide, trivial⟩
  refine decode_of [(12, i.toNat), (4, 0), (5, 0), (5, d.toNat), (6, 9)] hL rfl (by change 603979776 + d.toNat * 2097152 + i.toNat = _; simp only [ofDigits]; omega) fun num hn => ?_
  refine (decodeNat_ctl (fld_at hn hL 4 (lo := 26) (w := 6) rfl rfl)).trans ?_
  unfold decodeCtl
  rw [fld_at hn hL 1 (lo := 12) (w := 4) rfl rfl]
  refine (if_pos (fld_at hn hL 2 (lo := 16) (w := 5) rfl rfl)).trans ?_
  exact congr (congrArg Instr.ctlCrr (bits_of (v := d) (fld_at hn hL 3 (lo := 21) (w := 5) rfl rfl))) (bits_of (v := i) (fld_at hn hL 0 (lo := 0) (w := 12) rfl rfl))

/-- `ctl.crw`. -/
theorem ctlCrw (d : BitVec 5) (a : BitVec 5) (i : BitVec 12) : Statement (.ctlCrw d a i) := by
  intro _ _ _
  have hL : FieldsFit [(12, i.toNat), (4, 1), (5, a.toNat), (5, d.toNat), (6, 9)] := ⟨i.isLt, by decide, a.isLt, d.isLt, by decide, trivial⟩
  refine decode_of [(12, i.toNat), (4, 1), (5, a.toNat), (5, d.toNat), (6, 9)] hL rfl (by change 603983872 + d.toNat * 2097152 + a.toNat * 65536 + i.toNat = _; simp only [ofDigits]; omega) fun num hn => ?_
  refine (decodeNat_ctl (fld_at hn hL 4 (lo := 26) (w := 6) rfl rfl)).trans ?_
  unfold decodeCtl
  rw [fld_at hn hL 1 (lo := 12) (w := 4) rfl rfl]
  exact congr (congr (congrArg Instr.ctlCrw (bits_of (v := d) (fld_at hn hL 3 (lo := 21) (w := 5) rfl rfl))) (bits_of (v := a) (fld_at hn hL 2 (lo := 16) (w := 5) rfl rfl))) (bits_of (v := i) (fld_at hn hL 0 (lo := 0) (w := 12) rfl rfl))

/-- `ctl.crs`. -/
theorem ctlCrs (d : BitVec 5) (a : BitVec 5) (i : BitVec 12) : Statement (.ctlCrs d a i) := by
  intro _ _ _
  have hL : FieldsFit [(12, i.toNat), (4, 2), (5, a.toNat), (5, d.toNat), (6, 9)] := ⟨i.isLt, by decide, a.isLt, d.isLt, by decide, trivial⟩
  refine decode_of [(12, i.toNat), (4, 2), (5, a.toNat), (5, d.toNat), (6, 9)] hL rfl (by change 603987968 + d.toNat * 2097152 + a.toNat * 65536 + i.toNat = _; simp only [ofDigits]; omega) fun num hn => ?_
  refine (decodeNat_ctl (fld_at hn hL 4 (lo := 26) (w := 6) rfl rfl)).trans ?_
  unfold decodeCtl
  rw [fld_at hn hL 1 (lo := 12) (w := 4) rfl rfl]
  exact congr (congr (congrArg Instr.ctlCrs (bits_of (v := d) (fld_at hn hL 3 (lo := 21) (w := 5) rfl rfl))) (bits_of (v := a) (fld_at hn hL 2 (lo := 16) (w := 5) rfl rfl))) (bits_of (v := i) (fld_at hn hL 0 (lo := 0) (w := 12) rfl rfl))

/-- `ctl.crc`. -/
theorem ctlCrc (d : BitVec 5) (a : BitVec 5) (i : BitVec 12) : Statement (.ctlCrc d a i) := by
  intro _ _ _
  have hL : FieldsFit [(12, i.toNat), (4, 3), (5, a.toNat), (5, d.toNat), (6, 9)] := ⟨i.isLt, by decide, a.isLt, d.isLt, by decide, trivial⟩
  refine decode_of [(12, i.toNat), (4, 3), (5, a.toNat), (5, d.toNat), (6, 9)] hL rfl (by change 603992064 + d.toNat * 2097152 + a.toNat * 65536 + i.toNat = _; simp only [ofDigits]; omega) fun num hn => ?_
  refine (decodeNat_ctl (fld_at hn hL 4 (lo := 26) (w := 6) rfl rfl)).trans ?_
  unfold decodeCtl
  rw [fld_at hn hL 1 (lo := 12) (w := 4) rfl rfl]
  exact congr (congr (congrArg Instr.ctlCrc (bits_of (v := d) (fld_at hn hL 3 (lo := 21) (w := 5) rfl rfl))) (bits_of (v := a) (fld_at hn hL 2 (lo := 16) (w := 5) rfl rfl))) (bits_of (v := i) (fld_at hn hL 0 (lo := 0) (w := 12) rfl rfl))

/-- `sys.svc`. -/
theorem sysSvc : Statement .sysSvc := by
  intro _ _ _
  have hL : FieldsFit [(11, 0), (15, 0), (6, 10)] := ⟨by decide, by decide, by decide, trivial⟩
  refine decode_of [(11, 0), (15, 0), (6, 10)] hL rfl rfl fun num hn => ?_
  refine (decodeNat_sys (fld_at hn hL 2 (lo := 26) (w := 6) rfl rfl)).trans ?_
  unfold decodeSys
  rw [fld_at hn hL 0 (lo := 0) (w := 11) rfl rfl]
  refine (if_pos (fld_at hn hL 1 (lo := 11) (w := 15) rfl rfl)).trans ?_
  rfl

/-- `sys.tret`. -/
theorem sysTret : Statement .sysTret := by
  intro _ _ _
  have hL : FieldsFit [(11, 1), (15, 0), (6, 10)] := ⟨by decide, by decide, by decide, trivial⟩
  refine decode_of [(11, 1), (15, 0), (6, 10)] hL rfl rfl fun num hn => ?_
  refine (decodeNat_sys (fld_at hn hL 2 (lo := 26) (w := 6) rfl rfl)).trans ?_
  unfold decodeSys
  rw [fld_at hn hL 0 (lo := 0) (w := 11) rfl rfl]
  refine (if_pos (fld_at hn hL 1 (lo := 11) (w := 15) rfl rfl)).trans ?_
  rfl

/-- `sys.idle`. -/
theorem sysIdle : Statement .sysIdle := by
  intro _ _ _
  have hL : FieldsFit [(11, 2), (15, 0), (6, 10)] := ⟨by decide, by decide, by decide, trivial⟩
  refine decode_of [(11, 2), (15, 0), (6, 10)] hL rfl rfl fun num hn => ?_
  refine (decodeNat_sys (fld_at hn hL 2 (lo := 26) (w := 6) rfl rfl)).trans ?_
  unfold decodeSys
  rw [fld_at hn hL 0 (lo := 0) (w := 11) rfl rfl]
  refine (if_pos (fld_at hn hL 1 (lo := 11) (w := 15) rfl rfl)).trans ?_
  rfl

/-- `sys.fence`. -/
theorem sysFence (k : BitVec 2) (p : BitVec 3) : Statement (.sysFence k p) := by
  intro _ wf _
  replace wf : (scopeOk p && k != 0) = true := wf
  rw [Bool.and_eq_true] at wf
  have kpos : 0 < k.toNat := Nat.pos_of_ne_zero fun h => bne_iff_ne.mp wf.2 (BitVec.eq_of_toNat_eq h)
  replace wf := wf.1
  have hL : FieldsFit [(11, 3), (5, 0), (3, p.toNat), (2, k.toNat), (5, 0), (6, 10)] := ⟨by decide, by decide, p.isLt, k.isLt, by decide, by decide, trivial⟩
  refine decode_of [(11, 3), (5, 0), (3, p.toNat), (2, k.toNat), (5, 0), (6, 10)] hL rfl (by change 671088643 + k.toNat * 524288 + p.toNat * 65536 = _; simp only [ofDigits]; omega) fun num hn => ?_
  refine (decodeNat_sys (fld_at hn hL 5 (lo := 26) (w := 6) rfl rfl)).trans ?_
  unfold decodeSys
  rw [fld_at hn hL 0 (lo := 0) (w := 11) rfl rfl]
  refine (if_pos ⟨(fld_at hn hL 1 (lo := 11) (w := 5) rfl rfl), (fld_at hn hL 4 (lo := 21) (w := 5) rfl rfl), (by rw [fld_at hn hL 2 (lo := 16) (w := 3) rfl rfl]; exact of_decide_eq_true wf), (by rw [fld_at hn hL 3 (lo := 19) (w := 2) rfl rfl]; exact kpos)⟩).trans ?_
  exact congr (congrArg Instr.sysFence (bits_of (v := k) (fld_at hn hL 3 (lo := 19) (w := 2) rfl rfl))) (bits_of (v := p) (fld_at hn hL 2 (lo := 16) (w := 3) rfl rfl))

/-- `sys.brk`. -/
theorem sysBrk : Statement .sysBrk := by
  intro _ _ _
  have hL : FieldsFit [(11, 4), (15, 0), (6, 10)] := ⟨by decide, by decide, by decide, trivial⟩
  refine decode_of [(11, 4), (15, 0), (6, 10)] hL rfl rfl fun num hn => ?_
  refine (decodeNat_sys (fld_at hn hL 2 (lo := 26) (w := 6) rfl rfl)).trans ?_
  unfold decodeSys
  rw [fld_at hn hL 0 (lo := 0) (w := 11) rfl rfl]
  refine (if_pos (fld_at hn hL 1 (lo := 11) (w := 15) rfl rfl)).trans ?_
  rfl

/-- `sys.ipf`. -/
theorem sysIpf (a : BitVec 5) (b : BitVec 5) : Statement (.sysIpf a b) := by
  intro _ _ _
  have hL : FieldsFit [(11, 5), (5, b.toNat), (5, a.toNat), (5, 0), (6, 10)] := ⟨by decide, b.isLt, a.isLt, by decide, by decide, trivial⟩
  refine decode_of [(11, 5), (5, b.toNat), (5, a.toNat), (5, 0), (6, 10)] hL rfl (by change 671088645 + a.toNat * 65536 + b.toNat * 2048 = _; simp only [ofDigits]; omega) fun num hn => ?_
  refine (decodeNat_sys (fld_at hn hL 4 (lo := 26) (w := 6) rfl rfl)).trans ?_
  unfold decodeSys
  rw [fld_at hn hL 0 (lo := 0) (w := 11) rfl rfl]
  refine (if_pos (fld_at hn hL 3 (lo := 21) (w := 5) rfl rfl)).trans ?_
  exact congr (congrArg Instr.sysIpf (bits_of (v := a) (fld_at hn hL 2 (lo := 16) (w := 5) rfl rfl))) (bits_of (v := b) (fld_at hn hL 1 (lo := 11) (w := 5) rfl rfl))

/-- `sys.scommit`. -/
theorem sysScommit : Statement .sysScommit := by
  intro _ _ _
  have hL : FieldsFit [(11, 6), (15, 0), (6, 10)] := ⟨by decide, by decide, by decide, trivial⟩
  refine decode_of [(11, 6), (15, 0), (6, 10)] hL rfl rfl fun num hn => ?_
  refine (decodeNat_sys (fld_at hn hL 2 (lo := 26) (w := 6) rfl rfl)).trans ?_
  unfold decodeSys
  rw [fld_at hn hL 0 (lo := 0) (w := 11) rfl rfl]
  refine (if_pos (fld_at hn hL 1 (lo := 11) (w := 15) rfl rfl)).trans ?_
  rfl

/-- `sys.dinv`. -/
theorem sysDinv (a : BitVec 5) (b : BitVec 5) : Statement (.sysDinv a b) := by
  intro _ wf _
  replace wf : (a != 0) = true := wf
  have kpos : 0 < a.toNat := Nat.pos_of_ne_zero fun h => bne_iff_ne.mp wf (BitVec.eq_of_toNat_eq h)
  have hL : FieldsFit [(11, 7), (5, b.toNat), (5, a.toNat), (5, 0), (6, 10)] := ⟨by decide, b.isLt, a.isLt, by decide, by decide, trivial⟩
  refine decode_of [(11, 7), (5, b.toNat), (5, a.toNat), (5, 0), (6, 10)] hL rfl (by change 671088647 + a.toNat * 65536 + b.toNat * 2048 = _; simp only [ofDigits]; omega) fun num hn => ?_
  refine (decodeNat_sys (fld_at hn hL 4 (lo := 26) (w := 6) rfl rfl)).trans ?_
  unfold decodeSys
  rw [fld_at hn hL 0 (lo := 0) (w := 11) rfl rfl]
  refine (if_pos ⟨(fld_at hn hL 3 (lo := 21) (w := 5) rfl rfl), (by rw [fld_at hn hL 2 (lo := 16) (w := 5) rfl rfl]; exact kpos)⟩).trans ?_
  exact congr (congrArg Instr.sysDinv (bits_of (v := a) (fld_at hn hL 2 (lo := 16) (w := 5) rfl rfl))) (bits_of (v := b) (fld_at hn hL 1 (lo := 11) (w := 5) rfl rfl))

/-- `sys.dclean`. -/
theorem sysDclean (a : BitVec 5) (b : BitVec 5) : Statement (.sysDclean a b) := by
  intro _ wf _
  replace wf : (a != 0) = true := wf
  have kpos : 0 < a.toNat := Nat.pos_of_ne_zero fun h => bne_iff_ne.mp wf (BitVec.eq_of_toNat_eq h)
  have hL : FieldsFit [(11, 8), (5, b.toNat), (5, a.toNat), (5, 0), (6, 10)] := ⟨by decide, b.isLt, a.isLt, by decide, by decide, trivial⟩
  refine decode_of [(11, 8), (5, b.toNat), (5, a.toNat), (5, 0), (6, 10)] hL rfl (by change 671088648 + a.toNat * 65536 + b.toNat * 2048 = _; simp only [ofDigits]; omega) fun num hn => ?_
  refine (decodeNat_sys (fld_at hn hL 4 (lo := 26) (w := 6) rfl rfl)).trans ?_
  unfold decodeSys
  rw [fld_at hn hL 0 (lo := 0) (w := 11) rfl rfl]
  refine (if_pos ⟨(fld_at hn hL 3 (lo := 21) (w := 5) rfl rfl), (by rw [fld_at hn hL 2 (lo := 16) (w := 5) rfl rfl]; exact kpos)⟩).trans ?_
  exact congr (congrArg Instr.sysDclean (bits_of (v := a) (fld_at hn hL 2 (lo := 16) (w := 5) rfl rfl))) (bits_of (v := b) (fld_at hn hL 1 (lo := 11) (w := 5) rfl rfl))

/-- `sys.dflush`. -/
theorem sysDflush (a : BitVec 5) (b : BitVec 5) : Statement (.sysDflush a b) := by
  intro _ wf _
  replace wf : (a != 0) = true := wf
  have kpos : 0 < a.toNat := Nat.pos_of_ne_zero fun h => bne_iff_ne.mp wf (BitVec.eq_of_toNat_eq h)
  have hL : FieldsFit [(11, 9), (5, b.toNat), (5, a.toNat), (5, 0), (6, 10)] := ⟨by decide, b.isLt, a.isLt, by decide, by decide, trivial⟩
  refine decode_of [(11, 9), (5, b.toNat), (5, a.toNat), (5, 0), (6, 10)] hL rfl (by change 671088649 + a.toNat * 65536 + b.toNat * 2048 = _; simp only [ofDigits]; omega) fun num hn => ?_
  refine (decodeNat_sys (fld_at hn hL 4 (lo := 26) (w := 6) rfl rfl)).trans ?_
  unfold decodeSys
  rw [fld_at hn hL 0 (lo := 0) (w := 11) rfl rfl]
  refine (if_pos ⟨(fld_at hn hL 3 (lo := 21) (w := 5) rfl rfl), (by rw [fld_at hn hL 2 (lo := 16) (w := 5) rfl rfl]; exact kpos)⟩).trans ?_
  exact congr (congrArg Instr.sysDflush (bits_of (v := a) (fld_at hn hL 2 (lo := 16) (w := 5) rfl rfl))) (bits_of (v := b) (fld_at hn hL 1 (lo := 11) (w := 5) rfl rfl))

/-- `brot`. -/
theorem brot (a : BitVec 5) (b : BitVec 5) (i : BitVec 12) : Statement (.brot a b i) := by
  intro _ _ _
  have hL : FieldsFit [(12, i.toNat), (4, 0), (5, b.toNat), (5, a.toNat), (6, 11)] := ⟨i.isLt, by decide, b.isLt, a.isLt, by decide, trivial⟩
  refine decode_of [(12, i.toNat), (4, 0), (5, b.toNat), (5, a.toNat), (6, 11)] hL rfl (by change 738197504 + a.toNat * 2097152 + b.toNat * 65536 + i.toNat = _; simp only [ofDigits]; omega) fun num hn => ?_
  refine (decodeNat_brot (fld_at hn hL 4 (lo := 26) (w := 6) rfl rfl)).trans ?_
  unfold decodeBrot
  rw [fld_at hn hL 1 (lo := 12) (w := 4) rfl rfl]
  exact congr (congr (congrArg Instr.brot (bits_of (v := a) (fld_at hn hL 3 (lo := 21) (w := 5) rfl rfl))) (bits_of (v := b) (fld_at hn hL 2 (lo := 16) (w := 5) rfl rfl))) (bits_of (v := i) (fld_at hn hL 0 (lo := 0) (w := 12) rfl rfl))

/-- `setvl`. -/
theorem setvl (d : BitVec 5) (a : BitVec 5) (f : Bool) (i : BitVec 8) : Statement (.setvl d a f i) := by
  intro _ _ _
  have hL : FieldsFit [(4, 0), (8, i.toNat), (1, f.toNat), (3, 0), (5, a.toNat), (5, d.toNat), (6, 12)] := ⟨by decide, i.isLt, f.toNat_lt, by decide, a.isLt, d.isLt, by decide, trivial⟩
  refine decode_of [(4, 0), (8, i.toNat), (1, f.toNat), (3, 0), (5, a.toNat), (5, d.toNat), (6, 12)] hL rfl (by change 805306368 + d.toNat * 2097152 + a.toNat * 65536 + f.toNat * 4096 + i.toNat * 16 = _; simp only [ofDigits]; omega) fun num hn => ?_
  refine (decodeNat_setvl (fld_at hn hL 6 (lo := 26) (w := 6) rfl rfl)).trans ?_
  unfold decodeSetvl
  rw [fld_at hn hL 3 (lo := 13) (w := 3) rfl rfl]
  refine (if_pos (fld_at hn hL 0 (lo := 0) (w := 4) rfl rfl)).trans ?_
  exact congr (congr (congr (congrArg Instr.setvl (bits_of (v := d) (fld_at hn hL 5 (lo := 21) (w := 5) rfl rfl))) (bits_of (v := a) (fld_at hn hL 4 (lo := 16) (w := 5) rfl rfl))) (flag_of (v := f) (fld_at hn hL 2 (lo := 12) (w := 1) rfl rfl))) (bits_of (v := i) (fld_at hn hL 1 (lo := 4) (w := 8) rfl rfl))

/-- `mdset`. -/
theorem mdset (g : BitVec 2) (n : BitVec 19) : Statement (.mdset g n) := by
  intro _ _ _
  have hL : FieldsFit [(5, 0), (19, n.toNat), (2, g.toNat), (6, 13)] := ⟨by decide, n.isLt, g.isLt, by decide, trivial⟩
  refine decode_of [(5, 0), (19, n.toNat), (2, g.toNat), (6, 13)] hL rfl (by change 872415232 + g.toNat * 16777216 + n.toNat * 32 = _; simp only [ofDigits]; omega) fun num hn => ?_
  refine (decodeNat_mdset (fld_at hn hL 3 (lo := 26) (w := 6) rfl rfl)).trans ?_
  unfold decodeMdset
  refine (if_pos (fld_at hn hL 0 (lo := 0) (w := 5) rfl rfl)).trans ?_
  exact congr (congrArg Instr.mdset (bits_of (v := g) (fld_at hn hL 2 (lo := 24) (w := 2) rfl rfl))) (bits_of (v := n) (fld_at hn hL 1 (lo := 5) (w := 19) rfl rfl))

/-- `samo.ll`. -/
theorem samoLl (d : BitVec 5) (a : BitVec 5) (p : BitVec 3) (q : Bool) (r : Bool) : Statement (.samoLl d a p q r) := by
  intro _ wf _
  have hL : FieldsFit [(4, 0), (2, 0), (1, r.toNat), (1, q.toNat), (3, p.toNat), (5, 0), (5, a.toNat), (5, d.toNat), (6, 14)] := ⟨by decide, by decide, r.toNat_lt, q.toNat_lt, p.isLt, by decide, a.isLt, d.isLt, by decide, trivial⟩
  refine decode_of [(4, 0), (2, 0), (1, r.toNat), (1, q.toNat), (3, p.toNat), (5, 0), (5, a.toNat), (5, d.toNat), (6, 14)] hL rfl (by change 939524096 + d.toNat * 2097152 + a.toNat * 65536 + p.toNat * 256 + q.toNat * 128 + r.toNat * 64 = _; simp only [ofDigits]; omega) fun num hn => ?_
  refine (decodeNat_samo (fld_at hn hL 8 (lo := 26) (w := 6) rfl rfl)).trans ?_
  unfold decodeSamo
  rw [fld_at hn hL 0 (lo := 0) (w := 4) rfl rfl]
  refine (if_pos ⟨(fld_at hn hL 1 (lo := 4) (w := 2) rfl rfl), (fld_at hn hL 5 (lo := 11) (w := 5) rfl rfl), (by rw [fld_at hn hL 4 (lo := 8) (w := 3) rfl rfl]; exact of_decide_eq_true wf)⟩).trans ?_
  exact congr (congr (congr (congr (congrArg Instr.samoLl (bits_of (v := d) (fld_at hn hL 7 (lo := 21) (w := 5) rfl rfl))) (bits_of (v := a) (fld_at hn hL 6 (lo := 16) (w := 5) rfl rfl))) (bits_of (v := p) (fld_at hn hL 4 (lo := 8) (w := 3) rfl rfl))) (flag_of (v := q) (fld_at hn hL 3 (lo := 7) (w := 1) rfl rfl))) (flag_of (v := r) (fld_at hn hL 2 (lo := 6) (w := 1) rfl rfl))

/-- `samo.sc`. -/
theorem samoSc (d : BitVec 5) (a : BitVec 5) (b : BitVec 5) (p : BitVec 3) (q : Bool) (r : Bool) : Statement (.samoSc d a b p q r) := by
  intro _ wf _
  have hL : FieldsFit [(4, 1), (2, 0), (1, r.toNat), (1, q.toNat), (3, p.toNat), (5, b.toNat), (5, a.toNat), (5, d.toNat), (6, 14)] := ⟨by decide, by decide, r.toNat_lt, q.toNat_lt, p.isLt, b.isLt, a.isLt, d.isLt, by decide, trivial⟩
  refine decode_of [(4, 1), (2, 0), (1, r.toNat), (1, q.toNat), (3, p.toNat), (5, b.toNat), (5, a.toNat), (5, d.toNat), (6, 14)] hL rfl (by change 939524097 + d.toNat * 2097152 + a.toNat * 65536 + b.toNat * 2048 + p.toNat * 256 + q.toNat * 128 + r.toNat * 64 = _; simp only [ofDigits]; omega) fun num hn => ?_
  refine (decodeNat_samo (fld_at hn hL 8 (lo := 26) (w := 6) rfl rfl)).trans ?_
  unfold decodeSamo
  rw [fld_at hn hL 0 (lo := 0) (w := 4) rfl rfl]
  refine (if_pos ⟨(fld_at hn hL 1 (lo := 4) (w := 2) rfl rfl), (by rw [fld_at hn hL 4 (lo := 8) (w := 3) rfl rfl]; exact of_decide_eq_true wf)⟩).trans ?_
  exact congr (congr (congr (congr (congr (congrArg Instr.samoSc (bits_of (v := d) (fld_at hn hL 7 (lo := 21) (w := 5) rfl rfl))) (bits_of (v := a) (fld_at hn hL 6 (lo := 16) (w := 5) rfl rfl))) (bits_of (v := b) (fld_at hn hL 5 (lo := 11) (w := 5) rfl rfl))) (bits_of (v := p) (fld_at hn hL 4 (lo := 8) (w := 3) rfl rfl))) (flag_of (v := q) (fld_at hn hL 3 (lo := 7) (w := 1) rfl rfl))) (flag_of (v := r) (fld_at hn hL 2 (lo := 6) (w := 1) rfl rfl))

/-- `samo.swap`. -/
theorem samoSwap (d : BitVec 5) (a : BitVec 5) (b : BitVec 5) (p : BitVec 3) (q : Bool) (r : Bool) : Statement (.samoSwap d a b p q r) := by
  intro _ wf _
  have hL : FieldsFit [(4, 2), (2, 0), (1, r.toNat), (1, q.toNat), (3, p.toNat), (5, b.toNat), (5, a.toNat), (5, d.toNat), (6, 14)] := ⟨by decide, by decide, r.toNat_lt, q.toNat_lt, p.isLt, b.isLt, a.isLt, d.isLt, by decide, trivial⟩
  refine decode_of [(4, 2), (2, 0), (1, r.toNat), (1, q.toNat), (3, p.toNat), (5, b.toNat), (5, a.toNat), (5, d.toNat), (6, 14)] hL rfl (by change 939524098 + d.toNat * 2097152 + a.toNat * 65536 + b.toNat * 2048 + p.toNat * 256 + q.toNat * 128 + r.toNat * 64 = _; simp only [ofDigits]; omega) fun num hn => ?_
  refine (decodeNat_samo (fld_at hn hL 8 (lo := 26) (w := 6) rfl rfl)).trans ?_
  unfold decodeSamo
  rw [fld_at hn hL 0 (lo := 0) (w := 4) rfl rfl]
  refine (if_pos ⟨(fld_at hn hL 1 (lo := 4) (w := 2) rfl rfl), (by rw [fld_at hn hL 4 (lo := 8) (w := 3) rfl rfl]; exact of_decide_eq_true wf)⟩).trans ?_
  exact congr (congr (congr (congr (congr (congrArg Instr.samoSwap (bits_of (v := d) (fld_at hn hL 7 (lo := 21) (w := 5) rfl rfl))) (bits_of (v := a) (fld_at hn hL 6 (lo := 16) (w := 5) rfl rfl))) (bits_of (v := b) (fld_at hn hL 5 (lo := 11) (w := 5) rfl rfl))) (bits_of (v := p) (fld_at hn hL 4 (lo := 8) (w := 3) rfl rfl))) (flag_of (v := q) (fld_at hn hL 3 (lo := 7) (w := 1) rfl rfl))) (flag_of (v := r) (fld_at hn hL 2 (lo := 6) (w := 1) rfl rfl))

/-- `samo.fadd`. -/
theorem samoFadd (d : BitVec 5) (a : BitVec 5) (b : BitVec 5) (p : BitVec 3) (q : Bool) (r : Bool) : Statement (.samoFadd d a b p q r) := by
  intro _ wf _
  have hL : FieldsFit [(4, 3), (2, 0), (1, r.toNat), (1, q.toNat), (3, p.toNat), (5, b.toNat), (5, a.toNat), (5, d.toNat), (6, 14)] := ⟨by decide, by decide, r.toNat_lt, q.toNat_lt, p.isLt, b.isLt, a.isLt, d.isLt, by decide, trivial⟩
  refine decode_of [(4, 3), (2, 0), (1, r.toNat), (1, q.toNat), (3, p.toNat), (5, b.toNat), (5, a.toNat), (5, d.toNat), (6, 14)] hL rfl (by change 939524099 + d.toNat * 2097152 + a.toNat * 65536 + b.toNat * 2048 + p.toNat * 256 + q.toNat * 128 + r.toNat * 64 = _; simp only [ofDigits]; omega) fun num hn => ?_
  refine (decodeNat_samo (fld_at hn hL 8 (lo := 26) (w := 6) rfl rfl)).trans ?_
  unfold decodeSamo
  rw [fld_at hn hL 0 (lo := 0) (w := 4) rfl rfl]
  refine (if_pos ⟨(fld_at hn hL 1 (lo := 4) (w := 2) rfl rfl), (by rw [fld_at hn hL 4 (lo := 8) (w := 3) rfl rfl]; exact of_decide_eq_true wf)⟩).trans ?_
  exact congr (congr (congr (congr (congr (congrArg Instr.samoFadd (bits_of (v := d) (fld_at hn hL 7 (lo := 21) (w := 5) rfl rfl))) (bits_of (v := a) (fld_at hn hL 6 (lo := 16) (w := 5) rfl rfl))) (bits_of (v := b) (fld_at hn hL 5 (lo := 11) (w := 5) rfl rfl))) (bits_of (v := p) (fld_at hn hL 4 (lo := 8) (w := 3) rfl rfl))) (flag_of (v := q) (fld_at hn hL 3 (lo := 7) (w := 1) rfl rfl))) (flag_of (v := r) (fld_at hn hL 2 (lo := 6) (w := 1) rfl rfl))

/-- `samo.fmin`. -/
theorem samoFmin (d : BitVec 5) (a : BitVec 5) (b : BitVec 5) (p : BitVec 3) (q : Bool) (r : Bool) : Statement (.samoFmin d a b p q r) := by
  intro _ wf _
  have hL : FieldsFit [(4, 4), (2, 0), (1, r.toNat), (1, q.toNat), (3, p.toNat), (5, b.toNat), (5, a.toNat), (5, d.toNat), (6, 14)] := ⟨by decide, by decide, r.toNat_lt, q.toNat_lt, p.isLt, b.isLt, a.isLt, d.isLt, by decide, trivial⟩
  refine decode_of [(4, 4), (2, 0), (1, r.toNat), (1, q.toNat), (3, p.toNat), (5, b.toNat), (5, a.toNat), (5, d.toNat), (6, 14)] hL rfl (by change 939524100 + d.toNat * 2097152 + a.toNat * 65536 + b.toNat * 2048 + p.toNat * 256 + q.toNat * 128 + r.toNat * 64 = _; simp only [ofDigits]; omega) fun num hn => ?_
  refine (decodeNat_samo (fld_at hn hL 8 (lo := 26) (w := 6) rfl rfl)).trans ?_
  unfold decodeSamo
  rw [fld_at hn hL 0 (lo := 0) (w := 4) rfl rfl]
  refine (if_pos ⟨(fld_at hn hL 1 (lo := 4) (w := 2) rfl rfl), (by rw [fld_at hn hL 4 (lo := 8) (w := 3) rfl rfl]; exact of_decide_eq_true wf)⟩).trans ?_
  exact congr (congr (congr (congr (congr (congrArg Instr.samoFmin (bits_of (v := d) (fld_at hn hL 7 (lo := 21) (w := 5) rfl rfl))) (bits_of (v := a) (fld_at hn hL 6 (lo := 16) (w := 5) rfl rfl))) (bits_of (v := b) (fld_at hn hL 5 (lo := 11) (w := 5) rfl rfl))) (bits_of (v := p) (fld_at hn hL 4 (lo := 8) (w := 3) rfl rfl))) (flag_of (v := q) (fld_at hn hL 3 (lo := 7) (w := 1) rfl rfl))) (flag_of (v := r) (fld_at hn hL 2 (lo := 6) (w := 1) rfl rfl))

/-- `samo.fmax`. -/
theorem samoFmax (d : BitVec 5) (a : BitVec 5) (b : BitVec 5) (p : BitVec 3) (q : Bool) (r : Bool) : Statement (.samoFmax d a b p q r) := by
  intro _ wf _
  have hL : FieldsFit [(4, 5), (2, 0), (1, r.toNat), (1, q.toNat), (3, p.toNat), (5, b.toNat), (5, a.toNat), (5, d.toNat), (6, 14)] := ⟨by decide, by decide, r.toNat_lt, q.toNat_lt, p.isLt, b.isLt, a.isLt, d.isLt, by decide, trivial⟩
  refine decode_of [(4, 5), (2, 0), (1, r.toNat), (1, q.toNat), (3, p.toNat), (5, b.toNat), (5, a.toNat), (5, d.toNat), (6, 14)] hL rfl (by change 939524101 + d.toNat * 2097152 + a.toNat * 65536 + b.toNat * 2048 + p.toNat * 256 + q.toNat * 128 + r.toNat * 64 = _; simp only [ofDigits]; omega) fun num hn => ?_
  refine (decodeNat_samo (fld_at hn hL 8 (lo := 26) (w := 6) rfl rfl)).trans ?_
  unfold decodeSamo
  rw [fld_at hn hL 0 (lo := 0) (w := 4) rfl rfl]
  refine (if_pos ⟨(fld_at hn hL 1 (lo := 4) (w := 2) rfl rfl), (by rw [fld_at hn hL 4 (lo := 8) (w := 3) rfl rfl]; exact of_decide_eq_true wf)⟩).trans ?_
  exact congr (congr (congr (congr (congr (congrArg Instr.samoFmax (bits_of (v := d) (fld_at hn hL 7 (lo := 21) (w := 5) rfl rfl))) (bits_of (v := a) (fld_at hn hL 6 (lo := 16) (w := 5) rfl rfl))) (bits_of (v := b) (fld_at hn hL 5 (lo := 11) (w := 5) rfl rfl))) (bits_of (v := p) (fld_at hn hL 4 (lo := 8) (w := 3) rfl rfl))) (flag_of (v := q) (fld_at hn hL 3 (lo := 7) (w := 1) rfl rfl))) (flag_of (v := r) (fld_at hn hL 2 (lo := 6) (w := 1) rfl rfl))

/-- `samo.fand`. -/
theorem samoFand (d : BitVec 5) (a : BitVec 5) (b : BitVec 5) (p : BitVec 3) (q : Bool) (r : Bool) : Statement (.samoFand d a b p q r) := by
  intro _ wf _
  have hL : FieldsFit [(4, 6), (2, 0), (1, r.toNat), (1, q.toNat), (3, p.toNat), (5, b.toNat), (5, a.toNat), (5, d.toNat), (6, 14)] := ⟨by decide, by decide, r.toNat_lt, q.toNat_lt, p.isLt, b.isLt, a.isLt, d.isLt, by decide, trivial⟩
  refine decode_of [(4, 6), (2, 0), (1, r.toNat), (1, q.toNat), (3, p.toNat), (5, b.toNat), (5, a.toNat), (5, d.toNat), (6, 14)] hL rfl (by change 939524102 + d.toNat * 2097152 + a.toNat * 65536 + b.toNat * 2048 + p.toNat * 256 + q.toNat * 128 + r.toNat * 64 = _; simp only [ofDigits]; omega) fun num hn => ?_
  refine (decodeNat_samo (fld_at hn hL 8 (lo := 26) (w := 6) rfl rfl)).trans ?_
  unfold decodeSamo
  rw [fld_at hn hL 0 (lo := 0) (w := 4) rfl rfl]
  refine (if_pos ⟨(fld_at hn hL 1 (lo := 4) (w := 2) rfl rfl), (by rw [fld_at hn hL 4 (lo := 8) (w := 3) rfl rfl]; exact of_decide_eq_true wf)⟩).trans ?_
  exact congr (congr (congr (congr (congr (congrArg Instr.samoFand (bits_of (v := d) (fld_at hn hL 7 (lo := 21) (w := 5) rfl rfl))) (bits_of (v := a) (fld_at hn hL 6 (lo := 16) (w := 5) rfl rfl))) (bits_of (v := b) (fld_at hn hL 5 (lo := 11) (w := 5) rfl rfl))) (bits_of (v := p) (fld_at hn hL 4 (lo := 8) (w := 3) rfl rfl))) (flag_of (v := q) (fld_at hn hL 3 (lo := 7) (w := 1) rfl rfl))) (flag_of (v := r) (fld_at hn hL 2 (lo := 6) (w := 1) rfl rfl))

/-- `samo.for`. -/
theorem samoFor (d : BitVec 5) (a : BitVec 5) (b : BitVec 5) (p : BitVec 3) (q : Bool) (r : Bool) : Statement (.samoFor d a b p q r) := by
  intro _ wf _
  have hL : FieldsFit [(4, 7), (2, 0), (1, r.toNat), (1, q.toNat), (3, p.toNat), (5, b.toNat), (5, a.toNat), (5, d.toNat), (6, 14)] := ⟨by decide, by decide, r.toNat_lt, q.toNat_lt, p.isLt, b.isLt, a.isLt, d.isLt, by decide, trivial⟩
  refine decode_of [(4, 7), (2, 0), (1, r.toNat), (1, q.toNat), (3, p.toNat), (5, b.toNat), (5, a.toNat), (5, d.toNat), (6, 14)] hL rfl (by change 939524103 + d.toNat * 2097152 + a.toNat * 65536 + b.toNat * 2048 + p.toNat * 256 + q.toNat * 128 + r.toNat * 64 = _; simp only [ofDigits]; omega) fun num hn => ?_
  refine (decodeNat_samo (fld_at hn hL 8 (lo := 26) (w := 6) rfl rfl)).trans ?_
  unfold decodeSamo
  rw [fld_at hn hL 0 (lo := 0) (w := 4) rfl rfl]
  refine (if_pos ⟨(fld_at hn hL 1 (lo := 4) (w := 2) rfl rfl), (by rw [fld_at hn hL 4 (lo := 8) (w := 3) rfl rfl]; exact of_decide_eq_true wf)⟩).trans ?_
  exact congr (congr (congr (congr (congr (congrArg Instr.samoFor (bits_of (v := d) (fld_at hn hL 7 (lo := 21) (w := 5) rfl rfl))) (bits_of (v := a) (fld_at hn hL 6 (lo := 16) (w := 5) rfl rfl))) (bits_of (v := b) (fld_at hn hL 5 (lo := 11) (w := 5) rfl rfl))) (bits_of (v := p) (fld_at hn hL 4 (lo := 8) (w := 3) rfl rfl))) (flag_of (v := q) (fld_at hn hL 3 (lo := 7) (w := 1) rfl rfl))) (flag_of (v := r) (fld_at hn hL 2 (lo := 6) (w := 1) rfl rfl))

/-- `valu.add`. -/
theorem valuAdd (d : BitVec 5) (a : BitVec 5) (b : BitVec 5) (x : Bool) (y : Bool) (m : BitVec 2) : Statement (.valuAdd d a b x y m) := by
  intro _ _ _
  have hL : FieldsFit [(7, 0), (2, m.toNat), (1, y.toNat), (1, x.toNat), (5, b.toNat), (5, a.toNat), (5, d.toNat), (6, 16)] := ⟨by decide, m.isLt, y.toNat_lt, x.toNat_lt, b.isLt, a.isLt, d.isLt, by decide, trivial⟩
  refine decode_of [(7, 0), (2, m.toNat), (1, y.toNat), (1, x.toNat), (5, b.toNat), (5, a.toNat), (5, d.toNat), (6, 16)] hL rfl (by change 1073741824 + d.toNat * 2097152 + a.toNat * 65536 + b.toNat * 2048 + x.toNat * 1024 + y.toNat * 512 + m.toNat * 128 = _; simp only [ofDigits]; omega) fun num hn => ?_
  refine (decodeNat_valu (fld_at hn hL 7 (lo := 26) (w := 6) rfl rfl)).trans ?_
  unfold decodeValu
  rw [fld_at hn hL 0 (lo := 0) (w := 7) rfl rfl]
  exact congr (congr (congr (congr (congr (congrArg Instr.valuAdd (bits_of (v := d) (fld_at hn hL 6 (lo := 21) (w := 5) rfl rfl))) (bits_of (v := a) (fld_at hn hL 5 (lo := 16) (w := 5) rfl rfl))) (bits_of (v := b) (fld_at hn hL 4 (lo := 11) (w := 5) rfl rfl))) (flag_of (v := x) (fld_at hn hL 3 (lo := 10) (w := 1) rfl rfl))) (flag_of (v := y) (fld_at hn hL 2 (lo := 9) (w := 1) rfl rfl))) (bits_of (v := m) (fld_at hn hL 1 (lo := 7) (w := 2) rfl rfl))

/-- `valu.sub`. -/
theorem valuSub (d : BitVec 5) (a : BitVec 5) (b : BitVec 5) (x : Bool) (y : Bool) (m : BitVec 2) : Statement (.valuSub d a b x y m) := by
  intro _ _ _
  have hL : FieldsFit [(7, 1), (2, m.toNat), (1, y.toNat), (1, x.toNat), (5, b.toNat), (5, a.toNat), (5, d.toNat), (6, 16)] := ⟨by decide, m.isLt, y.toNat_lt, x.toNat_lt, b.isLt, a.isLt, d.isLt, by decide, trivial⟩
  refine decode_of [(7, 1), (2, m.toNat), (1, y.toNat), (1, x.toNat), (5, b.toNat), (5, a.toNat), (5, d.toNat), (6, 16)] hL rfl (by change 1073741825 + d.toNat * 2097152 + a.toNat * 65536 + b.toNat * 2048 + x.toNat * 1024 + y.toNat * 512 + m.toNat * 128 = _; simp only [ofDigits]; omega) fun num hn => ?_
  refine (decodeNat_valu (fld_at hn hL 7 (lo := 26) (w := 6) rfl rfl)).trans ?_
  unfold decodeValu
  rw [fld_at hn hL 0 (lo := 0) (w := 7) rfl rfl]
  exact congr (congr (congr (congr (congr (congrArg Instr.valuSub (bits_of (v := d) (fld_at hn hL 6 (lo := 21) (w := 5) rfl rfl))) (bits_of (v := a) (fld_at hn hL 5 (lo := 16) (w := 5) rfl rfl))) (bits_of (v := b) (fld_at hn hL 4 (lo := 11) (w := 5) rfl rfl))) (flag_of (v := x) (fld_at hn hL 3 (lo := 10) (w := 1) rfl rfl))) (flag_of (v := y) (fld_at hn hL 2 (lo := 9) (w := 1) rfl rfl))) (bits_of (v := m) (fld_at hn hL 1 (lo := 7) (w := 2) rfl rfl))

/-- `valu.rsub`. -/
theorem valuRsub (d : BitVec 5) (a : BitVec 5) (b : BitVec 5) (x : Bool) (y : Bool) (m : BitVec 2) : Statement (.valuRsub d a b x y m) := by
  intro _ _ _
  have hL : FieldsFit [(7, 2), (2, m.toNat), (1, y.toNat), (1, x.toNat), (5, b.toNat), (5, a.toNat), (5, d.toNat), (6, 16)] := ⟨by decide, m.isLt, y.toNat_lt, x.toNat_lt, b.isLt, a.isLt, d.isLt, by decide, trivial⟩
  refine decode_of [(7, 2), (2, m.toNat), (1, y.toNat), (1, x.toNat), (5, b.toNat), (5, a.toNat), (5, d.toNat), (6, 16)] hL rfl (by change 1073741826 + d.toNat * 2097152 + a.toNat * 65536 + b.toNat * 2048 + x.toNat * 1024 + y.toNat * 512 + m.toNat * 128 = _; simp only [ofDigits]; omega) fun num hn => ?_
  refine (decodeNat_valu (fld_at hn hL 7 (lo := 26) (w := 6) rfl rfl)).trans ?_
  unfold decodeValu
  rw [fld_at hn hL 0 (lo := 0) (w := 7) rfl rfl]
  exact congr (congr (congr (congr (congr (congrArg Instr.valuRsub (bits_of (v := d) (fld_at hn hL 6 (lo := 21) (w := 5) rfl rfl))) (bits_of (v := a) (fld_at hn hL 5 (lo := 16) (w := 5) rfl rfl))) (bits_of (v := b) (fld_at hn hL 4 (lo := 11) (w := 5) rfl rfl))) (flag_of (v := x) (fld_at hn hL 3 (lo := 10) (w := 1) rfl rfl))) (flag_of (v := y) (fld_at hn hL 2 (lo := 9) (w := 1) rfl rfl))) (bits_of (v := m) (fld_at hn hL 1 (lo := 7) (w := 2) rfl rfl))

/-- `valu.and`. -/
theorem valuAnd (d : BitVec 5) (a : BitVec 5) (b : BitVec 5) (x : Bool) (y : Bool) (m : BitVec 2) : Statement (.valuAnd d a b x y m) := by
  intro _ _ _
  have hL : FieldsFit [(7, 3), (2, m.toNat), (1, y.toNat), (1, x.toNat), (5, b.toNat), (5, a.toNat), (5, d.toNat), (6, 16)] := ⟨by decide, m.isLt, y.toNat_lt, x.toNat_lt, b.isLt, a.isLt, d.isLt, by decide, trivial⟩
  refine decode_of [(7, 3), (2, m.toNat), (1, y.toNat), (1, x.toNat), (5, b.toNat), (5, a.toNat), (5, d.toNat), (6, 16)] hL rfl (by change 1073741827 + d.toNat * 2097152 + a.toNat * 65536 + b.toNat * 2048 + x.toNat * 1024 + y.toNat * 512 + m.toNat * 128 = _; simp only [ofDigits]; omega) fun num hn => ?_
  refine (decodeNat_valu (fld_at hn hL 7 (lo := 26) (w := 6) rfl rfl)).trans ?_
  unfold decodeValu
  rw [fld_at hn hL 0 (lo := 0) (w := 7) rfl rfl]
  exact congr (congr (congr (congr (congr (congrArg Instr.valuAnd (bits_of (v := d) (fld_at hn hL 6 (lo := 21) (w := 5) rfl rfl))) (bits_of (v := a) (fld_at hn hL 5 (lo := 16) (w := 5) rfl rfl))) (bits_of (v := b) (fld_at hn hL 4 (lo := 11) (w := 5) rfl rfl))) (flag_of (v := x) (fld_at hn hL 3 (lo := 10) (w := 1) rfl rfl))) (flag_of (v := y) (fld_at hn hL 2 (lo := 9) (w := 1) rfl rfl))) (bits_of (v := m) (fld_at hn hL 1 (lo := 7) (w := 2) rfl rfl))

/-- `valu.or`. -/
theorem valuOr (d : BitVec 5) (a : BitVec 5) (b : BitVec 5) (x : Bool) (y : Bool) (m : BitVec 2) : Statement (.valuOr d a b x y m) := by
  intro _ _ _
  have hL : FieldsFit [(7, 4), (2, m.toNat), (1, y.toNat), (1, x.toNat), (5, b.toNat), (5, a.toNat), (5, d.toNat), (6, 16)] := ⟨by decide, m.isLt, y.toNat_lt, x.toNat_lt, b.isLt, a.isLt, d.isLt, by decide, trivial⟩
  refine decode_of [(7, 4), (2, m.toNat), (1, y.toNat), (1, x.toNat), (5, b.toNat), (5, a.toNat), (5, d.toNat), (6, 16)] hL rfl (by change 1073741828 + d.toNat * 2097152 + a.toNat * 65536 + b.toNat * 2048 + x.toNat * 1024 + y.toNat * 512 + m.toNat * 128 = _; simp only [ofDigits]; omega) fun num hn => ?_
  refine (decodeNat_valu (fld_at hn hL 7 (lo := 26) (w := 6) rfl rfl)).trans ?_
  unfold decodeValu
  rw [fld_at hn hL 0 (lo := 0) (w := 7) rfl rfl]
  exact congr (congr (congr (congr (congr (congrArg Instr.valuOr (bits_of (v := d) (fld_at hn hL 6 (lo := 21) (w := 5) rfl rfl))) (bits_of (v := a) (fld_at hn hL 5 (lo := 16) (w := 5) rfl rfl))) (bits_of (v := b) (fld_at hn hL 4 (lo := 11) (w := 5) rfl rfl))) (flag_of (v := x) (fld_at hn hL 3 (lo := 10) (w := 1) rfl rfl))) (flag_of (v := y) (fld_at hn hL 2 (lo := 9) (w := 1) rfl rfl))) (bits_of (v := m) (fld_at hn hL 1 (lo := 7) (w := 2) rfl rfl))

/-- `valu.xor`. -/
theorem valuXor (d : BitVec 5) (a : BitVec 5) (b : BitVec 5) (x : Bool) (y : Bool) (m : BitVec 2) : Statement (.valuXor d a b x y m) := by
  intro _ _ _
  have hL : FieldsFit [(7, 5), (2, m.toNat), (1, y.toNat), (1, x.toNat), (5, b.toNat), (5, a.toNat), (5, d.toNat), (6, 16)] := ⟨by decide, m.isLt, y.toNat_lt, x.toNat_lt, b.isLt, a.isLt, d.isLt, by decide, trivial⟩
  refine decode_of [(7, 5), (2, m.toNat), (1, y.toNat), (1, x.toNat), (5, b.toNat), (5, a.toNat), (5, d.toNat), (6, 16)] hL rfl (by change 1073741829 + d.toNat * 2097152 + a.toNat * 65536 + b.toNat * 2048 + x.toNat * 1024 + y.toNat * 512 + m.toNat * 128 = _; simp only [ofDigits]; omega) fun num hn => ?_
  refine (decodeNat_valu (fld_at hn hL 7 (lo := 26) (w := 6) rfl rfl)).trans ?_
  unfold decodeValu
  rw [fld_at hn hL 0 (lo := 0) (w := 7) rfl rfl]
  exact congr (congr (congr (congr (congr (congrArg Instr.valuXor (bits_of (v := d) (fld_at hn hL 6 (lo := 21) (w := 5) rfl rfl))) (bits_of (v := a) (fld_at hn hL 5 (lo := 16) (w := 5) rfl rfl))) (bits_of (v := b) (fld_at hn hL 4 (lo := 11) (w := 5) rfl rfl))) (flag_of (v := x) (fld_at hn hL 3 (lo := 10) (w := 1) rfl rfl))) (flag_of (v := y) (fld_at hn hL 2 (lo := 9) (w := 1) rfl rfl))) (bits_of (v := m) (fld_at hn hL 1 (lo := 7) (w := 2) rfl rfl))

/-- `valu.andn`. -/
theorem valuAndn (d : BitVec 5) (a : BitVec 5) (b : BitVec 5) (x : Bool) (y : Bool) (m : BitVec 2) : Statement (.valuAndn d a b x y m) := by
  intro _ _ _
  have hL : FieldsFit [(7, 6), (2, m.toNat), (1, y.toNat), (1, x.toNat), (5, b.toNat), (5, a.toNat), (5, d.toNat), (6, 16)] := ⟨by decide, m.isLt, y.toNat_lt, x.toNat_lt, b.isLt, a.isLt, d.isLt, by decide, trivial⟩
  refine decode_of [(7, 6), (2, m.toNat), (1, y.toNat), (1, x.toNat), (5, b.toNat), (5, a.toNat), (5, d.toNat), (6, 16)] hL rfl (by change 1073741830 + d.toNat * 2097152 + a.toNat * 65536 + b.toNat * 2048 + x.toNat * 1024 + y.toNat * 512 + m.toNat * 128 = _; simp only [ofDigits]; omega) fun num hn => ?_
  refine (decodeNat_valu (fld_at hn hL 7 (lo := 26) (w := 6) rfl rfl)).trans ?_
  unfold decodeValu
  rw [fld_at hn hL 0 (lo := 0) (w := 7) rfl rfl]
  exact congr (congr (congr (congr (congr (congrArg Instr.valuAndn (bits_of (v := d) (fld_at hn hL 6 (lo := 21) (w := 5) rfl rfl))) (bits_of (v := a) (fld_at hn hL 5 (lo := 16) (w := 5) rfl rfl))) (bits_of (v := b) (fld_at hn hL 4 (lo := 11) (w := 5) rfl rfl))) (flag_of (v := x) (fld_at hn hL 3 (lo := 10) (w := 1) rfl rfl))) (flag_of (v := y) (fld_at hn hL 2 (lo := 9) (w := 1) rfl rfl))) (bits_of (v := m) (fld_at hn hL 1 (lo := 7) (w := 2) rfl rfl))

/-- `valu.sll`. -/
theorem valuSll (d : BitVec 5) (a : BitVec 5) (b : BitVec 5) (x : Bool) (y : Bool) (m : BitVec 2) : Statement (.valuSll d a b x y m) := by
  intro _ _ _
  have hL : FieldsFit [(7, 7), (2, m.toNat), (1, y.toNat), (1, x.toNat), (5, b.toNat), (5, a.toNat), (5, d.toNat), (6, 16)] := ⟨by decide, m.isLt, y.toNat_lt, x.toNat_lt, b.isLt, a.isLt, d.isLt, by decide, trivial⟩
  refine decode_of [(7, 7), (2, m.toNat), (1, y.toNat), (1, x.toNat), (5, b.toNat), (5, a.toNat), (5, d.toNat), (6, 16)] hL rfl (by change 1073741831 + d.toNat * 2097152 + a.toNat * 65536 + b.toNat * 2048 + x.toNat * 1024 + y.toNat * 512 + m.toNat * 128 = _; simp only [ofDigits]; omega) fun num hn => ?_
  refine (decodeNat_valu (fld_at hn hL 7 (lo := 26) (w := 6) rfl rfl)).trans ?_
  unfold decodeValu
  rw [fld_at hn hL 0 (lo := 0) (w := 7) rfl rfl]
  exact congr (congr (congr (congr (congr (congrArg Instr.valuSll (bits_of (v := d) (fld_at hn hL 6 (lo := 21) (w := 5) rfl rfl))) (bits_of (v := a) (fld_at hn hL 5 (lo := 16) (w := 5) rfl rfl))) (bits_of (v := b) (fld_at hn hL 4 (lo := 11) (w := 5) rfl rfl))) (flag_of (v := x) (fld_at hn hL 3 (lo := 10) (w := 1) rfl rfl))) (flag_of (v := y) (fld_at hn hL 2 (lo := 9) (w := 1) rfl rfl))) (bits_of (v := m) (fld_at hn hL 1 (lo := 7) (w := 2) rfl rfl))

/-- `valu.srl`. -/
theorem valuSrl (d : BitVec 5) (a : BitVec 5) (b : BitVec 5) (x : Bool) (y : Bool) (m : BitVec 2) : Statement (.valuSrl d a b x y m) := by
  intro _ _ _
  have hL : FieldsFit [(7, 8), (2, m.toNat), (1, y.toNat), (1, x.toNat), (5, b.toNat), (5, a.toNat), (5, d.toNat), (6, 16)] := ⟨by decide, m.isLt, y.toNat_lt, x.toNat_lt, b.isLt, a.isLt, d.isLt, by decide, trivial⟩
  refine decode_of [(7, 8), (2, m.toNat), (1, y.toNat), (1, x.toNat), (5, b.toNat), (5, a.toNat), (5, d.toNat), (6, 16)] hL rfl (by change 1073741832 + d.toNat * 2097152 + a.toNat * 65536 + b.toNat * 2048 + x.toNat * 1024 + y.toNat * 512 + m.toNat * 128 = _; simp only [ofDigits]; omega) fun num hn => ?_
  refine (decodeNat_valu (fld_at hn hL 7 (lo := 26) (w := 6) rfl rfl)).trans ?_
  unfold decodeValu
  rw [fld_at hn hL 0 (lo := 0) (w := 7) rfl rfl]
  exact congr (congr (congr (congr (congr (congrArg Instr.valuSrl (bits_of (v := d) (fld_at hn hL 6 (lo := 21) (w := 5) rfl rfl))) (bits_of (v := a) (fld_at hn hL 5 (lo := 16) (w := 5) rfl rfl))) (bits_of (v := b) (fld_at hn hL 4 (lo := 11) (w := 5) rfl rfl))) (flag_of (v := x) (fld_at hn hL 3 (lo := 10) (w := 1) rfl rfl))) (flag_of (v := y) (fld_at hn hL 2 (lo := 9) (w := 1) rfl rfl))) (bits_of (v := m) (fld_at hn hL 1 (lo := 7) (w := 2) rfl rfl))

/-- `valu.sra`. -/
theorem valuSra (d : BitVec 5) (a : BitVec 5) (b : BitVec 5) (x : Bool) (y : Bool) (m : BitVec 2) : Statement (.valuSra d a b x y m) := by
  intro _ _ _
  have hL : FieldsFit [(7, 9), (2, m.toNat), (1, y.toNat), (1, x.toNat), (5, b.toNat), (5, a.toNat), (5, d.toNat), (6, 16)] := ⟨by decide, m.isLt, y.toNat_lt, x.toNat_lt, b.isLt, a.isLt, d.isLt, by decide, trivial⟩
  refine decode_of [(7, 9), (2, m.toNat), (1, y.toNat), (1, x.toNat), (5, b.toNat), (5, a.toNat), (5, d.toNat), (6, 16)] hL rfl (by change 1073741833 + d.toNat * 2097152 + a.toNat * 65536 + b.toNat * 2048 + x.toNat * 1024 + y.toNat * 512 + m.toNat * 128 = _; simp only [ofDigits]; omega) fun num hn => ?_
  refine (decodeNat_valu (fld_at hn hL 7 (lo := 26) (w := 6) rfl rfl)).trans ?_
  unfold decodeValu
  rw [fld_at hn hL 0 (lo := 0) (w := 7) rfl rfl]
  exact congr (congr (congr (congr (congr (congrArg Instr.valuSra (bits_of (v := d) (fld_at hn hL 6 (lo := 21) (w := 5) rfl rfl))) (bits_of (v := a) (fld_at hn hL 5 (lo := 16) (w := 5) rfl rfl))) (bits_of (v := b) (fld_at hn hL 4 (lo := 11) (w := 5) rfl rfl))) (flag_of (v := x) (fld_at hn hL 3 (lo := 10) (w := 1) rfl rfl))) (flag_of (v := y) (fld_at hn hL 2 (lo := 9) (w := 1) rfl rfl))) (bits_of (v := m) (fld_at hn hL 1 (lo := 7) (w := 2) rfl rfl))

/-- `valu.min`. -/
theorem valuMin (d : BitVec 5) (a : BitVec 5) (b : BitVec 5) (x : Bool) (y : Bool) (m : BitVec 2) : Statement (.valuMin d a b x y m) := by
  intro _ _ _
  have hL : FieldsFit [(7, 10), (2, m.toNat), (1, y.toNat), (1, x.toNat), (5, b.toNat), (5, a.toNat), (5, d.toNat), (6, 16)] := ⟨by decide, m.isLt, y.toNat_lt, x.toNat_lt, b.isLt, a.isLt, d.isLt, by decide, trivial⟩
  refine decode_of [(7, 10), (2, m.toNat), (1, y.toNat), (1, x.toNat), (5, b.toNat), (5, a.toNat), (5, d.toNat), (6, 16)] hL rfl (by change 1073741834 + d.toNat * 2097152 + a.toNat * 65536 + b.toNat * 2048 + x.toNat * 1024 + y.toNat * 512 + m.toNat * 128 = _; simp only [ofDigits]; omega) fun num hn => ?_
  refine (decodeNat_valu (fld_at hn hL 7 (lo := 26) (w := 6) rfl rfl)).trans ?_
  unfold decodeValu
  rw [fld_at hn hL 0 (lo := 0) (w := 7) rfl rfl]
  exact congr (congr (congr (congr (congr (congrArg Instr.valuMin (bits_of (v := d) (fld_at hn hL 6 (lo := 21) (w := 5) rfl rfl))) (bits_of (v := a) (fld_at hn hL 5 (lo := 16) (w := 5) rfl rfl))) (bits_of (v := b) (fld_at hn hL 4 (lo := 11) (w := 5) rfl rfl))) (flag_of (v := x) (fld_at hn hL 3 (lo := 10) (w := 1) rfl rfl))) (flag_of (v := y) (fld_at hn hL 2 (lo := 9) (w := 1) rfl rfl))) (bits_of (v := m) (fld_at hn hL 1 (lo := 7) (w := 2) rfl rfl))

/-- `valu.max`. -/
theorem valuMax (d : BitVec 5) (a : BitVec 5) (b : BitVec 5) (x : Bool) (y : Bool) (m : BitVec 2) : Statement (.valuMax d a b x y m) := by
  intro _ _ _
  have hL : FieldsFit [(7, 11), (2, m.toNat), (1, y.toNat), (1, x.toNat), (5, b.toNat), (5, a.toNat), (5, d.toNat), (6, 16)] := ⟨by decide, m.isLt, y.toNat_lt, x.toNat_lt, b.isLt, a.isLt, d.isLt, by decide, trivial⟩
  refine decode_of [(7, 11), (2, m.toNat), (1, y.toNat), (1, x.toNat), (5, b.toNat), (5, a.toNat), (5, d.toNat), (6, 16)] hL rfl (by change 1073741835 + d.toNat * 2097152 + a.toNat * 65536 + b.toNat * 2048 + x.toNat * 1024 + y.toNat * 512 + m.toNat * 128 = _; simp only [ofDigits]; omega) fun num hn => ?_
  refine (decodeNat_valu (fld_at hn hL 7 (lo := 26) (w := 6) rfl rfl)).trans ?_
  unfold decodeValu
  rw [fld_at hn hL 0 (lo := 0) (w := 7) rfl rfl]
  exact congr (congr (congr (congr (congr (congrArg Instr.valuMax (bits_of (v := d) (fld_at hn hL 6 (lo := 21) (w := 5) rfl rfl))) (bits_of (v := a) (fld_at hn hL 5 (lo := 16) (w := 5) rfl rfl))) (bits_of (v := b) (fld_at hn hL 4 (lo := 11) (w := 5) rfl rfl))) (flag_of (v := x) (fld_at hn hL 3 (lo := 10) (w := 1) rfl rfl))) (flag_of (v := y) (fld_at hn hL 2 (lo := 9) (w := 1) rfl rfl))) (bits_of (v := m) (fld_at hn hL 1 (lo := 7) (w := 2) rfl rfl))

/-- `valu.minu`. -/
theorem valuMinu (d : BitVec 5) (a : BitVec 5) (b : BitVec 5) (x : Bool) (y : Bool) (m : BitVec 2) : Statement (.valuMinu d a b x y m) := by
  intro _ _ _
  have hL : FieldsFit [(7, 12), (2, m.toNat), (1, y.toNat), (1, x.toNat), (5, b.toNat), (5, a.toNat), (5, d.toNat), (6, 16)] := ⟨by decide, m.isLt, y.toNat_lt, x.toNat_lt, b.isLt, a.isLt, d.isLt, by decide, trivial⟩
  refine decode_of [(7, 12), (2, m.toNat), (1, y.toNat), (1, x.toNat), (5, b.toNat), (5, a.toNat), (5, d.toNat), (6, 16)] hL rfl (by change 1073741836 + d.toNat * 2097152 + a.toNat * 65536 + b.toNat * 2048 + x.toNat * 1024 + y.toNat * 512 + m.toNat * 128 = _; simp only [ofDigits]; omega) fun num hn => ?_
  refine (decodeNat_valu (fld_at hn hL 7 (lo := 26) (w := 6) rfl rfl)).trans ?_
  unfold decodeValu
  rw [fld_at hn hL 0 (lo := 0) (w := 7) rfl rfl]
  exact congr (congr (congr (congr (congr (congrArg Instr.valuMinu (bits_of (v := d) (fld_at hn hL 6 (lo := 21) (w := 5) rfl rfl))) (bits_of (v := a) (fld_at hn hL 5 (lo := 16) (w := 5) rfl rfl))) (bits_of (v := b) (fld_at hn hL 4 (lo := 11) (w := 5) rfl rfl))) (flag_of (v := x) (fld_at hn hL 3 (lo := 10) (w := 1) rfl rfl))) (flag_of (v := y) (fld_at hn hL 2 (lo := 9) (w := 1) rfl rfl))) (bits_of (v := m) (fld_at hn hL 1 (lo := 7) (w := 2) rfl rfl))

/-- `valu.maxu`. -/
theorem valuMaxu (d : BitVec 5) (a : BitVec 5) (b : BitVec 5) (x : Bool) (y : Bool) (m : BitVec 2) : Statement (.valuMaxu d a b x y m) := by
  intro _ _ _
  have hL : FieldsFit [(7, 13), (2, m.toNat), (1, y.toNat), (1, x.toNat), (5, b.toNat), (5, a.toNat), (5, d.toNat), (6, 16)] := ⟨by decide, m.isLt, y.toNat_lt, x.toNat_lt, b.isLt, a.isLt, d.isLt, by decide, trivial⟩
  refine decode_of [(7, 13), (2, m.toNat), (1, y.toNat), (1, x.toNat), (5, b.toNat), (5, a.toNat), (5, d.toNat), (6, 16)] hL rfl (by change 1073741837 + d.toNat * 2097152 + a.toNat * 65536 + b.toNat * 2048 + x.toNat * 1024 + y.toNat * 512 + m.toNat * 128 = _; simp only [ofDigits]; omega) fun num hn => ?_
  refine (decodeNat_valu (fld_at hn hL 7 (lo := 26) (w := 6) rfl rfl)).trans ?_
  unfold decodeValu
  rw [fld_at hn hL 0 (lo := 0) (w := 7) rfl rfl]
  exact congr (congr (congr (congr (congr (congrArg Instr.valuMaxu (bits_of (v := d) (fld_at hn hL 6 (lo := 21) (w := 5) rfl rfl))) (bits_of (v := a) (fld_at hn hL 5 (lo := 16) (w := 5) rfl rfl))) (bits_of (v := b) (fld_at hn hL 4 (lo := 11) (w := 5) rfl rfl))) (flag_of (v := x) (fld_at hn hL 3 (lo := 10) (w := 1) rfl rfl))) (flag_of (v := y) (fld_at hn hL 2 (lo := 9) (w := 1) rfl rfl))) (bits_of (v := m) (fld_at hn hL 1 (lo := 7) (w := 2) rfl rfl))

/-- `valu.mul`. -/
theorem valuMul (d : BitVec 5) (a : BitVec 5) (b : BitVec 5) (x : Bool) (y : Bool) (m : BitVec 2) : Statement (.valuMul d a b x y m) := by
  intro _ _ _
  have hL : FieldsFit [(7, 14), (2, m.toNat), (1, y.toNat), (1, x.toNat), (5, b.toNat), (5, a.toNat), (5, d.toNat), (6, 16)] := ⟨by decide, m.isLt, y.toNat_lt, x.toNat_lt, b.isLt, a.isLt, d.isLt, by decide, trivial⟩
  refine decode_of [(7, 14), (2, m.toNat), (1, y.toNat), (1, x.toNat), (5, b.toNat), (5, a.toNat), (5, d.toNat), (6, 16)] hL rfl (by change 1073741838 + d.toNat * 2097152 + a.toNat * 65536 + b.toNat * 2048 + x.toNat * 1024 + y.toNat * 512 + m.toNat * 128 = _; simp only [ofDigits]; omega) fun num hn => ?_
  refine (decodeNat_valu (fld_at hn hL 7 (lo := 26) (w := 6) rfl rfl)).trans ?_
  unfold decodeValu
  rw [fld_at hn hL 0 (lo := 0) (w := 7) rfl rfl]
  exact congr (congr (congr (congr (congr (congrArg Instr.valuMul (bits_of (v := d) (fld_at hn hL 6 (lo := 21) (w := 5) rfl rfl))) (bits_of (v := a) (fld_at hn hL 5 (lo := 16) (w := 5) rfl rfl))) (bits_of (v := b) (fld_at hn hL 4 (lo := 11) (w := 5) rfl rfl))) (flag_of (v := x) (fld_at hn hL 3 (lo := 10) (w := 1) rfl rfl))) (flag_of (v := y) (fld_at hn hL 2 (lo := 9) (w := 1) rfl rfl))) (bits_of (v := m) (fld_at hn hL 1 (lo := 7) (w := 2) rfl rfl))

/-- `valu.mulh`. -/
theorem valuMulh (d : BitVec 5) (a : BitVec 5) (b : BitVec 5) (x : Bool) (y : Bool) (m : BitVec 2) : Statement (.valuMulh d a b x y m) := by
  intro _ _ _
  have hL : FieldsFit [(7, 15), (2, m.toNat), (1, y.toNat), (1, x.toNat), (5, b.toNat), (5, a.toNat), (5, d.toNat), (6, 16)] := ⟨by decide, m.isLt, y.toNat_lt, x.toNat_lt, b.isLt, a.isLt, d.isLt, by decide, trivial⟩
  refine decode_of [(7, 15), (2, m.toNat), (1, y.toNat), (1, x.toNat), (5, b.toNat), (5, a.toNat), (5, d.toNat), (6, 16)] hL rfl (by change 1073741839 + d.toNat * 2097152 + a.toNat * 65536 + b.toNat * 2048 + x.toNat * 1024 + y.toNat * 512 + m.toNat * 128 = _; simp only [ofDigits]; omega) fun num hn => ?_
  refine (decodeNat_valu (fld_at hn hL 7 (lo := 26) (w := 6) rfl rfl)).trans ?_
  unfold decodeValu
  rw [fld_at hn hL 0 (lo := 0) (w := 7) rfl rfl]
  exact congr (congr (congr (congr (congr (congrArg Instr.valuMulh (bits_of (v := d) (fld_at hn hL 6 (lo := 21) (w := 5) rfl rfl))) (bits_of (v := a) (fld_at hn hL 5 (lo := 16) (w := 5) rfl rfl))) (bits_of (v := b) (fld_at hn hL 4 (lo := 11) (w := 5) rfl rfl))) (flag_of (v := x) (fld_at hn hL 3 (lo := 10) (w := 1) rfl rfl))) (flag_of (v := y) (fld_at hn hL 2 (lo := 9) (w := 1) rfl rfl))) (bits_of (v := m) (fld_at hn hL 1 (lo := 7) (w := 2) rfl rfl))

/-- `valu.mulhu`. -/
theorem valuMulhu (d : BitVec 5) (a : BitVec 5) (b : BitVec 5) (x : Bool) (y : Bool) (m : BitVec 2) : Statement (.valuMulhu d a b x y m) := by
  intro _ _ _
  have hL : FieldsFit [(7, 16), (2, m.toNat), (1, y.toNat), (1, x.toNat), (5, b.toNat), (5, a.toNat), (5, d.toNat), (6, 16)] := ⟨by decide, m.isLt, y.toNat_lt, x.toNat_lt, b.isLt, a.isLt, d.isLt, by decide, trivial⟩
  refine decode_of [(7, 16), (2, m.toNat), (1, y.toNat), (1, x.toNat), (5, b.toNat), (5, a.toNat), (5, d.toNat), (6, 16)] hL rfl (by change 1073741840 + d.toNat * 2097152 + a.toNat * 65536 + b.toNat * 2048 + x.toNat * 1024 + y.toNat * 512 + m.toNat * 128 = _; simp only [ofDigits]; omega) fun num hn => ?_
  refine (decodeNat_valu (fld_at hn hL 7 (lo := 26) (w := 6) rfl rfl)).trans ?_
  unfold decodeValu
  rw [fld_at hn hL 0 (lo := 0) (w := 7) rfl rfl]
  exact congr (congr (congr (congr (congr (congrArg Instr.valuMulhu (bits_of (v := d) (fld_at hn hL 6 (lo := 21) (w := 5) rfl rfl))) (bits_of (v := a) (fld_at hn hL 5 (lo := 16) (w := 5) rfl rfl))) (bits_of (v := b) (fld_at hn hL 4 (lo := 11) (w := 5) rfl rfl))) (flag_of (v := x) (fld_at hn hL 3 (lo := 10) (w := 1) rfl rfl))) (flag_of (v := y) (fld_at hn hL 2 (lo := 9) (w := 1) rfl rfl))) (bits_of (v := m) (fld_at hn hL 1 (lo := 7) (w := 2) rfl rfl))

/-- `valu.adds`. -/
theorem valuAdds (d : BitVec 5) (a : BitVec 5) (b : BitVec 5) (x : Bool) (y : Bool) (m : BitVec 2) : Statement (.valuAdds d a b x y m) := by
  intro _ _ _
  have hL : FieldsFit [(7, 17), (2, m.toNat), (1, y.toNat), (1, x.toNat), (5, b.toNat), (5, a.toNat), (5, d.toNat), (6, 16)] := ⟨by decide, m.isLt, y.toNat_lt, x.toNat_lt, b.isLt, a.isLt, d.isLt, by decide, trivial⟩
  refine decode_of [(7, 17), (2, m.toNat), (1, y.toNat), (1, x.toNat), (5, b.toNat), (5, a.toNat), (5, d.toNat), (6, 16)] hL rfl (by change 1073741841 + d.toNat * 2097152 + a.toNat * 65536 + b.toNat * 2048 + x.toNat * 1024 + y.toNat * 512 + m.toNat * 128 = _; simp only [ofDigits]; omega) fun num hn => ?_
  refine (decodeNat_valu (fld_at hn hL 7 (lo := 26) (w := 6) rfl rfl)).trans ?_
  unfold decodeValu
  rw [fld_at hn hL 0 (lo := 0) (w := 7) rfl rfl]
  exact congr (congr (congr (congr (congr (congrArg Instr.valuAdds (bits_of (v := d) (fld_at hn hL 6 (lo := 21) (w := 5) rfl rfl))) (bits_of (v := a) (fld_at hn hL 5 (lo := 16) (w := 5) rfl rfl))) (bits_of (v := b) (fld_at hn hL 4 (lo := 11) (w := 5) rfl rfl))) (flag_of (v := x) (fld_at hn hL 3 (lo := 10) (w := 1) rfl rfl))) (flag_of (v := y) (fld_at hn hL 2 (lo := 9) (w := 1) rfl rfl))) (bits_of (v := m) (fld_at hn hL 1 (lo := 7) (w := 2) rfl rfl))

/-- `valu.subs`. -/
theorem valuSubs (d : BitVec 5) (a : BitVec 5) (b : BitVec 5) (x : Bool) (y : Bool) (m : BitVec 2) : Statement (.valuSubs d a b x y m) := by
  intro _ _ _
  have hL : FieldsFit [(7, 18), (2, m.toNat), (1, y.toNat), (1, x.toNat), (5, b.toNat), (5, a.toNat), (5, d.toNat), (6, 16)] := ⟨by decide, m.isLt, y.toNat_lt, x.toNat_lt, b.isLt, a.isLt, d.isLt, by decide, trivial⟩
  refine decode_of [(7, 18), (2, m.toNat), (1, y.toNat), (1, x.toNat), (5, b.toNat), (5, a.toNat), (5, d.toNat), (6, 16)] hL rfl (by change 1073741842 + d.toNat * 2097152 + a.toNat * 65536 + b.toNat * 2048 + x.toNat * 1024 + y.toNat * 512 + m.toNat * 128 = _; simp only [ofDigits]; omega) fun num hn => ?_
  refine (decodeNat_valu (fld_at hn hL 7 (lo := 26) (w := 6) rfl rfl)).trans ?_
  unfold decodeValu
  rw [fld_at hn hL 0 (lo := 0) (w := 7) rfl rfl]
  exact congr (congr (congr (congr (congr (congrArg Instr.valuSubs (bits_of (v := d) (fld_at hn hL 6 (lo := 21) (w := 5) rfl rfl))) (bits_of (v := a) (fld_at hn hL 5 (lo := 16) (w := 5) rfl rfl))) (bits_of (v := b) (fld_at hn hL 4 (lo := 11) (w := 5) rfl rfl))) (flag_of (v := x) (fld_at hn hL 3 (lo := 10) (w := 1) rfl rfl))) (flag_of (v := y) (fld_at hn hL 2 (lo := 9) (w := 1) rfl rfl))) (bits_of (v := m) (fld_at hn hL 1 (lo := 7) (w := 2) rfl rfl))

/-- `valu.addsu`. -/
theorem valuAddsu (d : BitVec 5) (a : BitVec 5) (b : BitVec 5) (x : Bool) (y : Bool) (m : BitVec 2) : Statement (.valuAddsu d a b x y m) := by
  intro _ _ _
  have hL : FieldsFit [(7, 19), (2, m.toNat), (1, y.toNat), (1, x.toNat), (5, b.toNat), (5, a.toNat), (5, d.toNat), (6, 16)] := ⟨by decide, m.isLt, y.toNat_lt, x.toNat_lt, b.isLt, a.isLt, d.isLt, by decide, trivial⟩
  refine decode_of [(7, 19), (2, m.toNat), (1, y.toNat), (1, x.toNat), (5, b.toNat), (5, a.toNat), (5, d.toNat), (6, 16)] hL rfl (by change 1073741843 + d.toNat * 2097152 + a.toNat * 65536 + b.toNat * 2048 + x.toNat * 1024 + y.toNat * 512 + m.toNat * 128 = _; simp only [ofDigits]; omega) fun num hn => ?_
  refine (decodeNat_valu (fld_at hn hL 7 (lo := 26) (w := 6) rfl rfl)).trans ?_
  unfold decodeValu
  rw [fld_at hn hL 0 (lo := 0) (w := 7) rfl rfl]
  exact congr (congr (congr (congr (congr (congrArg Instr.valuAddsu (bits_of (v := d) (fld_at hn hL 6 (lo := 21) (w := 5) rfl rfl))) (bits_of (v := a) (fld_at hn hL 5 (lo := 16) (w := 5) rfl rfl))) (bits_of (v := b) (fld_at hn hL 4 (lo := 11) (w := 5) rfl rfl))) (flag_of (v := x) (fld_at hn hL 3 (lo := 10) (w := 1) rfl rfl))) (flag_of (v := y) (fld_at hn hL 2 (lo := 9) (w := 1) rfl rfl))) (bits_of (v := m) (fld_at hn hL 1 (lo := 7) (w := 2) rfl rfl))

/-- `valu.subsu`. -/
theorem valuSubsu (d : BitVec 5) (a : BitVec 5) (b : BitVec 5) (x : Bool) (y : Bool) (m : BitVec 2) : Statement (.valuSubsu d a b x y m) := by
  intro _ _ _
  have hL : FieldsFit [(7, 20), (2, m.toNat), (1, y.toNat), (1, x.toNat), (5, b.toNat), (5, a.toNat), (5, d.toNat), (6, 16)] := ⟨by decide, m.isLt, y.toNat_lt, x.toNat_lt, b.isLt, a.isLt, d.isLt, by decide, trivial⟩
  refine decode_of [(7, 20), (2, m.toNat), (1, y.toNat), (1, x.toNat), (5, b.toNat), (5, a.toNat), (5, d.toNat), (6, 16)] hL rfl (by change 1073741844 + d.toNat * 2097152 + a.toNat * 65536 + b.toNat * 2048 + x.toNat * 1024 + y.toNat * 512 + m.toNat * 128 = _; simp only [ofDigits]; omega) fun num hn => ?_
  refine (decodeNat_valu (fld_at hn hL 7 (lo := 26) (w := 6) rfl rfl)).trans ?_
  unfold decodeValu
  rw [fld_at hn hL 0 (lo := 0) (w := 7) rfl rfl]
  exact congr (congr (congr (congr (congr (congrArg Instr.valuSubsu (bits_of (v := d) (fld_at hn hL 6 (lo := 21) (w := 5) rfl rfl))) (bits_of (v := a) (fld_at hn hL 5 (lo := 16) (w := 5) rfl rfl))) (bits_of (v := b) (fld_at hn hL 4 (lo := 11) (w := 5) rfl rfl))) (flag_of (v := x) (fld_at hn hL 3 (lo := 10) (w := 1) rfl rfl))) (flag_of (v := y) (fld_at hn hL 2 (lo := 9) (w := 1) rfl rfl))) (bits_of (v := m) (fld_at hn hL 1 (lo := 7) (w := 2) rfl rfl))

/-- `valu.abs`. -/
theorem valuAbs (d : BitVec 5) (a : BitVec 5) (x : Bool) (m : BitVec 2) : Statement (.valuAbs d a x m) := by
  intro _ _ _
  have hL : FieldsFit [(7, 21), (2, m.toNat), (1, 0), (1, x.toNat), (5, 0), (5, a.toNat), (5, d.toNat), (6, 16)] := ⟨by decide, m.isLt, by decide, x.toNat_lt, by decide, a.isLt, d.isLt, by decide, trivial⟩
  refine decode_of [(7, 21), (2, m.toNat), (1, 0), (1, x.toNat), (5, 0), (5, a.toNat), (5, d.toNat), (6, 16)] hL rfl (by change 1073741845 + d.toNat * 2097152 + a.toNat * 65536 + x.toNat * 1024 + m.toNat * 128 = _; simp only [ofDigits]; omega) fun num hn => ?_
  refine (decodeNat_valu (fld_at hn hL 7 (lo := 26) (w := 6) rfl rfl)).trans ?_
  unfold decodeValu
  rw [fld_at hn hL 0 (lo := 0) (w := 7) rfl rfl]
  refine (if_pos ⟨(fld_at hn hL 2 (lo := 9) (w := 1) rfl rfl), (fld_at hn hL 4 (lo := 11) (w := 5) rfl rfl)⟩).trans ?_
  exact congr (congr (congr (congrArg Instr.valuAbs (bits_of (v := d) (fld_at hn hL 6 (lo := 21) (w := 5) rfl rfl))) (bits_of (v := a) (fld_at hn hL 5 (lo := 16) (w := 5) rfl rfl))) (flag_of (v := x) (fld_at hn hL 3 (lo := 10) (w := 1) rfl rfl))) (bits_of (v := m) (fld_at hn hL 1 (lo := 7) (w := 2) rfl rfl))

/-- `valu.mv`. -/
theorem valuMv (d : BitVec 5) (a : BitVec 5) (x : Bool) (m : BitVec 2) : Statement (.valuMv d a x m) := by
  intro _ _ _
  have hL : FieldsFit [(7, 22), (2, m.toNat), (1, 0), (1, x.toNat), (5, 0), (5, a.toNat), (5, d.toNat), (6, 16)] := ⟨by decide, m.isLt, by decide, x.toNat_lt, by decide, a.isLt, d.isLt, by decide, trivial⟩
  refine decode_of [(7, 22), (2, m.toNat), (1, 0), (1, x.toNat), (5, 0), (5, a.toNat), (5, d.toNat), (6, 16)] hL rfl (by change 1073741846 + d.toNat * 2097152 + a.toNat * 65536 + x.toNat * 1024 + m.toNat * 128 = _; simp only [ofDigits]; omega) fun num hn => ?_
  refine (decodeNat_valu (fld_at hn hL 7 (lo := 26) (w := 6) rfl rfl)).trans ?_
  unfold decodeValu
  rw [fld_at hn hL 0 (lo := 0) (w := 7) rfl rfl]
  refine (if_pos ⟨(fld_at hn hL 2 (lo := 9) (w := 1) rfl rfl), (fld_at hn hL 4 (lo := 11) (w := 5) rfl rfl)⟩).trans ?_
  exact congr (congr (congr (congrArg Instr.valuMv (bits_of (v := d) (fld_at hn hL 6 (lo := 21) (w := 5) rfl rfl))) (bits_of (v := a) (fld_at hn hL 5 (lo := 16) (w := 5) rfl rfl))) (flag_of (v := x) (fld_at hn hL 3 (lo := 10) (w := 1) rfl rfl))) (bits_of (v := m) (fld_at hn hL 1 (lo := 7) (w := 2) rfl rfl))

/-- `valu.merge`. -/
theorem valuMerge (d : BitVec 5) (a : BitVec 5) (b : BitVec 5) (x : Bool) (y : Bool) (m : BitVec 2) : Statement (.valuMerge d a b x y m) := by
  intro _ _ _
  have hL : FieldsFit [(7, 23), (2, m.toNat), (1, y.toNat), (1, x.toNat), (5, b.toNat), (5, a.toNat), (5, d.toNat), (6, 16)] := ⟨by decide, m.isLt, y.toNat_lt, x.toNat_lt, b.isLt, a.isLt, d.isLt, by decide, trivial⟩
  refine decode_of [(7, 23), (2, m.toNat), (1, y.toNat), (1, x.toNat), (5, b.toNat), (5, a.toNat), (5, d.toNat), (6, 16)] hL rfl (by change 1073741847 + d.toNat * 2097152 + a.toNat * 65536 + b.toNat * 2048 + x.toNat * 1024 + y.toNat * 512 + m.toNat * 128 = _; simp only [ofDigits]; omega) fun num hn => ?_
  refine (decodeNat_valu (fld_at hn hL 7 (lo := 26) (w := 6) rfl rfl)).trans ?_
  unfold decodeValu
  rw [fld_at hn hL 0 (lo := 0) (w := 7) rfl rfl]
  exact congr (congr (congr (congr (congr (congrArg Instr.valuMerge (bits_of (v := d) (fld_at hn hL 6 (lo := 21) (w := 5) rfl rfl))) (bits_of (v := a) (fld_at hn hL 5 (lo := 16) (w := 5) rfl rfl))) (bits_of (v := b) (fld_at hn hL 4 (lo := 11) (w := 5) rfl rfl))) (flag_of (v := x) (fld_at hn hL 3 (lo := 10) (w := 1) rfl rfl))) (flag_of (v := y) (fld_at hn hL 2 (lo := 9) (w := 1) rfl rfl))) (bits_of (v := m) (fld_at hn hL 1 (lo := 7) (w := 2) rfl rfl))

/-- `valu.eq`. -/
theorem valuEq (d : BitVec 4) (a : BitVec 5) (b : BitVec 5) (x : Bool) (y : Bool) (m : BitVec 2) : Statement (.valuEq d a b x y m) := by
  intro _ _ _
  have hL : FieldsFit [(7, 24), (2, m.toNat), (1, y.toNat), (1, x.toNat), (5, b.toNat), (5, a.toNat), (4, d.toNat), (1, 0), (6, 16)] := ⟨by decide, m.isLt, y.toNat_lt, x.toNat_lt, b.isLt, a.isLt, d.isLt, by decide, by decide, trivial⟩
  refine decode_of [(7, 24), (2, m.toNat), (1, y.toNat), (1, x.toNat), (5, b.toNat), (5, a.toNat), (4, d.toNat), (1, 0), (6, 16)] hL rfl (by change 1073741848 + d.toNat * 2097152 + a.toNat * 65536 + b.toNat * 2048 + x.toNat * 1024 + y.toNat * 512 + m.toNat * 128 = _; simp only [ofDigits]; omega) fun num hn => ?_
  refine (decodeNat_valu (fld_at hn hL 8 (lo := 26) (w := 6) rfl rfl)).trans ?_
  unfold decodeValu
  rw [fld_at hn hL 0 (lo := 0) (w := 7) rfl rfl]
  refine (if_pos (fld_at hn hL 7 (lo := 25) (w := 1) rfl rfl)).trans ?_
  exact congr (congr (congr (congr (congr (congrArg Instr.valuEq (bits_of (v := d) (fld_at hn hL 6 (lo := 21) (w := 4) rfl rfl))) (bits_of (v := a) (fld_at hn hL 5 (lo := 16) (w := 5) rfl rfl))) (bits_of (v := b) (fld_at hn hL 4 (lo := 11) (w := 5) rfl rfl))) (flag_of (v := x) (fld_at hn hL 3 (lo := 10) (w := 1) rfl rfl))) (flag_of (v := y) (fld_at hn hL 2 (lo := 9) (w := 1) rfl rfl))) (bits_of (v := m) (fld_at hn hL 1 (lo := 7) (w := 2) rfl rfl))

/-- `valu.ne`. -/
theorem valuNe (d : BitVec 4) (a : BitVec 5) (b : BitVec 5) (x : Bool) (y : Bool) (m : BitVec 2) : Statement (.valuNe d a b x y m) := by
  intro _ _ _
  have hL : FieldsFit [(7, 25), (2, m.toNat), (1, y.toNat), (1, x.toNat), (5, b.toNat), (5, a.toNat), (4, d.toNat), (1, 0), (6, 16)] := ⟨by decide, m.isLt, y.toNat_lt, x.toNat_lt, b.isLt, a.isLt, d.isLt, by decide, by decide, trivial⟩
  refine decode_of [(7, 25), (2, m.toNat), (1, y.toNat), (1, x.toNat), (5, b.toNat), (5, a.toNat), (4, d.toNat), (1, 0), (6, 16)] hL rfl (by change 1073741849 + d.toNat * 2097152 + a.toNat * 65536 + b.toNat * 2048 + x.toNat * 1024 + y.toNat * 512 + m.toNat * 128 = _; simp only [ofDigits]; omega) fun num hn => ?_
  refine (decodeNat_valu (fld_at hn hL 8 (lo := 26) (w := 6) rfl rfl)).trans ?_
  unfold decodeValu
  rw [fld_at hn hL 0 (lo := 0) (w := 7) rfl rfl]
  refine (if_pos (fld_at hn hL 7 (lo := 25) (w := 1) rfl rfl)).trans ?_
  exact congr (congr (congr (congr (congr (congrArg Instr.valuNe (bits_of (v := d) (fld_at hn hL 6 (lo := 21) (w := 4) rfl rfl))) (bits_of (v := a) (fld_at hn hL 5 (lo := 16) (w := 5) rfl rfl))) (bits_of (v := b) (fld_at hn hL 4 (lo := 11) (w := 5) rfl rfl))) (flag_of (v := x) (fld_at hn hL 3 (lo := 10) (w := 1) rfl rfl))) (flag_of (v := y) (fld_at hn hL 2 (lo := 9) (w := 1) rfl rfl))) (bits_of (v := m) (fld_at hn hL 1 (lo := 7) (w := 2) rfl rfl))

/-- `valu.lt`. -/
theorem valuLt (d : BitVec 4) (a : BitVec 5) (b : BitVec 5) (x : Bool) (y : Bool) (m : BitVec 2) : Statement (.valuLt d a b x y m) := by
  intro _ _ _
  have hL : FieldsFit [(7, 26), (2, m.toNat), (1, y.toNat), (1, x.toNat), (5, b.toNat), (5, a.toNat), (4, d.toNat), (1, 0), (6, 16)] := ⟨by decide, m.isLt, y.toNat_lt, x.toNat_lt, b.isLt, a.isLt, d.isLt, by decide, by decide, trivial⟩
  refine decode_of [(7, 26), (2, m.toNat), (1, y.toNat), (1, x.toNat), (5, b.toNat), (5, a.toNat), (4, d.toNat), (1, 0), (6, 16)] hL rfl (by change 1073741850 + d.toNat * 2097152 + a.toNat * 65536 + b.toNat * 2048 + x.toNat * 1024 + y.toNat * 512 + m.toNat * 128 = _; simp only [ofDigits]; omega) fun num hn => ?_
  refine (decodeNat_valu (fld_at hn hL 8 (lo := 26) (w := 6) rfl rfl)).trans ?_
  unfold decodeValu
  rw [fld_at hn hL 0 (lo := 0) (w := 7) rfl rfl]
  refine (if_pos (fld_at hn hL 7 (lo := 25) (w := 1) rfl rfl)).trans ?_
  exact congr (congr (congr (congr (congr (congrArg Instr.valuLt (bits_of (v := d) (fld_at hn hL 6 (lo := 21) (w := 4) rfl rfl))) (bits_of (v := a) (fld_at hn hL 5 (lo := 16) (w := 5) rfl rfl))) (bits_of (v := b) (fld_at hn hL 4 (lo := 11) (w := 5) rfl rfl))) (flag_of (v := x) (fld_at hn hL 3 (lo := 10) (w := 1) rfl rfl))) (flag_of (v := y) (fld_at hn hL 2 (lo := 9) (w := 1) rfl rfl))) (bits_of (v := m) (fld_at hn hL 1 (lo := 7) (w := 2) rfl rfl))

/-- `valu.ltu`. -/
theorem valuLtu (d : BitVec 4) (a : BitVec 5) (b : BitVec 5) (x : Bool) (y : Bool) (m : BitVec 2) : Statement (.valuLtu d a b x y m) := by
  intro _ _ _
  have hL : FieldsFit [(7, 27), (2, m.toNat), (1, y.toNat), (1, x.toNat), (5, b.toNat), (5, a.toNat), (4, d.toNat), (1, 0), (6, 16)] := ⟨by decide, m.isLt, y.toNat_lt, x.toNat_lt, b.isLt, a.isLt, d.isLt, by decide, by decide, trivial⟩
  refine decode_of [(7, 27), (2, m.toNat), (1, y.toNat), (1, x.toNat), (5, b.toNat), (5, a.toNat), (4, d.toNat), (1, 0), (6, 16)] hL rfl (by change 1073741851 + d.toNat * 2097152 + a.toNat * 65536 + b.toNat * 2048 + x.toNat * 1024 + y.toNat * 512 + m.toNat * 128 = _; simp only [ofDigits]; omega) fun num hn => ?_
  refine (decodeNat_valu (fld_at hn hL 8 (lo := 26) (w := 6) rfl rfl)).trans ?_
  unfold decodeValu
  rw [fld_at hn hL 0 (lo := 0) (w := 7) rfl rfl]
  refine (if_pos (fld_at hn hL 7 (lo := 25) (w := 1) rfl rfl)).trans ?_
  exact congr (congr (congr (congr (congr (congrArg Instr.valuLtu (bits_of (v := d) (fld_at hn hL 6 (lo := 21) (w := 4) rfl rfl))) (bits_of (v := a) (fld_at hn hL 5 (lo := 16) (w := 5) rfl rfl))) (bits_of (v := b) (fld_at hn hL 4 (lo := 11) (w := 5) rfl rfl))) (flag_of (v := x) (fld_at hn hL 3 (lo := 10) (w := 1) rfl rfl))) (flag_of (v := y) (fld_at hn hL 2 (lo := 9) (w := 1) rfl rfl))) (bits_of (v := m) (fld_at hn hL 1 (lo := 7) (w := 2) rfl rfl))

/-- `valu.le`. -/
theorem valuLe (d : BitVec 4) (a : BitVec 5) (b : BitVec 5) (x : Bool) (y : Bool) (m : BitVec 2) : Statement (.valuLe d a b x y m) := by
  intro _ _ _
  have hL : FieldsFit [(7, 28), (2, m.toNat), (1, y.toNat), (1, x.toNat), (5, b.toNat), (5, a.toNat), (4, d.toNat), (1, 0), (6, 16)] := ⟨by decide, m.isLt, y.toNat_lt, x.toNat_lt, b.isLt, a.isLt, d.isLt, by decide, by decide, trivial⟩
  refine decode_of [(7, 28), (2, m.toNat), (1, y.toNat), (1, x.toNat), (5, b.toNat), (5, a.toNat), (4, d.toNat), (1, 0), (6, 16)] hL rfl (by change 1073741852 + d.toNat * 2097152 + a.toNat * 65536 + b.toNat * 2048 + x.toNat * 1024 + y.toNat * 512 + m.toNat * 128 = _; simp only [ofDigits]; omega) fun num hn => ?_
  refine (decodeNat_valu (fld_at hn hL 8 (lo := 26) (w := 6) rfl rfl)).trans ?_
  unfold decodeValu
  rw [fld_at hn hL 0 (lo := 0) (w := 7) rfl rfl]
  refine (if_pos (fld_at hn hL 7 (lo := 25) (w := 1) rfl rfl)).trans ?_
  exact congr (congr (congr (congr (congr (congrArg Instr.valuLe (bits_of (v := d) (fld_at hn hL 6 (lo := 21) (w := 4) rfl rfl))) (bits_of (v := a) (fld_at hn hL 5 (lo := 16) (w := 5) rfl rfl))) (bits_of (v := b) (fld_at hn hL 4 (lo := 11) (w := 5) rfl rfl))) (flag_of (v := x) (fld_at hn hL 3 (lo := 10) (w := 1) rfl rfl))) (flag_of (v := y) (fld_at hn hL 2 (lo := 9) (w := 1) rfl rfl))) (bits_of (v := m) (fld_at hn hL 1 (lo := 7) (w := 2) rfl rfl))

/-- `valu.leu`. -/
theorem valuLeu (d : BitVec 4) (a : BitVec 5) (b : BitVec 5) (x : Bool) (y : Bool) (m : BitVec 2) : Statement (.valuLeu d a b x y m) := by
  intro _ _ _
  have hL : FieldsFit [(7, 29), (2, m.toNat), (1, y.toNat), (1, x.toNat), (5, b.toNat), (5, a.toNat), (4, d.toNat), (1, 0), (6, 16)] := ⟨by decide, m.isLt, y.toNat_lt, x.toNat_lt, b.isLt, a.isLt, d.isLt, by decide, by decide, trivial⟩
  refine decode_of [(7, 29), (2, m.toNat), (1, y.toNat), (1, x.toNat), (5, b.toNat), (5, a.toNat), (4, d.toNat), (1, 0), (6, 16)] hL rfl (by change 1073741853 + d.toNat * 2097152 + a.toNat * 65536 + b.toNat * 2048 + x.toNat * 1024 + y.toNat * 512 + m.toNat * 128 = _; simp only [ofDigits]; omega) fun num hn => ?_
  refine (decodeNat_valu (fld_at hn hL 8 (lo := 26) (w := 6) rfl rfl)).trans ?_
  unfold decodeValu
  rw [fld_at hn hL 0 (lo := 0) (w := 7) rfl rfl]
  refine (if_pos (fld_at hn hL 7 (lo := 25) (w := 1) rfl rfl)).trans ?_
  exact congr (congr (congr (congr (congr (congrArg Instr.valuLeu (bits_of (v := d) (fld_at hn hL 6 (lo := 21) (w := 4) rfl rfl))) (bits_of (v := a) (fld_at hn hL 5 (lo := 16) (w := 5) rfl rfl))) (bits_of (v := b) (fld_at hn hL 4 (lo := 11) (w := 5) rfl rfl))) (flag_of (v := x) (fld_at hn hL 3 (lo := 10) (w := 1) rfl rfl))) (flag_of (v := y) (fld_at hn hL 2 (lo := 9) (w := 1) rfl rfl))) (bits_of (v := m) (fld_at hn hL 1 (lo := 7) (w := 2) rfl rfl))

/-- `valux.add`. -/
theorem valuxAdd (d : BitVec 5) (a : BitVec 5) (b : BitVec 5) (x : Bool) (m : BitVec 2) : Statement (.valuxAdd d a b x m) := by
  intro _ _ _
  have hL : FieldsFit [(7, 0), (2, m.toNat), (1, 0), (1, x.toNat), (5, b.toNat), (5, a.toNat), (5, d.toNat), (6, 17)] := ⟨by decide, m.isLt, by decide, x.toNat_lt, b.isLt, a.isLt, d.isLt, by decide, trivial⟩
  refine decode_of [(7, 0), (2, m.toNat), (1, 0), (1, x.toNat), (5, b.toNat), (5, a.toNat), (5, d.toNat), (6, 17)] hL rfl (by change 1140850688 + d.toNat * 2097152 + a.toNat * 65536 + b.toNat * 2048 + x.toNat * 1024 + m.toNat * 128 = _; simp only [ofDigits]; omega) fun num hn => ?_
  refine (decodeNat_valux (fld_at hn hL 7 (lo := 26) (w := 6) rfl rfl)).trans ?_
  unfold decodeValux
  rw [fld_at hn hL 0 (lo := 0) (w := 7) rfl rfl]
  refine (if_pos (fld_at hn hL 2 (lo := 9) (w := 1) rfl rfl)).trans ?_
  exact congr (congr (congr (congr (congrArg Instr.valuxAdd (bits_of (v := d) (fld_at hn hL 6 (lo := 21) (w := 5) rfl rfl))) (bits_of (v := a) (fld_at hn hL 5 (lo := 16) (w := 5) rfl rfl))) (bits_of (v := b) (fld_at hn hL 4 (lo := 11) (w := 5) rfl rfl))) (flag_of (v := x) (fld_at hn hL 3 (lo := 10) (w := 1) rfl rfl))) (bits_of (v := m) (fld_at hn hL 1 (lo := 7) (w := 2) rfl rfl))

/-- `valux.sub`. -/
theorem valuxSub (d : BitVec 5) (a : BitVec 5) (b : BitVec 5) (x : Bool) (m : BitVec 2) : Statement (.valuxSub d a b x m) := by
  intro _ _ _
  have hL : FieldsFit [(7, 1), (2, m.toNat), (1, 0), (1, x.toNat), (5, b.toNat), (5, a.toNat), (5, d.toNat), (6, 17)] := ⟨by decide, m.isLt, by decide, x.toNat_lt, b.isLt, a.isLt, d.isLt, by decide, trivial⟩
  refine decode_of [(7, 1), (2, m.toNat), (1, 0), (1, x.toNat), (5, b.toNat), (5, a.toNat), (5, d.toNat), (6, 17)] hL rfl (by change 1140850689 + d.toNat * 2097152 + a.toNat * 65536 + b.toNat * 2048 + x.toNat * 1024 + m.toNat * 128 = _; simp only [ofDigits]; omega) fun num hn => ?_
  refine (decodeNat_valux (fld_at hn hL 7 (lo := 26) (w := 6) rfl rfl)).trans ?_
  unfold decodeValux
  rw [fld_at hn hL 0 (lo := 0) (w := 7) rfl rfl]
  refine (if_pos (fld_at hn hL 2 (lo := 9) (w := 1) rfl rfl)).trans ?_
  exact congr (congr (congr (congr (congrArg Instr.valuxSub (bits_of (v := d) (fld_at hn hL 6 (lo := 21) (w := 5) rfl rfl))) (bits_of (v := a) (fld_at hn hL 5 (lo := 16) (w := 5) rfl rfl))) (bits_of (v := b) (fld_at hn hL 4 (lo := 11) (w := 5) rfl rfl))) (flag_of (v := x) (fld_at hn hL 3 (lo := 10) (w := 1) rfl rfl))) (bits_of (v := m) (fld_at hn hL 1 (lo := 7) (w := 2) rfl rfl))

/-- `valux.rsub`. -/
theorem valuxRsub (d : BitVec 5) (a : BitVec 5) (b : BitVec 5) (x : Bool) (m : BitVec 2) : Statement (.valuxRsub d a b x m) := by
  intro _ _ _
  have hL : FieldsFit [(7, 2), (2, m.toNat), (1, 0), (1, x.toNat), (5, b.toNat), (5, a.toNat), (5, d.toNat), (6, 17)] := ⟨by decide, m.isLt, by decide, x.toNat_lt, b.isLt, a.isLt, d.isLt, by decide, trivial⟩
  refine decode_of [(7, 2), (2, m.toNat), (1, 0), (1, x.toNat), (5, b.toNat), (5, a.toNat), (5, d.toNat), (6, 17)] hL rfl (by change 1140850690 + d.toNat * 2097152 + a.toNat * 65536 + b.toNat * 2048 + x.toNat * 1024 + m.toNat * 128 = _; simp only [ofDigits]; omega) fun num hn => ?_
  refine (decodeNat_valux (fld_at hn hL 7 (lo := 26) (w := 6) rfl rfl)).trans ?_
  unfold decodeValux
  rw [fld_at hn hL 0 (lo := 0) (w := 7) rfl rfl]
  refine (if_pos (fld_at hn hL 2 (lo := 9) (w := 1) rfl rfl)).trans ?_
  exact congr (congr (congr (congr (congrArg Instr.valuxRsub (bits_of (v := d) (fld_at hn hL 6 (lo := 21) (w := 5) rfl rfl))) (bits_of (v := a) (fld_at hn hL 5 (lo := 16) (w := 5) rfl rfl))) (bits_of (v := b) (fld_at hn hL 4 (lo := 11) (w := 5) rfl rfl))) (flag_of (v := x) (fld_at hn hL 3 (lo := 10) (w := 1) rfl rfl))) (bits_of (v := m) (fld_at hn hL 1 (lo := 7) (w := 2) rfl rfl))

/-- `valux.and`. -/
theorem valuxAnd (d : BitVec 5) (a : BitVec 5) (b : BitVec 5) (x : Bool) (m : BitVec 2) : Statement (.valuxAnd d a b x m) := by
  intro _ _ _
  have hL : FieldsFit [(7, 3), (2, m.toNat), (1, 0), (1, x.toNat), (5, b.toNat), (5, a.toNat), (5, d.toNat), (6, 17)] := ⟨by decide, m.isLt, by decide, x.toNat_lt, b.isLt, a.isLt, d.isLt, by decide, trivial⟩
  refine decode_of [(7, 3), (2, m.toNat), (1, 0), (1, x.toNat), (5, b.toNat), (5, a.toNat), (5, d.toNat), (6, 17)] hL rfl (by change 1140850691 + d.toNat * 2097152 + a.toNat * 65536 + b.toNat * 2048 + x.toNat * 1024 + m.toNat * 128 = _; simp only [ofDigits]; omega) fun num hn => ?_
  refine (decodeNat_valux (fld_at hn hL 7 (lo := 26) (w := 6) rfl rfl)).trans ?_
  unfold decodeValux
  rw [fld_at hn hL 0 (lo := 0) (w := 7) rfl rfl]
  refine (if_pos (fld_at hn hL 2 (lo := 9) (w := 1) rfl rfl)).trans ?_
  exact congr (congr (congr (congr (congrArg Instr.valuxAnd (bits_of (v := d) (fld_at hn hL 6 (lo := 21) (w := 5) rfl rfl))) (bits_of (v := a) (fld_at hn hL 5 (lo := 16) (w := 5) rfl rfl))) (bits_of (v := b) (fld_at hn hL 4 (lo := 11) (w := 5) rfl rfl))) (flag_of (v := x) (fld_at hn hL 3 (lo := 10) (w := 1) rfl rfl))) (bits_of (v := m) (fld_at hn hL 1 (lo := 7) (w := 2) rfl rfl))

/-- `valux.or`. -/
theorem valuxOr (d : BitVec 5) (a : BitVec 5) (b : BitVec 5) (x : Bool) (m : BitVec 2) : Statement (.valuxOr d a b x m) := by
  intro _ _ _
  have hL : FieldsFit [(7, 4), (2, m.toNat), (1, 0), (1, x.toNat), (5, b.toNat), (5, a.toNat), (5, d.toNat), (6, 17)] := ⟨by decide, m.isLt, by decide, x.toNat_lt, b.isLt, a.isLt, d.isLt, by decide, trivial⟩
  refine decode_of [(7, 4), (2, m.toNat), (1, 0), (1, x.toNat), (5, b.toNat), (5, a.toNat), (5, d.toNat), (6, 17)] hL rfl (by change 1140850692 + d.toNat * 2097152 + a.toNat * 65536 + b.toNat * 2048 + x.toNat * 1024 + m.toNat * 128 = _; simp only [ofDigits]; omega) fun num hn => ?_
  refine (decodeNat_valux (fld_at hn hL 7 (lo := 26) (w := 6) rfl rfl)).trans ?_
  unfold decodeValux
  rw [fld_at hn hL 0 (lo := 0) (w := 7) rfl rfl]
  refine (if_pos (fld_at hn hL 2 (lo := 9) (w := 1) rfl rfl)).trans ?_
  exact congr (congr (congr (congr (congrArg Instr.valuxOr (bits_of (v := d) (fld_at hn hL 6 (lo := 21) (w := 5) rfl rfl))) (bits_of (v := a) (fld_at hn hL 5 (lo := 16) (w := 5) rfl rfl))) (bits_of (v := b) (fld_at hn hL 4 (lo := 11) (w := 5) rfl rfl))) (flag_of (v := x) (fld_at hn hL 3 (lo := 10) (w := 1) rfl rfl))) (bits_of (v := m) (fld_at hn hL 1 (lo := 7) (w := 2) rfl rfl))

/-- `valux.xor`. -/
theorem valuxXor (d : BitVec 5) (a : BitVec 5) (b : BitVec 5) (x : Bool) (m : BitVec 2) : Statement (.valuxXor d a b x m) := by
  intro _ _ _
  have hL : FieldsFit [(7, 5), (2, m.toNat), (1, 0), (1, x.toNat), (5, b.toNat), (5, a.toNat), (5, d.toNat), (6, 17)] := ⟨by decide, m.isLt, by decide, x.toNat_lt, b.isLt, a.isLt, d.isLt, by decide, trivial⟩
  refine decode_of [(7, 5), (2, m.toNat), (1, 0), (1, x.toNat), (5, b.toNat), (5, a.toNat), (5, d.toNat), (6, 17)] hL rfl (by change 1140850693 + d.toNat * 2097152 + a.toNat * 65536 + b.toNat * 2048 + x.toNat * 1024 + m.toNat * 128 = _; simp only [ofDigits]; omega) fun num hn => ?_
  refine (decodeNat_valux (fld_at hn hL 7 (lo := 26) (w := 6) rfl rfl)).trans ?_
  unfold decodeValux
  rw [fld_at hn hL 0 (lo := 0) (w := 7) rfl rfl]
  refine (if_pos (fld_at hn hL 2 (lo := 9) (w := 1) rfl rfl)).trans ?_
  exact congr (congr (congr (congr (congrArg Instr.valuxXor (bits_of (v := d) (fld_at hn hL 6 (lo := 21) (w := 5) rfl rfl))) (bits_of (v := a) (fld_at hn hL 5 (lo := 16) (w := 5) rfl rfl))) (bits_of (v := b) (fld_at hn hL 4 (lo := 11) (w := 5) rfl rfl))) (flag_of (v := x) (fld_at hn hL 3 (lo := 10) (w := 1) rfl rfl))) (bits_of (v := m) (fld_at hn hL 1 (lo := 7) (w := 2) rfl rfl))

/-- `valux.andn`. -/
theorem valuxAndn (d : BitVec 5) (a : BitVec 5) (b : BitVec 5) (x : Bool) (m : BitVec 2) : Statement (.valuxAndn d a b x m) := by
  intro _ _ _
  have hL : FieldsFit [(7, 6), (2, m.toNat), (1, 0), (1, x.toNat), (5, b.toNat), (5, a.toNat), (5, d.toNat), (6, 17)] := ⟨by decide, m.isLt, by decide, x.toNat_lt, b.isLt, a.isLt, d.isLt, by decide, trivial⟩
  refine decode_of [(7, 6), (2, m.toNat), (1, 0), (1, x.toNat), (5, b.toNat), (5, a.toNat), (5, d.toNat), (6, 17)] hL rfl (by change 1140850694 + d.toNat * 2097152 + a.toNat * 65536 + b.toNat * 2048 + x.toNat * 1024 + m.toNat * 128 = _; simp only [ofDigits]; omega) fun num hn => ?_
  refine (decodeNat_valux (fld_at hn hL 7 (lo := 26) (w := 6) rfl rfl)).trans ?_
  unfold decodeValux
  rw [fld_at hn hL 0 (lo := 0) (w := 7) rfl rfl]
  refine (if_pos (fld_at hn hL 2 (lo := 9) (w := 1) rfl rfl)).trans ?_
  exact congr (congr (congr (congr (congrArg Instr.valuxAndn (bits_of (v := d) (fld_at hn hL 6 (lo := 21) (w := 5) rfl rfl))) (bits_of (v := a) (fld_at hn hL 5 (lo := 16) (w := 5) rfl rfl))) (bits_of (v := b) (fld_at hn hL 4 (lo := 11) (w := 5) rfl rfl))) (flag_of (v := x) (fld_at hn hL 3 (lo := 10) (w := 1) rfl rfl))) (bits_of (v := m) (fld_at hn hL 1 (lo := 7) (w := 2) rfl rfl))

/-- `valux.sll`. -/
theorem valuxSll (d : BitVec 5) (a : BitVec 5) (b : BitVec 5) (x : Bool) (m : BitVec 2) : Statement (.valuxSll d a b x m) := by
  intro _ _ _
  have hL : FieldsFit [(7, 7), (2, m.toNat), (1, 0), (1, x.toNat), (5, b.toNat), (5, a.toNat), (5, d.toNat), (6, 17)] := ⟨by decide, m.isLt, by decide, x.toNat_lt, b.isLt, a.isLt, d.isLt, by decide, trivial⟩
  refine decode_of [(7, 7), (2, m.toNat), (1, 0), (1, x.toNat), (5, b.toNat), (5, a.toNat), (5, d.toNat), (6, 17)] hL rfl (by change 1140850695 + d.toNat * 2097152 + a.toNat * 65536 + b.toNat * 2048 + x.toNat * 1024 + m.toNat * 128 = _; simp only [ofDigits]; omega) fun num hn => ?_
  refine (decodeNat_valux (fld_at hn hL 7 (lo := 26) (w := 6) rfl rfl)).trans ?_
  unfold decodeValux
  rw [fld_at hn hL 0 (lo := 0) (w := 7) rfl rfl]
  refine (if_pos (fld_at hn hL 2 (lo := 9) (w := 1) rfl rfl)).trans ?_
  exact congr (congr (congr (congr (congrArg Instr.valuxSll (bits_of (v := d) (fld_at hn hL 6 (lo := 21) (w := 5) rfl rfl))) (bits_of (v := a) (fld_at hn hL 5 (lo := 16) (w := 5) rfl rfl))) (bits_of (v := b) (fld_at hn hL 4 (lo := 11) (w := 5) rfl rfl))) (flag_of (v := x) (fld_at hn hL 3 (lo := 10) (w := 1) rfl rfl))) (bits_of (v := m) (fld_at hn hL 1 (lo := 7) (w := 2) rfl rfl))

/-- `valux.srl`. -/
theorem valuxSrl (d : BitVec 5) (a : BitVec 5) (b : BitVec 5) (x : Bool) (m : BitVec 2) : Statement (.valuxSrl d a b x m) := by
  intro _ _ _
  have hL : FieldsFit [(7, 8), (2, m.toNat), (1, 0), (1, x.toNat), (5, b.toNat), (5, a.toNat), (5, d.toNat), (6, 17)] := ⟨by decide, m.isLt, by decide, x.toNat_lt, b.isLt, a.isLt, d.isLt, by decide, trivial⟩
  refine decode_of [(7, 8), (2, m.toNat), (1, 0), (1, x.toNat), (5, b.toNat), (5, a.toNat), (5, d.toNat), (6, 17)] hL rfl (by change 1140850696 + d.toNat * 2097152 + a.toNat * 65536 + b.toNat * 2048 + x.toNat * 1024 + m.toNat * 128 = _; simp only [ofDigits]; omega) fun num hn => ?_
  refine (decodeNat_valux (fld_at hn hL 7 (lo := 26) (w := 6) rfl rfl)).trans ?_
  unfold decodeValux
  rw [fld_at hn hL 0 (lo := 0) (w := 7) rfl rfl]
  refine (if_pos (fld_at hn hL 2 (lo := 9) (w := 1) rfl rfl)).trans ?_
  exact congr (congr (congr (congr (congrArg Instr.valuxSrl (bits_of (v := d) (fld_at hn hL 6 (lo := 21) (w := 5) rfl rfl))) (bits_of (v := a) (fld_at hn hL 5 (lo := 16) (w := 5) rfl rfl))) (bits_of (v := b) (fld_at hn hL 4 (lo := 11) (w := 5) rfl rfl))) (flag_of (v := x) (fld_at hn hL 3 (lo := 10) (w := 1) rfl rfl))) (bits_of (v := m) (fld_at hn hL 1 (lo := 7) (w := 2) rfl rfl))

/-- `valux.sra`. -/
theorem valuxSra (d : BitVec 5) (a : BitVec 5) (b : BitVec 5) (x : Bool) (m : BitVec 2) : Statement (.valuxSra d a b x m) := by
  intro _ _ _
  have hL : FieldsFit [(7, 9), (2, m.toNat), (1, 0), (1, x.toNat), (5, b.toNat), (5, a.toNat), (5, d.toNat), (6, 17)] := ⟨by decide, m.isLt, by decide, x.toNat_lt, b.isLt, a.isLt, d.isLt, by decide, trivial⟩
  refine decode_of [(7, 9), (2, m.toNat), (1, 0), (1, x.toNat), (5, b.toNat), (5, a.toNat), (5, d.toNat), (6, 17)] hL rfl (by change 1140850697 + d.toNat * 2097152 + a.toNat * 65536 + b.toNat * 2048 + x.toNat * 1024 + m.toNat * 128 = _; simp only [ofDigits]; omega) fun num hn => ?_
  refine (decodeNat_valux (fld_at hn hL 7 (lo := 26) (w := 6) rfl rfl)).trans ?_
  unfold decodeValux
  rw [fld_at hn hL 0 (lo := 0) (w := 7) rfl rfl]
  refine (if_pos (fld_at hn hL 2 (lo := 9) (w := 1) rfl rfl)).trans ?_
  exact congr (congr (congr (congr (congrArg Instr.valuxSra (bits_of (v := d) (fld_at hn hL 6 (lo := 21) (w := 5) rfl rfl))) (bits_of (v := a) (fld_at hn hL 5 (lo := 16) (w := 5) rfl rfl))) (bits_of (v := b) (fld_at hn hL 4 (lo := 11) (w := 5) rfl rfl))) (flag_of (v := x) (fld_at hn hL 3 (lo := 10) (w := 1) rfl rfl))) (bits_of (v := m) (fld_at hn hL 1 (lo := 7) (w := 2) rfl rfl))

/-- `valux.min`. -/
theorem valuxMin (d : BitVec 5) (a : BitVec 5) (b : BitVec 5) (x : Bool) (m : BitVec 2) : Statement (.valuxMin d a b x m) := by
  intro _ _ _
  have hL : FieldsFit [(7, 10), (2, m.toNat), (1, 0), (1, x.toNat), (5, b.toNat), (5, a.toNat), (5, d.toNat), (6, 17)] := ⟨by decide, m.isLt, by decide, x.toNat_lt, b.isLt, a.isLt, d.isLt, by decide, trivial⟩
  refine decode_of [(7, 10), (2, m.toNat), (1, 0), (1, x.toNat), (5, b.toNat), (5, a.toNat), (5, d.toNat), (6, 17)] hL rfl (by change 1140850698 + d.toNat * 2097152 + a.toNat * 65536 + b.toNat * 2048 + x.toNat * 1024 + m.toNat * 128 = _; simp only [ofDigits]; omega) fun num hn => ?_
  refine (decodeNat_valux (fld_at hn hL 7 (lo := 26) (w := 6) rfl rfl)).trans ?_
  unfold decodeValux
  rw [fld_at hn hL 0 (lo := 0) (w := 7) rfl rfl]
  refine (if_pos (fld_at hn hL 2 (lo := 9) (w := 1) rfl rfl)).trans ?_
  exact congr (congr (congr (congr (congrArg Instr.valuxMin (bits_of (v := d) (fld_at hn hL 6 (lo := 21) (w := 5) rfl rfl))) (bits_of (v := a) (fld_at hn hL 5 (lo := 16) (w := 5) rfl rfl))) (bits_of (v := b) (fld_at hn hL 4 (lo := 11) (w := 5) rfl rfl))) (flag_of (v := x) (fld_at hn hL 3 (lo := 10) (w := 1) rfl rfl))) (bits_of (v := m) (fld_at hn hL 1 (lo := 7) (w := 2) rfl rfl))

/-- `valux.max`. -/
theorem valuxMax (d : BitVec 5) (a : BitVec 5) (b : BitVec 5) (x : Bool) (m : BitVec 2) : Statement (.valuxMax d a b x m) := by
  intro _ _ _
  have hL : FieldsFit [(7, 11), (2, m.toNat), (1, 0), (1, x.toNat), (5, b.toNat), (5, a.toNat), (5, d.toNat), (6, 17)] := ⟨by decide, m.isLt, by decide, x.toNat_lt, b.isLt, a.isLt, d.isLt, by decide, trivial⟩
  refine decode_of [(7, 11), (2, m.toNat), (1, 0), (1, x.toNat), (5, b.toNat), (5, a.toNat), (5, d.toNat), (6, 17)] hL rfl (by change 1140850699 + d.toNat * 2097152 + a.toNat * 65536 + b.toNat * 2048 + x.toNat * 1024 + m.toNat * 128 = _; simp only [ofDigits]; omega) fun num hn => ?_
  refine (decodeNat_valux (fld_at hn hL 7 (lo := 26) (w := 6) rfl rfl)).trans ?_
  unfold decodeValux
  rw [fld_at hn hL 0 (lo := 0) (w := 7) rfl rfl]
  refine (if_pos (fld_at hn hL 2 (lo := 9) (w := 1) rfl rfl)).trans ?_
  exact congr (congr (congr (congr (congrArg Instr.valuxMax (bits_of (v := d) (fld_at hn hL 6 (lo := 21) (w := 5) rfl rfl))) (bits_of (v := a) (fld_at hn hL 5 (lo := 16) (w := 5) rfl rfl))) (bits_of (v := b) (fld_at hn hL 4 (lo := 11) (w := 5) rfl rfl))) (flag_of (v := x) (fld_at hn hL 3 (lo := 10) (w := 1) rfl rfl))) (bits_of (v := m) (fld_at hn hL 1 (lo := 7) (w := 2) rfl rfl))

/-- `valux.minu`. -/
theorem valuxMinu (d : BitVec 5) (a : BitVec 5) (b : BitVec 5) (x : Bool) (m : BitVec 2) : Statement (.valuxMinu d a b x m) := by
  intro _ _ _
  have hL : FieldsFit [(7, 12), (2, m.toNat), (1, 0), (1, x.toNat), (5, b.toNat), (5, a.toNat), (5, d.toNat), (6, 17)] := ⟨by decide, m.isLt, by decide, x.toNat_lt, b.isLt, a.isLt, d.isLt, by decide, trivial⟩
  refine decode_of [(7, 12), (2, m.toNat), (1, 0), (1, x.toNat), (5, b.toNat), (5, a.toNat), (5, d.toNat), (6, 17)] hL rfl (by change 1140850700 + d.toNat * 2097152 + a.toNat * 65536 + b.toNat * 2048 + x.toNat * 1024 + m.toNat * 128 = _; simp only [ofDigits]; omega) fun num hn => ?_
  refine (decodeNat_valux (fld_at hn hL 7 (lo := 26) (w := 6) rfl rfl)).trans ?_
  unfold decodeValux
  rw [fld_at hn hL 0 (lo := 0) (w := 7) rfl rfl]
  refine (if_pos (fld_at hn hL 2 (lo := 9) (w := 1) rfl rfl)).trans ?_
  exact congr (congr (congr (congr (congrArg Instr.valuxMinu (bits_of (v := d) (fld_at hn hL 6 (lo := 21) (w := 5) rfl rfl))) (bits_of (v := a) (fld_at hn hL 5 (lo := 16) (w := 5) rfl rfl))) (bits_of (v := b) (fld_at hn hL 4 (lo := 11) (w := 5) rfl rfl))) (flag_of (v := x) (fld_at hn hL 3 (lo := 10) (w := 1) rfl rfl))) (bits_of (v := m) (fld_at hn hL 1 (lo := 7) (w := 2) rfl rfl))

/-- `valux.maxu`. -/
theorem valuxMaxu (d : BitVec 5) (a : BitVec 5) (b : BitVec 5) (x : Bool) (m : BitVec 2) : Statement (.valuxMaxu d a b x m) := by
  intro _ _ _
  have hL : FieldsFit [(7, 13), (2, m.toNat), (1, 0), (1, x.toNat), (5, b.toNat), (5, a.toNat), (5, d.toNat), (6, 17)] := ⟨by decide, m.isLt, by decide, x.toNat_lt, b.isLt, a.isLt, d.isLt, by decide, trivial⟩
  refine decode_of [(7, 13), (2, m.toNat), (1, 0), (1, x.toNat), (5, b.toNat), (5, a.toNat), (5, d.toNat), (6, 17)] hL rfl (by change 1140850701 + d.toNat * 2097152 + a.toNat * 65536 + b.toNat * 2048 + x.toNat * 1024 + m.toNat * 128 = _; simp only [ofDigits]; omega) fun num hn => ?_
  refine (decodeNat_valux (fld_at hn hL 7 (lo := 26) (w := 6) rfl rfl)).trans ?_
  unfold decodeValux
  rw [fld_at hn hL 0 (lo := 0) (w := 7) rfl rfl]
  refine (if_pos (fld_at hn hL 2 (lo := 9) (w := 1) rfl rfl)).trans ?_
  exact congr (congr (congr (congr (congrArg Instr.valuxMaxu (bits_of (v := d) (fld_at hn hL 6 (lo := 21) (w := 5) rfl rfl))) (bits_of (v := a) (fld_at hn hL 5 (lo := 16) (w := 5) rfl rfl))) (bits_of (v := b) (fld_at hn hL 4 (lo := 11) (w := 5) rfl rfl))) (flag_of (v := x) (fld_at hn hL 3 (lo := 10) (w := 1) rfl rfl))) (bits_of (v := m) (fld_at hn hL 1 (lo := 7) (w := 2) rfl rfl))

/-- `valux.mul`. -/
theorem valuxMul (d : BitVec 5) (a : BitVec 5) (b : BitVec 5) (x : Bool) (m : BitVec 2) : Statement (.valuxMul d a b x m) := by
  intro _ _ _
  have hL : FieldsFit [(7, 14), (2, m.toNat), (1, 0), (1, x.toNat), (5, b.toNat), (5, a.toNat), (5, d.toNat), (6, 17)] := ⟨by decide, m.isLt, by decide, x.toNat_lt, b.isLt, a.isLt, d.isLt, by decide, trivial⟩
  refine decode_of [(7, 14), (2, m.toNat), (1, 0), (1, x.toNat), (5, b.toNat), (5, a.toNat), (5, d.toNat), (6, 17)] hL rfl (by change 1140850702 + d.toNat * 2097152 + a.toNat * 65536 + b.toNat * 2048 + x.toNat * 1024 + m.toNat * 128 = _; simp only [ofDigits]; omega) fun num hn => ?_
  refine (decodeNat_valux (fld_at hn hL 7 (lo := 26) (w := 6) rfl rfl)).trans ?_
  unfold decodeValux
  rw [fld_at hn hL 0 (lo := 0) (w := 7) rfl rfl]
  refine (if_pos (fld_at hn hL 2 (lo := 9) (w := 1) rfl rfl)).trans ?_
  exact congr (congr (congr (congr (congrArg Instr.valuxMul (bits_of (v := d) (fld_at hn hL 6 (lo := 21) (w := 5) rfl rfl))) (bits_of (v := a) (fld_at hn hL 5 (lo := 16) (w := 5) rfl rfl))) (bits_of (v := b) (fld_at hn hL 4 (lo := 11) (w := 5) rfl rfl))) (flag_of (v := x) (fld_at hn hL 3 (lo := 10) (w := 1) rfl rfl))) (bits_of (v := m) (fld_at hn hL 1 (lo := 7) (w := 2) rfl rfl))

/-- `valux.mulh`. -/
theorem valuxMulh (d : BitVec 5) (a : BitVec 5) (b : BitVec 5) (x : Bool) (m : BitVec 2) : Statement (.valuxMulh d a b x m) := by
  intro _ _ _
  have hL : FieldsFit [(7, 15), (2, m.toNat), (1, 0), (1, x.toNat), (5, b.toNat), (5, a.toNat), (5, d.toNat), (6, 17)] := ⟨by decide, m.isLt, by decide, x.toNat_lt, b.isLt, a.isLt, d.isLt, by decide, trivial⟩
  refine decode_of [(7, 15), (2, m.toNat), (1, 0), (1, x.toNat), (5, b.toNat), (5, a.toNat), (5, d.toNat), (6, 17)] hL rfl (by change 1140850703 + d.toNat * 2097152 + a.toNat * 65536 + b.toNat * 2048 + x.toNat * 1024 + m.toNat * 128 = _; simp only [ofDigits]; omega) fun num hn => ?_
  refine (decodeNat_valux (fld_at hn hL 7 (lo := 26) (w := 6) rfl rfl)).trans ?_
  unfold decodeValux
  rw [fld_at hn hL 0 (lo := 0) (w := 7) rfl rfl]
  refine (if_pos (fld_at hn hL 2 (lo := 9) (w := 1) rfl rfl)).trans ?_
  exact congr (congr (congr (congr (congrArg Instr.valuxMulh (bits_of (v := d) (fld_at hn hL 6 (lo := 21) (w := 5) rfl rfl))) (bits_of (v := a) (fld_at hn hL 5 (lo := 16) (w := 5) rfl rfl))) (bits_of (v := b) (fld_at hn hL 4 (lo := 11) (w := 5) rfl rfl))) (flag_of (v := x) (fld_at hn hL 3 (lo := 10) (w := 1) rfl rfl))) (bits_of (v := m) (fld_at hn hL 1 (lo := 7) (w := 2) rfl rfl))

/-- `valux.mulhu`. -/
theorem valuxMulhu (d : BitVec 5) (a : BitVec 5) (b : BitVec 5) (x : Bool) (m : BitVec 2) : Statement (.valuxMulhu d a b x m) := by
  intro _ _ _
  have hL : FieldsFit [(7, 16), (2, m.toNat), (1, 0), (1, x.toNat), (5, b.toNat), (5, a.toNat), (5, d.toNat), (6, 17)] := ⟨by decide, m.isLt, by decide, x.toNat_lt, b.isLt, a.isLt, d.isLt, by decide, trivial⟩
  refine decode_of [(7, 16), (2, m.toNat), (1, 0), (1, x.toNat), (5, b.toNat), (5, a.toNat), (5, d.toNat), (6, 17)] hL rfl (by change 1140850704 + d.toNat * 2097152 + a.toNat * 65536 + b.toNat * 2048 + x.toNat * 1024 + m.toNat * 128 = _; simp only [ofDigits]; omega) fun num hn => ?_
  refine (decodeNat_valux (fld_at hn hL 7 (lo := 26) (w := 6) rfl rfl)).trans ?_
  unfold decodeValux
  rw [fld_at hn hL 0 (lo := 0) (w := 7) rfl rfl]
  refine (if_pos (fld_at hn hL 2 (lo := 9) (w := 1) rfl rfl)).trans ?_
  exact congr (congr (congr (congr (congrArg Instr.valuxMulhu (bits_of (v := d) (fld_at hn hL 6 (lo := 21) (w := 5) rfl rfl))) (bits_of (v := a) (fld_at hn hL 5 (lo := 16) (w := 5) rfl rfl))) (bits_of (v := b) (fld_at hn hL 4 (lo := 11) (w := 5) rfl rfl))) (flag_of (v := x) (fld_at hn hL 3 (lo := 10) (w := 1) rfl rfl))) (bits_of (v := m) (fld_at hn hL 1 (lo := 7) (w := 2) rfl rfl))

/-- `valux.adds`. -/
theorem valuxAdds (d : BitVec 5) (a : BitVec 5) (b : BitVec 5) (x : Bool) (m : BitVec 2) : Statement (.valuxAdds d a b x m) := by
  intro _ _ _
  have hL : FieldsFit [(7, 17), (2, m.toNat), (1, 0), (1, x.toNat), (5, b.toNat), (5, a.toNat), (5, d.toNat), (6, 17)] := ⟨by decide, m.isLt, by decide, x.toNat_lt, b.isLt, a.isLt, d.isLt, by decide, trivial⟩
  refine decode_of [(7, 17), (2, m.toNat), (1, 0), (1, x.toNat), (5, b.toNat), (5, a.toNat), (5, d.toNat), (6, 17)] hL rfl (by change 1140850705 + d.toNat * 2097152 + a.toNat * 65536 + b.toNat * 2048 + x.toNat * 1024 + m.toNat * 128 = _; simp only [ofDigits]; omega) fun num hn => ?_
  refine (decodeNat_valux (fld_at hn hL 7 (lo := 26) (w := 6) rfl rfl)).trans ?_
  unfold decodeValux
  rw [fld_at hn hL 0 (lo := 0) (w := 7) rfl rfl]
  refine (if_pos (fld_at hn hL 2 (lo := 9) (w := 1) rfl rfl)).trans ?_
  exact congr (congr (congr (congr (congrArg Instr.valuxAdds (bits_of (v := d) (fld_at hn hL 6 (lo := 21) (w := 5) rfl rfl))) (bits_of (v := a) (fld_at hn hL 5 (lo := 16) (w := 5) rfl rfl))) (bits_of (v := b) (fld_at hn hL 4 (lo := 11) (w := 5) rfl rfl))) (flag_of (v := x) (fld_at hn hL 3 (lo := 10) (w := 1) rfl rfl))) (bits_of (v := m) (fld_at hn hL 1 (lo := 7) (w := 2) rfl rfl))

/-- `valux.subs`. -/
theorem valuxSubs (d : BitVec 5) (a : BitVec 5) (b : BitVec 5) (x : Bool) (m : BitVec 2) : Statement (.valuxSubs d a b x m) := by
  intro _ _ _
  have hL : FieldsFit [(7, 18), (2, m.toNat), (1, 0), (1, x.toNat), (5, b.toNat), (5, a.toNat), (5, d.toNat), (6, 17)] := ⟨by decide, m.isLt, by decide, x.toNat_lt, b.isLt, a.isLt, d.isLt, by decide, trivial⟩
  refine decode_of [(7, 18), (2, m.toNat), (1, 0), (1, x.toNat), (5, b.toNat), (5, a.toNat), (5, d.toNat), (6, 17)] hL rfl (by change 1140850706 + d.toNat * 2097152 + a.toNat * 65536 + b.toNat * 2048 + x.toNat * 1024 + m.toNat * 128 = _; simp only [ofDigits]; omega) fun num hn => ?_
  refine (decodeNat_valux (fld_at hn hL 7 (lo := 26) (w := 6) rfl rfl)).trans ?_
  unfold decodeValux
  rw [fld_at hn hL 0 (lo := 0) (w := 7) rfl rfl]
  refine (if_pos (fld_at hn hL 2 (lo := 9) (w := 1) rfl rfl)).trans ?_
  exact congr (congr (congr (congr (congrArg Instr.valuxSubs (bits_of (v := d) (fld_at hn hL 6 (lo := 21) (w := 5) rfl rfl))) (bits_of (v := a) (fld_at hn hL 5 (lo := 16) (w := 5) rfl rfl))) (bits_of (v := b) (fld_at hn hL 4 (lo := 11) (w := 5) rfl rfl))) (flag_of (v := x) (fld_at hn hL 3 (lo := 10) (w := 1) rfl rfl))) (bits_of (v := m) (fld_at hn hL 1 (lo := 7) (w := 2) rfl rfl))

/-- `valux.addsu`. -/
theorem valuxAddsu (d : BitVec 5) (a : BitVec 5) (b : BitVec 5) (x : Bool) (m : BitVec 2) : Statement (.valuxAddsu d a b x m) := by
  intro _ _ _
  have hL : FieldsFit [(7, 19), (2, m.toNat), (1, 0), (1, x.toNat), (5, b.toNat), (5, a.toNat), (5, d.toNat), (6, 17)] := ⟨by decide, m.isLt, by decide, x.toNat_lt, b.isLt, a.isLt, d.isLt, by decide, trivial⟩
  refine decode_of [(7, 19), (2, m.toNat), (1, 0), (1, x.toNat), (5, b.toNat), (5, a.toNat), (5, d.toNat), (6, 17)] hL rfl (by change 1140850707 + d.toNat * 2097152 + a.toNat * 65536 + b.toNat * 2048 + x.toNat * 1024 + m.toNat * 128 = _; simp only [ofDigits]; omega) fun num hn => ?_
  refine (decodeNat_valux (fld_at hn hL 7 (lo := 26) (w := 6) rfl rfl)).trans ?_
  unfold decodeValux
  rw [fld_at hn hL 0 (lo := 0) (w := 7) rfl rfl]
  refine (if_pos (fld_at hn hL 2 (lo := 9) (w := 1) rfl rfl)).trans ?_
  exact congr (congr (congr (congr (congrArg Instr.valuxAddsu (bits_of (v := d) (fld_at hn hL 6 (lo := 21) (w := 5) rfl rfl))) (bits_of (v := a) (fld_at hn hL 5 (lo := 16) (w := 5) rfl rfl))) (bits_of (v := b) (fld_at hn hL 4 (lo := 11) (w := 5) rfl rfl))) (flag_of (v := x) (fld_at hn hL 3 (lo := 10) (w := 1) rfl rfl))) (bits_of (v := m) (fld_at hn hL 1 (lo := 7) (w := 2) rfl rfl))

/-- `valux.subsu`. -/
theorem valuxSubsu (d : BitVec 5) (a : BitVec 5) (b : BitVec 5) (x : Bool) (m : BitVec 2) : Statement (.valuxSubsu d a b x m) := by
  intro _ _ _
  have hL : FieldsFit [(7, 20), (2, m.toNat), (1, 0), (1, x.toNat), (5, b.toNat), (5, a.toNat), (5, d.toNat), (6, 17)] := ⟨by decide, m.isLt, by decide, x.toNat_lt, b.isLt, a.isLt, d.isLt, by decide, trivial⟩
  refine decode_of [(7, 20), (2, m.toNat), (1, 0), (1, x.toNat), (5, b.toNat), (5, a.toNat), (5, d.toNat), (6, 17)] hL rfl (by change 1140850708 + d.toNat * 2097152 + a.toNat * 65536 + b.toNat * 2048 + x.toNat * 1024 + m.toNat * 128 = _; simp only [ofDigits]; omega) fun num hn => ?_
  refine (decodeNat_valux (fld_at hn hL 7 (lo := 26) (w := 6) rfl rfl)).trans ?_
  unfold decodeValux
  rw [fld_at hn hL 0 (lo := 0) (w := 7) rfl rfl]
  refine (if_pos (fld_at hn hL 2 (lo := 9) (w := 1) rfl rfl)).trans ?_
  exact congr (congr (congr (congr (congrArg Instr.valuxSubsu (bits_of (v := d) (fld_at hn hL 6 (lo := 21) (w := 5) rfl rfl))) (bits_of (v := a) (fld_at hn hL 5 (lo := 16) (w := 5) rfl rfl))) (bits_of (v := b) (fld_at hn hL 4 (lo := 11) (w := 5) rfl rfl))) (flag_of (v := x) (fld_at hn hL 3 (lo := 10) (w := 1) rfl rfl))) (bits_of (v := m) (fld_at hn hL 1 (lo := 7) (w := 2) rfl rfl))

/-- `valux.mv`. -/
theorem valuxMv (d : BitVec 5) (b : BitVec 5) (m : BitVec 2) : Statement (.valuxMv d b m) := by
  intro _ _ _
  have hL : FieldsFit [(7, 22), (2, m.toNat), (2, 0), (5, b.toNat), (5, 0), (5, d.toNat), (6, 17)] := ⟨by decide, m.isLt, by decide, b.isLt, by decide, d.isLt, by decide, trivial⟩
  refine decode_of [(7, 22), (2, m.toNat), (2, 0), (5, b.toNat), (5, 0), (5, d.toNat), (6, 17)] hL rfl (by change 1140850710 + d.toNat * 2097152 + b.toNat * 2048 + m.toNat * 128 = _; simp only [ofDigits]; omega) fun num hn => ?_
  refine (decodeNat_valux (fld_at hn hL 6 (lo := 26) (w := 6) rfl rfl)).trans ?_
  unfold decodeValux
  rw [fld_at hn hL 0 (lo := 0) (w := 7) rfl rfl]
  refine (if_pos ⟨(fld_at hn hL 2 (lo := 9) (w := 2) rfl rfl), (fld_at hn hL 4 (lo := 16) (w := 5) rfl rfl)⟩).trans ?_
  exact congr (congr (congrArg Instr.valuxMv (bits_of (v := d) (fld_at hn hL 5 (lo := 21) (w := 5) rfl rfl))) (bits_of (v := b) (fld_at hn hL 3 (lo := 11) (w := 5) rfl rfl))) (bits_of (v := m) (fld_at hn hL 1 (lo := 7) (w := 2) rfl rfl))

/-- `valux.merge`. -/
theorem valuxMerge (d : BitVec 5) (a : BitVec 5) (b : BitVec 5) (x : Bool) (m : BitVec 2) : Statement (.valuxMerge d a b x m) := by
  intro _ _ _
  have hL : FieldsFit [(7, 23), (2, m.toNat), (1, 0), (1, x.toNat), (5, b.toNat), (5, a.toNat), (5, d.toNat), (6, 17)] := ⟨by decide, m.isLt, by decide, x.toNat_lt, b.isLt, a.isLt, d.isLt, by decide, trivial⟩
  refine decode_of [(7, 23), (2, m.toNat), (1, 0), (1, x.toNat), (5, b.toNat), (5, a.toNat), (5, d.toNat), (6, 17)] hL rfl (by change 1140850711 + d.toNat * 2097152 + a.toNat * 65536 + b.toNat * 2048 + x.toNat * 1024 + m.toNat * 128 = _; simp only [ofDigits]; omega) fun num hn => ?_
  refine (decodeNat_valux (fld_at hn hL 7 (lo := 26) (w := 6) rfl rfl)).trans ?_
  unfold decodeValux
  rw [fld_at hn hL 0 (lo := 0) (w := 7) rfl rfl]
  refine (if_pos (fld_at hn hL 2 (lo := 9) (w := 1) rfl rfl)).trans ?_
  exact congr (congr (congr (congr (congrArg Instr.valuxMerge (bits_of (v := d) (fld_at hn hL 6 (lo := 21) (w := 5) rfl rfl))) (bits_of (v := a) (fld_at hn hL 5 (lo := 16) (w := 5) rfl rfl))) (bits_of (v := b) (fld_at hn hL 4 (lo := 11) (w := 5) rfl rfl))) (flag_of (v := x) (fld_at hn hL 3 (lo := 10) (w := 1) rfl rfl))) (bits_of (v := m) (fld_at hn hL 1 (lo := 7) (w := 2) rfl rfl))

/-- `valux.eq`. -/
theorem valuxEq (d : BitVec 4) (a : BitVec 5) (b : BitVec 5) (x : Bool) (m : BitVec 2) : Statement (.valuxEq d a b x m) := by
  intro _ _ _
  have hL : FieldsFit [(7, 24), (2, m.toNat), (1, 0), (1, x.toNat), (5, b.toNat), (5, a.toNat), (4, d.toNat), (1, 0), (6, 17)] := ⟨by decide, m.isLt, by decide, x.toNat_lt, b.isLt, a.isLt, d.isLt, by decide, by decide, trivial⟩
  refine decode_of [(7, 24), (2, m.toNat), (1, 0), (1, x.toNat), (5, b.toNat), (5, a.toNat), (4, d.toNat), (1, 0), (6, 17)] hL rfl (by change 1140850712 + d.toNat * 2097152 + a.toNat * 65536 + b.toNat * 2048 + x.toNat * 1024 + m.toNat * 128 = _; simp only [ofDigits]; omega) fun num hn => ?_
  refine (decodeNat_valux (fld_at hn hL 8 (lo := 26) (w := 6) rfl rfl)).trans ?_
  unfold decodeValux
  rw [fld_at hn hL 0 (lo := 0) (w := 7) rfl rfl]
  refine (if_pos ⟨(fld_at hn hL 2 (lo := 9) (w := 1) rfl rfl), (fld_at hn hL 7 (lo := 25) (w := 1) rfl rfl)⟩).trans ?_
  exact congr (congr (congr (congr (congrArg Instr.valuxEq (bits_of (v := d) (fld_at hn hL 6 (lo := 21) (w := 4) rfl rfl))) (bits_of (v := a) (fld_at hn hL 5 (lo := 16) (w := 5) rfl rfl))) (bits_of (v := b) (fld_at hn hL 4 (lo := 11) (w := 5) rfl rfl))) (flag_of (v := x) (fld_at hn hL 3 (lo := 10) (w := 1) rfl rfl))) (bits_of (v := m) (fld_at hn hL 1 (lo := 7) (w := 2) rfl rfl))

/-- `valux.ne`. -/
theorem valuxNe (d : BitVec 4) (a : BitVec 5) (b : BitVec 5) (x : Bool) (m : BitVec 2) : Statement (.valuxNe d a b x m) := by
  intro _ _ _
  have hL : FieldsFit [(7, 25), (2, m.toNat), (1, 0), (1, x.toNat), (5, b.toNat), (5, a.toNat), (4, d.toNat), (1, 0), (6, 17)] := ⟨by decide, m.isLt, by decide, x.toNat_lt, b.isLt, a.isLt, d.isLt, by decide, by decide, trivial⟩
  refine decode_of [(7, 25), (2, m.toNat), (1, 0), (1, x.toNat), (5, b.toNat), (5, a.toNat), (4, d.toNat), (1, 0), (6, 17)] hL rfl (by change 1140850713 + d.toNat * 2097152 + a.toNat * 65536 + b.toNat * 2048 + x.toNat * 1024 + m.toNat * 128 = _; simp only [ofDigits]; omega) fun num hn => ?_
  refine (decodeNat_valux (fld_at hn hL 8 (lo := 26) (w := 6) rfl rfl)).trans ?_
  unfold decodeValux
  rw [fld_at hn hL 0 (lo := 0) (w := 7) rfl rfl]
  refine (if_pos ⟨(fld_at hn hL 2 (lo := 9) (w := 1) rfl rfl), (fld_at hn hL 7 (lo := 25) (w := 1) rfl rfl)⟩).trans ?_
  exact congr (congr (congr (congr (congrArg Instr.valuxNe (bits_of (v := d) (fld_at hn hL 6 (lo := 21) (w := 4) rfl rfl))) (bits_of (v := a) (fld_at hn hL 5 (lo := 16) (w := 5) rfl rfl))) (bits_of (v := b) (fld_at hn hL 4 (lo := 11) (w := 5) rfl rfl))) (flag_of (v := x) (fld_at hn hL 3 (lo := 10) (w := 1) rfl rfl))) (bits_of (v := m) (fld_at hn hL 1 (lo := 7) (w := 2) rfl rfl))

/-- `valux.lt`. -/
theorem valuxLt (d : BitVec 4) (a : BitVec 5) (b : BitVec 5) (x : Bool) (m : BitVec 2) : Statement (.valuxLt d a b x m) := by
  intro _ _ _
  have hL : FieldsFit [(7, 26), (2, m.toNat), (1, 0), (1, x.toNat), (5, b.toNat), (5, a.toNat), (4, d.toNat), (1, 0), (6, 17)] := ⟨by decide, m.isLt, by decide, x.toNat_lt, b.isLt, a.isLt, d.isLt, by decide, by decide, trivial⟩
  refine decode_of [(7, 26), (2, m.toNat), (1, 0), (1, x.toNat), (5, b.toNat), (5, a.toNat), (4, d.toNat), (1, 0), (6, 17)] hL rfl (by change 1140850714 + d.toNat * 2097152 + a.toNat * 65536 + b.toNat * 2048 + x.toNat * 1024 + m.toNat * 128 = _; simp only [ofDigits]; omega) fun num hn => ?_
  refine (decodeNat_valux (fld_at hn hL 8 (lo := 26) (w := 6) rfl rfl)).trans ?_
  unfold decodeValux
  rw [fld_at hn hL 0 (lo := 0) (w := 7) rfl rfl]
  refine (if_pos ⟨(fld_at hn hL 2 (lo := 9) (w := 1) rfl rfl), (fld_at hn hL 7 (lo := 25) (w := 1) rfl rfl)⟩).trans ?_
  exact congr (congr (congr (congr (congrArg Instr.valuxLt (bits_of (v := d) (fld_at hn hL 6 (lo := 21) (w := 4) rfl rfl))) (bits_of (v := a) (fld_at hn hL 5 (lo := 16) (w := 5) rfl rfl))) (bits_of (v := b) (fld_at hn hL 4 (lo := 11) (w := 5) rfl rfl))) (flag_of (v := x) (fld_at hn hL 3 (lo := 10) (w := 1) rfl rfl))) (bits_of (v := m) (fld_at hn hL 1 (lo := 7) (w := 2) rfl rfl))

/-- `valux.ltu`. -/
theorem valuxLtu (d : BitVec 4) (a : BitVec 5) (b : BitVec 5) (x : Bool) (m : BitVec 2) : Statement (.valuxLtu d a b x m) := by
  intro _ _ _
  have hL : FieldsFit [(7, 27), (2, m.toNat), (1, 0), (1, x.toNat), (5, b.toNat), (5, a.toNat), (4, d.toNat), (1, 0), (6, 17)] := ⟨by decide, m.isLt, by decide, x.toNat_lt, b.isLt, a.isLt, d.isLt, by decide, by decide, trivial⟩
  refine decode_of [(7, 27), (2, m.toNat), (1, 0), (1, x.toNat), (5, b.toNat), (5, a.toNat), (4, d.toNat), (1, 0), (6, 17)] hL rfl (by change 1140850715 + d.toNat * 2097152 + a.toNat * 65536 + b.toNat * 2048 + x.toNat * 1024 + m.toNat * 128 = _; simp only [ofDigits]; omega) fun num hn => ?_
  refine (decodeNat_valux (fld_at hn hL 8 (lo := 26) (w := 6) rfl rfl)).trans ?_
  unfold decodeValux
  rw [fld_at hn hL 0 (lo := 0) (w := 7) rfl rfl]
  refine (if_pos ⟨(fld_at hn hL 2 (lo := 9) (w := 1) rfl rfl), (fld_at hn hL 7 (lo := 25) (w := 1) rfl rfl)⟩).trans ?_
  exact congr (congr (congr (congr (congrArg Instr.valuxLtu (bits_of (v := d) (fld_at hn hL 6 (lo := 21) (w := 4) rfl rfl))) (bits_of (v := a) (fld_at hn hL 5 (lo := 16) (w := 5) rfl rfl))) (bits_of (v := b) (fld_at hn hL 4 (lo := 11) (w := 5) rfl rfl))) (flag_of (v := x) (fld_at hn hL 3 (lo := 10) (w := 1) rfl rfl))) (bits_of (v := m) (fld_at hn hL 1 (lo := 7) (w := 2) rfl rfl))

/-- `valux.le`. -/
theorem valuxLe (d : BitVec 4) (a : BitVec 5) (b : BitVec 5) (x : Bool) (m : BitVec 2) : Statement (.valuxLe d a b x m) := by
  intro _ _ _
  have hL : FieldsFit [(7, 28), (2, m.toNat), (1, 0), (1, x.toNat), (5, b.toNat), (5, a.toNat), (4, d.toNat), (1, 0), (6, 17)] := ⟨by decide, m.isLt, by decide, x.toNat_lt, b.isLt, a.isLt, d.isLt, by decide, by decide, trivial⟩
  refine decode_of [(7, 28), (2, m.toNat), (1, 0), (1, x.toNat), (5, b.toNat), (5, a.toNat), (4, d.toNat), (1, 0), (6, 17)] hL rfl (by change 1140850716 + d.toNat * 2097152 + a.toNat * 65536 + b.toNat * 2048 + x.toNat * 1024 + m.toNat * 128 = _; simp only [ofDigits]; omega) fun num hn => ?_
  refine (decodeNat_valux (fld_at hn hL 8 (lo := 26) (w := 6) rfl rfl)).trans ?_
  unfold decodeValux
  rw [fld_at hn hL 0 (lo := 0) (w := 7) rfl rfl]
  refine (if_pos ⟨(fld_at hn hL 2 (lo := 9) (w := 1) rfl rfl), (fld_at hn hL 7 (lo := 25) (w := 1) rfl rfl)⟩).trans ?_
  exact congr (congr (congr (congr (congrArg Instr.valuxLe (bits_of (v := d) (fld_at hn hL 6 (lo := 21) (w := 4) rfl rfl))) (bits_of (v := a) (fld_at hn hL 5 (lo := 16) (w := 5) rfl rfl))) (bits_of (v := b) (fld_at hn hL 4 (lo := 11) (w := 5) rfl rfl))) (flag_of (v := x) (fld_at hn hL 3 (lo := 10) (w := 1) rfl rfl))) (bits_of (v := m) (fld_at hn hL 1 (lo := 7) (w := 2) rfl rfl))

/-- `valux.leu`. -/
theorem valuxLeu (d : BitVec 4) (a : BitVec 5) (b : BitVec 5) (x : Bool) (m : BitVec 2) : Statement (.valuxLeu d a b x m) := by
  intro _ _ _
  have hL : FieldsFit [(7, 29), (2, m.toNat), (1, 0), (1, x.toNat), (5, b.toNat), (5, a.toNat), (4, d.toNat), (1, 0), (6, 17)] := ⟨by decide, m.isLt, by decide, x.toNat_lt, b.isLt, a.isLt, d.isLt, by decide, by decide, trivial⟩
  refine decode_of [(7, 29), (2, m.toNat), (1, 0), (1, x.toNat), (5, b.toNat), (5, a.toNat), (4, d.toNat), (1, 0), (6, 17)] hL rfl (by change 1140850717 + d.toNat * 2097152 + a.toNat * 65536 + b.toNat * 2048 + x.toNat * 1024 + m.toNat * 128 = _; simp only [ofDigits]; omega) fun num hn => ?_
  refine (decodeNat_valux (fld_at hn hL 8 (lo := 26) (w := 6) rfl rfl)).trans ?_
  unfold decodeValux
  rw [fld_at hn hL 0 (lo := 0) (w := 7) rfl rfl]
  refine (if_pos ⟨(fld_at hn hL 2 (lo := 9) (w := 1) rfl rfl), (fld_at hn hL 7 (lo := 25) (w := 1) rfl rfl)⟩).trans ?_
  exact congr (congr (congr (congr (congrArg Instr.valuxLeu (bits_of (v := d) (fld_at hn hL 6 (lo := 21) (w := 4) rfl rfl))) (bits_of (v := a) (fld_at hn hL 5 (lo := 16) (w := 5) rfl rfl))) (bits_of (v := b) (fld_at hn hL 4 (lo := 11) (w := 5) rfl rfl))) (flag_of (v := x) (fld_at hn hL 3 (lo := 10) (w := 1) rfl rfl))) (bits_of (v := m) (fld_at hn hL 1 (lo := 7) (w := 2) rfl rfl))

/-- `vfp.add`. -/
theorem vfpAdd (d : BitVec 5) (a : BitVec 5) (b : BitVec 5) (x : Bool) (y : Bool) (m : BitVec 2) : Statement (.vfpAdd d a b x y m) := by
  intro _ _ _
  have hL : FieldsFit [(7, 0), (2, m.toNat), (1, y.toNat), (1, x.toNat), (5, b.toNat), (5, a.toNat), (5, d.toNat), (6, 18)] := ⟨by decide, m.isLt, y.toNat_lt, x.toNat_lt, b.isLt, a.isLt, d.isLt, by decide, trivial⟩
  refine decode_of [(7, 0), (2, m.toNat), (1, y.toNat), (1, x.toNat), (5, b.toNat), (5, a.toNat), (5, d.toNat), (6, 18)] hL rfl (by change 1207959552 + d.toNat * 2097152 + a.toNat * 65536 + b.toNat * 2048 + x.toNat * 1024 + y.toNat * 512 + m.toNat * 128 = _; simp only [ofDigits]; omega) fun num hn => ?_
  refine (decodeNat_vfp (fld_at hn hL 7 (lo := 26) (w := 6) rfl rfl)).trans ?_
  unfold decodeVfp
  rw [fld_at hn hL 0 (lo := 0) (w := 7) rfl rfl]
  exact congr (congr (congr (congr (congr (congrArg Instr.vfpAdd (bits_of (v := d) (fld_at hn hL 6 (lo := 21) (w := 5) rfl rfl))) (bits_of (v := a) (fld_at hn hL 5 (lo := 16) (w := 5) rfl rfl))) (bits_of (v := b) (fld_at hn hL 4 (lo := 11) (w := 5) rfl rfl))) (flag_of (v := x) (fld_at hn hL 3 (lo := 10) (w := 1) rfl rfl))) (flag_of (v := y) (fld_at hn hL 2 (lo := 9) (w := 1) rfl rfl))) (bits_of (v := m) (fld_at hn hL 1 (lo := 7) (w := 2) rfl rfl))

/-- `vfp.sub`. -/
theorem vfpSub (d : BitVec 5) (a : BitVec 5) (b : BitVec 5) (x : Bool) (y : Bool) (m : BitVec 2) : Statement (.vfpSub d a b x y m) := by
  intro _ _ _
  have hL : FieldsFit [(7, 1), (2, m.toNat), (1, y.toNat), (1, x.toNat), (5, b.toNat), (5, a.toNat), (5, d.toNat), (6, 18)] := ⟨by decide, m.isLt, y.toNat_lt, x.toNat_lt, b.isLt, a.isLt, d.isLt, by decide, trivial⟩
  refine decode_of [(7, 1), (2, m.toNat), (1, y.toNat), (1, x.toNat), (5, b.toNat), (5, a.toNat), (5, d.toNat), (6, 18)] hL rfl (by change 1207959553 + d.toNat * 2097152 + a.toNat * 65536 + b.toNat * 2048 + x.toNat * 1024 + y.toNat * 512 + m.toNat * 128 = _; simp only [ofDigits]; omega) fun num hn => ?_
  refine (decodeNat_vfp (fld_at hn hL 7 (lo := 26) (w := 6) rfl rfl)).trans ?_
  unfold decodeVfp
  rw [fld_at hn hL 0 (lo := 0) (w := 7) rfl rfl]
  exact congr (congr (congr (congr (congr (congrArg Instr.vfpSub (bits_of (v := d) (fld_at hn hL 6 (lo := 21) (w := 5) rfl rfl))) (bits_of (v := a) (fld_at hn hL 5 (lo := 16) (w := 5) rfl rfl))) (bits_of (v := b) (fld_at hn hL 4 (lo := 11) (w := 5) rfl rfl))) (flag_of (v := x) (fld_at hn hL 3 (lo := 10) (w := 1) rfl rfl))) (flag_of (v := y) (fld_at hn hL 2 (lo := 9) (w := 1) rfl rfl))) (bits_of (v := m) (fld_at hn hL 1 (lo := 7) (w := 2) rfl rfl))

/-- `vfp.mul`. -/
theorem vfpMul (d : BitVec 5) (a : BitVec 5) (b : BitVec 5) (x : Bool) (y : Bool) (m : BitVec 2) : Statement (.vfpMul d a b x y m) := by
  intro _ _ _
  have hL : FieldsFit [(7, 2), (2, m.toNat), (1, y.toNat), (1, x.toNat), (5, b.toNat), (5, a.toNat), (5, d.toNat), (6, 18)] := ⟨by decide, m.isLt, y.toNat_lt, x.toNat_lt, b.isLt, a.isLt, d.isLt, by decide, trivial⟩
  refine decode_of [(7, 2), (2, m.toNat), (1, y.toNat), (1, x.toNat), (5, b.toNat), (5, a.toNat), (5, d.toNat), (6, 18)] hL rfl (by change 1207959554 + d.toNat * 2097152 + a.toNat * 65536 + b.toNat * 2048 + x.toNat * 1024 + y.toNat * 512 + m.toNat * 128 = _; simp only [ofDigits]; omega) fun num hn => ?_
  refine (decodeNat_vfp (fld_at hn hL 7 (lo := 26) (w := 6) rfl rfl)).trans ?_
  unfold decodeVfp
  rw [fld_at hn hL 0 (lo := 0) (w := 7) rfl rfl]
  exact congr (congr (congr (congr (congr (congrArg Instr.vfpMul (bits_of (v := d) (fld_at hn hL 6 (lo := 21) (w := 5) rfl rfl))) (bits_of (v := a) (fld_at hn hL 5 (lo := 16) (w := 5) rfl rfl))) (bits_of (v := b) (fld_at hn hL 4 (lo := 11) (w := 5) rfl rfl))) (flag_of (v := x) (fld_at hn hL 3 (lo := 10) (w := 1) rfl rfl))) (flag_of (v := y) (fld_at hn hL 2 (lo := 9) (w := 1) rfl rfl))) (bits_of (v := m) (fld_at hn hL 1 (lo := 7) (w := 2) rfl rfl))

/-- `vfp.div`. -/
theorem vfpDiv (d : BitVec 5) (a : BitVec 5) (b : BitVec 5) (x : Bool) (y : Bool) (m : BitVec 2) : Statement (.vfpDiv d a b x y m) := by
  intro _ _ _
  have hL : FieldsFit [(7, 3), (2, m.toNat), (1, y.toNat), (1, x.toNat), (5, b.toNat), (5, a.toNat), (5, d.toNat), (6, 18)] := ⟨by decide, m.isLt, y.toNat_lt, x.toNat_lt, b.isLt, a.isLt, d.isLt, by decide, trivial⟩
  refine decode_of [(7, 3), (2, m.toNat), (1, y.toNat), (1, x.toNat), (5, b.toNat), (5, a.toNat), (5, d.toNat), (6, 18)] hL rfl (by change 1207959555 + d.toNat * 2097152 + a.toNat * 65536 + b.toNat * 2048 + x.toNat * 1024 + y.toNat * 512 + m.toNat * 128 = _; simp only [ofDigits]; omega) fun num hn => ?_
  refine (decodeNat_vfp (fld_at hn hL 7 (lo := 26) (w := 6) rfl rfl)).trans ?_
  unfold decodeVfp
  rw [fld_at hn hL 0 (lo := 0) (w := 7) rfl rfl]
  exact congr (congr (congr (congr (congr (congrArg Instr.vfpDiv (bits_of (v := d) (fld_at hn hL 6 (lo := 21) (w := 5) rfl rfl))) (bits_of (v := a) (fld_at hn hL 5 (lo := 16) (w := 5) rfl rfl))) (bits_of (v := b) (fld_at hn hL 4 (lo := 11) (w := 5) rfl rfl))) (flag_of (v := x) (fld_at hn hL 3 (lo := 10) (w := 1) rfl rfl))) (flag_of (v := y) (fld_at hn hL 2 (lo := 9) (w := 1) rfl rfl))) (bits_of (v := m) (fld_at hn hL 1 (lo := 7) (w := 2) rfl rfl))

/-- `vfp.sqrt`. -/
theorem vfpSqrt (d : BitVec 5) (a : BitVec 5) (x : Bool) (m : BitVec 2) : Statement (.vfpSqrt d a x m) := by
  intro _ _ _
  have hL : FieldsFit [(7, 4), (2, m.toNat), (1, 0), (1, x.toNat), (5, 0), (5, a.toNat), (5, d.toNat), (6, 18)] := ⟨by decide, m.isLt, by decide, x.toNat_lt, by decide, a.isLt, d.isLt, by decide, trivial⟩
  refine decode_of [(7, 4), (2, m.toNat), (1, 0), (1, x.toNat), (5, 0), (5, a.toNat), (5, d.toNat), (6, 18)] hL rfl (by change 1207959556 + d.toNat * 2097152 + a.toNat * 65536 + x.toNat * 1024 + m.toNat * 128 = _; simp only [ofDigits]; omega) fun num hn => ?_
  refine (decodeNat_vfp (fld_at hn hL 7 (lo := 26) (w := 6) rfl rfl)).trans ?_
  unfold decodeVfp
  rw [fld_at hn hL 0 (lo := 0) (w := 7) rfl rfl]
  refine (if_pos ⟨(fld_at hn hL 2 (lo := 9) (w := 1) rfl rfl), (fld_at hn hL 4 (lo := 11) (w := 5) rfl rfl)⟩).trans ?_
  exact congr (congr (congr (congrArg Instr.vfpSqrt (bits_of (v := d) (fld_at hn hL 6 (lo := 21) (w := 5) rfl rfl))) (bits_of (v := a) (fld_at hn hL 5 (lo := 16) (w := 5) rfl rfl))) (flag_of (v := x) (fld_at hn hL 3 (lo := 10) (w := 1) rfl rfl))) (bits_of (v := m) (fld_at hn hL 1 (lo := 7) (w := 2) rfl rfl))

/-- `vfp.min`. -/
theorem vfpMin (d : BitVec 5) (a : BitVec 5) (b : BitVec 5) (x : Bool) (y : Bool) (m : BitVec 2) : Statement (.vfpMin d a b x y m) := by
  intro _ _ _
  have hL : FieldsFit [(7, 5), (2, m.toNat), (1, y.toNat), (1, x.toNat), (5, b.toNat), (5, a.toNat), (5, d.toNat), (6, 18)] := ⟨by decide, m.isLt, y.toNat_lt, x.toNat_lt, b.isLt, a.isLt, d.isLt, by decide, trivial⟩
  refine decode_of [(7, 5), (2, m.toNat), (1, y.toNat), (1, x.toNat), (5, b.toNat), (5, a.toNat), (5, d.toNat), (6, 18)] hL rfl (by change 1207959557 + d.toNat * 2097152 + a.toNat * 65536 + b.toNat * 2048 + x.toNat * 1024 + y.toNat * 512 + m.toNat * 128 = _; simp only [ofDigits]; omega) fun num hn => ?_
  refine (decodeNat_vfp (fld_at hn hL 7 (lo := 26) (w := 6) rfl rfl)).trans ?_
  unfold decodeVfp
  rw [fld_at hn hL 0 (lo := 0) (w := 7) rfl rfl]
  exact congr (congr (congr (congr (congr (congrArg Instr.vfpMin (bits_of (v := d) (fld_at hn hL 6 (lo := 21) (w := 5) rfl rfl))) (bits_of (v := a) (fld_at hn hL 5 (lo := 16) (w := 5) rfl rfl))) (bits_of (v := b) (fld_at hn hL 4 (lo := 11) (w := 5) rfl rfl))) (flag_of (v := x) (fld_at hn hL 3 (lo := 10) (w := 1) rfl rfl))) (flag_of (v := y) (fld_at hn hL 2 (lo := 9) (w := 1) rfl rfl))) (bits_of (v := m) (fld_at hn hL 1 (lo := 7) (w := 2) rfl rfl))

/-- `vfp.max`. -/
theorem vfpMax (d : BitVec 5) (a : BitVec 5) (b : BitVec 5) (x : Bool) (y : Bool) (m : BitVec 2) : Statement (.vfpMax d a b x y m) := by
  intro _ _ _
  have hL : FieldsFit [(7, 6), (2, m.toNat), (1, y.toNat), (1, x.toNat), (5, b.toNat), (5, a.toNat), (5, d.toNat), (6, 18)] := ⟨by decide, m.isLt, y.toNat_lt, x.toNat_lt, b.isLt, a.isLt, d.isLt, by decide, trivial⟩
  refine decode_of [(7, 6), (2, m.toNat), (1, y.toNat), (1, x.toNat), (5, b.toNat), (5, a.toNat), (5, d.toNat), (6, 18)] hL rfl (by change 1207959558 + d.toNat * 2097152 + a.toNat * 65536 + b.toNat * 2048 + x.toNat * 1024 + y.toNat * 512 + m.toNat * 128 = _; simp only [ofDigits]; omega) fun num hn => ?_
  refine (decodeNat_vfp (fld_at hn hL 7 (lo := 26) (w := 6) rfl rfl)).trans ?_
  unfold decodeVfp
  rw [fld_at hn hL 0 (lo := 0) (w := 7) rfl rfl]
  exact congr (congr (congr (congr (congr (congrArg Instr.vfpMax (bits_of (v := d) (fld_at hn hL 6 (lo := 21) (w := 5) rfl rfl))) (bits_of (v := a) (fld_at hn hL 5 (lo := 16) (w := 5) rfl rfl))) (bits_of (v := b) (fld_at hn hL 4 (lo := 11) (w := 5) rfl rfl))) (flag_of (v := x) (fld_at hn hL 3 (lo := 10) (w := 1) rfl rfl))) (flag_of (v := y) (fld_at hn hL 2 (lo := 9) (w := 1) rfl rfl))) (bits_of (v := m) (fld_at hn hL 1 (lo := 7) (w := 2) rfl rfl))

/-- `vfp.sgnj`. -/
theorem vfpSgnj (d : BitVec 5) (a : BitVec 5) (b : BitVec 5) (x : Bool) (y : Bool) (m : BitVec 2) : Statement (.vfpSgnj d a b x y m) := by
  intro _ _ _
  have hL : FieldsFit [(7, 7), (2, m.toNat), (1, y.toNat), (1, x.toNat), (5, b.toNat), (5, a.toNat), (5, d.toNat), (6, 18)] := ⟨by decide, m.isLt, y.toNat_lt, x.toNat_lt, b.isLt, a.isLt, d.isLt, by decide, trivial⟩
  refine decode_of [(7, 7), (2, m.toNat), (1, y.toNat), (1, x.toNat), (5, b.toNat), (5, a.toNat), (5, d.toNat), (6, 18)] hL rfl (by change 1207959559 + d.toNat * 2097152 + a.toNat * 65536 + b.toNat * 2048 + x.toNat * 1024 + y.toNat * 512 + m.toNat * 128 = _; simp only [ofDigits]; omega) fun num hn => ?_
  refine (decodeNat_vfp (fld_at hn hL 7 (lo := 26) (w := 6) rfl rfl)).trans ?_
  unfold decodeVfp
  rw [fld_at hn hL 0 (lo := 0) (w := 7) rfl rfl]
  exact congr (congr (congr (congr (congr (congrArg Instr.vfpSgnj (bits_of (v := d) (fld_at hn hL 6 (lo := 21) (w := 5) rfl rfl))) (bits_of (v := a) (fld_at hn hL 5 (lo := 16) (w := 5) rfl rfl))) (bits_of (v := b) (fld_at hn hL 4 (lo := 11) (w := 5) rfl rfl))) (flag_of (v := x) (fld_at hn hL 3 (lo := 10) (w := 1) rfl rfl))) (flag_of (v := y) (fld_at hn hL 2 (lo := 9) (w := 1) rfl rfl))) (bits_of (v := m) (fld_at hn hL 1 (lo := 7) (w := 2) rfl rfl))

/-- `vfp.sgnjn`. -/
theorem vfpSgnjn (d : BitVec 5) (a : BitVec 5) (b : BitVec 5) (x : Bool) (y : Bool) (m : BitVec 2) : Statement (.vfpSgnjn d a b x y m) := by
  intro _ _ _
  have hL : FieldsFit [(7, 8), (2, m.toNat), (1, y.toNat), (1, x.toNat), (5, b.toNat), (5, a.toNat), (5, d.toNat), (6, 18)] := ⟨by decide, m.isLt, y.toNat_lt, x.toNat_lt, b.isLt, a.isLt, d.isLt, by decide, trivial⟩
  refine decode_of [(7, 8), (2, m.toNat), (1, y.toNat), (1, x.toNat), (5, b.toNat), (5, a.toNat), (5, d.toNat), (6, 18)] hL rfl (by change 1207959560 + d.toNat * 2097152 + a.toNat * 65536 + b.toNat * 2048 + x.toNat * 1024 + y.toNat * 512 + m.toNat * 128 = _; simp only [ofDigits]; omega) fun num hn => ?_
  refine (decodeNat_vfp (fld_at hn hL 7 (lo := 26) (w := 6) rfl rfl)).trans ?_
  unfold decodeVfp
  rw [fld_at hn hL 0 (lo := 0) (w := 7) rfl rfl]
  exact congr (congr (congr (congr (congr (congrArg Instr.vfpSgnjn (bits_of (v := d) (fld_at hn hL 6 (lo := 21) (w := 5) rfl rfl))) (bits_of (v := a) (fld_at hn hL 5 (lo := 16) (w := 5) rfl rfl))) (bits_of (v := b) (fld_at hn hL 4 (lo := 11) (w := 5) rfl rfl))) (flag_of (v := x) (fld_at hn hL 3 (lo := 10) (w := 1) rfl rfl))) (flag_of (v := y) (fld_at hn hL 2 (lo := 9) (w := 1) rfl rfl))) (bits_of (v := m) (fld_at hn hL 1 (lo := 7) (w := 2) rfl rfl))

/-- `vfp.sgnjx`. -/
theorem vfpSgnjx (d : BitVec 5) (a : BitVec 5) (b : BitVec 5) (x : Bool) (y : Bool) (m : BitVec 2) : Statement (.vfpSgnjx d a b x y m) := by
  intro _ _ _
  have hL : FieldsFit [(7, 9), (2, m.toNat), (1, y.toNat), (1, x.toNat), (5, b.toNat), (5, a.toNat), (5, d.toNat), (6, 18)] := ⟨by decide, m.isLt, y.toNat_lt, x.toNat_lt, b.isLt, a.isLt, d.isLt, by decide, trivial⟩
  refine decode_of [(7, 9), (2, m.toNat), (1, y.toNat), (1, x.toNat), (5, b.toNat), (5, a.toNat), (5, d.toNat), (6, 18)] hL rfl (by change 1207959561 + d.toNat * 2097152 + a.toNat * 65536 + b.toNat * 2048 + x.toNat * 1024 + y.toNat * 512 + m.toNat * 128 = _; simp only [ofDigits]; omega) fun num hn => ?_
  refine (decodeNat_vfp (fld_at hn hL 7 (lo := 26) (w := 6) rfl rfl)).trans ?_
  unfold decodeVfp
  rw [fld_at hn hL 0 (lo := 0) (w := 7) rfl rfl]
  exact congr (congr (congr (congr (congr (congrArg Instr.vfpSgnjx (bits_of (v := d) (fld_at hn hL 6 (lo := 21) (w := 5) rfl rfl))) (bits_of (v := a) (fld_at hn hL 5 (lo := 16) (w := 5) rfl rfl))) (bits_of (v := b) (fld_at hn hL 4 (lo := 11) (w := 5) rfl rfl))) (flag_of (v := x) (fld_at hn hL 3 (lo := 10) (w := 1) rfl rfl))) (flag_of (v := y) (fld_at hn hL 2 (lo := 9) (w := 1) rfl rfl))) (bits_of (v := m) (fld_at hn hL 1 (lo := 7) (w := 2) rfl rfl))

/-- `vfp.eq`. -/
theorem vfpEq (d : BitVec 4) (a : BitVec 5) (b : BitVec 5) (x : Bool) (y : Bool) (m : BitVec 2) : Statement (.vfpEq d a b x y m) := by
  intro _ _ _
  have hL : FieldsFit [(7, 10), (2, m.toNat), (1, y.toNat), (1, x.toNat), (5, b.toNat), (5, a.toNat), (4, d.toNat), (1, 0), (6, 18)] := ⟨by decide, m.isLt, y.toNat_lt, x.toNat_lt, b.isLt, a.isLt, d.isLt, by decide, by decide, trivial⟩
  refine decode_of [(7, 10), (2, m.toNat), (1, y.toNat), (1, x.toNat), (5, b.toNat), (5, a.toNat), (4, d.toNat), (1, 0), (6, 18)] hL rfl (by change 1207959562 + d.toNat * 2097152 + a.toNat * 65536 + b.toNat * 2048 + x.toNat * 1024 + y.toNat * 512 + m.toNat * 128 = _; simp only [ofDigits]; omega) fun num hn => ?_
  refine (decodeNat_vfp (fld_at hn hL 8 (lo := 26) (w := 6) rfl rfl)).trans ?_
  unfold decodeVfp
  rw [fld_at hn hL 0 (lo := 0) (w := 7) rfl rfl]
  refine (if_pos (fld_at hn hL 7 (lo := 25) (w := 1) rfl rfl)).trans ?_
  exact congr (congr (congr (congr (congr (congrArg Instr.vfpEq (bits_of (v := d) (fld_at hn hL 6 (lo := 21) (w := 4) rfl rfl))) (bits_of (v := a) (fld_at hn hL 5 (lo := 16) (w := 5) rfl rfl))) (bits_of (v := b) (fld_at hn hL 4 (lo := 11) (w := 5) rfl rfl))) (flag_of (v := x) (fld_at hn hL 3 (lo := 10) (w := 1) rfl rfl))) (flag_of (v := y) (fld_at hn hL 2 (lo := 9) (w := 1) rfl rfl))) (bits_of (v := m) (fld_at hn hL 1 (lo := 7) (w := 2) rfl rfl))

/-- `vfp.lt`. -/
theorem vfpLt (d : BitVec 4) (a : BitVec 5) (b : BitVec 5) (x : Bool) (y : Bool) (m : BitVec 2) : Statement (.vfpLt d a b x y m) := by
  intro _ _ _
  have hL : FieldsFit [(7, 11), (2, m.toNat), (1, y.toNat), (1, x.toNat), (5, b.toNat), (5, a.toNat), (4, d.toNat), (1, 0), (6, 18)] := ⟨by decide, m.isLt, y.toNat_lt, x.toNat_lt, b.isLt, a.isLt, d.isLt, by decide, by decide, trivial⟩
  refine decode_of [(7, 11), (2, m.toNat), (1, y.toNat), (1, x.toNat), (5, b.toNat), (5, a.toNat), (4, d.toNat), (1, 0), (6, 18)] hL rfl (by change 1207959563 + d.toNat * 2097152 + a.toNat * 65536 + b.toNat * 2048 + x.toNat * 1024 + y.toNat * 512 + m.toNat * 128 = _; simp only [ofDigits]; omega) fun num hn => ?_
  refine (decodeNat_vfp (fld_at hn hL 8 (lo := 26) (w := 6) rfl rfl)).trans ?_
  unfold decodeVfp
  rw [fld_at hn hL 0 (lo := 0) (w := 7) rfl rfl]
  refine (if_pos (fld_at hn hL 7 (lo := 25) (w := 1) rfl rfl)).trans ?_
  exact congr (congr (congr (congr (congr (congrArg Instr.vfpLt (bits_of (v := d) (fld_at hn hL 6 (lo := 21) (w := 4) rfl rfl))) (bits_of (v := a) (fld_at hn hL 5 (lo := 16) (w := 5) rfl rfl))) (bits_of (v := b) (fld_at hn hL 4 (lo := 11) (w := 5) rfl rfl))) (flag_of (v := x) (fld_at hn hL 3 (lo := 10) (w := 1) rfl rfl))) (flag_of (v := y) (fld_at hn hL 2 (lo := 9) (w := 1) rfl rfl))) (bits_of (v := m) (fld_at hn hL 1 (lo := 7) (w := 2) rfl rfl))

/-- `vfp.le`. -/
theorem vfpLe (d : BitVec 4) (a : BitVec 5) (b : BitVec 5) (x : Bool) (y : Bool) (m : BitVec 2) : Statement (.vfpLe d a b x y m) := by
  intro _ _ _
  have hL : FieldsFit [(7, 12), (2, m.toNat), (1, y.toNat), (1, x.toNat), (5, b.toNat), (5, a.toNat), (4, d.toNat), (1, 0), (6, 18)] := ⟨by decide, m.isLt, y.toNat_lt, x.toNat_lt, b.isLt, a.isLt, d.isLt, by decide, by decide, trivial⟩
  refine decode_of [(7, 12), (2, m.toNat), (1, y.toNat), (1, x.toNat), (5, b.toNat), (5, a.toNat), (4, d.toNat), (1, 0), (6, 18)] hL rfl (by change 1207959564 + d.toNat * 2097152 + a.toNat * 65536 + b.toNat * 2048 + x.toNat * 1024 + y.toNat * 512 + m.toNat * 128 = _; simp only [ofDigits]; omega) fun num hn => ?_
  refine (decodeNat_vfp (fld_at hn hL 8 (lo := 26) (w := 6) rfl rfl)).trans ?_
  unfold decodeVfp
  rw [fld_at hn hL 0 (lo := 0) (w := 7) rfl rfl]
  refine (if_pos (fld_at hn hL 7 (lo := 25) (w := 1) rfl rfl)).trans ?_
  exact congr (congr (congr (congr (congr (congrArg Instr.vfpLe (bits_of (v := d) (fld_at hn hL 6 (lo := 21) (w := 4) rfl rfl))) (bits_of (v := a) (fld_at hn hL 5 (lo := 16) (w := 5) rfl rfl))) (bits_of (v := b) (fld_at hn hL 4 (lo := 11) (w := 5) rfl rfl))) (flag_of (v := x) (fld_at hn hL 3 (lo := 10) (w := 1) rfl rfl))) (flag_of (v := y) (fld_at hn hL 2 (lo := 9) (w := 1) rfl rfl))) (bits_of (v := m) (fld_at hn hL 1 (lo := 7) (w := 2) rfl rfl))

/-- `vfp.class`. -/
theorem vfpClass (d : BitVec 5) (a : BitVec 5) (x : Bool) (m : BitVec 2) : Statement (.vfpClass d a x m) := by
  intro _ _ _
  have hL : FieldsFit [(7, 13), (2, m.toNat), (1, 0), (1, x.toNat), (5, 0), (5, a.toNat), (5, d.toNat), (6, 18)] := ⟨by decide, m.isLt, by decide, x.toNat_lt, by decide, a.isLt, d.isLt, by decide, trivial⟩
  refine decode_of [(7, 13), (2, m.toNat), (1, 0), (1, x.toNat), (5, 0), (5, a.toNat), (5, d.toNat), (6, 18)] hL rfl (by change 1207959565 + d.toNat * 2097152 + a.toNat * 65536 + x.toNat * 1024 + m.toNat * 128 = _; simp only [ofDigits]; omega) fun num hn => ?_
  refine (decodeNat_vfp (fld_at hn hL 7 (lo := 26) (w := 6) rfl rfl)).trans ?_
  unfold decodeVfp
  rw [fld_at hn hL 0 (lo := 0) (w := 7) rfl rfl]
  refine (if_pos ⟨(fld_at hn hL 2 (lo := 9) (w := 1) rfl rfl), (fld_at hn hL 4 (lo := 11) (w := 5) rfl rfl)⟩).trans ?_
  exact congr (congr (congr (congrArg Instr.vfpClass (bits_of (v := d) (fld_at hn hL 6 (lo := 21) (w := 5) rfl rfl))) (bits_of (v := a) (fld_at hn hL 5 (lo := 16) (w := 5) rfl rfl))) (flag_of (v := x) (fld_at hn hL 3 (lo := 10) (w := 1) rfl rfl))) (bits_of (v := m) (fld_at hn hL 1 (lo := 7) (w := 2) rfl rfl))

/-- `vfp.rec`. -/
theorem vfpRec (d : BitVec 5) (a : BitVec 5) (x : Bool) (m : BitVec 2) : Statement (.vfpRec d a x m) := by
  intro _ _ _
  have hL : FieldsFit [(7, 14), (2, m.toNat), (1, 0), (1, x.toNat), (5, 0), (5, a.toNat), (5, d.toNat), (6, 18)] := ⟨by decide, m.isLt, by decide, x.toNat_lt, by decide, a.isLt, d.isLt, by decide, trivial⟩
  refine decode_of [(7, 14), (2, m.toNat), (1, 0), (1, x.toNat), (5, 0), (5, a.toNat), (5, d.toNat), (6, 18)] hL rfl (by change 1207959566 + d.toNat * 2097152 + a.toNat * 65536 + x.toNat * 1024 + m.toNat * 128 = _; simp only [ofDigits]; omega) fun num hn => ?_
  refine (decodeNat_vfp (fld_at hn hL 7 (lo := 26) (w := 6) rfl rfl)).trans ?_
  unfold decodeVfp
  rw [fld_at hn hL 0 (lo := 0) (w := 7) rfl rfl]
  refine (if_pos ⟨(fld_at hn hL 2 (lo := 9) (w := 1) rfl rfl), (fld_at hn hL 4 (lo := 11) (w := 5) rfl rfl)⟩).trans ?_
  exact congr (congr (congr (congrArg Instr.vfpRec (bits_of (v := d) (fld_at hn hL 6 (lo := 21) (w := 5) rfl rfl))) (bits_of (v := a) (fld_at hn hL 5 (lo := 16) (w := 5) rfl rfl))) (flag_of (v := x) (fld_at hn hL 3 (lo := 10) (w := 1) rfl rfl))) (bits_of (v := m) (fld_at hn hL 1 (lo := 7) (w := 2) rfl rfl))

/-- `vfp.rsq`. -/
theorem vfpRsq (d : BitVec 5) (a : BitVec 5) (x : Bool) (m : BitVec 2) : Statement (.vfpRsq d a x m) := by
  intro _ _ _
  have hL : FieldsFit [(7, 15), (2, m.toNat), (1, 0), (1, x.toNat), (5, 0), (5, a.toNat), (5, d.toNat), (6, 18)] := ⟨by decide, m.isLt, by decide, x.toNat_lt, by decide, a.isLt, d.isLt, by decide, trivial⟩
  refine decode_of [(7, 15), (2, m.toNat), (1, 0), (1, x.toNat), (5, 0), (5, a.toNat), (5, d.toNat), (6, 18)] hL rfl (by change 1207959567 + d.toNat * 2097152 + a.toNat * 65536 + x.toNat * 1024 + m.toNat * 128 = _; simp only [ofDigits]; omega) fun num hn => ?_
  refine (decodeNat_vfp (fld_at hn hL 7 (lo := 26) (w := 6) rfl rfl)).trans ?_
  unfold decodeVfp
  rw [fld_at hn hL 0 (lo := 0) (w := 7) rfl rfl]
  refine (if_pos ⟨(fld_at hn hL 2 (lo := 9) (w := 1) rfl rfl), (fld_at hn hL 4 (lo := 11) (w := 5) rfl rfl)⟩).trans ?_
  exact congr (congr (congr (congrArg Instr.vfpRsq (bits_of (v := d) (fld_at hn hL 6 (lo := 21) (w := 5) rfl rfl))) (bits_of (v := a) (fld_at hn hL 5 (lo := 16) (w := 5) rfl rfl))) (flag_of (v := x) (fld_at hn hL 3 (lo := 10) (w := 1) rfl rfl))) (bits_of (v := m) (fld_at hn hL 1 (lo := 7) (w := 2) rfl rfl))

/-- `vfp.exp2`. -/
theorem vfpExp2 (d : BitVec 5) (a : BitVec 5) (x : Bool) (m : BitVec 2) : Statement (.vfpExp2 d a x m) := by
  intro _ _ _
  have hL : FieldsFit [(7, 16), (2, m.toNat), (1, 0), (1, x.toNat), (5, 0), (5, a.toNat), (5, d.toNat), (6, 18)] := ⟨by decide, m.isLt, by decide, x.toNat_lt, by decide, a.isLt, d.isLt, by decide, trivial⟩
  refine decode_of [(7, 16), (2, m.toNat), (1, 0), (1, x.toNat), (5, 0), (5, a.toNat), (5, d.toNat), (6, 18)] hL rfl (by change 1207959568 + d.toNat * 2097152 + a.toNat * 65536 + x.toNat * 1024 + m.toNat * 128 = _; simp only [ofDigits]; omega) fun num hn => ?_
  refine (decodeNat_vfp (fld_at hn hL 7 (lo := 26) (w := 6) rfl rfl)).trans ?_
  unfold decodeVfp
  rw [fld_at hn hL 0 (lo := 0) (w := 7) rfl rfl]
  refine (if_pos ⟨(fld_at hn hL 2 (lo := 9) (w := 1) rfl rfl), (fld_at hn hL 4 (lo := 11) (w := 5) rfl rfl)⟩).trans ?_
  exact congr (congr (congr (congrArg Instr.vfpExp2 (bits_of (v := d) (fld_at hn hL 6 (lo := 21) (w := 5) rfl rfl))) (bits_of (v := a) (fld_at hn hL 5 (lo := 16) (w := 5) rfl rfl))) (flag_of (v := x) (fld_at hn hL 3 (lo := 10) (w := 1) rfl rfl))) (bits_of (v := m) (fld_at hn hL 1 (lo := 7) (w := 2) rfl rfl))

/-- `vfp.log2`. -/
theorem vfpLog2 (d : BitVec 5) (a : BitVec 5) (x : Bool) (m : BitVec 2) : Statement (.vfpLog2 d a x m) := by
  intro _ _ _
  have hL : FieldsFit [(7, 17), (2, m.toNat), (1, 0), (1, x.toNat), (5, 0), (5, a.toNat), (5, d.toNat), (6, 18)] := ⟨by decide, m.isLt, by decide, x.toNat_lt, by decide, a.isLt, d.isLt, by decide, trivial⟩
  refine decode_of [(7, 17), (2, m.toNat), (1, 0), (1, x.toNat), (5, 0), (5, a.toNat), (5, d.toNat), (6, 18)] hL rfl (by change 1207959569 + d.toNat * 2097152 + a.toNat * 65536 + x.toNat * 1024 + m.toNat * 128 = _; simp only [ofDigits]; omega) fun num hn => ?_
  refine (decodeNat_vfp (fld_at hn hL 7 (lo := 26) (w := 6) rfl rfl)).trans ?_
  unfold decodeVfp
  rw [fld_at hn hL 0 (lo := 0) (w := 7) rfl rfl]
  refine (if_pos ⟨(fld_at hn hL 2 (lo := 9) (w := 1) rfl rfl), (fld_at hn hL 4 (lo := 11) (w := 5) rfl rfl)⟩).trans ?_
  exact congr (congr (congr (congrArg Instr.vfpLog2 (bits_of (v := d) (fld_at hn hL 6 (lo := 21) (w := 5) rfl rfl))) (bits_of (v := a) (fld_at hn hL 5 (lo := 16) (w := 5) rfl rfl))) (flag_of (v := x) (fld_at hn hL 3 (lo := 10) (w := 1) rfl rfl))) (bits_of (v := m) (fld_at hn hL 1 (lo := 7) (w := 2) rfl rfl))

/-- `vfpx.add`. -/
theorem vfpxAdd (d : BitVec 5) (a : BitVec 5) (b : BitVec 5) (x : Bool) (m : BitVec 2) : Statement (.vfpxAdd d a b x m) := by
  intro _ _ _
  have hL : FieldsFit [(7, 0), (2, m.toNat), (1, 0), (1, x.toNat), (5, b.toNat), (5, a.toNat), (5, d.toNat), (6, 19)] := ⟨by decide, m.isLt, by decide, x.toNat_lt, b.isLt, a.isLt, d.isLt, by decide, trivial⟩
  refine decode_of [(7, 0), (2, m.toNat), (1, 0), (1, x.toNat), (5, b.toNat), (5, a.toNat), (5, d.toNat), (6, 19)] hL rfl (by change 1275068416 + d.toNat * 2097152 + a.toNat * 65536 + b.toNat * 2048 + x.toNat * 1024 + m.toNat * 128 = _; simp only [ofDigits]; omega) fun num hn => ?_
  refine (decodeNat_vfpx (fld_at hn hL 7 (lo := 26) (w := 6) rfl rfl)).trans ?_
  unfold decodeVfpx
  rw [fld_at hn hL 0 (lo := 0) (w := 7) rfl rfl]
  refine (if_pos (fld_at hn hL 2 (lo := 9) (w := 1) rfl rfl)).trans ?_
  exact congr (congr (congr (congr (congrArg Instr.vfpxAdd (bits_of (v := d) (fld_at hn hL 6 (lo := 21) (w := 5) rfl rfl))) (bits_of (v := a) (fld_at hn hL 5 (lo := 16) (w := 5) rfl rfl))) (bits_of (v := b) (fld_at hn hL 4 (lo := 11) (w := 5) rfl rfl))) (flag_of (v := x) (fld_at hn hL 3 (lo := 10) (w := 1) rfl rfl))) (bits_of (v := m) (fld_at hn hL 1 (lo := 7) (w := 2) rfl rfl))

/-- `vfpx.sub`. -/
theorem vfpxSub (d : BitVec 5) (a : BitVec 5) (b : BitVec 5) (x : Bool) (m : BitVec 2) : Statement (.vfpxSub d a b x m) := by
  intro _ _ _
  have hL : FieldsFit [(7, 1), (2, m.toNat), (1, 0), (1, x.toNat), (5, b.toNat), (5, a.toNat), (5, d.toNat), (6, 19)] := ⟨by decide, m.isLt, by decide, x.toNat_lt, b.isLt, a.isLt, d.isLt, by decide, trivial⟩
  refine decode_of [(7, 1), (2, m.toNat), (1, 0), (1, x.toNat), (5, b.toNat), (5, a.toNat), (5, d.toNat), (6, 19)] hL rfl (by change 1275068417 + d.toNat * 2097152 + a.toNat * 65536 + b.toNat * 2048 + x.toNat * 1024 + m.toNat * 128 = _; simp only [ofDigits]; omega) fun num hn => ?_
  refine (decodeNat_vfpx (fld_at hn hL 7 (lo := 26) (w := 6) rfl rfl)).trans ?_
  unfold decodeVfpx
  rw [fld_at hn hL 0 (lo := 0) (w := 7) rfl rfl]
  refine (if_pos (fld_at hn hL 2 (lo := 9) (w := 1) rfl rfl)).trans ?_
  exact congr (congr (congr (congr (congrArg Instr.vfpxSub (bits_of (v := d) (fld_at hn hL 6 (lo := 21) (w := 5) rfl rfl))) (bits_of (v := a) (fld_at hn hL 5 (lo := 16) (w := 5) rfl rfl))) (bits_of (v := b) (fld_at hn hL 4 (lo := 11) (w := 5) rfl rfl))) (flag_of (v := x) (fld_at hn hL 3 (lo := 10) (w := 1) rfl rfl))) (bits_of (v := m) (fld_at hn hL 1 (lo := 7) (w := 2) rfl rfl))

/-- `vfpx.mul`. -/
theorem vfpxMul (d : BitVec 5) (a : BitVec 5) (b : BitVec 5) (x : Bool) (m : BitVec 2) : Statement (.vfpxMul d a b x m) := by
  intro _ _ _
  have hL : FieldsFit [(7, 2), (2, m.toNat), (1, 0), (1, x.toNat), (5, b.toNat), (5, a.toNat), (5, d.toNat), (6, 19)] := ⟨by decide, m.isLt, by decide, x.toNat_lt, b.isLt, a.isLt, d.isLt, by decide, trivial⟩
  refine decode_of [(7, 2), (2, m.toNat), (1, 0), (1, x.toNat), (5, b.toNat), (5, a.toNat), (5, d.toNat), (6, 19)] hL rfl (by change 1275068418 + d.toNat * 2097152 + a.toNat * 65536 + b.toNat * 2048 + x.toNat * 1024 + m.toNat * 128 = _; simp only [ofDigits]; omega) fun num hn => ?_
  refine (decodeNat_vfpx (fld_at hn hL 7 (lo := 26) (w := 6) rfl rfl)).trans ?_
  unfold decodeVfpx
  rw [fld_at hn hL 0 (lo := 0) (w := 7) rfl rfl]
  refine (if_pos (fld_at hn hL 2 (lo := 9) (w := 1) rfl rfl)).trans ?_
  exact congr (congr (congr (congr (congrArg Instr.vfpxMul (bits_of (v := d) (fld_at hn hL 6 (lo := 21) (w := 5) rfl rfl))) (bits_of (v := a) (fld_at hn hL 5 (lo := 16) (w := 5) rfl rfl))) (bits_of (v := b) (fld_at hn hL 4 (lo := 11) (w := 5) rfl rfl))) (flag_of (v := x) (fld_at hn hL 3 (lo := 10) (w := 1) rfl rfl))) (bits_of (v := m) (fld_at hn hL 1 (lo := 7) (w := 2) rfl rfl))

/-- `vfpx.div`. -/
theorem vfpxDiv (d : BitVec 5) (a : BitVec 5) (b : BitVec 5) (x : Bool) (m : BitVec 2) : Statement (.vfpxDiv d a b x m) := by
  intro _ _ _
  have hL : FieldsFit [(7, 3), (2, m.toNat), (1, 0), (1, x.toNat), (5, b.toNat), (5, a.toNat), (5, d.toNat), (6, 19)] := ⟨by decide, m.isLt, by decide, x.toNat_lt, b.isLt, a.isLt, d.isLt, by decide, trivial⟩
  refine decode_of [(7, 3), (2, m.toNat), (1, 0), (1, x.toNat), (5, b.toNat), (5, a.toNat), (5, d.toNat), (6, 19)] hL rfl (by change 1275068419 + d.toNat * 2097152 + a.toNat * 65536 + b.toNat * 2048 + x.toNat * 1024 + m.toNat * 128 = _; simp only [ofDigits]; omega) fun num hn => ?_
  refine (decodeNat_vfpx (fld_at hn hL 7 (lo := 26) (w := 6) rfl rfl)).trans ?_
  unfold decodeVfpx
  rw [fld_at hn hL 0 (lo := 0) (w := 7) rfl rfl]
  refine (if_pos (fld_at hn hL 2 (lo := 9) (w := 1) rfl rfl)).trans ?_
  exact congr (congr (congr (congr (congrArg Instr.vfpxDiv (bits_of (v := d) (fld_at hn hL 6 (lo := 21) (w := 5) rfl rfl))) (bits_of (v := a) (fld_at hn hL 5 (lo := 16) (w := 5) rfl rfl))) (bits_of (v := b) (fld_at hn hL 4 (lo := 11) (w := 5) rfl rfl))) (flag_of (v := x) (fld_at hn hL 3 (lo := 10) (w := 1) rfl rfl))) (bits_of (v := m) (fld_at hn hL 1 (lo := 7) (w := 2) rfl rfl))

/-- `vfpx.min`. -/
theorem vfpxMin (d : BitVec 5) (a : BitVec 5) (b : BitVec 5) (x : Bool) (m : BitVec 2) : Statement (.vfpxMin d a b x m) := by
  intro _ _ _
  have hL : FieldsFit [(7, 5), (2, m.toNat), (1, 0), (1, x.toNat), (5, b.toNat), (5, a.toNat), (5, d.toNat), (6, 19)] := ⟨by decide, m.isLt, by decide, x.toNat_lt, b.isLt, a.isLt, d.isLt, by decide, trivial⟩
  refine decode_of [(7, 5), (2, m.toNat), (1, 0), (1, x.toNat), (5, b.toNat), (5, a.toNat), (5, d.toNat), (6, 19)] hL rfl (by change 1275068421 + d.toNat * 2097152 + a.toNat * 65536 + b.toNat * 2048 + x.toNat * 1024 + m.toNat * 128 = _; simp only [ofDigits]; omega) fun num hn => ?_
  refine (decodeNat_vfpx (fld_at hn hL 7 (lo := 26) (w := 6) rfl rfl)).trans ?_
  unfold decodeVfpx
  rw [fld_at hn hL 0 (lo := 0) (w := 7) rfl rfl]
  refine (if_pos (fld_at hn hL 2 (lo := 9) (w := 1) rfl rfl)).trans ?_
  exact congr (congr (congr (congr (congrArg Instr.vfpxMin (bits_of (v := d) (fld_at hn hL 6 (lo := 21) (w := 5) rfl rfl))) (bits_of (v := a) (fld_at hn hL 5 (lo := 16) (w := 5) rfl rfl))) (bits_of (v := b) (fld_at hn hL 4 (lo := 11) (w := 5) rfl rfl))) (flag_of (v := x) (fld_at hn hL 3 (lo := 10) (w := 1) rfl rfl))) (bits_of (v := m) (fld_at hn hL 1 (lo := 7) (w := 2) rfl rfl))

/-- `vfpx.max`. -/
theorem vfpxMax (d : BitVec 5) (a : BitVec 5) (b : BitVec 5) (x : Bool) (m : BitVec 2) : Statement (.vfpxMax d a b x m) := by
  intro _ _ _
  have hL : FieldsFit [(7, 6), (2, m.toNat), (1, 0), (1, x.toNat), (5, b.toNat), (5, a.toNat), (5, d.toNat), (6, 19)] := ⟨by decide, m.isLt, by decide, x.toNat_lt, b.isLt, a.isLt, d.isLt, by decide, trivial⟩
  refine decode_of [(7, 6), (2, m.toNat), (1, 0), (1, x.toNat), (5, b.toNat), (5, a.toNat), (5, d.toNat), (6, 19)] hL rfl (by change 1275068422 + d.toNat * 2097152 + a.toNat * 65536 + b.toNat * 2048 + x.toNat * 1024 + m.toNat * 128 = _; simp only [ofDigits]; omega) fun num hn => ?_
  refine (decodeNat_vfpx (fld_at hn hL 7 (lo := 26) (w := 6) rfl rfl)).trans ?_
  unfold decodeVfpx
  rw [fld_at hn hL 0 (lo := 0) (w := 7) rfl rfl]
  refine (if_pos (fld_at hn hL 2 (lo := 9) (w := 1) rfl rfl)).trans ?_
  exact congr (congr (congr (congr (congrArg Instr.vfpxMax (bits_of (v := d) (fld_at hn hL 6 (lo := 21) (w := 5) rfl rfl))) (bits_of (v := a) (fld_at hn hL 5 (lo := 16) (w := 5) rfl rfl))) (bits_of (v := b) (fld_at hn hL 4 (lo := 11) (w := 5) rfl rfl))) (flag_of (v := x) (fld_at hn hL 3 (lo := 10) (w := 1) rfl rfl))) (bits_of (v := m) (fld_at hn hL 1 (lo := 7) (w := 2) rfl rfl))

/-- `vfpx.sgnj`. -/
theorem vfpxSgnj (d : BitVec 5) (a : BitVec 5) (b : BitVec 5) (x : Bool) (m : BitVec 2) : Statement (.vfpxSgnj d a b x m) := by
  intro _ _ _
  have hL : FieldsFit [(7, 7), (2, m.toNat), (1, 0), (1, x.toNat), (5, b.toNat), (5, a.toNat), (5, d.toNat), (6, 19)] := ⟨by decide, m.isLt, by decide, x.toNat_lt, b.isLt, a.isLt, d.isLt, by decide, trivial⟩
  refine decode_of [(7, 7), (2, m.toNat), (1, 0), (1, x.toNat), (5, b.toNat), (5, a.toNat), (5, d.toNat), (6, 19)] hL rfl (by change 1275068423 + d.toNat * 2097152 + a.toNat * 65536 + b.toNat * 2048 + x.toNat * 1024 + m.toNat * 128 = _; simp only [ofDigits]; omega) fun num hn => ?_
  refine (decodeNat_vfpx (fld_at hn hL 7 (lo := 26) (w := 6) rfl rfl)).trans ?_
  unfold decodeVfpx
  rw [fld_at hn hL 0 (lo := 0) (w := 7) rfl rfl]
  refine (if_pos (fld_at hn hL 2 (lo := 9) (w := 1) rfl rfl)).trans ?_
  exact congr (congr (congr (congr (congrArg Instr.vfpxSgnj (bits_of (v := d) (fld_at hn hL 6 (lo := 21) (w := 5) rfl rfl))) (bits_of (v := a) (fld_at hn hL 5 (lo := 16) (w := 5) rfl rfl))) (bits_of (v := b) (fld_at hn hL 4 (lo := 11) (w := 5) rfl rfl))) (flag_of (v := x) (fld_at hn hL 3 (lo := 10) (w := 1) rfl rfl))) (bits_of (v := m) (fld_at hn hL 1 (lo := 7) (w := 2) rfl rfl))

/-- `vfpx.sgnjn`. -/
theorem vfpxSgnjn (d : BitVec 5) (a : BitVec 5) (b : BitVec 5) (x : Bool) (m : BitVec 2) : Statement (.vfpxSgnjn d a b x m) := by
  intro _ _ _
  have hL : FieldsFit [(7, 8), (2, m.toNat), (1, 0), (1, x.toNat), (5, b.toNat), (5, a.toNat), (5, d.toNat), (6, 19)] := ⟨by decide, m.isLt, by decide, x.toNat_lt, b.isLt, a.isLt, d.isLt, by decide, trivial⟩
  refine decode_of [(7, 8), (2, m.toNat), (1, 0), (1, x.toNat), (5, b.toNat), (5, a.toNat), (5, d.toNat), (6, 19)] hL rfl (by change 1275068424 + d.toNat * 2097152 + a.toNat * 65536 + b.toNat * 2048 + x.toNat * 1024 + m.toNat * 128 = _; simp only [ofDigits]; omega) fun num hn => ?_
  refine (decodeNat_vfpx (fld_at hn hL 7 (lo := 26) (w := 6) rfl rfl)).trans ?_
  unfold decodeVfpx
  rw [fld_at hn hL 0 (lo := 0) (w := 7) rfl rfl]
  refine (if_pos (fld_at hn hL 2 (lo := 9) (w := 1) rfl rfl)).trans ?_
  exact congr (congr (congr (congr (congrArg Instr.vfpxSgnjn (bits_of (v := d) (fld_at hn hL 6 (lo := 21) (w := 5) rfl rfl))) (bits_of (v := a) (fld_at hn hL 5 (lo := 16) (w := 5) rfl rfl))) (bits_of (v := b) (fld_at hn hL 4 (lo := 11) (w := 5) rfl rfl))) (flag_of (v := x) (fld_at hn hL 3 (lo := 10) (w := 1) rfl rfl))) (bits_of (v := m) (fld_at hn hL 1 (lo := 7) (w := 2) rfl rfl))

/-- `vfpx.sgnjx`. -/
theorem vfpxSgnjx (d : BitVec 5) (a : BitVec 5) (b : BitVec 5) (x : Bool) (m : BitVec 2) : Statement (.vfpxSgnjx d a b x m) := by
  intro _ _ _
  have hL : FieldsFit [(7, 9), (2, m.toNat), (1, 0), (1, x.toNat), (5, b.toNat), (5, a.toNat), (5, d.toNat), (6, 19)] := ⟨by decide, m.isLt, by decide, x.toNat_lt, b.isLt, a.isLt, d.isLt, by decide, trivial⟩
  refine decode_of [(7, 9), (2, m.toNat), (1, 0), (1, x.toNat), (5, b.toNat), (5, a.toNat), (5, d.toNat), (6, 19)] hL rfl (by change 1275068425 + d.toNat * 2097152 + a.toNat * 65536 + b.toNat * 2048 + x.toNat * 1024 + m.toNat * 128 = _; simp only [ofDigits]; omega) fun num hn => ?_
  refine (decodeNat_vfpx (fld_at hn hL 7 (lo := 26) (w := 6) rfl rfl)).trans ?_
  unfold decodeVfpx
  rw [fld_at hn hL 0 (lo := 0) (w := 7) rfl rfl]
  refine (if_pos (fld_at hn hL 2 (lo := 9) (w := 1) rfl rfl)).trans ?_
  exact congr (congr (congr (congr (congrArg Instr.vfpxSgnjx (bits_of (v := d) (fld_at hn hL 6 (lo := 21) (w := 5) rfl rfl))) (bits_of (v := a) (fld_at hn hL 5 (lo := 16) (w := 5) rfl rfl))) (bits_of (v := b) (fld_at hn hL 4 (lo := 11) (w := 5) rfl rfl))) (flag_of (v := x) (fld_at hn hL 3 (lo := 10) (w := 1) rfl rfl))) (bits_of (v := m) (fld_at hn hL 1 (lo := 7) (w := 2) rfl rfl))

/-- `vfpx.eq`. -/
theorem vfpxEq (d : BitVec 4) (a : BitVec 5) (b : BitVec 5) (x : Bool) (m : BitVec 2) : Statement (.vfpxEq d a b x m) := by
  intro _ _ _
  have hL : FieldsFit [(7, 10), (2, m.toNat), (1, 0), (1, x.toNat), (5, b.toNat), (5, a.toNat), (4, d.toNat), (1, 0), (6, 19)] := ⟨by decide, m.isLt, by decide, x.toNat_lt, b.isLt, a.isLt, d.isLt, by decide, by decide, trivial⟩
  refine decode_of [(7, 10), (2, m.toNat), (1, 0), (1, x.toNat), (5, b.toNat), (5, a.toNat), (4, d.toNat), (1, 0), (6, 19)] hL rfl (by change 1275068426 + d.toNat * 2097152 + a.toNat * 65536 + b.toNat * 2048 + x.toNat * 1024 + m.toNat * 128 = _; simp only [ofDigits]; omega) fun num hn => ?_
  refine (decodeNat_vfpx (fld_at hn hL 8 (lo := 26) (w := 6) rfl rfl)).trans ?_
  unfold decodeVfpx
  rw [fld_at hn hL 0 (lo := 0) (w := 7) rfl rfl]
  refine (if_pos ⟨(fld_at hn hL 2 (lo := 9) (w := 1) rfl rfl), (fld_at hn hL 7 (lo := 25) (w := 1) rfl rfl)⟩).trans ?_
  exact congr (congr (congr (congr (congrArg Instr.vfpxEq (bits_of (v := d) (fld_at hn hL 6 (lo := 21) (w := 4) rfl rfl))) (bits_of (v := a) (fld_at hn hL 5 (lo := 16) (w := 5) rfl rfl))) (bits_of (v := b) (fld_at hn hL 4 (lo := 11) (w := 5) rfl rfl))) (flag_of (v := x) (fld_at hn hL 3 (lo := 10) (w := 1) rfl rfl))) (bits_of (v := m) (fld_at hn hL 1 (lo := 7) (w := 2) rfl rfl))

/-- `vfpx.lt`. -/
theorem vfpxLt (d : BitVec 4) (a : BitVec 5) (b : BitVec 5) (x : Bool) (m : BitVec 2) : Statement (.vfpxLt d a b x m) := by
  intro _ _ _
  have hL : FieldsFit [(7, 11), (2, m.toNat), (1, 0), (1, x.toNat), (5, b.toNat), (5, a.toNat), (4, d.toNat), (1, 0), (6, 19)] := ⟨by decide, m.isLt, by decide, x.toNat_lt, b.isLt, a.isLt, d.isLt, by decide, by decide, trivial⟩
  refine decode_of [(7, 11), (2, m.toNat), (1, 0), (1, x.toNat), (5, b.toNat), (5, a.toNat), (4, d.toNat), (1, 0), (6, 19)] hL rfl (by change 1275068427 + d.toNat * 2097152 + a.toNat * 65536 + b.toNat * 2048 + x.toNat * 1024 + m.toNat * 128 = _; simp only [ofDigits]; omega) fun num hn => ?_
  refine (decodeNat_vfpx (fld_at hn hL 8 (lo := 26) (w := 6) rfl rfl)).trans ?_
  unfold decodeVfpx
  rw [fld_at hn hL 0 (lo := 0) (w := 7) rfl rfl]
  refine (if_pos ⟨(fld_at hn hL 2 (lo := 9) (w := 1) rfl rfl), (fld_at hn hL 7 (lo := 25) (w := 1) rfl rfl)⟩).trans ?_
  exact congr (congr (congr (congr (congrArg Instr.vfpxLt (bits_of (v := d) (fld_at hn hL 6 (lo := 21) (w := 4) rfl rfl))) (bits_of (v := a) (fld_at hn hL 5 (lo := 16) (w := 5) rfl rfl))) (bits_of (v := b) (fld_at hn hL 4 (lo := 11) (w := 5) rfl rfl))) (flag_of (v := x) (fld_at hn hL 3 (lo := 10) (w := 1) rfl rfl))) (bits_of (v := m) (fld_at hn hL 1 (lo := 7) (w := 2) rfl rfl))

/-- `vfpx.le`. -/
theorem vfpxLe (d : BitVec 4) (a : BitVec 5) (b : BitVec 5) (x : Bool) (m : BitVec 2) : Statement (.vfpxLe d a b x m) := by
  intro _ _ _
  have hL : FieldsFit [(7, 12), (2, m.toNat), (1, 0), (1, x.toNat), (5, b.toNat), (5, a.toNat), (4, d.toNat), (1, 0), (6, 19)] := ⟨by decide, m.isLt, by decide, x.toNat_lt, b.isLt, a.isLt, d.isLt, by decide, by decide, trivial⟩
  refine decode_of [(7, 12), (2, m.toNat), (1, 0), (1, x.toNat), (5, b.toNat), (5, a.toNat), (4, d.toNat), (1, 0), (6, 19)] hL rfl (by change 1275068428 + d.toNat * 2097152 + a.toNat * 65536 + b.toNat * 2048 + x.toNat * 1024 + m.toNat * 128 = _; simp only [ofDigits]; omega) fun num hn => ?_
  refine (decodeNat_vfpx (fld_at hn hL 8 (lo := 26) (w := 6) rfl rfl)).trans ?_
  unfold decodeVfpx
  rw [fld_at hn hL 0 (lo := 0) (w := 7) rfl rfl]
  refine (if_pos ⟨(fld_at hn hL 2 (lo := 9) (w := 1) rfl rfl), (fld_at hn hL 7 (lo := 25) (w := 1) rfl rfl)⟩).trans ?_
  exact congr (congr (congr (congr (congrArg Instr.vfpxLe (bits_of (v := d) (fld_at hn hL 6 (lo := 21) (w := 4) rfl rfl))) (bits_of (v := a) (fld_at hn hL 5 (lo := 16) (w := 5) rfl rfl))) (bits_of (v := b) (fld_at hn hL 4 (lo := 11) (w := 5) rfl rfl))) (flag_of (v := x) (fld_at hn hL 3 (lo := 10) (w := 1) rfl rfl))) (bits_of (v := m) (fld_at hn hL 1 (lo := 7) (w := 2) rfl rfl))

/-- `vfma.madd`. -/
theorem vfmaMadd (d : BitVec 5) (a : BitVec 5) (b : BitVec 5) (c : BitVec 5) (x : Bool) (y : Bool) (w : Bool) (m : BitVec 2) : Statement (.vfmaMadd d a b c x y w m) := by
  intro _ _ _
  have hL : FieldsFit [(1, 0), (2, m.toNat), (1, w.toNat), (1, y.toNat), (1, x.toNat), (5, c.toNat), (5, b.toNat), (5, a.toNat), (5, d.toNat), (6, 20)] := ⟨by decide, m.isLt, w.toNat_lt, y.toNat_lt, x.toNat_lt, c.isLt, b.isLt, a.isLt, d.isLt, by decide, trivial⟩
  refine decode_of [(1, 0), (2, m.toNat), (1, w.toNat), (1, y.toNat), (1, x.toNat), (5, c.toNat), (5, b.toNat), (5, a.toNat), (5, d.toNat), (6, 20)] hL rfl (by change 1342177280 + d.toNat * 2097152 + a.toNat * 65536 + b.toNat * 2048 + c.toNat * 64 + x.toNat * 32 + y.toNat * 16 + w.toNat * 8 + m.toNat * 2 = _; simp only [ofDigits]; omega) fun num hn => ?_
  refine (decodeNat_vfma (fld_at hn hL 9 (lo := 26) (w := 6) rfl rfl)).trans ?_
  unfold decodeVfma
  rw [fld_at hn hL 0 (lo := 0) (w := 1) rfl rfl]
  exact congr (congr (congr (congr (congr (congr (congr (congrArg Instr.vfmaMadd (bits_of (v := d) (fld_at hn hL 8 (lo := 21) (w := 5) rfl rfl))) (bits_of (v := a) (fld_at hn hL 7 (lo := 16) (w := 5) rfl rfl))) (bits_of (v := b) (fld_at hn hL 6 (lo := 11) (w := 5) rfl rfl))) (bits_of (v := c) (fld_at hn hL 5 (lo := 6) (w := 5) rfl rfl))) (flag_of (v := x) (fld_at hn hL 4 (lo := 5) (w := 1) rfl rfl))) (flag_of (v := y) (fld_at hn hL 3 (lo := 4) (w := 1) rfl rfl))) (flag_of (v := w) (fld_at hn hL 2 (lo := 3) (w := 1) rfl rfl))) (bits_of (v := m) (fld_at hn hL 1 (lo := 1) (w := 2) rfl rfl))

/-- `vfma.nmadd`. -/
theorem vfmaNmadd (d : BitVec 5) (a : BitVec 5) (b : BitVec 5) (c : BitVec 5) (x : Bool) (y : Bool) (w : Bool) (m : BitVec 2) : Statement (.vfmaNmadd d a b c x y w m) := by
  intro _ _ _
  have hL : FieldsFit [(1, 1), (2, m.toNat), (1, w.toNat), (1, y.toNat), (1, x.toNat), (5, c.toNat), (5, b.toNat), (5, a.toNat), (5, d.toNat), (6, 20)] := ⟨by decide, m.isLt, w.toNat_lt, y.toNat_lt, x.toNat_lt, c.isLt, b.isLt, a.isLt, d.isLt, by decide, trivial⟩
  refine decode_of [(1, 1), (2, m.toNat), (1, w.toNat), (1, y.toNat), (1, x.toNat), (5, c.toNat), (5, b.toNat), (5, a.toNat), (5, d.toNat), (6, 20)] hL rfl (by change 1342177281 + d.toNat * 2097152 + a.toNat * 65536 + b.toNat * 2048 + c.toNat * 64 + x.toNat * 32 + y.toNat * 16 + w.toNat * 8 + m.toNat * 2 = _; simp only [ofDigits]; omega) fun num hn => ?_
  refine (decodeNat_vfma (fld_at hn hL 9 (lo := 26) (w := 6) rfl rfl)).trans ?_
  unfold decodeVfma
  rw [fld_at hn hL 0 (lo := 0) (w := 1) rfl rfl]
  exact congr (congr (congr (congr (congr (congr (congr (congrArg Instr.vfmaNmadd (bits_of (v := d) (fld_at hn hL 8 (lo := 21) (w := 5) rfl rfl))) (bits_of (v := a) (fld_at hn hL 7 (lo := 16) (w := 5) rfl rfl))) (bits_of (v := b) (fld_at hn hL 6 (lo := 11) (w := 5) rfl rfl))) (bits_of (v := c) (fld_at hn hL 5 (lo := 6) (w := 5) rfl rfl))) (flag_of (v := x) (fld_at hn hL 4 (lo := 5) (w := 1) rfl rfl))) (flag_of (v := y) (fld_at hn hL 3 (lo := 4) (w := 1) rfl rfl))) (flag_of (v := w) (fld_at hn hL 2 (lo := 3) (w := 1) rfl rfl))) (bits_of (v := m) (fld_at hn hL 1 (lo := 1) (w := 2) rfl rfl))

/-- `vfms.msub`. -/
theorem vfmsMsub (d : BitVec 5) (a : BitVec 5) (b : BitVec 5) (c : BitVec 5) (x : Bool) (y : Bool) (w : Bool) (m : BitVec 2) : Statement (.vfmsMsub d a b c x y w m) := by
  intro _ _ _
  have hL : FieldsFit [(1, 0), (2, m.toNat), (1, w.toNat), (1, y.toNat), (1, x.toNat), (5, c.toNat), (5, b.toNat), (5, a.toNat), (5, d.toNat), (6, 21)] := ⟨by decide, m.isLt, w.toNat_lt, y.toNat_lt, x.toNat_lt, c.isLt, b.isLt, a.isLt, d.isLt, by decide, trivial⟩
  refine decode_of [(1, 0), (2, m.toNat), (1, w.toNat), (1, y.toNat), (1, x.toNat), (5, c.toNat), (5, b.toNat), (5, a.toNat), (5, d.toNat), (6, 21)] hL rfl (by change 1409286144 + d.toNat * 2097152 + a.toNat * 65536 + b.toNat * 2048 + c.toNat * 64 + x.toNat * 32 + y.toNat * 16 + w.toNat * 8 + m.toNat * 2 = _; simp only [ofDigits]; omega) fun num hn => ?_
  refine (decodeNat_vfms (fld_at hn hL 9 (lo := 26) (w := 6) rfl rfl)).trans ?_
  unfold decodeVfms
  rw [fld_at hn hL 0 (lo := 0) (w := 1) rfl rfl]
  exact congr (congr (congr (congr (congr (congr (congr (congrArg Instr.vfmsMsub (bits_of (v := d) (fld_at hn hL 8 (lo := 21) (w := 5) rfl rfl))) (bits_of (v := a) (fld_at hn hL 7 (lo := 16) (w := 5) rfl rfl))) (bits_of (v := b) (fld_at hn hL 6 (lo := 11) (w := 5) rfl rfl))) (bits_of (v := c) (fld_at hn hL 5 (lo := 6) (w := 5) rfl rfl))) (flag_of (v := x) (fld_at hn hL 4 (lo := 5) (w := 1) rfl rfl))) (flag_of (v := y) (fld_at hn hL 3 (lo := 4) (w := 1) rfl rfl))) (flag_of (v := w) (fld_at hn hL 2 (lo := 3) (w := 1) rfl rfl))) (bits_of (v := m) (fld_at hn hL 1 (lo := 1) (w := 2) rfl rfl))

/-- `vfms.nmsub`. -/
theorem vfmsNmsub (d : BitVec 5) (a : BitVec 5) (b : BitVec 5) (c : BitVec 5) (x : Bool) (y : Bool) (w : Bool) (m : BitVec 2) : Statement (.vfmsNmsub d a b c x y w m) := by
  intro _ _ _
  have hL : FieldsFit [(1, 1), (2, m.toNat), (1, w.toNat), (1, y.toNat), (1, x.toNat), (5, c.toNat), (5, b.toNat), (5, a.toNat), (5, d.toNat), (6, 21)] := ⟨by decide, m.isLt, w.toNat_lt, y.toNat_lt, x.toNat_lt, c.isLt, b.isLt, a.isLt, d.isLt, by decide, trivial⟩
  refine decode_of [(1, 1), (2, m.toNat), (1, w.toNat), (1, y.toNat), (1, x.toNat), (5, c.toNat), (5, b.toNat), (5, a.toNat), (5, d.toNat), (6, 21)] hL rfl (by change 1409286145 + d.toNat * 2097152 + a.toNat * 65536 + b.toNat * 2048 + c.toNat * 64 + x.toNat * 32 + y.toNat * 16 + w.toNat * 8 + m.toNat * 2 = _; simp only [ofDigits]; omega) fun num hn => ?_
  refine (decodeNat_vfms (fld_at hn hL 9 (lo := 26) (w := 6) rfl rfl)).trans ?_
  unfold decodeVfms
  rw [fld_at hn hL 0 (lo := 0) (w := 1) rfl rfl]
  exact congr (congr (congr (congr (congr (congr (congr (congrArg Instr.vfmsNmsub (bits_of (v := d) (fld_at hn hL 8 (lo := 21) (w := 5) rfl rfl))) (bits_of (v := a) (fld_at hn hL 7 (lo := 16) (w := 5) rfl rfl))) (bits_of (v := b) (fld_at hn hL 6 (lo := 11) (w := 5) rfl rfl))) (bits_of (v := c) (fld_at hn hL 5 (lo := 6) (w := 5) rfl rfl))) (flag_of (v := x) (fld_at hn hL 4 (lo := 5) (w := 1) rfl rfl))) (flag_of (v := y) (fld_at hn hL 3 (lo := 4) (w := 1) rfl rfl))) (flag_of (v := w) (fld_at hn hL 2 (lo := 3) (w := 1) rfl rfl))) (bits_of (v := m) (fld_at hn hL 1 (lo := 1) (w := 2) rfl rfl))

/-- `vimac.macc`. -/
theorem vimacMacc (d : BitVec 5) (a : BitVec 5) (b : BitVec 5) (c : BitVec 5) (x : Bool) (y : Bool) (w : Bool) (m : BitVec 2) : Statement (.vimacMacc d a b c x y w m) := by
  intro _ _ _
  have hL : FieldsFit [(1, 0), (2, m.toNat), (1, w.toNat), (1, y.toNat), (1, x.toNat), (5, c.toNat), (5, b.toNat), (5, a.toNat), (5, d.toNat), (6, 22)] := ⟨by decide, m.isLt, w.toNat_lt, y.toNat_lt, x.toNat_lt, c.isLt, b.isLt, a.isLt, d.isLt, by decide, trivial⟩
  refine decode_of [(1, 0), (2, m.toNat), (1, w.toNat), (1, y.toNat), (1, x.toNat), (5, c.toNat), (5, b.toNat), (5, a.toNat), (5, d.toNat), (6, 22)] hL rfl (by change 1476395008 + d.toNat * 2097152 + a.toNat * 65536 + b.toNat * 2048 + c.toNat * 64 + x.toNat * 32 + y.toNat * 16 + w.toNat * 8 + m.toNat * 2 = _; simp only [ofDigits]; omega) fun num hn => ?_
  refine (decodeNat_vimac (fld_at hn hL 9 (lo := 26) (w := 6) rfl rfl)).trans ?_
  unfold decodeVimac
  rw [fld_at hn hL 0 (lo := 0) (w := 1) rfl rfl]
  exact congr (congr (congr (congr (congr (congr (congr (congrArg Instr.vimacMacc (bits_of (v := d) (fld_at hn hL 8 (lo := 21) (w := 5) rfl rfl))) (bits_of (v := a) (fld_at hn hL 7 (lo := 16) (w := 5) rfl rfl))) (bits_of (v := b) (fld_at hn hL 6 (lo := 11) (w := 5) rfl rfl))) (bits_of (v := c) (fld_at hn hL 5 (lo := 6) (w := 5) rfl rfl))) (flag_of (v := x) (fld_at hn hL 4 (lo := 5) (w := 1) rfl rfl))) (flag_of (v := y) (fld_at hn hL 3 (lo := 4) (w := 1) rfl rfl))) (flag_of (v := w) (fld_at hn hL 2 (lo := 3) (w := 1) rfl rfl))) (bits_of (v := m) (fld_at hn hL 1 (lo := 1) (w := 2) rfl rfl))

/-- `vimac.nmsac`. -/
theorem vimacNmsac (d : BitVec 5) (a : BitVec 5) (b : BitVec 5) (c : BitVec 5) (x : Bool) (y : Bool) (w : Bool) (m : BitVec 2) : Statement (.vimacNmsac d a b c x y w m) := by
  intro _ _ _
  have hL : FieldsFit [(1, 1), (2, m.toNat), (1, w.toNat), (1, y.toNat), (1, x.toNat), (5, c.toNat), (5, b.toNat), (5, a.toNat), (5, d.toNat), (6, 22)] := ⟨by decide, m.isLt, w.toNat_lt, y.toNat_lt, x.toNat_lt, c.isLt, b.isLt, a.isLt, d.isLt, by decide, trivial⟩
  refine decode_of [(1, 1), (2, m.toNat), (1, w.toNat), (1, y.toNat), (1, x.toNat), (5, c.toNat), (5, b.toNat), (5, a.toNat), (5, d.toNat), (6, 22)] hL rfl (by change 1476395009 + d.toNat * 2097152 + a.toNat * 65536 + b.toNat * 2048 + c.toNat * 64 + x.toNat * 32 + y.toNat * 16 + w.toNat * 8 + m.toNat * 2 = _; simp only [ofDigits]; omega) fun num hn => ?_
  refine (decodeNat_vimac (fld_at hn hL 9 (lo := 26) (w := 6) rfl rfl)).trans ?_
  unfold decodeVimac
  rw [fld_at hn hL 0 (lo := 0) (w := 1) rfl rfl]
  exact congr (congr (congr (congr (congr (congr (congr (congrArg Instr.vimacNmsac (bits_of (v := d) (fld_at hn hL 8 (lo := 21) (w := 5) rfl rfl))) (bits_of (v := a) (fld_at hn hL 7 (lo := 16) (w := 5) rfl rfl))) (bits_of (v := b) (fld_at hn hL 6 (lo := 11) (w := 5) rfl rfl))) (bits_of (v := c) (fld_at hn hL 5 (lo := 6) (w := 5) rfl rfl))) (flag_of (v := x) (fld_at hn hL 4 (lo := 5) (w := 1) rfl rfl))) (flag_of (v := y) (fld_at hn hL 3 (lo := 4) (w := 1) rfl rfl))) (flag_of (v := w) (fld_at hn hL 2 (lo := 3) (w := 1) rfl rfl))) (bits_of (v := m) (fld_at hn hL 1 (lo := 1) (w := 2) rfl rfl))

/-- `vcvt.i2f`. -/
theorem vcvtI2f (d : BitVec 5) (a : BitVec 5) (x : Bool) (m : BitVec 2) : Statement (.vcvtI2f d a x m) := by
  intro _ _ _
  have hL : FieldsFit [(7, 0), (2, m.toNat), (1, 0), (1, x.toNat), (5, 0), (5, a.toNat), (5, d.toNat), (6, 23)] := ⟨by decide, m.isLt, by decide, x.toNat_lt, by decide, a.isLt, d.isLt, by decide, trivial⟩
  refine decode_of [(7, 0), (2, m.toNat), (1, 0), (1, x.toNat), (5, 0), (5, a.toNat), (5, d.toNat), (6, 23)] hL rfl (by change 1543503872 + d.toNat * 2097152 + a.toNat * 65536 + x.toNat * 1024 + m.toNat * 128 = _; simp only [ofDigits]; omega) fun num hn => ?_
  refine (decodeNat_vcvt (fld_at hn hL 7 (lo := 26) (w := 6) rfl rfl)).trans ?_
  unfold decodeVcvt
  rw [fld_at hn hL 0 (lo := 0) (w := 7) rfl rfl]
  refine (if_pos ⟨(fld_at hn hL 2 (lo := 9) (w := 1) rfl rfl), (fld_at hn hL 4 (lo := 11) (w := 5) rfl rfl)⟩).trans ?_
  exact congr (congr (congr (congrArg Instr.vcvtI2f (bits_of (v := d) (fld_at hn hL 6 (lo := 21) (w := 5) rfl rfl))) (bits_of (v := a) (fld_at hn hL 5 (lo := 16) (w := 5) rfl rfl))) (flag_of (v := x) (fld_at hn hL 3 (lo := 10) (w := 1) rfl rfl))) (bits_of (v := m) (fld_at hn hL 1 (lo := 7) (w := 2) rfl rfl))

/-- `vcvt.u2f`. -/
theorem vcvtU2f (d : BitVec 5) (a : BitVec 5) (x : Bool) (m : BitVec 2) : Statement (.vcvtU2f d a x m) := by
  intro _ _ _
  have hL : FieldsFit [(7, 1), (2, m.toNat), (1, 0), (1, x.toNat), (5, 0), (5, a.toNat), (5, d.toNat), (6, 23)] := ⟨by decide, m.isLt, by decide, x.toNat_lt, by decide, a.isLt, d.isLt, by decide, trivial⟩
  refine decode_of [(7, 1), (2, m.toNat), (1, 0), (1, x.toNat), (5, 0), (5, a.toNat), (5, d.toNat), (6, 23)] hL rfl (by change 1543503873 + d.toNat * 2097152 + a.toNat * 65536 + x.toNat * 1024 + m.toNat * 128 = _; simp only [ofDigits]; omega) fun num hn => ?_
  refine (decodeNat_vcvt (fld_at hn hL 7 (lo := 26) (w := 6) rfl rfl)).trans ?_
  unfold decodeVcvt
  rw [fld_at hn hL 0 (lo := 0) (w := 7) rfl rfl]
  refine (if_pos ⟨(fld_at hn hL 2 (lo := 9) (w := 1) rfl rfl), (fld_at hn hL 4 (lo := 11) (w := 5) rfl rfl)⟩).trans ?_
  exact congr (congr (congr (congrArg Instr.vcvtU2f (bits_of (v := d) (fld_at hn hL 6 (lo := 21) (w := 5) rfl rfl))) (bits_of (v := a) (fld_at hn hL 5 (lo := 16) (w := 5) rfl rfl))) (flag_of (v := x) (fld_at hn hL 3 (lo := 10) (w := 1) rfl rfl))) (bits_of (v := m) (fld_at hn hL 1 (lo := 7) (w := 2) rfl rfl))

/-- `vcvt.f2i`. -/
theorem vcvtF2i (d : BitVec 5) (a : BitVec 5) (x : Bool) (m : BitVec 2) : Statement (.vcvtF2i d a x m) := by
  intro _ _ _
  have hL : FieldsFit [(7, 2), (2, m.toNat), (1, 0), (1, x.toNat), (5, 0), (5, a.toNat), (5, d.toNat), (6, 23)] := ⟨by decide, m.isLt, by decide, x.toNat_lt, by decide, a.isLt, d.isLt, by decide, trivial⟩
  refine decode_of [(7, 2), (2, m.toNat), (1, 0), (1, x.toNat), (5, 0), (5, a.toNat), (5, d.toNat), (6, 23)] hL rfl (by change 1543503874 + d.toNat * 2097152 + a.toNat * 65536 + x.toNat * 1024 + m.toNat * 128 = _; simp only [ofDigits]; omega) fun num hn => ?_
  refine (decodeNat_vcvt (fld_at hn hL 7 (lo := 26) (w := 6) rfl rfl)).trans ?_
  unfold decodeVcvt
  rw [fld_at hn hL 0 (lo := 0) (w := 7) rfl rfl]
  refine (if_pos ⟨(fld_at hn hL 2 (lo := 9) (w := 1) rfl rfl), (fld_at hn hL 4 (lo := 11) (w := 5) rfl rfl)⟩).trans ?_
  exact congr (congr (congr (congrArg Instr.vcvtF2i (bits_of (v := d) (fld_at hn hL 6 (lo := 21) (w := 5) rfl rfl))) (bits_of (v := a) (fld_at hn hL 5 (lo := 16) (w := 5) rfl rfl))) (flag_of (v := x) (fld_at hn hL 3 (lo := 10) (w := 1) rfl rfl))) (bits_of (v := m) (fld_at hn hL 1 (lo := 7) (w := 2) rfl rfl))

/-- `vcvt.f2u`. -/
theorem vcvtF2u (d : BitVec 5) (a : BitVec 5) (x : Bool) (m : BitVec 2) : Statement (.vcvtF2u d a x m) := by
  intro _ _ _
  have hL : FieldsFit [(7, 3), (2, m.toNat), (1, 0), (1, x.toNat), (5, 0), (5, a.toNat), (5, d.toNat), (6, 23)] := ⟨by decide, m.isLt, by decide, x.toNat_lt, by decide, a.isLt, d.isLt, by decide, trivial⟩
  refine decode_of [(7, 3), (2, m.toNat), (1, 0), (1, x.toNat), (5, 0), (5, a.toNat), (5, d.toNat), (6, 23)] hL rfl (by change 1543503875 + d.toNat * 2097152 + a.toNat * 65536 + x.toNat * 1024 + m.toNat * 128 = _; simp only [ofDigits]; omega) fun num hn => ?_
  refine (decodeNat_vcvt (fld_at hn hL 7 (lo := 26) (w := 6) rfl rfl)).trans ?_
  unfold decodeVcvt
  rw [fld_at hn hL 0 (lo := 0) (w := 7) rfl rfl]
  refine (if_pos ⟨(fld_at hn hL 2 (lo := 9) (w := 1) rfl rfl), (fld_at hn hL 4 (lo := 11) (w := 5) rfl rfl)⟩).trans ?_
  exact congr (congr (congr (congrArg Instr.vcvtF2u (bits_of (v := d) (fld_at hn hL 6 (lo := 21) (w := 5) rfl rfl))) (bits_of (v := a) (fld_at hn hL 5 (lo := 16) (w := 5) rfl rfl))) (flag_of (v := x) (fld_at hn hL 3 (lo := 10) (w := 1) rfl rfl))) (bits_of (v := m) (fld_at hn hL 1 (lo := 7) (w := 2) rfl rfl))

/-- `vcvt.fwid`. -/
theorem vcvtFwid (d : BitVec 5) (a : BitVec 5) (x : Bool) (m : BitVec 2) : Statement (.vcvtFwid d a x m) := by
  intro _ _ _
  have hL : FieldsFit [(7, 4), (2, m.toNat), (1, 0), (1, x.toNat), (5, 0), (5, a.toNat), (5, d.toNat), (6, 23)] := ⟨by decide, m.isLt, by decide, x.toNat_lt, by decide, a.isLt, d.isLt, by decide, trivial⟩
  refine decode_of [(7, 4), (2, m.toNat), (1, 0), (1, x.toNat), (5, 0), (5, a.toNat), (5, d.toNat), (6, 23)] hL rfl (by change 1543503876 + d.toNat * 2097152 + a.toNat * 65536 + x.toNat * 1024 + m.toNat * 128 = _; simp only [ofDigits]; omega) fun num hn => ?_
  refine (decodeNat_vcvt (fld_at hn hL 7 (lo := 26) (w := 6) rfl rfl)).trans ?_
  unfold decodeVcvt
  rw [fld_at hn hL 0 (lo := 0) (w := 7) rfl rfl]
  refine (if_pos ⟨(fld_at hn hL 2 (lo := 9) (w := 1) rfl rfl), (fld_at hn hL 4 (lo := 11) (w := 5) rfl rfl)⟩).trans ?_
  exact congr (congr (congr (congrArg Instr.vcvtFwid (bits_of (v := d) (fld_at hn hL 6 (lo := 21) (w := 5) rfl rfl))) (bits_of (v := a) (fld_at hn hL 5 (lo := 16) (w := 5) rfl rfl))) (flag_of (v := x) (fld_at hn hL 3 (lo := 10) (w := 1) rfl rfl))) (bits_of (v := m) (fld_at hn hL 1 (lo := 7) (w := 2) rfl rfl))

/-- `vcvt.fnar`. -/
theorem vcvtFnar (d : BitVec 5) (a : BitVec 5) (x : Bool) (m : BitVec 2) : Statement (.vcvtFnar d a x m) := by
  intro _ _ _
  have hL : FieldsFit [(7, 5), (2, m.toNat), (1, 0), (1, x.toNat), (5, 0), (5, a.toNat), (5, d.toNat), (6, 23)] := ⟨by decide, m.isLt, by decide, x.toNat_lt, by decide, a.isLt, d.isLt, by decide, trivial⟩
  refine decode_of [(7, 5), (2, m.toNat), (1, 0), (1, x.toNat), (5, 0), (5, a.toNat), (5, d.toNat), (6, 23)] hL rfl (by change 1543503877 + d.toNat * 2097152 + a.toNat * 65536 + x.toNat * 1024 + m.toNat * 128 = _; simp only [ofDigits]; omega) fun num hn => ?_
  refine (decodeNat_vcvt (fld_at hn hL 7 (lo := 26) (w := 6) rfl rfl)).trans ?_
  unfold decodeVcvt
  rw [fld_at hn hL 0 (lo := 0) (w := 7) rfl rfl]
  refine (if_pos ⟨(fld_at hn hL 2 (lo := 9) (w := 1) rfl rfl), (fld_at hn hL 4 (lo := 11) (w := 5) rfl rfl)⟩).trans ?_
  exact congr (congr (congr (congrArg Instr.vcvtFnar (bits_of (v := d) (fld_at hn hL 6 (lo := 21) (w := 5) rfl rfl))) (bits_of (v := a) (fld_at hn hL 5 (lo := 16) (w := 5) rfl rfl))) (flag_of (v := x) (fld_at hn hL 3 (lo := 10) (w := 1) rfl rfl))) (bits_of (v := m) (fld_at hn hL 1 (lo := 7) (w := 2) rfl rfl))

/-- `vcvt.iwid`. -/
theorem vcvtIwid (d : BitVec 5) (a : BitVec 5) (x : Bool) (m : BitVec 2) : Statement (.vcvtIwid d a x m) := by
  intro _ _ _
  have hL : FieldsFit [(7, 6), (2, m.toNat), (1, 0), (1, x.toNat), (5, 0), (5, a.toNat), (5, d.toNat), (6, 23)] := ⟨by decide, m.isLt, by decide, x.toNat_lt, by decide, a.isLt, d.isLt, by decide, trivial⟩
  refine decode_of [(7, 6), (2, m.toNat), (1, 0), (1, x.toNat), (5, 0), (5, a.toNat), (5, d.toNat), (6, 23)] hL rfl (by change 1543503878 + d.toNat * 2097152 + a.toNat * 65536 + x.toNat * 1024 + m.toNat * 128 = _; simp only [ofDigits]; omega) fun num hn => ?_
  refine (decodeNat_vcvt (fld_at hn hL 7 (lo := 26) (w := 6) rfl rfl)).trans ?_
  unfold decodeVcvt
  rw [fld_at hn hL 0 (lo := 0) (w := 7) rfl rfl]
  refine (if_pos ⟨(fld_at hn hL 2 (lo := 9) (w := 1) rfl rfl), (fld_at hn hL 4 (lo := 11) (w := 5) rfl rfl)⟩).trans ?_
  exact congr (congr (congr (congrArg Instr.vcvtIwid (bits_of (v := d) (fld_at hn hL 6 (lo := 21) (w := 5) rfl rfl))) (bits_of (v := a) (fld_at hn hL 5 (lo := 16) (w := 5) rfl rfl))) (flag_of (v := x) (fld_at hn hL 3 (lo := 10) (w := 1) rfl rfl))) (bits_of (v := m) (fld_at hn hL 1 (lo := 7) (w := 2) rfl rfl))

/-- `vcvt.uwid`. -/
theorem vcvtUwid (d : BitVec 5) (a : BitVec 5) (x : Bool) (m : BitVec 2) : Statement (.vcvtUwid d a x m) := by
  intro _ _ _
  have hL : FieldsFit [(7, 7), (2, m.toNat), (1, 0), (1, x.toNat), (5, 0), (5, a.toNat), (5, d.toNat), (6, 23)] := ⟨by decide, m.isLt, by decide, x.toNat_lt, by decide, a.isLt, d.isLt, by decide, trivial⟩
  refine decode_of [(7, 7), (2, m.toNat), (1, 0), (1, x.toNat), (5, 0), (5, a.toNat), (5, d.toNat), (6, 23)] hL rfl (by change 1543503879 + d.toNat * 2097152 + a.toNat * 65536 + x.toNat * 1024 + m.toNat * 128 = _; simp only [ofDigits]; omega) fun num hn => ?_
  refine (decodeNat_vcvt (fld_at hn hL 7 (lo := 26) (w := 6) rfl rfl)).trans ?_
  unfold decodeVcvt
  rw [fld_at hn hL 0 (lo := 0) (w := 7) rfl rfl]
  refine (if_pos ⟨(fld_at hn hL 2 (lo := 9) (w := 1) rfl rfl), (fld_at hn hL 4 (lo := 11) (w := 5) rfl rfl)⟩).trans ?_
  exact congr (congr (congr (congrArg Instr.vcvtUwid (bits_of (v := d) (fld_at hn hL 6 (lo := 21) (w := 5) rfl rfl))) (bits_of (v := a) (fld_at hn hL 5 (lo := 16) (w := 5) rfl rfl))) (flag_of (v := x) (fld_at hn hL 3 (lo := 10) (w := 1) rfl rfl))) (bits_of (v := m) (fld_at hn hL 1 (lo := 7) (w := 2) rfl rfl))

/-- `vcvt.inar`. -/
theorem vcvtInar (d : BitVec 5) (a : BitVec 5) (x : Bool) (m : BitVec 2) : Statement (.vcvtInar d a x m) := by
  intro _ _ _
  have hL : FieldsFit [(7, 8), (2, m.toNat), (1, 0), (1, x.toNat), (5, 0), (5, a.toNat), (5, d.toNat), (6, 23)] := ⟨by decide, m.isLt, by decide, x.toNat_lt, by decide, a.isLt, d.isLt, by decide, trivial⟩
  refine decode_of [(7, 8), (2, m.toNat), (1, 0), (1, x.toNat), (5, 0), (5, a.toNat), (5, d.toNat), (6, 23)] hL rfl (by change 1543503880 + d.toNat * 2097152 + a.toNat * 65536 + x.toNat * 1024 + m.toNat * 128 = _; simp only [ofDigits]; omega) fun num hn => ?_
  refine (decodeNat_vcvt (fld_at hn hL 7 (lo := 26) (w := 6) rfl rfl)).trans ?_
  unfold decodeVcvt
  rw [fld_at hn hL 0 (lo := 0) (w := 7) rfl rfl]
  refine (if_pos ⟨(fld_at hn hL 2 (lo := 9) (w := 1) rfl rfl), (fld_at hn hL 4 (lo := 11) (w := 5) rfl rfl)⟩).trans ?_
  exact congr (congr (congr (congrArg Instr.vcvtInar (bits_of (v := d) (fld_at hn hL 6 (lo := 21) (w := 5) rfl rfl))) (bits_of (v := a) (fld_at hn hL 5 (lo := 16) (w := 5) rfl rfl))) (flag_of (v := x) (fld_at hn hL 3 (lo := 10) (w := 1) rfl rfl))) (bits_of (v := m) (fld_at hn hL 1 (lo := 7) (w := 2) rfl rfl))

/-- `vcvt.bscale`. -/
theorem vcvtBscale (d : BitVec 5) (a : BitVec 5) (b : BitVec 5) (x : Bool) (y : Bool) (m : BitVec 2) : Statement (.vcvtBscale d a b x y m) := by
  intro _ _ _
  have hL : FieldsFit [(7, 9), (2, m.toNat), (1, y.toNat), (1, x.toNat), (5, b.toNat), (5, a.toNat), (5, d.toNat), (6, 23)] := ⟨by decide, m.isLt, y.toNat_lt, x.toNat_lt, b.isLt, a.isLt, d.isLt, by decide, trivial⟩
  refine decode_of [(7, 9), (2, m.toNat), (1, y.toNat), (1, x.toNat), (5, b.toNat), (5, a.toNat), (5, d.toNat), (6, 23)] hL rfl (by change 1543503881 + d.toNat * 2097152 + a.toNat * 65536 + b.toNat * 2048 + x.toNat * 1024 + y.toNat * 512 + m.toNat * 128 = _; simp only [ofDigits]; omega) fun num hn => ?_
  refine (decodeNat_vcvt (fld_at hn hL 7 (lo := 26) (w := 6) rfl rfl)).trans ?_
  unfold decodeVcvt
  rw [fld_at hn hL 0 (lo := 0) (w := 7) rfl rfl]
  exact congr (congr (congr (congr (congr (congrArg Instr.vcvtBscale (bits_of (v := d) (fld_at hn hL 6 (lo := 21) (w := 5) rfl rfl))) (bits_of (v := a) (fld_at hn hL 5 (lo := 16) (w := 5) rfl rfl))) (bits_of (v := b) (fld_at hn hL 4 (lo := 11) (w := 5) rfl rfl))) (flag_of (v := x) (fld_at hn hL 3 (lo := 10) (w := 1) rfl rfl))) (flag_of (v := y) (fld_at hn hL 2 (lo := 9) (w := 1) rfl rfl))) (bits_of (v := m) (fld_at hn hL 1 (lo := 7) (w := 2) rfl rfl))

/-- `vcvt.quant`. -/
theorem vcvtQuant (d : BitVec 5) (a : BitVec 5) (b : BitVec 5) (x : Bool) (y : Bool) (m : BitVec 2) : Statement (.vcvtQuant d a b x y m) := by
  intro _ _ _
  have hL : FieldsFit [(7, 10), (2, m.toNat), (1, y.toNat), (1, x.toNat), (5, b.toNat), (5, a.toNat), (5, d.toNat), (6, 23)] := ⟨by decide, m.isLt, y.toNat_lt, x.toNat_lt, b.isLt, a.isLt, d.isLt, by decide, trivial⟩
  refine decode_of [(7, 10), (2, m.toNat), (1, y.toNat), (1, x.toNat), (5, b.toNat), (5, a.toNat), (5, d.toNat), (6, 23)] hL rfl (by change 1543503882 + d.toNat * 2097152 + a.toNat * 65536 + b.toNat * 2048 + x.toNat * 1024 + y.toNat * 512 + m.toNat * 128 = _; simp only [ofDigits]; omega) fun num hn => ?_
  refine (decodeNat_vcvt (fld_at hn hL 7 (lo := 26) (w := 6) rfl rfl)).trans ?_
  unfold decodeVcvt
  rw [fld_at hn hL 0 (lo := 0) (w := 7) rfl rfl]
  exact congr (congr (congr (congr (congr (congrArg Instr.vcvtQuant (bits_of (v := d) (fld_at hn hL 6 (lo := 21) (w := 5) rfl rfl))) (bits_of (v := a) (fld_at hn hL 5 (lo := 16) (w := 5) rfl rfl))) (bits_of (v := b) (fld_at hn hL 4 (lo := 11) (w := 5) rfl rfl))) (flag_of (v := x) (fld_at hn hL 3 (lo := 10) (w := 1) rfl rfl))) (flag_of (v := y) (fld_at hn hL 2 (lo := 9) (w := 1) rfl rfl))) (bits_of (v := m) (fld_at hn hL 1 (lo := 7) (w := 2) rfl rfl))

/-- `vcvt.dequant`. -/
theorem vcvtDequant (d : BitVec 5) (a : BitVec 5) (b : BitVec 5) (x : Bool) (y : Bool) (m : BitVec 2) : Statement (.vcvtDequant d a b x y m) := by
  intro _ _ _
  have hL : FieldsFit [(7, 11), (2, m.toNat), (1, y.toNat), (1, x.toNat), (5, b.toNat), (5, a.toNat), (5, d.toNat), (6, 23)] := ⟨by decide, m.isLt, y.toNat_lt, x.toNat_lt, b.isLt, a.isLt, d.isLt, by decide, trivial⟩
  refine decode_of [(7, 11), (2, m.toNat), (1, y.toNat), (1, x.toNat), (5, b.toNat), (5, a.toNat), (5, d.toNat), (6, 23)] hL rfl (by change 1543503883 + d.toNat * 2097152 + a.toNat * 65536 + b.toNat * 2048 + x.toNat * 1024 + y.toNat * 512 + m.toNat * 128 = _; simp only [ofDigits]; omega) fun num hn => ?_
  refine (decodeNat_vcvt (fld_at hn hL 7 (lo := 26) (w := 6) rfl rfl)).trans ?_
  unfold decodeVcvt
  rw [fld_at hn hL 0 (lo := 0) (w := 7) rfl rfl]
  exact congr (congr (congr (congr (congr (congrArg Instr.vcvtDequant (bits_of (v := d) (fld_at hn hL 6 (lo := 21) (w := 5) rfl rfl))) (bits_of (v := a) (fld_at hn hL 5 (lo := 16) (w := 5) rfl rfl))) (bits_of (v := b) (fld_at hn hL 4 (lo := 11) (w := 5) rfl rfl))) (flag_of (v := x) (fld_at hn hL 3 (lo := 10) (w := 1) rfl rfl))) (flag_of (v := y) (fld_at hn hL 2 (lo := 9) (w := 1) rfl rfl))) (bits_of (v := m) (fld_at hn hL 1 (lo := 7) (w := 2) rfl rfl))

/-- `vcvt.frnd`. -/
theorem vcvtFrnd (d : BitVec 5) (a : BitVec 5) (x : Bool) (m : BitVec 2) : Statement (.vcvtFrnd d a x m) := by
  intro _ _ _
  have hL : FieldsFit [(7, 12), (2, m.toNat), (1, 0), (1, x.toNat), (5, 0), (5, a.toNat), (5, d.toNat), (6, 23)] := ⟨by decide, m.isLt, by decide, x.toNat_lt, by decide, a.isLt, d.isLt, by decide, trivial⟩
  refine decode_of [(7, 12), (2, m.toNat), (1, 0), (1, x.toNat), (5, 0), (5, a.toNat), (5, d.toNat), (6, 23)] hL rfl (by change 1543503884 + d.toNat * 2097152 + a.toNat * 65536 + x.toNat * 1024 + m.toNat * 128 = _; simp only [ofDigits]; omega) fun num hn => ?_
  refine (decodeNat_vcvt (fld_at hn hL 7 (lo := 26) (w := 6) rfl rfl)).trans ?_
  unfold decodeVcvt
  rw [fld_at hn hL 0 (lo := 0) (w := 7) rfl rfl]
  refine (if_pos ⟨(fld_at hn hL 2 (lo := 9) (w := 1) rfl rfl), (fld_at hn hL 4 (lo := 11) (w := 5) rfl rfl)⟩).trans ?_
  exact congr (congr (congr (congrArg Instr.vcvtFrnd (bits_of (v := d) (fld_at hn hL 6 (lo := 21) (w := 5) rfl rfl))) (bits_of (v := a) (fld_at hn hL 5 (lo := 16) (w := 5) rfl rfl))) (flag_of (v := x) (fld_at hn hL 3 (lo := 10) (w := 1) rfl rfl))) (bits_of (v := m) (fld_at hn hL 1 (lo := 7) (w := 2) rfl rfl))

/-- `vcvt.pack`. -/
theorem vcvtPack (d : BitVec 5) (a : BitVec 5) (x : Bool) (m : BitVec 2) : Statement (.vcvtPack d a x m) := by
  intro _ _ _
  have hL : FieldsFit [(7, 13), (2, m.toNat), (1, 0), (1, x.toNat), (5, 0), (5, a.toNat), (5, d.toNat), (6, 23)] := ⟨by decide, m.isLt, by decide, x.toNat_lt, by decide, a.isLt, d.isLt, by decide, trivial⟩
  refine decode_of [(7, 13), (2, m.toNat), (1, 0), (1, x.toNat), (5, 0), (5, a.toNat), (5, d.toNat), (6, 23)] hL rfl (by change 1543503885 + d.toNat * 2097152 + a.toNat * 65536 + x.toNat * 1024 + m.toNat * 128 = _; simp only [ofDigits]; omega) fun num hn => ?_
  refine (decodeNat_vcvt (fld_at hn hL 7 (lo := 26) (w := 6) rfl rfl)).trans ?_
  unfold decodeVcvt
  rw [fld_at hn hL 0 (lo := 0) (w := 7) rfl rfl]
  refine (if_pos ⟨(fld_at hn hL 2 (lo := 9) (w := 1) rfl rfl), (fld_at hn hL 4 (lo := 11) (w := 5) rfl rfl)⟩).trans ?_
  exact congr (congr (congr (congrArg Instr.vcvtPack (bits_of (v := d) (fld_at hn hL 6 (lo := 21) (w := 5) rfl rfl))) (bits_of (v := a) (fld_at hn hL 5 (lo := 16) (w := 5) rfl rfl))) (flag_of (v := x) (fld_at hn hL 3 (lo := 10) (w := 1) rfl rfl))) (bits_of (v := m) (fld_at hn hL 1 (lo := 7) (w := 2) rfl rfl))

/-- `vcvt.unpack`. -/
theorem vcvtUnpack (d : BitVec 5) (a : BitVec 5) (x : Bool) (m : BitVec 2) : Statement (.vcvtUnpack d a x m) := by
  intro _ _ _
  have hL : FieldsFit [(7, 14), (2, m.toNat), (1, 0), (1, x.toNat), (5, 0), (5, a.toNat), (5, d.toNat), (6, 23)] := ⟨by decide, m.isLt, by decide, x.toNat_lt, by decide, a.isLt, d.isLt, by decide, trivial⟩
  refine decode_of [(7, 14), (2, m.toNat), (1, 0), (1, x.toNat), (5, 0), (5, a.toNat), (5, d.toNat), (6, 23)] hL rfl (by change 1543503886 + d.toNat * 2097152 + a.toNat * 65536 + x.toNat * 1024 + m.toNat * 128 = _; simp only [ofDigits]; omega) fun num hn => ?_
  refine (decodeNat_vcvt (fld_at hn hL 7 (lo := 26) (w := 6) rfl rfl)).trans ?_
  unfold decodeVcvt
  rw [fld_at hn hL 0 (lo := 0) (w := 7) rfl rfl]
  refine (if_pos ⟨(fld_at hn hL 2 (lo := 9) (w := 1) rfl rfl), (fld_at hn hL 4 (lo := 11) (w := 5) rfl rfl)⟩).trans ?_
  exact congr (congr (congr (congrArg Instr.vcvtUnpack (bits_of (v := d) (fld_at hn hL 6 (lo := 21) (w := 5) rfl rfl))) (bits_of (v := a) (fld_at hn hL 5 (lo := 16) (w := 5) rfl rfl))) (flag_of (v := x) (fld_at hn hL 3 (lo := 10) (w := 1) rfl rfl))) (bits_of (v := m) (fld_at hn hL 1 (lo := 7) (w := 2) rfl rfl))

/-- `vpred.and`. -/
theorem vpredAnd (d : BitVec 4) (a : BitVec 4) (b : BitVec 4) (m : BitVec 2) : Statement (.vpredAnd d a b m) := by
  intro _ _ _
  have hL : FieldsFit [(7, 0), (2, m.toNat), (2, 0), (4, b.toNat), (1, 0), (4, a.toNat), (1, 0), (4, d.toNat), (1, 0), (6, 24)] := ⟨by decide, m.isLt, by decide, b.isLt, by decide, a.isLt, by decide, d.isLt, by decide, by decide, trivial⟩
  refine decode_of [(7, 0), (2, m.toNat), (2, 0), (4, b.toNat), (1, 0), (4, a.toNat), (1, 0), (4, d.toNat), (1, 0), (6, 24)] hL rfl (by change 1610612736 + d.toNat * 2097152 + a.toNat * 65536 + b.toNat * 2048 + m.toNat * 128 = _; simp only [ofDigits]; omega) fun num hn => ?_
  refine (decodeNat_vpred (fld_at hn hL 9 (lo := 26) (w := 6) rfl rfl)).trans ?_
  unfold decodeVpred
  rw [fld_at hn hL 0 (lo := 0) (w := 7) rfl rfl]
  refine (if_pos ⟨(fld_at hn hL 2 (lo := 9) (w := 2) rfl rfl), (fld_at hn hL 4 (lo := 15) (w := 1) rfl rfl), (fld_at hn hL 6 (lo := 20) (w := 1) rfl rfl), (fld_at hn hL 8 (lo := 25) (w := 1) rfl rfl)⟩).trans ?_
  exact congr (congr (congr (congrArg Instr.vpredAnd (bits_of (v := d) (fld_at hn hL 7 (lo := 21) (w := 4) rfl rfl))) (bits_of (v := a) (fld_at hn hL 5 (lo := 16) (w := 4) rfl rfl))) (bits_of (v := b) (fld_at hn hL 3 (lo := 11) (w := 4) rfl rfl))) (bits_of (v := m) (fld_at hn hL 1 (lo := 7) (w := 2) rfl rfl))

/-- `vpred.or`. -/
theorem vpredOr (d : BitVec 4) (a : BitVec 4) (b : BitVec 4) (m : BitVec 2) : Statement (.vpredOr d a b m) := by
  intro _ _ _
  have hL : FieldsFit [(7, 1), (2, m.toNat), (2, 0), (4, b.toNat), (1, 0), (4, a.toNat), (1, 0), (4, d.toNat), (1, 0), (6, 24)] := ⟨by decide, m.isLt, by decide, b.isLt, by decide, a.isLt, by decide, d.isLt, by decide, by decide, trivial⟩
  refine decode_of [(7, 1), (2, m.toNat), (2, 0), (4, b.toNat), (1, 0), (4, a.toNat), (1, 0), (4, d.toNat), (1, 0), (6, 24)] hL rfl (by change 1610612737 + d.toNat * 2097152 + a.toNat * 65536 + b.toNat * 2048 + m.toNat * 128 = _; simp only [ofDigits]; omega) fun num hn => ?_
  refine (decodeNat_vpred (fld_at hn hL 9 (lo := 26) (w := 6) rfl rfl)).trans ?_
  unfold decodeVpred
  rw [fld_at hn hL 0 (lo := 0) (w := 7) rfl rfl]
  refine (if_pos ⟨(fld_at hn hL 2 (lo := 9) (w := 2) rfl rfl), (fld_at hn hL 4 (lo := 15) (w := 1) rfl rfl), (fld_at hn hL 6 (lo := 20) (w := 1) rfl rfl), (fld_at hn hL 8 (lo := 25) (w := 1) rfl rfl)⟩).trans ?_
  exact congr (congr (congr (congrArg Instr.vpredOr (bits_of (v := d) (fld_at hn hL 7 (lo := 21) (w := 4) rfl rfl))) (bits_of (v := a) (fld_at hn hL 5 (lo := 16) (w := 4) rfl rfl))) (bits_of (v := b) (fld_at hn hL 3 (lo := 11) (w := 4) rfl rfl))) (bits_of (v := m) (fld_at hn hL 1 (lo := 7) (w := 2) rfl rfl))

/-- `vpred.xor`. -/
theorem vpredXor (d : BitVec 4) (a : BitVec 4) (b : BitVec 4) (m : BitVec 2) : Statement (.vpredXor d a b m) := by
  intro _ _ _
  have hL : FieldsFit [(7, 2), (2, m.toNat), (2, 0), (4, b.toNat), (1, 0), (4, a.toNat), (1, 0), (4, d.toNat), (1, 0), (6, 24)] := ⟨by decide, m.isLt, by decide, b.isLt, by decide, a.isLt, by decide, d.isLt, by decide, by decide, trivial⟩
  refine decode_of [(7, 2), (2, m.toNat), (2, 0), (4, b.toNat), (1, 0), (4, a.toNat), (1, 0), (4, d.toNat), (1, 0), (6, 24)] hL rfl (by change 1610612738 + d.toNat * 2097152 + a.toNat * 65536 + b.toNat * 2048 + m.toNat * 128 = _; simp only [ofDigits]; omega) fun num hn => ?_
  refine (decodeNat_vpred (fld_at hn hL 9 (lo := 26) (w := 6) rfl rfl)).trans ?_
  unfold decodeVpred
  rw [fld_at hn hL 0 (lo := 0) (w := 7) rfl rfl]
  refine (if_pos ⟨(fld_at hn hL 2 (lo := 9) (w := 2) rfl rfl), (fld_at hn hL 4 (lo := 15) (w := 1) rfl rfl), (fld_at hn hL 6 (lo := 20) (w := 1) rfl rfl), (fld_at hn hL 8 (lo := 25) (w := 1) rfl rfl)⟩).trans ?_
  exact congr (congr (congr (congrArg Instr.vpredXor (bits_of (v := d) (fld_at hn hL 7 (lo := 21) (w := 4) rfl rfl))) (bits_of (v := a) (fld_at hn hL 5 (lo := 16) (w := 4) rfl rfl))) (bits_of (v := b) (fld_at hn hL 3 (lo := 11) (w := 4) rfl rfl))) (bits_of (v := m) (fld_at hn hL 1 (lo := 7) (w := 2) rfl rfl))

/-- `vpred.andn`. -/
theorem vpredAndn (d : BitVec 4) (a : BitVec 4) (b : BitVec 4) (m : BitVec 2) : Statement (.vpredAndn d a b m) := by
  intro _ _ _
  have hL : FieldsFit [(7, 3), (2, m.toNat), (2, 0), (4, b.toNat), (1, 0), (4, a.toNat), (1, 0), (4, d.toNat), (1, 0), (6, 24)] := ⟨by decide, m.isLt, by decide, b.isLt, by decide, a.isLt, by decide, d.isLt, by decide, by decide, trivial⟩
  refine decode_of [(7, 3), (2, m.toNat), (2, 0), (4, b.toNat), (1, 0), (4, a.toNat), (1, 0), (4, d.toNat), (1, 0), (6, 24)] hL rfl (by change 1610612739 + d.toNat * 2097152 + a.toNat * 65536 + b.toNat * 2048 + m.toNat * 128 = _; simp only [ofDigits]; omega) fun num hn => ?_
  refine (decodeNat_vpred (fld_at hn hL 9 (lo := 26) (w := 6) rfl rfl)).trans ?_
  unfold decodeVpred
  rw [fld_at hn hL 0 (lo := 0) (w := 7) rfl rfl]
  refine (if_pos ⟨(fld_at hn hL 2 (lo := 9) (w := 2) rfl rfl), (fld_at hn hL 4 (lo := 15) (w := 1) rfl rfl), (fld_at hn hL 6 (lo := 20) (w := 1) rfl rfl), (fld_at hn hL 8 (lo := 25) (w := 1) rfl rfl)⟩).trans ?_
  exact congr (congr (congr (congrArg Instr.vpredAndn (bits_of (v := d) (fld_at hn hL 7 (lo := 21) (w := 4) rfl rfl))) (bits_of (v := a) (fld_at hn hL 5 (lo := 16) (w := 4) rfl rfl))) (bits_of (v := b) (fld_at hn hL 3 (lo := 11) (w := 4) rfl rfl))) (bits_of (v := m) (fld_at hn hL 1 (lo := 7) (w := 2) rfl rfl))

/-- `vpred.not`. -/
theorem vpredNot (d : BitVec 4) (a : BitVec 4) (m : BitVec 2) : Statement (.vpredNot d a m) := by
  intro _ _ _
  have hL : FieldsFit [(7, 4), (2, m.toNat), (7, 0), (4, a.toNat), (1, 0), (4, d.toNat), (1, 0), (6, 24)] := ⟨by decide, m.isLt, by decide, a.isLt, by decide, d.isLt, by decide, by decide, trivial⟩
  refine decode_of [(7, 4), (2, m.toNat), (7, 0), (4, a.toNat), (1, 0), (4, d.toNat), (1, 0), (6, 24)] hL rfl (by change 1610612740 + d.toNat * 2097152 + a.toNat * 65536 + m.toNat * 128 = _; simp only [ofDigits]; omega) fun num hn => ?_
  refine (decodeNat_vpred (fld_at hn hL 7 (lo := 26) (w := 6) rfl rfl)).trans ?_
  unfold decodeVpred
  rw [fld_at hn hL 0 (lo := 0) (w := 7) rfl rfl]
  refine (if_pos ⟨(fld_at hn hL 2 (lo := 9) (w := 7) rfl rfl), (fld_at hn hL 4 (lo := 20) (w := 1) rfl rfl), (fld_at hn hL 6 (lo := 25) (w := 1) rfl rfl)⟩).trans ?_
  exact congr (congr (congrArg Instr.vpredNot (bits_of (v := d) (fld_at hn hL 5 (lo := 21) (w := 4) rfl rfl))) (bits_of (v := a) (fld_at hn hL 3 (lo := 16) (w := 4) rfl rfl))) (bits_of (v := m) (fld_at hn hL 1 (lo := 7) (w := 2) rfl rfl))

/-- `vpred.set`. -/
theorem vpredSet (d : BitVec 4) (m : BitVec 2) : Statement (.vpredSet d m) := by
  intro _ _ _
  have hL : FieldsFit [(7, 5), (2, m.toNat), (12, 0), (4, d.toNat), (1, 0), (6, 24)] := ⟨by decide, m.isLt, by decide, d.isLt, by decide, by decide, trivial⟩
  refine decode_of [(7, 5), (2, m.toNat), (12, 0), (4, d.toNat), (1, 0), (6, 24)] hL rfl (by change 1610612741 + d.toNat * 2097152 + m.toNat * 128 = _; simp only [ofDigits]; omega) fun num hn => ?_
  refine (decodeNat_vpred (fld_at hn hL 5 (lo := 26) (w := 6) rfl rfl)).trans ?_
  unfold decodeVpred
  rw [fld_at hn hL 0 (lo := 0) (w := 7) rfl rfl]
  refine (if_pos ⟨(fld_at hn hL 2 (lo := 9) (w := 12) rfl rfl), (fld_at hn hL 4 (lo := 25) (w := 1) rfl rfl)⟩).trans ?_
  exact congr (congrArg Instr.vpredSet (bits_of (v := d) (fld_at hn hL 3 (lo := 21) (w := 4) rfl rfl))) (bits_of (v := m) (fld_at hn hL 1 (lo := 7) (w := 2) rfl rfl))

/-- `vpred.clr`. -/
theorem vpredClr (d : BitVec 4) (m : BitVec 2) : Statement (.vpredClr d m) := by
  intro _ _ _
  have hL : FieldsFit [(7, 6), (2, m.toNat), (12, 0), (4, d.toNat), (1, 0), (6, 24)] := ⟨by decide, m.isLt, by decide, d.isLt, by decide, by decide, trivial⟩
  refine decode_of [(7, 6), (2, m.toNat), (12, 0), (4, d.toNat), (1, 0), (6, 24)] hL rfl (by change 1610612742 + d.toNat * 2097152 + m.toNat * 128 = _; simp only [ofDigits]; omega) fun num hn => ?_
  refine (decodeNat_vpred (fld_at hn hL 5 (lo := 26) (w := 6) rfl rfl)).trans ?_
  unfold decodeVpred
  rw [fld_at hn hL 0 (lo := 0) (w := 7) rfl rfl]
  refine (if_pos ⟨(fld_at hn hL 2 (lo := 9) (w := 12) rfl rfl), (fld_at hn hL 4 (lo := 25) (w := 1) rfl rfl)⟩).trans ?_
  exact congr (congrArg Instr.vpredClr (bits_of (v := d) (fld_at hn hL 3 (lo := 21) (w := 4) rfl rfl))) (bits_of (v := m) (fld_at hn hL 1 (lo := 7) (w := 2) rfl rfl))

/-- `vpred.first`. -/
theorem vpredFirst (d : BitVec 4) (a : BitVec 4) (m : BitVec 2) : Statement (.vpredFirst d a m) := by
  intro _ _ _
  have hL : FieldsFit [(7, 7), (2, m.toNat), (7, 0), (4, a.toNat), (1, 0), (4, d.toNat), (1, 0), (6, 24)] := ⟨by decide, m.isLt, by decide, a.isLt, by decide, d.isLt, by decide, by decide, trivial⟩
  refine decode_of [(7, 7), (2, m.toNat), (7, 0), (4, a.toNat), (1, 0), (4, d.toNat), (1, 0), (6, 24)] hL rfl (by change 1610612743 + d.toNat * 2097152 + a.toNat * 65536 + m.toNat * 128 = _; simp only [ofDigits]; omega) fun num hn => ?_
  refine (decodeNat_vpred (fld_at hn hL 7 (lo := 26) (w := 6) rfl rfl)).trans ?_
  unfold decodeVpred
  rw [fld_at hn hL 0 (lo := 0) (w := 7) rfl rfl]
  refine (if_pos ⟨(fld_at hn hL 2 (lo := 9) (w := 7) rfl rfl), (fld_at hn hL 4 (lo := 20) (w := 1) rfl rfl), (fld_at hn hL 6 (lo := 25) (w := 1) rfl rfl)⟩).trans ?_
  exact congr (congr (congrArg Instr.vpredFirst (bits_of (v := d) (fld_at hn hL 5 (lo := 21) (w := 4) rfl rfl))) (bits_of (v := a) (fld_at hn hL 3 (lo := 16) (w := 4) rfl rfl))) (bits_of (v := m) (fld_at hn hL 1 (lo := 7) (w := 2) rfl rfl))

/-- `vpred.cnt`. -/
theorem vpredCnt (d : BitVec 4) (a : BitVec 4) (m : BitVec 2) : Statement (.vpredCnt d a m) := by
  intro _ _ _
  have hL : FieldsFit [(7, 8), (2, m.toNat), (7, 0), (4, a.toNat), (1, 0), (4, d.toNat), (1, 0), (6, 24)] := ⟨by decide, m.isLt, by decide, a.isLt, by decide, d.isLt, by decide, by decide, trivial⟩
  refine decode_of [(7, 8), (2, m.toNat), (7, 0), (4, a.toNat), (1, 0), (4, d.toNat), (1, 0), (6, 24)] hL rfl (by change 1610612744 + d.toNat * 2097152 + a.toNat * 65536 + m.toNat * 128 = _; simp only [ofDigits]; omega) fun num hn => ?_
  refine (decodeNat_vpred (fld_at hn hL 7 (lo := 26) (w := 6) rfl rfl)).trans ?_
  unfold decodeVpred
  rw [fld_at hn hL 0 (lo := 0) (w := 7) rfl rfl]
  refine (if_pos ⟨(fld_at hn hL 2 (lo := 9) (w := 7) rfl rfl), (fld_at hn hL 4 (lo := 20) (w := 1) rfl rfl), (fld_at hn hL 6 (lo := 25) (w := 1) rfl rfl)⟩).trans ?_
  exact congr (congr (congrArg Instr.vpredCnt (bits_of (v := d) (fld_at hn hL 5 (lo := 21) (w := 4) rfl rfl))) (bits_of (v := a) (fld_at hn hL 3 (lo := 16) (w := 4) rfl rfl))) (bits_of (v := m) (fld_at hn hL 1 (lo := 7) (w := 2) rfl rfl))

/-- `vpred.mv`. -/
theorem vpredMv (d : BitVec 4) (a : BitVec 4) (m : BitVec 2) : Statement (.vpredMv d a m) := by
  intro _ _ _
  have hL : FieldsFit [(7, 9), (2, m.toNat), (7, 0), (4, a.toNat), (1, 0), (4, d.toNat), (1, 0), (6, 24)] := ⟨by decide, m.isLt, by decide, a.isLt, by decide, d.isLt, by decide, by decide, trivial⟩
  refine decode_of [(7, 9), (2, m.toNat), (7, 0), (4, a.toNat), (1, 0), (4, d.toNat), (1, 0), (6, 24)] hL rfl (by change 1610612745 + d.toNat * 2097152 + a.toNat * 65536 + m.toNat * 128 = _; simp only [ofDigits]; omega) fun num hn => ?_
  refine (decodeNat_vpred (fld_at hn hL 7 (lo := 26) (w := 6) rfl rfl)).trans ?_
  unfold decodeVpred
  rw [fld_at hn hL 0 (lo := 0) (w := 7) rfl rfl]
  refine (if_pos ⟨(fld_at hn hL 2 (lo := 9) (w := 7) rfl rfl), (fld_at hn hL 4 (lo := 20) (w := 1) rfl rfl), (fld_at hn hL 6 (lo := 25) (w := 1) rfl rfl)⟩).trans ?_
  exact congr (congr (congrArg Instr.vpredMv (bits_of (v := d) (fld_at hn hL 5 (lo := 21) (w := 4) rfl rfl))) (bits_of (v := a) (fld_at hn hL 3 (lo := 16) (w := 4) rfl rfl))) (bits_of (v := m) (fld_at hn hL 1 (lo := 7) (w := 2) rfl rfl))

/-- `vperm.perm`. -/
theorem vpermPerm (d : BitVec 5) (a : BitVec 5) (b : BitVec 5) (x : Bool) (y : Bool) (m : BitVec 2) : Statement (.vpermPerm d a b x y m) := by
  intro _ _ _
  have hL : FieldsFit [(7, 0), (2, m.toNat), (1, y.toNat), (1, x.toNat), (5, b.toNat), (5, a.toNat), (5, d.toNat), (6, 25)] := ⟨by decide, m.isLt, y.toNat_lt, x.toNat_lt, b.isLt, a.isLt, d.isLt, by decide, trivial⟩
  refine decode_of [(7, 0), (2, m.toNat), (1, y.toNat), (1, x.toNat), (5, b.toNat), (5, a.toNat), (5, d.toNat), (6, 25)] hL rfl (by change 1677721600 + d.toNat * 2097152 + a.toNat * 65536 + b.toNat * 2048 + x.toNat * 1024 + y.toNat * 512 + m.toNat * 128 = _; simp only [ofDigits]; omega) fun num hn => ?_
  refine (decodeNat_vperm (fld_at hn hL 7 (lo := 26) (w := 6) rfl rfl)).trans ?_
  unfold decodeVperm
  rw [fld_at hn hL 0 (lo := 0) (w := 7) rfl rfl]
  exact congr (congr (congr (congr (congr (congrArg Instr.vpermPerm (bits_of (v := d) (fld_at hn hL 6 (lo := 21) (w := 5) rfl rfl))) (bits_of (v := a) (fld_at hn hL 5 (lo := 16) (w := 5) rfl rfl))) (bits_of (v := b) (fld_at hn hL 4 (lo := 11) (w := 5) rfl rfl))) (flag_of (v := x) (fld_at hn hL 3 (lo := 10) (w := 1) rfl rfl))) (flag_of (v := y) (fld_at hn hL 2 (lo := 9) (w := 1) rfl rfl))) (bits_of (v := m) (fld_at hn hL 1 (lo := 7) (w := 2) rfl rfl))

/-- `vperm.slup`. -/
theorem vpermSlup (d : BitVec 5) (a : BitVec 5) (b : BitVec 5) (x : Bool) (m : BitVec 2) : Statement (.vpermSlup d a b x m) := by
  intro _ _ _
  have hL : FieldsFit [(7, 1), (2, m.toNat), (1, 0), (1, x.toNat), (5, b.toNat), (5, a.toNat), (5, d.toNat), (6, 25)] := ⟨by decide, m.isLt, by decide, x.toNat_lt, b.isLt, a.isLt, d.isLt, by decide, trivial⟩
  refine decode_of [(7, 1), (2, m.toNat), (1, 0), (1, x.toNat), (5, b.toNat), (5, a.toNat), (5, d.toNat), (6, 25)] hL rfl (by change 1677721601 + d.toNat * 2097152 + a.toNat * 65536 + b.toNat * 2048 + x.toNat * 1024 + m.toNat * 128 = _; simp only [ofDigits]; omega) fun num hn => ?_
  refine (decodeNat_vperm (fld_at hn hL 7 (lo := 26) (w := 6) rfl rfl)).trans ?_
  unfold decodeVperm
  rw [fld_at hn hL 0 (lo := 0) (w := 7) rfl rfl]
  refine (if_pos (fld_at hn hL 2 (lo := 9) (w := 1) rfl rfl)).trans ?_
  exact congr (congr (congr (congr (congrArg Instr.vpermSlup (bits_of (v := d) (fld_at hn hL 6 (lo := 21) (w := 5) rfl rfl))) (bits_of (v := a) (fld_at hn hL 5 (lo := 16) (w := 5) rfl rfl))) (bits_of (v := b) (fld_at hn hL 4 (lo := 11) (w := 5) rfl rfl))) (flag_of (v := x) (fld_at hn hL 3 (lo := 10) (w := 1) rfl rfl))) (bits_of (v := m) (fld_at hn hL 1 (lo := 7) (w := 2) rfl rfl))

/-- `vperm.sldn`. -/
theorem vpermSldn (d : BitVec 5) (a : BitVec 5) (b : BitVec 5) (x : Bool) (m : BitVec 2) : Statement (.vpermSldn d a b x m) := by
  intro _ _ _
  have hL : FieldsFit [(7, 2), (2, m.toNat), (1, 0), (1, x.toNat), (5, b.toNat), (5, a.toNat), (5, d.toNat), (6, 25)] := ⟨by decide, m.isLt, by decide, x.toNat_lt, b.isLt, a.isLt, d.isLt, by decide, trivial⟩
  refine decode_of [(7, 2), (2, m.toNat), (1, 0), (1, x.toNat), (5, b.toNat), (5, a.toNat), (5, d.toNat), (6, 25)] hL rfl (by change 1677721602 + d.toNat * 2097152 + a.toNat * 65536 + b.toNat * 2048 + x.toNat * 1024 + m.toNat * 128 = _; simp only [ofDigits]; omega) fun num hn => ?_
  refine (decodeNat_vperm (fld_at hn hL 7 (lo := 26) (w := 6) rfl rfl)).trans ?_
  unfold decodeVperm
  rw [fld_at hn hL 0 (lo := 0) (w := 7) rfl rfl]
  refine (if_pos (fld_at hn hL 2 (lo := 9) (w := 1) rfl rfl)).trans ?_
  exact congr (congr (congr (congr (congrArg Instr.vpermSldn (bits_of (v := d) (fld_at hn hL 6 (lo := 21) (w := 5) rfl rfl))) (bits_of (v := a) (fld_at hn hL 5 (lo := 16) (w := 5) rfl rfl))) (bits_of (v := b) (fld_at hn hL 4 (lo := 11) (w := 5) rfl rfl))) (flag_of (v := x) (fld_at hn hL 3 (lo := 10) (w := 1) rfl rfl))) (bits_of (v := m) (fld_at hn hL 1 (lo := 7) (w := 2) rfl rfl))

/-- `vperm.sl1up`. -/
theorem vpermSl1up (d : BitVec 5) (a : BitVec 5) (b : BitVec 5) (x : Bool) (m : BitVec 2) : Statement (.vpermSl1up d a b x m) := by
  intro _ _ _
  have hL : FieldsFit [(7, 3), (2, m.toNat), (1, 0), (1, x.toNat), (5, b.toNat), (5, a.toNat), (5, d.toNat), (6, 25)] := ⟨by decide, m.isLt, by decide, x.toNat_lt, b.isLt, a.isLt, d.isLt, by decide, trivial⟩
  refine decode_of [(7, 3), (2, m.toNat), (1, 0), (1, x.toNat), (5, b.toNat), (5, a.toNat), (5, d.toNat), (6, 25)] hL rfl (by change 1677721603 + d.toNat * 2097152 + a.toNat * 65536 + b.toNat * 2048 + x.toNat * 1024 + m.toNat * 128 = _; simp only [ofDigits]; omega) fun num hn => ?_
  refine (decodeNat_vperm (fld_at hn hL 7 (lo := 26) (w := 6) rfl rfl)).trans ?_
  unfold decodeVperm
  rw [fld_at hn hL 0 (lo := 0) (w := 7) rfl rfl]
  refine (if_pos (fld_at hn hL 2 (lo := 9) (w := 1) rfl rfl)).trans ?_
  exact congr (congr (congr (congr (congrArg Instr.vpermSl1up (bits_of (v := d) (fld_at hn hL 6 (lo := 21) (w := 5) rfl rfl))) (bits_of (v := a) (fld_at hn hL 5 (lo := 16) (w := 5) rfl rfl))) (bits_of (v := b) (fld_at hn hL 4 (lo := 11) (w := 5) rfl rfl))) (flag_of (v := x) (fld_at hn hL 3 (lo := 10) (w := 1) rfl rfl))) (bits_of (v := m) (fld_at hn hL 1 (lo := 7) (w := 2) rfl rfl))

/-- `vperm.sl1dn`. -/
theorem vpermSl1dn (d : BitVec 5) (a : BitVec 5) (b : BitVec 5) (x : Bool) (m : BitVec 2) : Statement (.vpermSl1dn d a b x m) := by
  intro _ _ _
  have hL : FieldsFit [(7, 4), (2, m.toNat), (1, 0), (1, x.toNat), (5, b.toNat), (5, a.toNat), (5, d.toNat), (6, 25)] := ⟨by decide, m.isLt, by decide, x.toNat_lt, b.isLt, a.isLt, d.isLt, by decide, trivial⟩
  refine decode_of [(7, 4), (2, m.toNat), (1, 0), (1, x.toNat), (5, b.toNat), (5, a.toNat), (5, d.toNat), (6, 25)] hL rfl (by change 1677721604 + d.toNat * 2097152 + a.toNat * 65536 + b.toNat * 2048 + x.toNat * 1024 + m.toNat * 128 = _; simp only [ofDigits]; omega) fun num hn => ?_
  refine (decodeNat_vperm (fld_at hn hL 7 (lo := 26) (w := 6) rfl rfl)).trans ?_
  unfold decodeVperm
  rw [fld_at hn hL 0 (lo := 0) (w := 7) rfl rfl]
  refine (if_pos (fld_at hn hL 2 (lo := 9) (w := 1) rfl rfl)).trans ?_
  exact congr (congr (congr (congr (congrArg Instr.vpermSl1dn (bits_of (v := d) (fld_at hn hL 6 (lo := 21) (w := 5) rfl rfl))) (bits_of (v := a) (fld_at hn hL 5 (lo := 16) (w := 5) rfl rfl))) (bits_of (v := b) (fld_at hn hL 4 (lo := 11) (w := 5) rfl rfl))) (flag_of (v := x) (fld_at hn hL 3 (lo := 10) (w := 1) rfl rfl))) (bits_of (v := m) (fld_at hn hL 1 (lo := 7) (w := 2) rfl rfl))

/-- `vperm.rshp`. -/
theorem vpermRshp (d : BitVec 5) (a : BitVec 5) (b : BitVec 5) (x : Bool) (y : Bool) (m : BitVec 2) : Statement (.vpermRshp d a b x y m) := by
  intro _ _ _
  have hL : FieldsFit [(7, 5), (2, m.toNat), (1, y.toNat), (1, x.toNat), (5, b.toNat), (5, a.toNat), (5, d.toNat), (6, 25)] := ⟨by decide, m.isLt, y.toNat_lt, x.toNat_lt, b.isLt, a.isLt, d.isLt, by decide, trivial⟩
  refine decode_of [(7, 5), (2, m.toNat), (1, y.toNat), (1, x.toNat), (5, b.toNat), (5, a.toNat), (5, d.toNat), (6, 25)] hL rfl (by change 1677721605 + d.toNat * 2097152 + a.toNat * 65536 + b.toNat * 2048 + x.toNat * 1024 + y.toNat * 512 + m.toNat * 128 = _; simp only [ofDigits]; omega) fun num hn => ?_
  refine (decodeNat_vperm (fld_at hn hL 7 (lo := 26) (w := 6) rfl rfl)).trans ?_
  unfold decodeVperm
  rw [fld_at hn hL 0 (lo := 0) (w := 7) rfl rfl]
  exact congr (congr (congr (congr (congr (congrArg Instr.vpermRshp (bits_of (v := d) (fld_at hn hL 6 (lo := 21) (w := 5) rfl rfl))) (bits_of (v := a) (fld_at hn hL 5 (lo := 16) (w := 5) rfl rfl))) (bits_of (v := b) (fld_at hn hL 4 (lo := 11) (w := 5) rfl rfl))) (flag_of (v := x) (fld_at hn hL 3 (lo := 10) (w := 1) rfl rfl))) (flag_of (v := y) (fld_at hn hL 2 (lo := 9) (w := 1) rfl rfl))) (bits_of (v := m) (fld_at hn hL 1 (lo := 7) (w := 2) rfl rfl))

/-- `vperm.xch`. -/
theorem vpermXch (d : BitVec 5) (a : BitVec 5) (b : BitVec 5) (x : Bool) (y : Bool) (m : BitVec 2) : Statement (.vpermXch d a b x y m) := by
  intro _ _ _
  have hL : FieldsFit [(7, 6), (2, m.toNat), (1, y.toNat), (1, x.toNat), (5, b.toNat), (5, a.toNat), (5, d.toNat), (6, 25)] := ⟨by decide, m.isLt, y.toNat_lt, x.toNat_lt, b.isLt, a.isLt, d.isLt, by decide, trivial⟩
  refine decode_of [(7, 6), (2, m.toNat), (1, y.toNat), (1, x.toNat), (5, b.toNat), (5, a.toNat), (5, d.toNat), (6, 25)] hL rfl (by change 1677721606 + d.toNat * 2097152 + a.toNat * 65536 + b.toNat * 2048 + x.toNat * 1024 + y.toNat * 512 + m.toNat * 128 = _; simp only [ofDigits]; omega) fun num hn => ?_
  refine (decodeNat_vperm (fld_at hn hL 7 (lo := 26) (w := 6) rfl rfl)).trans ?_
  unfold decodeVperm
  rw [fld_at hn hL 0 (lo := 0) (w := 7) rfl rfl]
  exact congr (congr (congr (congr (congr (congrArg Instr.vpermXch (bits_of (v := d) (fld_at hn hL 6 (lo := 21) (w := 5) rfl rfl))) (bits_of (v := a) (fld_at hn hL 5 (lo := 16) (w := 5) rfl rfl))) (bits_of (v := b) (fld_at hn hL 4 (lo := 11) (w := 5) rfl rfl))) (flag_of (v := x) (fld_at hn hL 3 (lo := 10) (w := 1) rfl rfl))) (flag_of (v := y) (fld_at hn hL 2 (lo := 9) (w := 1) rfl rfl))) (bits_of (v := m) (fld_at hn hL 1 (lo := 7) (w := 2) rfl rfl))

/-- `vperm.bcast`. -/
theorem vpermBcast (d : BitVec 5) (b : BitVec 5) (m : BitVec 2) : Statement (.vpermBcast d b m) := by
  intro _ _ _
  have hL : FieldsFit [(7, 7), (2, m.toNat), (2, 0), (5, b.toNat), (5, 0), (5, d.toNat), (6, 25)] := ⟨by decide, m.isLt, by decide, b.isLt, by decide, d.isLt, by decide, trivial⟩
  refine decode_of [(7, 7), (2, m.toNat), (2, 0), (5, b.toNat), (5, 0), (5, d.toNat), (6, 25)] hL rfl (by change 1677721607 + d.toNat * 2097152 + b.toNat * 2048 + m.toNat * 128 = _; simp only [ofDigits]; omega) fun num hn => ?_
  refine (decodeNat_vperm (fld_at hn hL 6 (lo := 26) (w := 6) rfl rfl)).trans ?_
  unfold decodeVperm
  rw [fld_at hn hL 0 (lo := 0) (w := 7) rfl rfl]
  refine (if_pos ⟨(fld_at hn hL 2 (lo := 9) (w := 2) rfl rfl), (fld_at hn hL 4 (lo := 16) (w := 5) rfl rfl)⟩).trans ?_
  exact congr (congr (congrArg Instr.vpermBcast (bits_of (v := d) (fld_at hn hL 5 (lo := 21) (w := 5) rfl rfl))) (bits_of (v := b) (fld_at hn hL 3 (lo := 11) (w := 5) rfl rfl))) (bits_of (v := m) (fld_at hn hL 1 (lo := 7) (w := 2) rfl rfl))

/-- `vperm.ext`. -/
theorem vpermExt (d : BitVec 5) (a : BitVec 5) (b : BitVec 5) (x : Bool) (m : BitVec 2) : Statement (.vpermExt d a b x m) := by
  intro _ _ _
  have hL : FieldsFit [(7, 8), (2, m.toNat), (1, 0), (1, x.toNat), (5, b.toNat), (5, a.toNat), (5, d.toNat), (6, 25)] := ⟨by decide, m.isLt, by decide, x.toNat_lt, b.isLt, a.isLt, d.isLt, by decide, trivial⟩
  refine decode_of [(7, 8), (2, m.toNat), (1, 0), (1, x.toNat), (5, b.toNat), (5, a.toNat), (5, d.toNat), (6, 25)] hL rfl (by change 1677721608 + d.toNat * 2097152 + a.toNat * 65536 + b.toNat * 2048 + x.toNat * 1024 + m.toNat * 128 = _; simp only [ofDigits]; omega) fun num hn => ?_
  refine (decodeNat_vperm (fld_at hn hL 7 (lo := 26) (w := 6) rfl rfl)).trans ?_
  unfold decodeVperm
  rw [fld_at hn hL 0 (lo := 0) (w := 7) rfl rfl]
  refine (if_pos (fld_at hn hL 2 (lo := 9) (w := 1) rfl rfl)).trans ?_
  exact congr (congr (congr (congr (congrArg Instr.vpermExt (bits_of (v := d) (fld_at hn hL 6 (lo := 21) (w := 5) rfl rfl))) (bits_of (v := a) (fld_at hn hL 5 (lo := 16) (w := 5) rfl rfl))) (bits_of (v := b) (fld_at hn hL 4 (lo := 11) (w := 5) rfl rfl))) (flag_of (v := x) (fld_at hn hL 3 (lo := 10) (w := 1) rfl rfl))) (bits_of (v := m) (fld_at hn hL 1 (lo := 7) (w := 2) rfl rfl))

/-- `vperm.ins`. -/
theorem vpermIns (d : BitVec 5) (a : BitVec 5) (b : BitVec 5) (m : BitVec 2) : Statement (.vpermIns d a b m) := by
  intro _ _ _
  have hL : FieldsFit [(7, 9), (2, m.toNat), (2, 0), (5, b.toNat), (5, a.toNat), (5, d.toNat), (6, 25)] := ⟨by decide, m.isLt, by decide, b.isLt, a.isLt, d.isLt, by decide, trivial⟩
  refine decode_of [(7, 9), (2, m.toNat), (2, 0), (5, b.toNat), (5, a.toNat), (5, d.toNat), (6, 25)] hL rfl (by change 1677721609 + d.toNat * 2097152 + a.toNat * 65536 + b.toNat * 2048 + m.toNat * 128 = _; simp only [ofDigits]; omega) fun num hn => ?_
  refine (decodeNat_vperm (fld_at hn hL 6 (lo := 26) (w := 6) rfl rfl)).trans ?_
  unfold decodeVperm
  rw [fld_at hn hL 0 (lo := 0) (w := 7) rfl rfl]
  refine (if_pos (fld_at hn hL 2 (lo := 9) (w := 2) rfl rfl)).trans ?_
  exact congr (congr (congr (congrArg Instr.vpermIns (bits_of (v := d) (fld_at hn hL 5 (lo := 21) (w := 5) rfl rfl))) (bits_of (v := a) (fld_at hn hL 4 (lo := 16) (w := 5) rfl rfl))) (bits_of (v := b) (fld_at hn hL 3 (lo := 11) (w := 5) rfl rfl))) (bits_of (v := m) (fld_at hn hL 1 (lo := 7) (w := 2) rfl rfl))

/-- `vred.sum`. -/
theorem vredSum (d : BitVec 5) (a : BitVec 5) (b : BitVec 5) (x : Bool) (m : BitVec 2) : Statement (.vredSum d a b x m) := by
  intro _ _ _
  have hL : FieldsFit [(7, 0), (2, m.toNat), (1, 0), (1, x.toNat), (5, b.toNat), (5, a.toNat), (5, d.toNat), (6, 26)] := ⟨by decide, m.isLt, by decide, x.toNat_lt, b.isLt, a.isLt, d.isLt, by decide, trivial⟩
  refine decode_of [(7, 0), (2, m.toNat), (1, 0), (1, x.toNat), (5, b.toNat), (5, a.toNat), (5, d.toNat), (6, 26)] hL rfl (by change 1744830464 + d.toNat * 2097152 + a.toNat * 65536 + b.toNat * 2048 + x.toNat * 1024 + m.toNat * 128 = _; simp only [ofDigits]; omega) fun num hn => ?_
  refine (decodeNat_vred (fld_at hn hL 7 (lo := 26) (w := 6) rfl rfl)).trans ?_
  unfold decodeVred
  rw [fld_at hn hL 0 (lo := 0) (w := 7) rfl rfl]
  refine (if_pos (fld_at hn hL 2 (lo := 9) (w := 1) rfl rfl)).trans ?_
  exact congr (congr (congr (congr (congrArg Instr.vredSum (bits_of (v := d) (fld_at hn hL 6 (lo := 21) (w := 5) rfl rfl))) (bits_of (v := a) (fld_at hn hL 5 (lo := 16) (w := 5) rfl rfl))) (bits_of (v := b) (fld_at hn hL 4 (lo := 11) (w := 5) rfl rfl))) (flag_of (v := x) (fld_at hn hL 3 (lo := 10) (w := 1) rfl rfl))) (bits_of (v := m) (fld_at hn hL 1 (lo := 7) (w := 2) rfl rfl))

/-- `vred.fsum`. -/
theorem vredFsum (d : BitVec 5) (a : BitVec 5) (b : BitVec 5) (x : Bool) (m : BitVec 2) : Statement (.vredFsum d a b x m) := by
  intro _ _ _
  have hL : FieldsFit [(7, 1), (2, m.toNat), (1, 0), (1, x.toNat), (5, b.toNat), (5, a.toNat), (5, d.toNat), (6, 26)] := ⟨by decide, m.isLt, by decide, x.toNat_lt, b.isLt, a.isLt, d.isLt, by decide, trivial⟩
  refine decode_of [(7, 1), (2, m.toNat), (1, 0), (1, x.toNat), (5, b.toNat), (5, a.toNat), (5, d.toNat), (6, 26)] hL rfl (by change 1744830465 + d.toNat * 2097152 + a.toNat * 65536 + b.toNat * 2048 + x.toNat * 1024 + m.toNat * 128 = _; simp only [ofDigits]; omega) fun num hn => ?_
  refine (decodeNat_vred (fld_at hn hL 7 (lo := 26) (w := 6) rfl rfl)).trans ?_
  unfold decodeVred
  rw [fld_at hn hL 0 (lo := 0) (w := 7) rfl rfl]
  refine (if_pos (fld_at hn hL 2 (lo := 9) (w := 1) rfl rfl)).trans ?_
  exact congr (congr (congr (congr (congrArg Instr.vredFsum (bits_of (v := d) (fld_at hn hL 6 (lo := 21) (w := 5) rfl rfl))) (bits_of (v := a) (fld_at hn hL 5 (lo := 16) (w := 5) rfl rfl))) (bits_of (v := b) (fld_at hn hL 4 (lo := 11) (w := 5) rfl rfl))) (flag_of (v := x) (fld_at hn hL 3 (lo := 10) (w := 1) rfl rfl))) (bits_of (v := m) (fld_at hn hL 1 (lo := 7) (w := 2) rfl rfl))

/-- `vred.min`. -/
theorem vredMin (d : BitVec 5) (a : BitVec 5) (b : BitVec 5) (x : Bool) (m : BitVec 2) : Statement (.vredMin d a b x m) := by
  intro _ _ _
  have hL : FieldsFit [(7, 2), (2, m.toNat), (1, 0), (1, x.toNat), (5, b.toNat), (5, a.toNat), (5, d.toNat), (6, 26)] := ⟨by decide, m.isLt, by decide, x.toNat_lt, b.isLt, a.isLt, d.isLt, by decide, trivial⟩
  refine decode_of [(7, 2), (2, m.toNat), (1, 0), (1, x.toNat), (5, b.toNat), (5, a.toNat), (5, d.toNat), (6, 26)] hL rfl (by change 1744830466 + d.toNat * 2097152 + a.toNat * 65536 + b.toNat * 2048 + x.toNat * 1024 + m.toNat * 128 = _; simp only [ofDigits]; omega) fun num hn => ?_
  refine (decodeNat_vred (fld_at hn hL 7 (lo := 26) (w := 6) rfl rfl)).trans ?_
  unfold decodeVred
  rw [fld_at hn hL 0 (lo := 0) (w := 7) rfl rfl]
  refine (if_pos (fld_at hn hL 2 (lo := 9) (w := 1) rfl rfl)).trans ?_
  exact congr (congr (congr (congr (congrArg Instr.vredMin (bits_of (v := d) (fld_at hn hL 6 (lo := 21) (w := 5) rfl rfl))) (bits_of (v := a) (fld_at hn hL 5 (lo := 16) (w := 5) rfl rfl))) (bits_of (v := b) (fld_at hn hL 4 (lo := 11) (w := 5) rfl rfl))) (flag_of (v := x) (fld_at hn hL 3 (lo := 10) (w := 1) rfl rfl))) (bits_of (v := m) (fld_at hn hL 1 (lo := 7) (w := 2) rfl rfl))

/-- `vred.max`. -/
theorem vredMax (d : BitVec 5) (a : BitVec 5) (b : BitVec 5) (x : Bool) (m : BitVec 2) : Statement (.vredMax d a b x m) := by
  intro _ _ _
  have hL : FieldsFit [(7, 3), (2, m.toNat), (1, 0), (1, x.toNat), (5, b.toNat), (5, a.toNat), (5, d.toNat), (6, 26)] := ⟨by decide, m.isLt, by decide, x.toNat_lt, b.isLt, a.isLt, d.isLt, by decide, trivial⟩
  refine decode_of [(7, 3), (2, m.toNat), (1, 0), (1, x.toNat), (5, b.toNat), (5, a.toNat), (5, d.toNat), (6, 26)] hL rfl (by change 1744830467 + d.toNat * 2097152 + a.toNat * 65536 + b.toNat * 2048 + x.toNat * 1024 + m.toNat * 128 = _; simp only [ofDigits]; omega) fun num hn => ?_
  refine (decodeNat_vred (fld_at hn hL 7 (lo := 26) (w := 6) rfl rfl)).trans ?_
  unfold decodeVred
  rw [fld_at hn hL 0 (lo := 0) (w := 7) rfl rfl]
  refine (if_pos (fld_at hn hL 2 (lo := 9) (w := 1) rfl rfl)).trans ?_
  exact congr (congr (congr (congr (congrArg Instr.vredMax (bits_of (v := d) (fld_at hn hL 6 (lo := 21) (w := 5) rfl rfl))) (bits_of (v := a) (fld_at hn hL 5 (lo := 16) (w := 5) rfl rfl))) (bits_of (v := b) (fld_at hn hL 4 (lo := 11) (w := 5) rfl rfl))) (flag_of (v := x) (fld_at hn hL 3 (lo := 10) (w := 1) rfl rfl))) (bits_of (v := m) (fld_at hn hL 1 (lo := 7) (w := 2) rfl rfl))

/-- `vred.minu`. -/
theorem vredMinu (d : BitVec 5) (a : BitVec 5) (b : BitVec 5) (x : Bool) (m : BitVec 2) : Statement (.vredMinu d a b x m) := by
  intro _ _ _
  have hL : FieldsFit [(7, 4), (2, m.toNat), (1, 0), (1, x.toNat), (5, b.toNat), (5, a.toNat), (5, d.toNat), (6, 26)] := ⟨by decide, m.isLt, by decide, x.toNat_lt, b.isLt, a.isLt, d.isLt, by decide, trivial⟩
  refine decode_of [(7, 4), (2, m.toNat), (1, 0), (1, x.toNat), (5, b.toNat), (5, a.toNat), (5, d.toNat), (6, 26)] hL rfl (by change 1744830468 + d.toNat * 2097152 + a.toNat * 65536 + b.toNat * 2048 + x.toNat * 1024 + m.toNat * 128 = _; simp only [ofDigits]; omega) fun num hn => ?_
  refine (decodeNat_vred (fld_at hn hL 7 (lo := 26) (w := 6) rfl rfl)).trans ?_
  unfold decodeVred
  rw [fld_at hn hL 0 (lo := 0) (w := 7) rfl rfl]
  refine (if_pos (fld_at hn hL 2 (lo := 9) (w := 1) rfl rfl)).trans ?_
  exact congr (congr (congr (congr (congrArg Instr.vredMinu (bits_of (v := d) (fld_at hn hL 6 (lo := 21) (w := 5) rfl rfl))) (bits_of (v := a) (fld_at hn hL 5 (lo := 16) (w := 5) rfl rfl))) (bits_of (v := b) (fld_at hn hL 4 (lo := 11) (w := 5) rfl rfl))) (flag_of (v := x) (fld_at hn hL 3 (lo := 10) (w := 1) rfl rfl))) (bits_of (v := m) (fld_at hn hL 1 (lo := 7) (w := 2) rfl rfl))

/-- `vred.maxu`. -/
theorem vredMaxu (d : BitVec 5) (a : BitVec 5) (b : BitVec 5) (x : Bool) (m : BitVec 2) : Statement (.vredMaxu d a b x m) := by
  intro _ _ _
  have hL : FieldsFit [(7, 5), (2, m.toNat), (1, 0), (1, x.toNat), (5, b.toNat), (5, a.toNat), (5, d.toNat), (6, 26)] := ⟨by decide, m.isLt, by decide, x.toNat_lt, b.isLt, a.isLt, d.isLt, by decide, trivial⟩
  refine decode_of [(7, 5), (2, m.toNat), (1, 0), (1, x.toNat), (5, b.toNat), (5, a.toNat), (5, d.toNat), (6, 26)] hL rfl (by change 1744830469 + d.toNat * 2097152 + a.toNat * 65536 + b.toNat * 2048 + x.toNat * 1024 + m.toNat * 128 = _; simp only [ofDigits]; omega) fun num hn => ?_
  refine (decodeNat_vred (fld_at hn hL 7 (lo := 26) (w := 6) rfl rfl)).trans ?_
  unfold decodeVred
  rw [fld_at hn hL 0 (lo := 0) (w := 7) rfl rfl]
  refine (if_pos (fld_at hn hL 2 (lo := 9) (w := 1) rfl rfl)).trans ?_
  exact congr (congr (congr (congr (congrArg Instr.vredMaxu (bits_of (v := d) (fld_at hn hL 6 (lo := 21) (w := 5) rfl rfl))) (bits_of (v := a) (fld_at hn hL 5 (lo := 16) (w := 5) rfl rfl))) (bits_of (v := b) (fld_at hn hL 4 (lo := 11) (w := 5) rfl rfl))) (flag_of (v := x) (fld_at hn hL 3 (lo := 10) (w := 1) rfl rfl))) (bits_of (v := m) (fld_at hn hL 1 (lo := 7) (w := 2) rfl rfl))

/-- `vred.fmin`. -/
theorem vredFmin (d : BitVec 5) (a : BitVec 5) (b : BitVec 5) (x : Bool) (m : BitVec 2) : Statement (.vredFmin d a b x m) := by
  intro _ _ _
  have hL : FieldsFit [(7, 6), (2, m.toNat), (1, 0), (1, x.toNat), (5, b.toNat), (5, a.toNat), (5, d.toNat), (6, 26)] := ⟨by decide, m.isLt, by decide, x.toNat_lt, b.isLt, a.isLt, d.isLt, by decide, trivial⟩
  refine decode_of [(7, 6), (2, m.toNat), (1, 0), (1, x.toNat), (5, b.toNat), (5, a.toNat), (5, d.toNat), (6, 26)] hL rfl (by change 1744830470 + d.toNat * 2097152 + a.toNat * 65536 + b.toNat * 2048 + x.toNat * 1024 + m.toNat * 128 = _; simp only [ofDigits]; omega) fun num hn => ?_
  refine (decodeNat_vred (fld_at hn hL 7 (lo := 26) (w := 6) rfl rfl)).trans ?_
  unfold decodeVred
  rw [fld_at hn hL 0 (lo := 0) (w := 7) rfl rfl]
  refine (if_pos (fld_at hn hL 2 (lo := 9) (w := 1) rfl rfl)).trans ?_
  exact congr (congr (congr (congr (congrArg Instr.vredFmin (bits_of (v := d) (fld_at hn hL 6 (lo := 21) (w := 5) rfl rfl))) (bits_of (v := a) (fld_at hn hL 5 (lo := 16) (w := 5) rfl rfl))) (bits_of (v := b) (fld_at hn hL 4 (lo := 11) (w := 5) rfl rfl))) (flag_of (v := x) (fld_at hn hL 3 (lo := 10) (w := 1) rfl rfl))) (bits_of (v := m) (fld_at hn hL 1 (lo := 7) (w := 2) rfl rfl))

/-- `vred.fmax`. -/
theorem vredFmax (d : BitVec 5) (a : BitVec 5) (b : BitVec 5) (x : Bool) (m : BitVec 2) : Statement (.vredFmax d a b x m) := by
  intro _ _ _
  have hL : FieldsFit [(7, 7), (2, m.toNat), (1, 0), (1, x.toNat), (5, b.toNat), (5, a.toNat), (5, d.toNat), (6, 26)] := ⟨by decide, m.isLt, by decide, x.toNat_lt, b.isLt, a.isLt, d.isLt, by decide, trivial⟩
  refine decode_of [(7, 7), (2, m.toNat), (1, 0), (1, x.toNat), (5, b.toNat), (5, a.toNat), (5, d.toNat), (6, 26)] hL rfl (by change 1744830471 + d.toNat * 2097152 + a.toNat * 65536 + b.toNat * 2048 + x.toNat * 1024 + m.toNat * 128 = _; simp only [ofDigits]; omega) fun num hn => ?_
  refine (decodeNat_vred (fld_at hn hL 7 (lo := 26) (w := 6) rfl rfl)).trans ?_
  unfold decodeVred
  rw [fld_at hn hL 0 (lo := 0) (w := 7) rfl rfl]
  refine (if_pos (fld_at hn hL 2 (lo := 9) (w := 1) rfl rfl)).trans ?_
  exact congr (congr (congr (congr (congrArg Instr.vredFmax (bits_of (v := d) (fld_at hn hL 6 (lo := 21) (w := 5) rfl rfl))) (bits_of (v := a) (fld_at hn hL 5 (lo := 16) (w := 5) rfl rfl))) (bits_of (v := b) (fld_at hn hL 4 (lo := 11) (w := 5) rfl rfl))) (flag_of (v := x) (fld_at hn hL 3 (lo := 10) (w := 1) rfl rfl))) (bits_of (v := m) (fld_at hn hL 1 (lo := 7) (w := 2) rfl rfl))

/-- `vred.and`. -/
theorem vredAnd (d : BitVec 5) (a : BitVec 5) (b : BitVec 5) (x : Bool) (m : BitVec 2) : Statement (.vredAnd d a b x m) := by
  intro _ _ _
  have hL : FieldsFit [(7, 8), (2, m.toNat), (1, 0), (1, x.toNat), (5, b.toNat), (5, a.toNat), (5, d.toNat), (6, 26)] := ⟨by decide, m.isLt, by decide, x.toNat_lt, b.isLt, a.isLt, d.isLt, by decide, trivial⟩
  refine decode_of [(7, 8), (2, m.toNat), (1, 0), (1, x.toNat), (5, b.toNat), (5, a.toNat), (5, d.toNat), (6, 26)] hL rfl (by change 1744830472 + d.toNat * 2097152 + a.toNat * 65536 + b.toNat * 2048 + x.toNat * 1024 + m.toNat * 128 = _; simp only [ofDigits]; omega) fun num hn => ?_
  refine (decodeNat_vred (fld_at hn hL 7 (lo := 26) (w := 6) rfl rfl)).trans ?_
  unfold decodeVred
  rw [fld_at hn hL 0 (lo := 0) (w := 7) rfl rfl]
  refine (if_pos (fld_at hn hL 2 (lo := 9) (w := 1) rfl rfl)).trans ?_
  exact congr (congr (congr (congr (congrArg Instr.vredAnd (bits_of (v := d) (fld_at hn hL 6 (lo := 21) (w := 5) rfl rfl))) (bits_of (v := a) (fld_at hn hL 5 (lo := 16) (w := 5) rfl rfl))) (bits_of (v := b) (fld_at hn hL 4 (lo := 11) (w := 5) rfl rfl))) (flag_of (v := x) (fld_at hn hL 3 (lo := 10) (w := 1) rfl rfl))) (bits_of (v := m) (fld_at hn hL 1 (lo := 7) (w := 2) rfl rfl))

/-- `vred.or`. -/
theorem vredOr (d : BitVec 5) (a : BitVec 5) (b : BitVec 5) (x : Bool) (m : BitVec 2) : Statement (.vredOr d a b x m) := by
  intro _ _ _
  have hL : FieldsFit [(7, 9), (2, m.toNat), (1, 0), (1, x.toNat), (5, b.toNat), (5, a.toNat), (5, d.toNat), (6, 26)] := ⟨by decide, m.isLt, by decide, x.toNat_lt, b.isLt, a.isLt, d.isLt, by decide, trivial⟩
  refine decode_of [(7, 9), (2, m.toNat), (1, 0), (1, x.toNat), (5, b.toNat), (5, a.toNat), (5, d.toNat), (6, 26)] hL rfl (by change 1744830473 + d.toNat * 2097152 + a.toNat * 65536 + b.toNat * 2048 + x.toNat * 1024 + m.toNat * 128 = _; simp only [ofDigits]; omega) fun num hn => ?_
  refine (decodeNat_vred (fld_at hn hL 7 (lo := 26) (w := 6) rfl rfl)).trans ?_
  unfold decodeVred
  rw [fld_at hn hL 0 (lo := 0) (w := 7) rfl rfl]
  refine (if_pos (fld_at hn hL 2 (lo := 9) (w := 1) rfl rfl)).trans ?_
  exact congr (congr (congr (congr (congrArg Instr.vredOr (bits_of (v := d) (fld_at hn hL 6 (lo := 21) (w := 5) rfl rfl))) (bits_of (v := a) (fld_at hn hL 5 (lo := 16) (w := 5) rfl rfl))) (bits_of (v := b) (fld_at hn hL 4 (lo := 11) (w := 5) rfl rfl))) (flag_of (v := x) (fld_at hn hL 3 (lo := 10) (w := 1) rfl rfl))) (bits_of (v := m) (fld_at hn hL 1 (lo := 7) (w := 2) rfl rfl))

/-- `vred.xor`. -/
theorem vredXor (d : BitVec 5) (a : BitVec 5) (b : BitVec 5) (x : Bool) (m : BitVec 2) : Statement (.vredXor d a b x m) := by
  intro _ _ _
  have hL : FieldsFit [(7, 10), (2, m.toNat), (1, 0), (1, x.toNat), (5, b.toNat), (5, a.toNat), (5, d.toNat), (6, 26)] := ⟨by decide, m.isLt, by decide, x.toNat_lt, b.isLt, a.isLt, d.isLt, by decide, trivial⟩
  refine decode_of [(7, 10), (2, m.toNat), (1, 0), (1, x.toNat), (5, b.toNat), (5, a.toNat), (5, d.toNat), (6, 26)] hL rfl (by change 1744830474 + d.toNat * 2097152 + a.toNat * 65536 + b.toNat * 2048 + x.toNat * 1024 + m.toNat * 128 = _; simp only [ofDigits]; omega) fun num hn => ?_
  refine (decodeNat_vred (fld_at hn hL 7 (lo := 26) (w := 6) rfl rfl)).trans ?_
  unfold decodeVred
  rw [fld_at hn hL 0 (lo := 0) (w := 7) rfl rfl]
  refine (if_pos (fld_at hn hL 2 (lo := 9) (w := 1) rfl rfl)).trans ?_
  exact congr (congr (congr (congr (congrArg Instr.vredXor (bits_of (v := d) (fld_at hn hL 6 (lo := 21) (w := 5) rfl rfl))) (bits_of (v := a) (fld_at hn hL 5 (lo := 16) (w := 5) rfl rfl))) (bits_of (v := b) (fld_at hn hL 4 (lo := 11) (w := 5) rfl rfl))) (flag_of (v := x) (fld_at hn hL 3 (lo := 10) (w := 1) rfl rfl))) (bits_of (v := m) (fld_at hn hL 1 (lo := 7) (w := 2) rfl rfl))

/-- `vscan.sum`. -/
theorem vscanSum (d : BitVec 5) (a : BitVec 5) (b : BitVec 5) (x : Bool) (m : BitVec 2) (h : Bool) : Statement (.vscanSum d a b x m h) := by
  intro _ _ _
  have hL : FieldsFit [(6, 0), (1, h.toNat), (2, m.toNat), (1, 0), (1, x.toNat), (5, b.toNat), (5, a.toNat), (5, d.toNat), (6, 27)] := ⟨by decide, h.toNat_lt, m.isLt, by decide, x.toNat_lt, b.isLt, a.isLt, d.isLt, by decide, trivial⟩
  refine decode_of [(6, 0), (1, h.toNat), (2, m.toNat), (1, 0), (1, x.toNat), (5, b.toNat), (5, a.toNat), (5, d.toNat), (6, 27)] hL rfl (by change 1811939328 + d.toNat * 2097152 + a.toNat * 65536 + b.toNat * 2048 + x.toNat * 1024 + m.toNat * 128 + h.toNat * 64 = _; simp only [ofDigits]; omega) fun num hn => ?_
  refine (decodeNat_vscan (fld_at hn hL 8 (lo := 26) (w := 6) rfl rfl)).trans ?_
  unfold decodeVscan
  rw [fld_at hn hL 0 (lo := 0) (w := 6) rfl rfl]
  refine (if_pos (fld_at hn hL 3 (lo := 9) (w := 1) rfl rfl)).trans ?_
  exact congr (congr (congr (congr (congr (congrArg Instr.vscanSum (bits_of (v := d) (fld_at hn hL 7 (lo := 21) (w := 5) rfl rfl))) (bits_of (v := a) (fld_at hn hL 6 (lo := 16) (w := 5) rfl rfl))) (bits_of (v := b) (fld_at hn hL 5 (lo := 11) (w := 5) rfl rfl))) (flag_of (v := x) (fld_at hn hL 4 (lo := 10) (w := 1) rfl rfl))) (bits_of (v := m) (fld_at hn hL 2 (lo := 7) (w := 2) rfl rfl))) (flag_of (v := h) (fld_at hn hL 1 (lo := 6) (w := 1) rfl rfl))

/-- `vscan.fsum`. -/
theorem vscanFsum (d : BitVec 5) (a : BitVec 5) (b : BitVec 5) (x : Bool) (m : BitVec 2) (h : Bool) : Statement (.vscanFsum d a b x m h) := by
  intro _ _ _
  have hL : FieldsFit [(6, 1), (1, h.toNat), (2, m.toNat), (1, 0), (1, x.toNat), (5, b.toNat), (5, a.toNat), (5, d.toNat), (6, 27)] := ⟨by decide, h.toNat_lt, m.isLt, by decide, x.toNat_lt, b.isLt, a.isLt, d.isLt, by decide, trivial⟩
  refine decode_of [(6, 1), (1, h.toNat), (2, m.toNat), (1, 0), (1, x.toNat), (5, b.toNat), (5, a.toNat), (5, d.toNat), (6, 27)] hL rfl (by change 1811939329 + d.toNat * 2097152 + a.toNat * 65536 + b.toNat * 2048 + x.toNat * 1024 + m.toNat * 128 + h.toNat * 64 = _; simp only [ofDigits]; omega) fun num hn => ?_
  refine (decodeNat_vscan (fld_at hn hL 8 (lo := 26) (w := 6) rfl rfl)).trans ?_
  unfold decodeVscan
  rw [fld_at hn hL 0 (lo := 0) (w := 6) rfl rfl]
  refine (if_pos (fld_at hn hL 3 (lo := 9) (w := 1) rfl rfl)).trans ?_
  exact congr (congr (congr (congr (congr (congrArg Instr.vscanFsum (bits_of (v := d) (fld_at hn hL 7 (lo := 21) (w := 5) rfl rfl))) (bits_of (v := a) (fld_at hn hL 6 (lo := 16) (w := 5) rfl rfl))) (bits_of (v := b) (fld_at hn hL 5 (lo := 11) (w := 5) rfl rfl))) (flag_of (v := x) (fld_at hn hL 4 (lo := 10) (w := 1) rfl rfl))) (bits_of (v := m) (fld_at hn hL 2 (lo := 7) (w := 2) rfl rfl))) (flag_of (v := h) (fld_at hn hL 1 (lo := 6) (w := 1) rfl rfl))

/-- `vscan.min`. -/
theorem vscanMin (d : BitVec 5) (a : BitVec 5) (b : BitVec 5) (x : Bool) (m : BitVec 2) (h : Bool) : Statement (.vscanMin d a b x m h) := by
  intro _ _ _
  have hL : FieldsFit [(6, 2), (1, h.toNat), (2, m.toNat), (1, 0), (1, x.toNat), (5, b.toNat), (5, a.toNat), (5, d.toNat), (6, 27)] := ⟨by decide, h.toNat_lt, m.isLt, by decide, x.toNat_lt, b.isLt, a.isLt, d.isLt, by decide, trivial⟩
  refine decode_of [(6, 2), (1, h.toNat), (2, m.toNat), (1, 0), (1, x.toNat), (5, b.toNat), (5, a.toNat), (5, d.toNat), (6, 27)] hL rfl (by change 1811939330 + d.toNat * 2097152 + a.toNat * 65536 + b.toNat * 2048 + x.toNat * 1024 + m.toNat * 128 + h.toNat * 64 = _; simp only [ofDigits]; omega) fun num hn => ?_
  refine (decodeNat_vscan (fld_at hn hL 8 (lo := 26) (w := 6) rfl rfl)).trans ?_
  unfold decodeVscan
  rw [fld_at hn hL 0 (lo := 0) (w := 6) rfl rfl]
  refine (if_pos (fld_at hn hL 3 (lo := 9) (w := 1) rfl rfl)).trans ?_
  exact congr (congr (congr (congr (congr (congrArg Instr.vscanMin (bits_of (v := d) (fld_at hn hL 7 (lo := 21) (w := 5) rfl rfl))) (bits_of (v := a) (fld_at hn hL 6 (lo := 16) (w := 5) rfl rfl))) (bits_of (v := b) (fld_at hn hL 5 (lo := 11) (w := 5) rfl rfl))) (flag_of (v := x) (fld_at hn hL 4 (lo := 10) (w := 1) rfl rfl))) (bits_of (v := m) (fld_at hn hL 2 (lo := 7) (w := 2) rfl rfl))) (flag_of (v := h) (fld_at hn hL 1 (lo := 6) (w := 1) rfl rfl))

/-- `vscan.max`. -/
theorem vscanMax (d : BitVec 5) (a : BitVec 5) (b : BitVec 5) (x : Bool) (m : BitVec 2) (h : Bool) : Statement (.vscanMax d a b x m h) := by
  intro _ _ _
  have hL : FieldsFit [(6, 3), (1, h.toNat), (2, m.toNat), (1, 0), (1, x.toNat), (5, b.toNat), (5, a.toNat), (5, d.toNat), (6, 27)] := ⟨by decide, h.toNat_lt, m.isLt, by decide, x.toNat_lt, b.isLt, a.isLt, d.isLt, by decide, trivial⟩
  refine decode_of [(6, 3), (1, h.toNat), (2, m.toNat), (1, 0), (1, x.toNat), (5, b.toNat), (5, a.toNat), (5, d.toNat), (6, 27)] hL rfl (by change 1811939331 + d.toNat * 2097152 + a.toNat * 65536 + b.toNat * 2048 + x.toNat * 1024 + m.toNat * 128 + h.toNat * 64 = _; simp only [ofDigits]; omega) fun num hn => ?_
  refine (decodeNat_vscan (fld_at hn hL 8 (lo := 26) (w := 6) rfl rfl)).trans ?_
  unfold decodeVscan
  rw [fld_at hn hL 0 (lo := 0) (w := 6) rfl rfl]
  refine (if_pos (fld_at hn hL 3 (lo := 9) (w := 1) rfl rfl)).trans ?_
  exact congr (congr (congr (congr (congr (congrArg Instr.vscanMax (bits_of (v := d) (fld_at hn hL 7 (lo := 21) (w := 5) rfl rfl))) (bits_of (v := a) (fld_at hn hL 6 (lo := 16) (w := 5) rfl rfl))) (bits_of (v := b) (fld_at hn hL 5 (lo := 11) (w := 5) rfl rfl))) (flag_of (v := x) (fld_at hn hL 4 (lo := 10) (w := 1) rfl rfl))) (bits_of (v := m) (fld_at hn hL 2 (lo := 7) (w := 2) rfl rfl))) (flag_of (v := h) (fld_at hn hL 1 (lo := 6) (w := 1) rfl rfl))

/-- `vscan.fmin`. -/
theorem vscanFmin (d : BitVec 5) (a : BitVec 5) (b : BitVec 5) (x : Bool) (m : BitVec 2) (h : Bool) : Statement (.vscanFmin d a b x m h) := by
  intro _ _ _
  have hL : FieldsFit [(6, 4), (1, h.toNat), (2, m.toNat), (1, 0), (1, x.toNat), (5, b.toNat), (5, a.toNat), (5, d.toNat), (6, 27)] := ⟨by decide, h.toNat_lt, m.isLt, by decide, x.toNat_lt, b.isLt, a.isLt, d.isLt, by decide, trivial⟩
  refine decode_of [(6, 4), (1, h.toNat), (2, m.toNat), (1, 0), (1, x.toNat), (5, b.toNat), (5, a.toNat), (5, d.toNat), (6, 27)] hL rfl (by change 1811939332 + d.toNat * 2097152 + a.toNat * 65536 + b.toNat * 2048 + x.toNat * 1024 + m.toNat * 128 + h.toNat * 64 = _; simp only [ofDigits]; omega) fun num hn => ?_
  refine (decodeNat_vscan (fld_at hn hL 8 (lo := 26) (w := 6) rfl rfl)).trans ?_
  unfold decodeVscan
  rw [fld_at hn hL 0 (lo := 0) (w := 6) rfl rfl]
  refine (if_pos (fld_at hn hL 3 (lo := 9) (w := 1) rfl rfl)).trans ?_
  exact congr (congr (congr (congr (congr (congrArg Instr.vscanFmin (bits_of (v := d) (fld_at hn hL 7 (lo := 21) (w := 5) rfl rfl))) (bits_of (v := a) (fld_at hn hL 6 (lo := 16) (w := 5) rfl rfl))) (bits_of (v := b) (fld_at hn hL 5 (lo := 11) (w := 5) rfl rfl))) (flag_of (v := x) (fld_at hn hL 4 (lo := 10) (w := 1) rfl rfl))) (bits_of (v := m) (fld_at hn hL 2 (lo := 7) (w := 2) rfl rfl))) (flag_of (v := h) (fld_at hn hL 1 (lo := 6) (w := 1) rfl rfl))

/-- `vscan.fmax`. -/
theorem vscanFmax (d : BitVec 5) (a : BitVec 5) (b : BitVec 5) (x : Bool) (m : BitVec 2) (h : Bool) : Statement (.vscanFmax d a b x m h) := by
  intro _ _ _
  have hL : FieldsFit [(6, 5), (1, h.toNat), (2, m.toNat), (1, 0), (1, x.toNat), (5, b.toNat), (5, a.toNat), (5, d.toNat), (6, 27)] := ⟨by decide, h.toNat_lt, m.isLt, by decide, x.toNat_lt, b.isLt, a.isLt, d.isLt, by decide, trivial⟩
  refine decode_of [(6, 5), (1, h.toNat), (2, m.toNat), (1, 0), (1, x.toNat), (5, b.toNat), (5, a.toNat), (5, d.toNat), (6, 27)] hL rfl (by change 1811939333 + d.toNat * 2097152 + a.toNat * 65536 + b.toNat * 2048 + x.toNat * 1024 + m.toNat * 128 + h.toNat * 64 = _; simp only [ofDigits]; omega) fun num hn => ?_
  refine (decodeNat_vscan (fld_at hn hL 8 (lo := 26) (w := 6) rfl rfl)).trans ?_
  unfold decodeVscan
  rw [fld_at hn hL 0 (lo := 0) (w := 6) rfl rfl]
  refine (if_pos (fld_at hn hL 3 (lo := 9) (w := 1) rfl rfl)).trans ?_
  exact congr (congr (congr (congr (congr (congrArg Instr.vscanFmax (bits_of (v := d) (fld_at hn hL 7 (lo := 21) (w := 5) rfl rfl))) (bits_of (v := a) (fld_at hn hL 6 (lo := 16) (w := 5) rfl rfl))) (bits_of (v := b) (fld_at hn hL 5 (lo := 11) (w := 5) rfl rfl))) (flag_of (v := x) (fld_at hn hL 4 (lo := 10) (w := 1) rfl rfl))) (bits_of (v := m) (fld_at hn hL 2 (lo := 7) (w := 2) rfl rfl))) (flag_of (v := h) (fld_at hn hL 1 (lo := 6) (w := 1) rfl rfl))

/-- `vsel.cmpr`. -/
theorem vselCmpr (d : BitVec 5) (a : BitVec 5) (x : Bool) (m : BitVec 2) : Statement (.vselCmpr d a x m) := by
  intro _ _ _
  have hL : FieldsFit [(7, 0), (2, m.toNat), (1, 0), (1, x.toNat), (5, 0), (5, a.toNat), (5, d.toNat), (6, 28)] := ⟨by decide, m.isLt, by decide, x.toNat_lt, by decide, a.isLt, d.isLt, by decide, trivial⟩
  refine decode_of [(7, 0), (2, m.toNat), (1, 0), (1, x.toNat), (5, 0), (5, a.toNat), (5, d.toNat), (6, 28)] hL rfl (by change 1879048192 + d.toNat * 2097152 + a.toNat * 65536 + x.toNat * 1024 + m.toNat * 128 = _; simp only [ofDigits]; omega) fun num hn => ?_
  refine (decodeNat_vsel (fld_at hn hL 7 (lo := 26) (w := 6) rfl rfl)).trans ?_
  unfold decodeVsel
  rw [fld_at hn hL 0 (lo := 0) (w := 7) rfl rfl]
  refine (if_pos ⟨(fld_at hn hL 2 (lo := 9) (w := 1) rfl rfl), (fld_at hn hL 4 (lo := 11) (w := 5) rfl rfl)⟩).trans ?_
  exact congr (congr (congr (congrArg Instr.vselCmpr (bits_of (v := d) (fld_at hn hL 6 (lo := 21) (w := 5) rfl rfl))) (bits_of (v := a) (fld_at hn hL 5 (lo := 16) (w := 5) rfl rfl))) (flag_of (v := x) (fld_at hn hL 3 (lo := 10) (w := 1) rfl rfl))) (bits_of (v := m) (fld_at hn hL 1 (lo := 7) (w := 2) rfl rfl))

/-- `vsel.expd`. -/
theorem vselExpd (d : BitVec 5) (a : BitVec 5) (x : Bool) (m : BitVec 2) : Statement (.vselExpd d a x m) := by
  intro _ _ _
  have hL : FieldsFit [(7, 1), (2, m.toNat), (1, 0), (1, x.toNat), (5, 0), (5, a.toNat), (5, d.toNat), (6, 28)] := ⟨by decide, m.isLt, by decide, x.toNat_lt, by decide, a.isLt, d.isLt, by decide, trivial⟩
  refine decode_of [(7, 1), (2, m.toNat), (1, 0), (1, x.toNat), (5, 0), (5, a.toNat), (5, d.toNat), (6, 28)] hL rfl (by change 1879048193 + d.toNat * 2097152 + a.toNat * 65536 + x.toNat * 1024 + m.toNat * 128 = _; simp only [ofDigits]; omega) fun num hn => ?_
  refine (decodeNat_vsel (fld_at hn hL 7 (lo := 26) (w := 6) rfl rfl)).trans ?_
  unfold decodeVsel
  rw [fld_at hn hL 0 (lo := 0) (w := 7) rfl rfl]
  refine (if_pos ⟨(fld_at hn hL 2 (lo := 9) (w := 1) rfl rfl), (fld_at hn hL 4 (lo := 11) (w := 5) rfl rfl)⟩).trans ?_
  exact congr (congr (congr (congrArg Instr.vselExpd (bits_of (v := d) (fld_at hn hL 6 (lo := 21) (w := 5) rfl rfl))) (bits_of (v := a) (fld_at hn hL 5 (lo := 16) (w := 5) rfl rfl))) (flag_of (v := x) (fld_at hn hL 3 (lo := 10) (w := 1) rfl rfl))) (bits_of (v := m) (fld_at hn hL 1 (lo := 7) (w := 2) rfl rfl))

/-- `vsel.topk`. -/
theorem vselTopk (d : BitVec 5) (a : BitVec 5) (b : BitVec 5) (x : Bool) (m : BitVec 2) : Statement (.vselTopk d a b x m) := by
  intro _ _ _
  have hL : FieldsFit [(7, 2), (2, m.toNat), (1, 0), (1, x.toNat), (5, b.toNat), (5, a.toNat), (5, d.toNat), (6, 28)] := ⟨by decide, m.isLt, by decide, x.toNat_lt, b.isLt, a.isLt, d.isLt, by decide, trivial⟩
  refine decode_of [(7, 2), (2, m.toNat), (1, 0), (1, x.toNat), (5, b.toNat), (5, a.toNat), (5, d.toNat), (6, 28)] hL rfl (by change 1879048194 + d.toNat * 2097152 + a.toNat * 65536 + b.toNat * 2048 + x.toNat * 1024 + m.toNat * 128 = _; simp only [ofDigits]; omega) fun num hn => ?_
  refine (decodeNat_vsel (fld_at hn hL 7 (lo := 26) (w := 6) rfl rfl)).trans ?_
  unfold decodeVsel
  rw [fld_at hn hL 0 (lo := 0) (w := 7) rfl rfl]
  refine (if_pos (fld_at hn hL 2 (lo := 9) (w := 1) rfl rfl)).trans ?_
  exact congr (congr (congr (congr (congrArg Instr.vselTopk (bits_of (v := d) (fld_at hn hL 6 (lo := 21) (w := 5) rfl rfl))) (bits_of (v := a) (fld_at hn hL 5 (lo := 16) (w := 5) rfl rfl))) (bits_of (v := b) (fld_at hn hL 4 (lo := 11) (w := 5) rfl rfl))) (flag_of (v := x) (fld_at hn hL 3 (lo := 10) (w := 1) rfl rfl))) (bits_of (v := m) (fld_at hn hL 1 (lo := 7) (w := 2) rfl rfl))

/-- `vsel.topkm`. -/
theorem vselTopkm (d : BitVec 4) (a : BitVec 5) (b : BitVec 5) (x : Bool) (m : BitVec 2) : Statement (.vselTopkm d a b x m) := by
  intro _ _ _
  have hL : FieldsFit [(7, 3), (2, m.toNat), (1, 0), (1, x.toNat), (5, b.toNat), (5, a.toNat), (4, d.toNat), (1, 0), (6, 28)] := ⟨by decide, m.isLt, by decide, x.toNat_lt, b.isLt, a.isLt, d.isLt, by decide, by decide, trivial⟩
  refine decode_of [(7, 3), (2, m.toNat), (1, 0), (1, x.toNat), (5, b.toNat), (5, a.toNat), (4, d.toNat), (1, 0), (6, 28)] hL rfl (by change 1879048195 + d.toNat * 2097152 + a.toNat * 65536 + b.toNat * 2048 + x.toNat * 1024 + m.toNat * 128 = _; simp only [ofDigits]; omega) fun num hn => ?_
  refine (decodeNat_vsel (fld_at hn hL 8 (lo := 26) (w := 6) rfl rfl)).trans ?_
  unfold decodeVsel
  rw [fld_at hn hL 0 (lo := 0) (w := 7) rfl rfl]
  refine (if_pos ⟨(fld_at hn hL 2 (lo := 9) (w := 1) rfl rfl), (fld_at hn hL 7 (lo := 25) (w := 1) rfl rfl)⟩).trans ?_
  exact congr (congr (congr (congr (congrArg Instr.vselTopkm (bits_of (v := d) (fld_at hn hL 6 (lo := 21) (w := 4) rfl rfl))) (bits_of (v := a) (fld_at hn hL 5 (lo := 16) (w := 5) rfl rfl))) (bits_of (v := b) (fld_at hn hL 4 (lo := 11) (w := 5) rfl rfl))) (flag_of (v := x) (fld_at hn hL 3 (lo := 10) (w := 1) rfl rfl))) (bits_of (v := m) (fld_at hn hL 1 (lo := 7) (w := 2) rfl rfl))

/-- `vsel.iota`. -/
theorem vselIota (d : BitVec 5) (m : BitVec 2) : Statement (.vselIota d m) := by
  intro _ _ _
  have hL : FieldsFit [(7, 4), (2, m.toNat), (12, 0), (5, d.toNat), (6, 28)] := ⟨by decide, m.isLt, by decide, d.isLt, by decide, trivial⟩
  refine decode_of [(7, 4), (2, m.toNat), (12, 0), (5, d.toNat), (6, 28)] hL rfl (by change 1879048196 + d.toNat * 2097152 + m.toNat * 128 = _; simp only [ofDigits]; omega) fun num hn => ?_
  refine (decodeNat_vsel (fld_at hn hL 4 (lo := 26) (w := 6) rfl rfl)).trans ?_
  unfold decodeVsel
  rw [fld_at hn hL 0 (lo := 0) (w := 7) rfl rfl]
  refine (if_pos (fld_at hn hL 2 (lo := 9) (w := 12) rfl rfl)).trans ?_
  exact congr (congrArg Instr.vselIota (bits_of (v := d) (fld_at hn hL 3 (lo := 21) (w := 5) rfl rfl))) (bits_of (v := m) (fld_at hn hL 1 (lo := 7) (w := 2) rfl rfl))

/-- `vsel.isect`. -/
theorem vselIsect (d : BitVec 5) (a : BitVec 5) (b : BitVec 5) (x : Bool) (y : Bool) (m : BitVec 2) : Statement (.vselIsect d a b x y m) := by
  intro _ _ _
  have hL : FieldsFit [(7, 5), (2, m.toNat), (1, y.toNat), (1, x.toNat), (5, b.toNat), (5, a.toNat), (5, d.toNat), (6, 28)] := ⟨by decide, m.isLt, y.toNat_lt, x.toNat_lt, b.isLt, a.isLt, d.isLt, by decide, trivial⟩
  refine decode_of [(7, 5), (2, m.toNat), (1, y.toNat), (1, x.toNat), (5, b.toNat), (5, a.toNat), (5, d.toNat), (6, 28)] hL rfl (by change 1879048197 + d.toNat * 2097152 + a.toNat * 65536 + b.toNat * 2048 + x.toNat * 1024 + y.toNat * 512 + m.toNat * 128 = _; simp only [ofDigits]; omega) fun num hn => ?_
  refine (decodeNat_vsel (fld_at hn hL 7 (lo := 26) (w := 6) rfl rfl)).trans ?_
  unfold decodeVsel
  rw [fld_at hn hL 0 (lo := 0) (w := 7) rfl rfl]
  exact congr (congr (congr (congr (congr (congrArg Instr.vselIsect (bits_of (v := d) (fld_at hn hL 6 (lo := 21) (w := 5) rfl rfl))) (bits_of (v := a) (fld_at hn hL 5 (lo := 16) (w := 5) rfl rfl))) (bits_of (v := b) (fld_at hn hL 4 (lo := 11) (w := 5) rfl rfl))) (flag_of (v := x) (fld_at hn hL 3 (lo := 10) (w := 1) rfl rfl))) (flag_of (v := y) (fld_at hn hL 2 (lo := 9) (w := 1) rfl rfl))) (bits_of (v := m) (fld_at hn hL 1 (lo := 7) (w := 2) rfl rfl))

/-- `vsel.eqsplit`. -/
theorem vselEqsplit (d : BitVec 5) (a : BitVec 5) (b : BitVec 5) (x : Bool) (y : Bool) (m : BitVec 2) : Statement (.vselEqsplit d a b x y m) := by
  intro _ _ _
  have hL : FieldsFit [(7, 6), (2, m.toNat), (1, y.toNat), (1, x.toNat), (5, b.toNat), (5, a.toNat), (5, d.toNat), (6, 28)] := ⟨by decide, m.isLt, y.toNat_lt, x.toNat_lt, b.isLt, a.isLt, d.isLt, by decide, trivial⟩
  refine decode_of [(7, 6), (2, m.toNat), (1, y.toNat), (1, x.toNat), (5, b.toNat), (5, a.toNat), (5, d.toNat), (6, 28)] hL rfl (by change 1879048198 + d.toNat * 2097152 + a.toNat * 65536 + b.toNat * 2048 + x.toNat * 1024 + y.toNat * 512 + m.toNat * 128 = _; simp only [ofDigits]; omega) fun num hn => ?_
  refine (decodeNat_vsel (fld_at hn hL 7 (lo := 26) (w := 6) rfl rfl)).trans ?_
  unfold decodeVsel
  rw [fld_at hn hL 0 (lo := 0) (w := 7) rfl rfl]
  exact congr (congr (congr (congr (congr (congrArg Instr.vselEqsplit (bits_of (v := d) (fld_at hn hL 6 (lo := 21) (w := 5) rfl rfl))) (bits_of (v := a) (fld_at hn hL 5 (lo := 16) (w := 5) rfl rfl))) (bits_of (v := b) (fld_at hn hL 4 (lo := 11) (w := 5) rfl rfl))) (flag_of (v := x) (fld_at hn hL 3 (lo := 10) (w := 1) rfl rfl))) (flag_of (v := y) (fld_at hn hL 2 (lo := 9) (w := 1) rfl rfl))) (bits_of (v := m) (fld_at hn hL 1 (lo := 7) (w := 2) rfl rfl))

/-- `vrng.bits`. -/
theorem vrngBits (d : BitVec 5) (m : BitVec 2) : Statement (.vrngBits d m) := by
  intro _ _ _
  have hL : FieldsFit [(7, 0), (2, m.toNat), (12, 0), (5, d.toNat), (6, 29)] := ⟨by decide, m.isLt, by decide, d.isLt, by decide, trivial⟩
  refine decode_of [(7, 0), (2, m.toNat), (12, 0), (5, d.toNat), (6, 29)] hL rfl (by change 1946157056 + d.toNat * 2097152 + m.toNat * 128 = _; simp only [ofDigits]; omega) fun num hn => ?_
  refine (decodeNat_vrng (fld_at hn hL 4 (lo := 26) (w := 6) rfl rfl)).trans ?_
  unfold decodeVrng
  rw [fld_at hn hL 0 (lo := 0) (w := 7) rfl rfl]
  refine (if_pos (fld_at hn hL 2 (lo := 9) (w := 12) rfl rfl)).trans ?_
  exact congr (congrArg Instr.vrngBits (bits_of (v := d) (fld_at hn hL 3 (lo := 21) (w := 5) rfl rfl))) (bits_of (v := m) (fld_at hn hL 1 (lo := 7) (w := 2) rfl rfl))

/-- `vrng.unif`. -/
theorem vrngUnif (d : BitVec 5) (m : BitVec 2) : Statement (.vrngUnif d m) := by
  intro _ _ _
  have hL : FieldsFit [(7, 1), (2, m.toNat), (12, 0), (5, d.toNat), (6, 29)] := ⟨by decide, m.isLt, by decide, d.isLt, by decide, trivial⟩
  refine decode_of [(7, 1), (2, m.toNat), (12, 0), (5, d.toNat), (6, 29)] hL rfl (by change 1946157057 + d.toNat * 2097152 + m.toNat * 128 = _; simp only [ofDigits]; omega) fun num hn => ?_
  refine (decodeNat_vrng (fld_at hn hL 4 (lo := 26) (w := 6) rfl rfl)).trans ?_
  unfold decodeVrng
  rw [fld_at hn hL 0 (lo := 0) (w := 7) rfl rfl]
  refine (if_pos (fld_at hn hL 2 (lo := 9) (w := 12) rfl rfl)).trans ?_
  exact congr (congrArg Instr.vrngUnif (bits_of (v := d) (fld_at hn hL 3 (lo := 21) (w := 5) rfl rfl))) (bits_of (v := m) (fld_at hn hL 1 (lo := 7) (w := 2) rfl rfl))

/-- `vld.unit`. -/
theorem vldUnit (d : BitVec 5) (a : BitVec 5) (m : BitVec 2) : Statement (.vldUnit d a m) := by
  intro _ _ _
  have hL : FieldsFit [(4, 0), (3, 0), (2, m.toNat), (7, 0), (5, a.toNat), (5, d.toNat), (6, 32)] := ⟨by decide, by decide, m.isLt, by decide, a.isLt, d.isLt, by decide, trivial⟩
  refine decode_of [(4, 0), (3, 0), (2, m.toNat), (7, 0), (5, a.toNat), (5, d.toNat), (6, 32)] hL rfl (by change 2147483648 + d.toNat * 2097152 + a.toNat * 65536 + m.toNat * 128 = _; simp only [ofDigits]; omega) fun num hn => ?_
  refine (decodeNat_vld (fld_at hn hL 6 (lo := 26) (w := 6) rfl rfl)).trans ?_
  unfold decodeVld
  rw [fld_at hn hL 0 (lo := 0) (w := 4) rfl rfl]
  refine (if_pos ⟨(fld_at hn hL 1 (lo := 4) (w := 3) rfl rfl), (fld_at hn hL 3 (lo := 9) (w := 7) rfl rfl)⟩).trans ?_
  exact congr (congr (congrArg Instr.vldUnit (bits_of (v := d) (fld_at hn hL 5 (lo := 21) (w := 5) rfl rfl))) (bits_of (v := a) (fld_at hn hL 4 (lo := 16) (w := 5) rfl rfl))) (bits_of (v := m) (fld_at hn hL 2 (lo := 7) (w := 2) rfl rfl))

/-- `vld.strd`. -/
theorem vldStrd (d : BitVec 5) (a : BitVec 5) (b : BitVec 5) (m : BitVec 2) : Statement (.vldStrd d a b m) := by
  intro _ _ _
  have hL : FieldsFit [(4, 1), (3, 0), (2, m.toNat), (2, 0), (5, b.toNat), (5, a.toNat), (5, d.toNat), (6, 32)] := ⟨by decide, by decide, m.isLt, by decide, b.isLt, a.isLt, d.isLt, by decide, trivial⟩
  refine decode_of [(4, 1), (3, 0), (2, m.toNat), (2, 0), (5, b.toNat), (5, a.toNat), (5, d.toNat), (6, 32)] hL rfl (by change 2147483649 + d.toNat * 2097152 + a.toNat * 65536 + b.toNat * 2048 + m.toNat * 128 = _; simp only [ofDigits]; omega) fun num hn => ?_
  refine (decodeNat_vld (fld_at hn hL 7 (lo := 26) (w := 6) rfl rfl)).trans ?_
  unfold decodeVld
  rw [fld_at hn hL 0 (lo := 0) (w := 4) rfl rfl]
  refine (if_pos ⟨(fld_at hn hL 1 (lo := 4) (w := 3) rfl rfl), (fld_at hn hL 3 (lo := 9) (w := 2) rfl rfl)⟩).trans ?_
  exact congr (congr (congr (congrArg Instr.vldStrd (bits_of (v := d) (fld_at hn hL 6 (lo := 21) (w := 5) rfl rfl))) (bits_of (v := a) (fld_at hn hL 5 (lo := 16) (w := 5) rfl rfl))) (bits_of (v := b) (fld_at hn hL 4 (lo := 11) (w := 5) rfl rfl))) (bits_of (v := m) (fld_at hn hL 2 (lo := 7) (w := 2) rfl rfl))

/-- `vld.idx`. -/
theorem vldIdx (d : BitVec 5) (a : BitVec 5) (b : BitVec 5) (y : Bool) (m : BitVec 2) : Statement (.vldIdx d a b y m) := by
  intro _ _ _
  have hL : FieldsFit [(4, 2), (3, 0), (2, m.toNat), (1, y.toNat), (1, 0), (5, b.toNat), (5, a.toNat), (5, d.toNat), (6, 32)] := ⟨by decide, by decide, m.isLt, y.toNat_lt, by decide, b.isLt, a.isLt, d.isLt, by decide, trivial⟩
  refine decode_of [(4, 2), (3, 0), (2, m.toNat), (1, y.toNat), (1, 0), (5, b.toNat), (5, a.toNat), (5, d.toNat), (6, 32)] hL rfl (by change 2147483650 + d.toNat * 2097152 + a.toNat * 65536 + b.toNat * 2048 + y.toNat * 512 + m.toNat * 128 = _; simp only [ofDigits]; omega) fun num hn => ?_
  refine (decodeNat_vld (fld_at hn hL 8 (lo := 26) (w := 6) rfl rfl)).trans ?_
  unfold decodeVld
  rw [fld_at hn hL 0 (lo := 0) (w := 4) rfl rfl]
  refine (if_pos ⟨(fld_at hn hL 1 (lo := 4) (w := 3) rfl rfl), (fld_at hn hL 4 (lo := 10) (w := 1) rfl rfl)⟩).trans ?_
  exact congr (congr (congr (congr (congrArg Instr.vldIdx (bits_of (v := d) (fld_at hn hL 7 (lo := 21) (w := 5) rfl rfl))) (bits_of (v := a) (fld_at hn hL 6 (lo := 16) (w := 5) rfl rfl))) (bits_of (v := b) (fld_at hn hL 5 (lo := 11) (w := 5) rfl rfl))) (flag_of (v := y) (fld_at hn hL 3 (lo := 9) (w := 1) rfl rfl))) (bits_of (v := m) (fld_at hn hL 2 (lo := 7) (w := 2) rfl rfl))

/-- `vld.seg`. -/
theorem vldSeg (d : BitVec 5) (a : BitVec 5) (m : BitVec 2) (u : BitVec 3) : Statement (.vldSeg d a m u) := by
  intro _ _ _
  have hL : FieldsFit [(4, 3), (3, u.toNat), (2, m.toNat), (7, 0), (5, a.toNat), (5, d.toNat), (6, 32)] := ⟨by decide, u.isLt, m.isLt, by decide, a.isLt, d.isLt, by decide, trivial⟩
  refine decode_of [(4, 3), (3, u.toNat), (2, m.toNat), (7, 0), (5, a.toNat), (5, d.toNat), (6, 32)] hL rfl (by change 2147483651 + d.toNat * 2097152 + a.toNat * 65536 + m.toNat * 128 + u.toNat * 16 = _; simp only [ofDigits]; omega) fun num hn => ?_
  refine (decodeNat_vld (fld_at hn hL 6 (lo := 26) (w := 6) rfl rfl)).trans ?_
  unfold decodeVld
  rw [fld_at hn hL 0 (lo := 0) (w := 4) rfl rfl]
  refine (if_pos (fld_at hn hL 3 (lo := 9) (w := 7) rfl rfl)).trans ?_
  exact congr (congr (congr (congrArg Instr.vldSeg (bits_of (v := d) (fld_at hn hL 5 (lo := 21) (w := 5) rfl rfl))) (bits_of (v := a) (fld_at hn hL 4 (lo := 16) (w := 5) rfl rfl))) (bits_of (v := m) (fld_at hn hL 2 (lo := 7) (w := 2) rfl rfl))) (bits_of (v := u) (fld_at hn hL 1 (lo := 4) (w := 3) rfl rfl))

/-- `vld.tile`. -/
theorem vldTile (d : BitVec 5) (a : BitVec 5) (b : BitVec 5) (m : BitVec 2) : Statement (.vldTile d a b m) := by
  intro _ _ _
  have hL : FieldsFit [(4, 4), (3, 0), (2, m.toNat), (2, 0), (5, b.toNat), (5, a.toNat), (5, d.toNat), (6, 32)] := ⟨by decide, by decide, m.isLt, by decide, b.isLt, a.isLt, d.isLt, by decide, trivial⟩
  refine decode_of [(4, 4), (3, 0), (2, m.toNat), (2, 0), (5, b.toNat), (5, a.toNat), (5, d.toNat), (6, 32)] hL rfl (by change 2147483652 + d.toNat * 2097152 + a.toNat * 65536 + b.toNat * 2048 + m.toNat * 128 = _; simp only [ofDigits]; omega) fun num hn => ?_
  refine (decodeNat_vld (fld_at hn hL 7 (lo := 26) (w := 6) rfl rfl)).trans ?_
  unfold decodeVld
  rw [fld_at hn hL 0 (lo := 0) (w := 4) rfl rfl]
  refine (if_pos ⟨(fld_at hn hL 1 (lo := 4) (w := 3) rfl rfl), (fld_at hn hL 3 (lo := 9) (w := 2) rfl rfl)⟩).trans ?_
  exact congr (congr (congr (congrArg Instr.vldTile (bits_of (v := d) (fld_at hn hL 6 (lo := 21) (w := 5) rfl rfl))) (bits_of (v := a) (fld_at hn hL 5 (lo := 16) (w := 5) rfl rfl))) (bits_of (v := b) (fld_at hn hL 4 (lo := 11) (w := 5) rfl rfl))) (bits_of (v := m) (fld_at hn hL 2 (lo := 7) (w := 2) rfl rfl))

/-- `vld.sp`. -/
theorem vldSp (d : BitVec 5) (a : BitVec 5) (m : BitVec 2) : Statement (.vldSp d a m) := by
  intro _ _ _
  have hL : FieldsFit [(4, 5), (3, 0), (2, m.toNat), (7, 0), (5, a.toNat), (5, d.toNat), (6, 32)] := ⟨by decide, by decide, m.isLt, by decide, a.isLt, d.isLt, by decide, trivial⟩
  refine decode_of [(4, 5), (3, 0), (2, m.toNat), (7, 0), (5, a.toNat), (5, d.toNat), (6, 32)] hL rfl (by change 2147483653 + d.toNat * 2097152 + a.toNat * 65536 + m.toNat * 128 = _; simp only [ofDigits]; omega) fun num hn => ?_
  refine (decodeNat_vld (fld_at hn hL 6 (lo := 26) (w := 6) rfl rfl)).trans ?_
  unfold decodeVld
  rw [fld_at hn hL 0 (lo := 0) (w := 4) rfl rfl]
  refine (if_pos ⟨(fld_at hn hL 1 (lo := 4) (w := 3) rfl rfl), (fld_at hn hL 3 (lo := 9) (w := 7) rfl rfl)⟩).trans ?_
  exact congr (congr (congrArg Instr.vldSp (bits_of (v := d) (fld_at hn hL 5 (lo := 21) (w := 5) rfl rfl))) (bits_of (v := a) (fld_at hn hL 4 (lo := 16) (w := 5) rfl rfl))) (bits_of (v := m) (fld_at hn hL 2 (lo := 7) (w := 2) rfl rfl))

/-- `vld.spx`. -/
theorem vldSpx (d : BitVec 5) (a : BitVec 5) (b : BitVec 5) (m : BitVec 2) : Statement (.vldSpx d a b m) := by
  intro _ _ _
  have hL : FieldsFit [(4, 6), (3, 0), (2, m.toNat), (2, 0), (5, b.toNat), (5, a.toNat), (5, d.toNat), (6, 32)] := ⟨by decide, by decide, m.isLt, by decide, b.isLt, a.isLt, d.isLt, by decide, trivial⟩
  refine decode_of [(4, 6), (3, 0), (2, m.toNat), (2, 0), (5, b.toNat), (5, a.toNat), (5, d.toNat), (6, 32)] hL rfl (by change 2147483654 + d.toNat * 2097152 + a.toNat * 65536 + b.toNat * 2048 + m.toNat * 128 = _; simp only [ofDigits]; omega) fun num hn => ?_
  refine (decodeNat_vld (fld_at hn hL 7 (lo := 26) (w := 6) rfl rfl)).trans ?_
  unfold decodeVld
  rw [fld_at hn hL 0 (lo := 0) (w := 4) rfl rfl]
  refine (if_pos ⟨(fld_at hn hL 1 (lo := 4) (w := 3) rfl rfl), (fld_at hn hL 3 (lo := 9) (w := 2) rfl rfl)⟩).trans ?_
  exact congr (congr (congr (congrArg Instr.vldSpx (bits_of (v := d) (fld_at hn hL 6 (lo := 21) (w := 5) rfl rfl))) (bits_of (v := a) (fld_at hn hL 5 (lo := 16) (w := 5) rfl rfl))) (bits_of (v := b) (fld_at hn hL 4 (lo := 11) (w := 5) rfl rfl))) (bits_of (v := m) (fld_at hn hL 2 (lo := 7) (w := 2) rfl rfl))

/-- `vld.fill`. -/
theorem vldFill (d : BitVec 5) (a : BitVec 5) : Statement (.vldFill d a) := by
  intro _ _ _
  have hL : FieldsFit [(4, 7), (12, 0), (5, a.toNat), (5, d.toNat), (6, 32)] := ⟨by decide, by decide, a.isLt, d.isLt, by decide, trivial⟩
  refine decode_of [(4, 7), (12, 0), (5, a.toNat), (5, d.toNat), (6, 32)] hL rfl (by change 2147483655 + d.toNat * 2097152 + a.toNat * 65536 = _; simp only [ofDigits]; omega) fun num hn => ?_
  refine (decodeNat_vld (fld_at hn hL 4 (lo := 26) (w := 6) rfl rfl)).trans ?_
  unfold decodeVld
  rw [fld_at hn hL 0 (lo := 0) (w := 4) rfl rfl]
  refine (if_pos (fld_at hn hL 1 (lo := 4) (w := 12) rfl rfl)).trans ?_
  exact congr (congrArg Instr.vldFill (bits_of (v := d) (fld_at hn hL 3 (lo := 21) (w := 5) rfl rfl))) (bits_of (v := a) (fld_at hn hL 2 (lo := 16) (w := 5) rfl rfl))

/-- `vld.prb`. -/
theorem vldPrb (d : BitVec 5) (a : BitVec 5) (b : BitVec 5) (y : Bool) (m : BitVec 2) : Statement (.vldPrb d a b y m) := by
  intro _ _ _
  have hL : FieldsFit [(4, 8), (3, 0), (2, m.toNat), (1, y.toNat), (1, 0), (5, b.toNat), (5, a.toNat), (5, d.toNat), (6, 32)] := ⟨by decide, by decide, m.isLt, y.toNat_lt, by decide, b.isLt, a.isLt, d.isLt, by decide, trivial⟩
  refine decode_of [(4, 8), (3, 0), (2, m.toNat), (1, y.toNat), (1, 0), (5, b.toNat), (5, a.toNat), (5, d.toNat), (6, 32)] hL rfl (by change 2147483656 + d.toNat * 2097152 + a.toNat * 65536 + b.toNat * 2048 + y.toNat * 512 + m.toNat * 128 = _; simp only [ofDigits]; omega) fun num hn => ?_
  refine (decodeNat_vld (fld_at hn hL 8 (lo := 26) (w := 6) rfl rfl)).trans ?_
  unfold decodeVld
  rw [fld_at hn hL 0 (lo := 0) (w := 4) rfl rfl]
  refine (if_pos ⟨(fld_at hn hL 1 (lo := 4) (w := 3) rfl rfl), (fld_at hn hL 4 (lo := 10) (w := 1) rfl rfl)⟩).trans ?_
  exact congr (congr (congr (congr (congrArg Instr.vldPrb (bits_of (v := d) (fld_at hn hL 7 (lo := 21) (w := 5) rfl rfl))) (bits_of (v := a) (fld_at hn hL 6 (lo := 16) (w := 5) rfl rfl))) (bits_of (v := b) (fld_at hn hL 5 (lo := 11) (w := 5) rfl rfl))) (flag_of (v := y) (fld_at hn hL 3 (lo := 9) (w := 1) rfl rfl))) (bits_of (v := m) (fld_at hn hL 2 (lo := 7) (w := 2) rfl rfl))

/-- `vst.unit`. -/
theorem vstUnit (d : BitVec 5) (a : BitVec 5) (x : Bool) (m : BitVec 2) : Statement (.vstUnit d a x m) := by
  intro _ _ _
  have hL : FieldsFit [(4, 0), (3, 0), (2, m.toNat), (1, 0), (1, x.toNat), (5, 0), (5, a.toNat), (5, d.toNat), (6, 33)] := ⟨by decide, by decide, m.isLt, by decide, x.toNat_lt, by decide, a.isLt, d.isLt, by decide, trivial⟩
  refine decode_of [(4, 0), (3, 0), (2, m.toNat), (1, 0), (1, x.toNat), (5, 0), (5, a.toNat), (5, d.toNat), (6, 33)] hL rfl (by change 2214592512 + d.toNat * 2097152 + a.toNat * 65536 + x.toNat * 1024 + m.toNat * 128 = _; simp only [ofDigits]; omega) fun num hn => ?_
  refine (decodeNat_vst (fld_at hn hL 8 (lo := 26) (w := 6) rfl rfl)).trans ?_
  unfold decodeVst
  rw [fld_at hn hL 0 (lo := 0) (w := 4) rfl rfl]
  refine (if_pos ⟨(fld_at hn hL 1 (lo := 4) (w := 3) rfl rfl), (fld_at hn hL 3 (lo := 9) (w := 1) rfl rfl), (fld_at hn hL 5 (lo := 11) (w := 5) rfl rfl)⟩).trans ?_
  exact congr (congr (congr (congrArg Instr.vstUnit (bits_of (v := d) (fld_at hn hL 7 (lo := 21) (w := 5) rfl rfl))) (bits_of (v := a) (fld_at hn hL 6 (lo := 16) (w := 5) rfl rfl))) (flag_of (v := x) (fld_at hn hL 4 (lo := 10) (w := 1) rfl rfl))) (bits_of (v := m) (fld_at hn hL 2 (lo := 7) (w := 2) rfl rfl))

/-- `vst.strd`. -/
theorem vstStrd (d : BitVec 5) (a : BitVec 5) (b : BitVec 5) (x : Bool) (m : BitVec 2) : Statement (.vstStrd d a b x m) := by
  intro _ _ _
  have hL : FieldsFit [(4, 1), (3, 0), (2, m.toNat), (1, 0), (1, x.toNat), (5, b.toNat), (5, a.toNat), (5, d.toNat), (6, 33)] := ⟨by decide, by decide, m.isLt, by decide, x.toNat_lt, b.isLt, a.isLt, d.isLt, by decide, trivial⟩
  refine decode_of [(4, 1), (3, 0), (2, m.toNat), (1, 0), (1, x.toNat), (5, b.toNat), (5, a.toNat), (5, d.toNat), (6, 33)] hL rfl (by change 2214592513 + d.toNat * 2097152 + a.toNat * 65536 + b.toNat * 2048 + x.toNat * 1024 + m.toNat * 128 = _; simp only [ofDigits]; omega) fun num hn => ?_
  refine (decodeNat_vst (fld_at hn hL 8 (lo := 26) (w := 6) rfl rfl)).trans ?_
  unfold decodeVst
  rw [fld_at hn hL 0 (lo := 0) (w := 4) rfl rfl]
  refine (if_pos ⟨(fld_at hn hL 1 (lo := 4) (w := 3) rfl rfl), (fld_at hn hL 3 (lo := 9) (w := 1) rfl rfl)⟩).trans ?_
  exact congr (congr (congr (congr (congrArg Instr.vstStrd (bits_of (v := d) (fld_at hn hL 7 (lo := 21) (w := 5) rfl rfl))) (bits_of (v := a) (fld_at hn hL 6 (lo := 16) (w := 5) rfl rfl))) (bits_of (v := b) (fld_at hn hL 5 (lo := 11) (w := 5) rfl rfl))) (flag_of (v := x) (fld_at hn hL 4 (lo := 10) (w := 1) rfl rfl))) (bits_of (v := m) (fld_at hn hL 2 (lo := 7) (w := 2) rfl rfl))

/-- `vst.idx`. -/
theorem vstIdx (d : BitVec 5) (a : BitVec 5) (b : BitVec 5) (x : Bool) (y : Bool) (m : BitVec 2) : Statement (.vstIdx d a b x y m) := by
  intro _ _ _
  have hL : FieldsFit [(4, 2), (3, 0), (2, m.toNat), (1, y.toNat), (1, x.toNat), (5, b.toNat), (5, a.toNat), (5, d.toNat), (6, 33)] := ⟨by decide, by decide, m.isLt, y.toNat_lt, x.toNat_lt, b.isLt, a.isLt, d.isLt, by decide, trivial⟩
  refine decode_of [(4, 2), (3, 0), (2, m.toNat), (1, y.toNat), (1, x.toNat), (5, b.toNat), (5, a.toNat), (5, d.toNat), (6, 33)] hL rfl (by change 2214592514 + d.toNat * 2097152 + a.toNat * 65536 + b.toNat * 2048 + x.toNat * 1024 + y.toNat * 512 + m.toNat * 128 = _; simp only [ofDigits]; omega) fun num hn => ?_
  refine (decodeNat_vst (fld_at hn hL 8 (lo := 26) (w := 6) rfl rfl)).trans ?_
  unfold decodeVst
  rw [fld_at hn hL 0 (lo := 0) (w := 4) rfl rfl]
  refine (if_pos (fld_at hn hL 1 (lo := 4) (w := 3) rfl rfl)).trans ?_
  exact congr (congr (congr (congr (congr (congrArg Instr.vstIdx (bits_of (v := d) (fld_at hn hL 7 (lo := 21) (w := 5) rfl rfl))) (bits_of (v := a) (fld_at hn hL 6 (lo := 16) (w := 5) rfl rfl))) (bits_of (v := b) (fld_at hn hL 5 (lo := 11) (w := 5) rfl rfl))) (flag_of (v := x) (fld_at hn hL 4 (lo := 10) (w := 1) rfl rfl))) (flag_of (v := y) (fld_at hn hL 3 (lo := 9) (w := 1) rfl rfl))) (bits_of (v := m) (fld_at hn hL 2 (lo := 7) (w := 2) rfl rfl))

/-- `vst.seg`. -/
theorem vstSeg (d : BitVec 5) (a : BitVec 5) (x : Bool) (m : BitVec 2) (u : BitVec 3) : Statement (.vstSeg d a x m u) := by
  intro _ _ _
  have hL : FieldsFit [(4, 3), (3, u.toNat), (2, m.toNat), (1, 0), (1, x.toNat), (5, 0), (5, a.toNat), (5, d.toNat), (6, 33)] := ⟨by decide, u.isLt, m.isLt, by decide, x.toNat_lt, by decide, a.isLt, d.isLt, by decide, trivial⟩
  refine decode_of [(4, 3), (3, u.toNat), (2, m.toNat), (1, 0), (1, x.toNat), (5, 0), (5, a.toNat), (5, d.toNat), (6, 33)] hL rfl (by change 2214592515 + d.toNat * 2097152 + a.toNat * 65536 + x.toNat * 1024 + m.toNat * 128 + u.toNat * 16 = _; simp only [ofDigits]; omega) fun num hn => ?_
  refine (decodeNat_vst (fld_at hn hL 8 (lo := 26) (w := 6) rfl rfl)).trans ?_
  unfold decodeVst
  rw [fld_at hn hL 0 (lo := 0) (w := 4) rfl rfl]
  refine (if_pos ⟨(fld_at hn hL 3 (lo := 9) (w := 1) rfl rfl), (fld_at hn hL 5 (lo := 11) (w := 5) rfl rfl)⟩).trans ?_
  exact congr (congr (congr (congr (congrArg Instr.vstSeg (bits_of (v := d) (fld_at hn hL 7 (lo := 21) (w := 5) rfl rfl))) (bits_of (v := a) (fld_at hn hL 6 (lo := 16) (w := 5) rfl rfl))) (flag_of (v := x) (fld_at hn hL 4 (lo := 10) (w := 1) rfl rfl))) (bits_of (v := m) (fld_at hn hL 2 (lo := 7) (w := 2) rfl rfl))) (bits_of (v := u) (fld_at hn hL 1 (lo := 4) (w := 3) rfl rfl))

/-- `vst.tile`. -/
theorem vstTile (d : BitVec 5) (a : BitVec 5) (b : BitVec 5) (x : Bool) (m : BitVec 2) : Statement (.vstTile d a b x m) := by
  intro _ _ _
  have hL : FieldsFit [(4, 4), (3, 0), (2, m.toNat), (1, 0), (1, x.toNat), (5, b.toNat), (5, a.toNat), (5, d.toNat), (6, 33)] := ⟨by decide, by decide, m.isLt, by decide, x.toNat_lt, b.isLt, a.isLt, d.isLt, by decide, trivial⟩
  refine decode_of [(4, 4), (3, 0), (2, m.toNat), (1, 0), (1, x.toNat), (5, b.toNat), (5, a.toNat), (5, d.toNat), (6, 33)] hL rfl (by change 2214592516 + d.toNat * 2097152 + a.toNat * 65536 + b.toNat * 2048 + x.toNat * 1024 + m.toNat * 128 = _; simp only [ofDigits]; omega) fun num hn => ?_
  refine (decodeNat_vst (fld_at hn hL 8 (lo := 26) (w := 6) rfl rfl)).trans ?_
  unfold decodeVst
  rw [fld_at hn hL 0 (lo := 0) (w := 4) rfl rfl]
  refine (if_pos ⟨(fld_at hn hL 1 (lo := 4) (w := 3) rfl rfl), (fld_at hn hL 3 (lo := 9) (w := 1) rfl rfl)⟩).trans ?_
  exact congr (congr (congr (congr (congrArg Instr.vstTile (bits_of (v := d) (fld_at hn hL 7 (lo := 21) (w := 5) rfl rfl))) (bits_of (v := a) (fld_at hn hL 6 (lo := 16) (w := 5) rfl rfl))) (bits_of (v := b) (fld_at hn hL 5 (lo := 11) (w := 5) rfl rfl))) (flag_of (v := x) (fld_at hn hL 4 (lo := 10) (w := 1) rfl rfl))) (bits_of (v := m) (fld_at hn hL 2 (lo := 7) (w := 2) rfl rfl))

/-- `vst.sp`. -/
theorem vstSp (d : BitVec 5) (a : BitVec 5) (x : Bool) (m : BitVec 2) : Statement (.vstSp d a x m) := by
  intro _ _ _
  have hL : FieldsFit [(4, 5), (3, 0), (2, m.toNat), (1, 0), (1, x.toNat), (5, 0), (5, a.toNat), (5, d.toNat), (6, 33)] := ⟨by decide, by decide, m.isLt, by decide, x.toNat_lt, by decide, a.isLt, d.isLt, by decide, trivial⟩
  refine decode_of [(4, 5), (3, 0), (2, m.toNat), (1, 0), (1, x.toNat), (5, 0), (5, a.toNat), (5, d.toNat), (6, 33)] hL rfl (by change 2214592517 + d.toNat * 2097152 + a.toNat * 65536 + x.toNat * 1024 + m.toNat * 128 = _; simp only [ofDigits]; omega) fun num hn => ?_
  refine (decodeNat_vst (fld_at hn hL 8 (lo := 26) (w := 6) rfl rfl)).trans ?_
  unfold decodeVst
  rw [fld_at hn hL 0 (lo := 0) (w := 4) rfl rfl]
  refine (if_pos ⟨(fld_at hn hL 1 (lo := 4) (w := 3) rfl rfl), (fld_at hn hL 3 (lo := 9) (w := 1) rfl rfl), (fld_at hn hL 5 (lo := 11) (w := 5) rfl rfl)⟩).trans ?_
  exact congr (congr (congr (congrArg Instr.vstSp (bits_of (v := d) (fld_at hn hL 7 (lo := 21) (w := 5) rfl rfl))) (bits_of (v := a) (fld_at hn hL 6 (lo := 16) (w := 5) rfl rfl))) (flag_of (v := x) (fld_at hn hL 4 (lo := 10) (w := 1) rfl rfl))) (bits_of (v := m) (fld_at hn hL 2 (lo := 7) (w := 2) rfl rfl))

/-- `vst.spx`. -/
theorem vstSpx (d : BitVec 5) (a : BitVec 5) (b : BitVec 5) (x : Bool) (m : BitVec 2) : Statement (.vstSpx d a b x m) := by
  intro _ _ _
  have hL : FieldsFit [(4, 6), (3, 0), (2, m.toNat), (1, 0), (1, x.toNat), (5, b.toNat), (5, a.toNat), (5, d.toNat), (6, 33)] := ⟨by decide, by decide, m.isLt, by decide, x.toNat_lt, b.isLt, a.isLt, d.isLt, by decide, trivial⟩
  refine decode_of [(4, 6), (3, 0), (2, m.toNat), (1, 0), (1, x.toNat), (5, b.toNat), (5, a.toNat), (5, d.toNat), (6, 33)] hL rfl (by change 2214592518 + d.toNat * 2097152 + a.toNat * 65536 + b.toNat * 2048 + x.toNat * 1024 + m.toNat * 128 = _; simp only [ofDigits]; omega) fun num hn => ?_
  refine (decodeNat_vst (fld_at hn hL 8 (lo := 26) (w := 6) rfl rfl)).trans ?_
  unfold decodeVst
  rw [fld_at hn hL 0 (lo := 0) (w := 4) rfl rfl]
  refine (if_pos ⟨(fld_at hn hL 1 (lo := 4) (w := 3) rfl rfl), (fld_at hn hL 3 (lo := 9) (w := 1) rfl rfl)⟩).trans ?_
  exact congr (congr (congr (congr (congrArg Instr.vstSpx (bits_of (v := d) (fld_at hn hL 7 (lo := 21) (w := 5) rfl rfl))) (bits_of (v := a) (fld_at hn hL 6 (lo := 16) (w := 5) rfl rfl))) (bits_of (v := b) (fld_at hn hL 5 (lo := 11) (w := 5) rfl rfl))) (flag_of (v := x) (fld_at hn hL 4 (lo := 10) (w := 1) rfl rfl))) (bits_of (v := m) (fld_at hn hL 2 (lo := 7) (w := 2) rfl rfl))

/-- `vst.spill`. -/
theorem vstSpill (d : BitVec 5) (a : BitVec 5) (x : Bool) : Statement (.vstSpill d a x) := by
  intro _ _ _
  have hL : FieldsFit [(4, 7), (6, 0), (1, x.toNat), (5, 0), (5, a.toNat), (5, d.toNat), (6, 33)] := ⟨by decide, by decide, x.toNat_lt, by decide, a.isLt, d.isLt, by decide, trivial⟩
  refine decode_of [(4, 7), (6, 0), (1, x.toNat), (5, 0), (5, a.toNat), (5, d.toNat), (6, 33)] hL rfl (by change 2214592519 + d.toNat * 2097152 + a.toNat * 65536 + x.toNat * 1024 = _; simp only [ofDigits]; omega) fun num hn => ?_
  refine (decodeNat_vst (fld_at hn hL 6 (lo := 26) (w := 6) rfl rfl)).trans ?_
  unfold decodeVst
  rw [fld_at hn hL 0 (lo := 0) (w := 4) rfl rfl]
  refine (if_pos ⟨(fld_at hn hL 1 (lo := 4) (w := 6) rfl rfl), (fld_at hn hL 3 (lo := 11) (w := 5) rfl rfl)⟩).trans ?_
  exact congr (congr (congrArg Instr.vstSpill (bits_of (v := d) (fld_at hn hL 5 (lo := 21) (w := 5) rfl rfl))) (bits_of (v := a) (fld_at hn hL 4 (lo := 16) (w := 5) rfl rfl))) (flag_of (v := x) (fld_at hn hL 2 (lo := 10) (w := 1) rfl rfl))

/-- `vstr.sbind`. -/
theorem vstrSbind (d : BitVec 2) (a : BitVec 5) (m : BitVec 2) : Statement (.vstrSbind d a m) := by
  intro _ _ _
  have hL : FieldsFit [(7, 0), (2, m.toNat), (7, 0), (5, a.toNat), (2, 0), (2, d.toNat), (1, 0), (6, 34)] := ⟨by decide, m.isLt, by decide, a.isLt, by decide, d.isLt, by decide, by decide, trivial⟩
  refine decode_of [(7, 0), (2, m.toNat), (7, 0), (5, a.toNat), (2, 0), (2, d.toNat), (1, 0), (6, 34)] hL rfl (by change 2281701376 + d.toNat * 8388608 + a.toNat * 65536 + m.toNat * 128 = _; simp only [ofDigits]; omega) fun num hn => ?_
  refine (decodeNat_vstr (fld_at hn hL 7 (lo := 26) (w := 6) rfl rfl)).trans ?_
  unfold decodeVstr
  rw [fld_at hn hL 0 (lo := 0) (w := 7) rfl rfl]
  refine (if_pos ⟨(fld_at hn hL 2 (lo := 9) (w := 7) rfl rfl), (fld_at hn hL 4 (lo := 21) (w := 2) rfl rfl), (fld_at hn hL 6 (lo := 25) (w := 1) rfl rfl)⟩).trans ?_
  exact congr (congr (congrArg Instr.vstrSbind (bits_of (v := d) (fld_at hn hL 5 (lo := 23) (w := 2) rfl rfl))) (bits_of (v := a) (fld_at hn hL 3 (lo := 16) (w := 5) rfl rfl))) (bits_of (v := m) (fld_at hn hL 1 (lo := 7) (w := 2) rfl rfl))

/-- `vstr.sunbind`. -/
theorem vstrSunbind (d : BitVec 5) (m : BitVec 2) : Statement (.vstrSunbind d m) := by
  intro _ _ _
  have hL : FieldsFit [(7, 1), (2, m.toNat), (12, 0), (5, d.toNat), (6, 34)] := ⟨by decide, m.isLt, by decide, d.isLt, by decide, trivial⟩
  refine decode_of [(7, 1), (2, m.toNat), (12, 0), (5, d.toNat), (6, 34)] hL rfl (by change 2281701377 + d.toNat * 2097152 + m.toNat * 128 = _; simp only [ofDigits]; omega) fun num hn => ?_
  refine (decodeNat_vstr (fld_at hn hL 4 (lo := 26) (w := 6) rfl rfl)).trans ?_
  unfold decodeVstr
  rw [fld_at hn hL 0 (lo := 0) (w := 7) rfl rfl]
  refine (if_pos (fld_at hn hL 2 (lo := 9) (w := 12) rfl rfl)).trans ?_
  exact congr (congrArg Instr.vstrSunbind (bits_of (v := d) (fld_at hn hL 3 (lo := 21) (w := 5) rfl rfl))) (bits_of (v := m) (fld_at hn hL 1 (lo := 7) (w := 2) rfl rfl))

/-- `vstr.sadv`. -/
theorem vstrSadv (d : BitVec 5) (b : BitVec 5) (m : BitVec 2) : Statement (.vstrSadv d b m) := by
  intro _ _ _
  have hL : FieldsFit [(7, 2), (2, m.toNat), (2, 0), (5, b.toNat), (5, 0), (5, d.toNat), (6, 34)] := ⟨by decide, m.isLt, by decide, b.isLt, by decide, d.isLt, by decide, trivial⟩
  refine decode_of [(7, 2), (2, m.toNat), (2, 0), (5, b.toNat), (5, 0), (5, d.toNat), (6, 34)] hL rfl (by change 2281701378 + d.toNat * 2097152 + b.toNat * 2048 + m.toNat * 128 = _; simp only [ofDigits]; omega) fun num hn => ?_
  refine (decodeNat_vstr (fld_at hn hL 6 (lo := 26) (w := 6) rfl rfl)).trans ?_
  unfold decodeVstr
  rw [fld_at hn hL 0 (lo := 0) (w := 7) rfl rfl]
  refine (if_pos ⟨(fld_at hn hL 2 (lo := 9) (w := 2) rfl rfl), (fld_at hn hL 4 (lo := 16) (w := 5) rfl rfl)⟩).trans ?_
  exact congr (congr (congrArg Instr.vstrSadv (bits_of (v := d) (fld_at hn hL 5 (lo := 21) (w := 5) rfl rfl))) (bits_of (v := b) (fld_at hn hL 3 (lo := 11) (w := 5) rfl rfl))) (bits_of (v := m) (fld_at hn hL 1 (lo := 7) (w := 2) rfl rfl))

/-- `vatom.gld`. -/
theorem vatomGld (d : BitVec 5) (a : BitVec 5) (b : BitVec 5) (y : Bool) (m : BitVec 2) : Statement (.vatomGld d a b y m) := by
  intro _ _ _
  have hL : FieldsFit [(7, 0), (2, m.toNat), (1, y.toNat), (1, 0), (5, b.toNat), (5, a.toNat), (5, d.toNat), (6, 35)] := ⟨by decide, m.isLt, y.toNat_lt, by decide, b.isLt, a.isLt, d.isLt, by decide, trivial⟩
  refine decode_of [(7, 0), (2, m.toNat), (1, y.toNat), (1, 0), (5, b.toNat), (5, a.toNat), (5, d.toNat), (6, 35)] hL rfl (by change 2348810240 + d.toNat * 2097152 + a.toNat * 65536 + b.toNat * 2048 + y.toNat * 512 + m.toNat * 128 = _; simp only [ofDigits]; omega) fun num hn => ?_
  refine (decodeNat_vatom (fld_at hn hL 7 (lo := 26) (w := 6) rfl rfl)).trans ?_
  unfold decodeVatom
  rw [fld_at hn hL 0 (lo := 0) (w := 7) rfl rfl]
  refine (if_pos (fld_at hn hL 3 (lo := 10) (w := 1) rfl rfl)).trans ?_
  exact congr (congr (congr (congr (congrArg Instr.vatomGld (bits_of (v := d) (fld_at hn hL 6 (lo := 21) (w := 5) rfl rfl))) (bits_of (v := a) (fld_at hn hL 5 (lo := 16) (w := 5) rfl rfl))) (bits_of (v := b) (fld_at hn hL 4 (lo := 11) (w := 5) rfl rfl))) (flag_of (v := y) (fld_at hn hL 2 (lo := 9) (w := 1) rfl rfl))) (bits_of (v := m) (fld_at hn hL 1 (lo := 7) (w := 2) rfl rfl))

/-- `vatom.scc`. -/
theorem vatomScc (d : BitVec 5) (a : BitVec 5) (b : BitVec 5) (x : Bool) (y : Bool) (m : BitVec 2) : Statement (.vatomScc d a b x y m) := by
  intro _ _ _
  have hL : FieldsFit [(7, 1), (2, m.toNat), (1, y.toNat), (1, x.toNat), (5, b.toNat), (5, a.toNat), (5, d.toNat), (6, 35)] := ⟨by decide, m.isLt, y.toNat_lt, x.toNat_lt, b.isLt, a.isLt, d.isLt, by decide, trivial⟩
  refine decode_of [(7, 1), (2, m.toNat), (1, y.toNat), (1, x.toNat), (5, b.toNat), (5, a.toNat), (5, d.toNat), (6, 35)] hL rfl (by change 2348810241 + d.toNat * 2097152 + a.toNat * 65536 + b.toNat * 2048 + x.toNat * 1024 + y.toNat * 512 + m.toNat * 128 = _; simp only [ofDigits]; omega) fun num hn => ?_
  refine (decodeNat_vatom (fld_at hn hL 7 (lo := 26) (w := 6) rfl rfl)).trans ?_
  unfold decodeVatom
  rw [fld_at hn hL 0 (lo := 0) (w := 7) rfl rfl]
  exact congr (congr (congr (congr (congr (congrArg Instr.vatomScc (bits_of (v := d) (fld_at hn hL 6 (lo := 21) (w := 5) rfl rfl))) (bits_of (v := a) (fld_at hn hL 5 (lo := 16) (w := 5) rfl rfl))) (bits_of (v := b) (fld_at hn hL 4 (lo := 11) (w := 5) rfl rfl))) (flag_of (v := x) (fld_at hn hL 3 (lo := 10) (w := 1) rfl rfl))) (flag_of (v := y) (fld_at hn hL 2 (lo := 9) (w := 1) rfl rfl))) (bits_of (v := m) (fld_at hn hL 1 (lo := 7) (w := 2) rfl rfl))

/-- `vatom.lock`. -/
theorem vatomLock (a : BitVec 5) (b : BitVec 5) (y : Bool) : Statement (.vatomLock a b y) := by
  intro _ _ _
  have hL : FieldsFit [(7, 2), (2, 0), (1, y.toNat), (1, 0), (5, b.toNat), (5, a.toNat), (5, 0), (6, 35)] := ⟨by decide, by decide, y.toNat_lt, by decide, b.isLt, a.isLt, by decide, by decide, trivial⟩
  refine decode_of [(7, 2), (2, 0), (1, y.toNat), (1, 0), (5, b.toNat), (5, a.toNat), (5, 0), (6, 35)] hL rfl (by change 2348810242 + a.toNat * 65536 + b.toNat * 2048 + y.toNat * 512 = _; simp only [ofDigits]; omega) fun num hn => ?_
  refine (decodeNat_vatom (fld_at hn hL 7 (lo := 26) (w := 6) rfl rfl)).trans ?_
  unfold decodeVatom
  rw [fld_at hn hL 0 (lo := 0) (w := 7) rfl rfl]
  refine (if_pos ⟨(fld_at hn hL 1 (lo := 7) (w := 2) rfl rfl), (fld_at hn hL 3 (lo := 10) (w := 1) rfl rfl), (fld_at hn hL 6 (lo := 21) (w := 5) rfl rfl)⟩).trans ?_
  exact congr (congr (congrArg Instr.vatomLock (bits_of (v := a) (fld_at hn hL 5 (lo := 16) (w := 5) rfl rfl))) (bits_of (v := b) (fld_at hn hL 4 (lo := 11) (w := 5) rfl rfl))) (flag_of (v := y) (fld_at hn hL 2 (lo := 9) (w := 1) rfl rfl))

/-- `vatom.unlock`. -/
theorem vatomUnlock (a : BitVec 5) (b : BitVec 5) (y : Bool) : Statement (.vatomUnlock a b y) := by
  intro _ _ _
  have hL : FieldsFit [(7, 3), (2, 0), (1, y.toNat), (1, 0), (5, b.toNat), (5, a.toNat), (5, 0), (6, 35)] := ⟨by decide, by decide, y.toNat_lt, by decide, b.isLt, a.isLt, by decide, by decide, trivial⟩
  refine decode_of [(7, 3), (2, 0), (1, y.toNat), (1, 0), (5, b.toNat), (5, a.toNat), (5, 0), (6, 35)] hL rfl (by change 2348810243 + a.toNat * 65536 + b.toNat * 2048 + y.toNat * 512 = _; simp only [ofDigits]; omega) fun num hn => ?_
  refine (decodeNat_vatom (fld_at hn hL 7 (lo := 26) (w := 6) rfl rfl)).trans ?_
  unfold decodeVatom
  rw [fld_at hn hL 0 (lo := 0) (w := 7) rfl rfl]
  refine (if_pos ⟨(fld_at hn hL 1 (lo := 7) (w := 2) rfl rfl), (fld_at hn hL 3 (lo := 10) (w := 1) rfl rfl), (fld_at hn hL 6 (lo := 21) (w := 5) rfl rfl)⟩).trans ?_
  exact congr (congr (congrArg Instr.vatomUnlock (bits_of (v := a) (fld_at hn hL 5 (lo := 16) (w := 5) rfl rfl))) (bits_of (v := b) (fld_at hn hL 4 (lo := 11) (w := 5) rfl rfl))) (flag_of (v := y) (fld_at hn hL 2 (lo := 9) (w := 1) rfl rfl))

/-- `mop.mop`. -/
theorem mopMop (z : BitVec 3) (a : BitVec 5) (b : BitVec 5) (s : BitVec 5) (t : BitVec 5) (x : Bool) (y : Bool) : Statement (.mopMop z a b s t x y) := by
  intro _ _ _
  have hL : FieldsFit [(1, 0), (1, y.toNat), (1, x.toNat), (5, t.toNat), (5, s.toNat), (5, b.toNat), (5, a.toNat), (3, z.toNat), (6, 40)] := ⟨by decide, y.toNat_lt, x.toNat_lt, t.isLt, s.isLt, b.isLt, a.isLt, z.isLt, by decide, trivial⟩
  refine decode_of [(1, 0), (1, y.toNat), (1, x.toNat), (5, t.toNat), (5, s.toNat), (5, b.toNat), (5, a.toNat), (3, z.toNat), (6, 40)] hL rfl (by change 2684354560 + z.toNat * 8388608 + a.toNat * 262144 + b.toNat * 8192 + s.toNat * 256 + t.toNat * 8 + x.toNat * 4 + y.toNat * 2 = _; simp only [ofDigits]; omega) fun num hn => ?_
  refine (decodeNat_mop (fld_at hn hL 8 (lo := 26) (w := 6) rfl rfl)).trans ?_
  unfold decodeMop
  rw [fld_at hn hL 0 (lo := 0) (w := 1) rfl rfl]
  exact congr (congr (congr (congr (congr (congr (congrArg Instr.mopMop (bits_of (v := z) (fld_at hn hL 7 (lo := 23) (w := 3) rfl rfl))) (bits_of (v := a) (fld_at hn hL 6 (lo := 18) (w := 5) rfl rfl))) (bits_of (v := b) (fld_at hn hL 5 (lo := 13) (w := 5) rfl rfl))) (bits_of (v := s) (fld_at hn hL 4 (lo := 8) (w := 5) rfl rfl))) (bits_of (v := t) (fld_at hn hL 3 (lo := 3) (w := 5) rfl rfl))) (flag_of (v := x) (fld_at hn hL 2 (lo := 2) (w := 1) rfl rfl))) (flag_of (v := y) (fld_at hn hL 1 (lo := 1) (w := 1) rfl rfl))

/-- `mop.mopu`. -/
theorem mopMopu (z : BitVec 3) (a : BitVec 5) (b : BitVec 5) (s : BitVec 5) (t : BitVec 5) (y : Bool) : Statement (.mopMopu z a b s t y) := by
  intro _ _ _
  have hL : FieldsFit [(1, 1), (1, y.toNat), (1, 0), (5, t.toNat), (5, s.toNat), (5, b.toNat), (5, a.toNat), (3, z.toNat), (6, 40)] := ⟨by decide, y.toNat_lt, by decide, t.isLt, s.isLt, b.isLt, a.isLt, z.isLt, by decide, trivial⟩
  refine decode_of [(1, 1), (1, y.toNat), (1, 0), (5, t.toNat), (5, s.toNat), (5, b.toNat), (5, a.toNat), (3, z.toNat), (6, 40)] hL rfl (by change 2684354561 + z.toNat * 8388608 + a.toNat * 262144 + b.toNat * 8192 + s.toNat * 256 + t.toNat * 8 + y.toNat * 2 = _; simp only [ofDigits]; omega) fun num hn => ?_
  refine (decodeNat_mop (fld_at hn hL 8 (lo := 26) (w := 6) rfl rfl)).trans ?_
  unfold decodeMop
  rw [fld_at hn hL 0 (lo := 0) (w := 1) rfl rfl]
  refine (if_pos (fld_at hn hL 2 (lo := 2) (w := 1) rfl rfl)).trans ?_
  exact congr (congr (congr (congr (congr (congrArg Instr.mopMopu (bits_of (v := z) (fld_at hn hL 7 (lo := 23) (w := 3) rfl rfl))) (bits_of (v := a) (fld_at hn hL 6 (lo := 18) (w := 5) rfl rfl))) (bits_of (v := b) (fld_at hn hL 5 (lo := 13) (w := 5) rfl rfl))) (bits_of (v := s) (fld_at hn hL 4 (lo := 8) (w := 5) rfl rfl))) (bits_of (v := t) (fld_at hn hL 3 (lo := 3) (w := 5) rfl rfl))) (flag_of (v := y) (fld_at hn hL 1 (lo := 1) (w := 1) rfl rfl))

/-- `mctl.mzero`. -/
theorem mctlMzero (z : BitVec 3) : Statement (.mctlMzero z) := by
  intro _ _ _
  have hL : FieldsFit [(7, 0), (4, 0), (3, z.toNat), (12, 0), (6, 41)] := ⟨by decide, by decide, z.isLt, by decide, by decide, trivial⟩
  refine decode_of [(7, 0), (4, 0), (3, z.toNat), (12, 0), (6, 41)] hL rfl (by change 2751463424 + z.toNat * 2048 = _; simp only [ofDigits]; omega) fun num hn => ?_
  refine (decodeNat_mctl (fld_at hn hL 4 (lo := 26) (w := 6) rfl rfl)).trans ?_
  unfold decodeMctl
  rw [fld_at hn hL 0 (lo := 0) (w := 7) rfl rfl]
  refine (if_pos ⟨(fld_at hn hL 1 (lo := 7) (w := 4) rfl rfl), (fld_at hn hL 3 (lo := 14) (w := 12) rfl rfl)⟩).trans ?_
  exact congrArg Instr.mctlMzero (bits_of (v := z) (fld_at hn hL 2 (lo := 11) (w := 3) rfl rfl))

/-- `mctl.mdrain`. -/
theorem mctlMdrain (d : BitVec 5) (a : BitVec 5) (z : BitVec 3) (m : BitVec 2) : Statement (.mctlMdrain d a z m) := by
  intro _ _ _
  have hL : FieldsFit [(7, 1), (2, m.toNat), (2, 0), (3, z.toNat), (2, 0), (5, a.toNat), (5, d.toNat), (6, 41)] := ⟨by decide, m.isLt, by decide, z.isLt, by decide, a.isLt, d.isLt, by decide, trivial⟩
  refine decode_of [(7, 1), (2, m.toNat), (2, 0), (3, z.toNat), (2, 0), (5, a.toNat), (5, d.toNat), (6, 41)] hL rfl (by change 2751463425 + d.toNat * 2097152 + a.toNat * 65536 + z.toNat * 2048 + m.toNat * 128 = _; simp only [ofDigits]; omega) fun num hn => ?_
  refine (decodeNat_mctl (fld_at hn hL 7 (lo := 26) (w := 6) rfl rfl)).trans ?_
  unfold decodeMctl
  rw [fld_at hn hL 0 (lo := 0) (w := 7) rfl rfl]
  refine (if_pos ⟨(fld_at hn hL 2 (lo := 9) (w := 2) rfl rfl), (fld_at hn hL 4 (lo := 14) (w := 2) rfl rfl)⟩).trans ?_
  exact congr (congr (congr (congrArg Instr.mctlMdrain (bits_of (v := d) (fld_at hn hL 6 (lo := 21) (w := 5) rfl rfl))) (bits_of (v := a) (fld_at hn hL 5 (lo := 16) (w := 5) rfl rfl))) (bits_of (v := z) (fld_at hn hL 3 (lo := 11) (w := 3) rfl rfl))) (bits_of (v := m) (fld_at hn hL 1 (lo := 7) (w := 2) rfl rfl))

/-- `mctl.mld`. -/
theorem mctlMld (a : BitVec 5) (z : BitVec 3) : Statement (.mctlMld a z) := by
  intro _ _ _
  have hL : FieldsFit [(7, 2), (4, 0), (3, z.toNat), (2, 0), (5, a.toNat), (5, 0), (6, 41)] := ⟨by decide, by decide, z.isLt, by decide, a.isLt, by decide, by decide, trivial⟩
  refine decode_of [(7, 2), (4, 0), (3, z.toNat), (2, 0), (5, a.toNat), (5, 0), (6, 41)] hL rfl (by change 2751463426 + a.toNat * 65536 + z.toNat * 2048 = _; simp only [ofDigits]; omega) fun num hn => ?_
  refine (decodeNat_mctl (fld_at hn hL 6 (lo := 26) (w := 6) rfl rfl)).trans ?_
  unfold decodeMctl
  rw [fld_at hn hL 0 (lo := 0) (w := 7) rfl rfl]
  refine (if_pos ⟨(fld_at hn hL 1 (lo := 7) (w := 4) rfl rfl), (fld_at hn hL 3 (lo := 14) (w := 2) rfl rfl), (fld_at hn hL 5 (lo := 21) (w := 5) rfl rfl)⟩).trans ?_
  exact congr (congrArg Instr.mctlMld (bits_of (v := a) (fld_at hn hL 4 (lo := 16) (w := 5) rfl rfl))) (bits_of (v := z) (fld_at hn hL 2 (lo := 11) (w := 3) rfl rfl))

/-- `mctl.mst`. -/
theorem mctlMst (a : BitVec 5) (z : BitVec 3) : Statement (.mctlMst a z) := by
  intro _ _ _
  have hL : FieldsFit [(7, 3), (4, 0), (3, z.toNat), (2, 0), (5, a.toNat), (5, 0), (6, 41)] := ⟨by decide, by decide, z.isLt, by decide, a.isLt, by decide, by decide, trivial⟩
  refine decode_of [(7, 3), (4, 0), (3, z.toNat), (2, 0), (5, a.toNat), (5, 0), (6, 41)] hL rfl (by change 2751463427 + a.toNat * 65536 + z.toNat * 2048 = _; simp only [ofDigits]; omega) fun num hn => ?_
  refine (decodeNat_mctl (fld_at hn hL 6 (lo := 26) (w := 6) rfl rfl)).trans ?_
  unfold decodeMctl
  rw [fld_at hn hL 0 (lo := 0) (w := 7) rfl rfl]
  refine (if_pos ⟨(fld_at hn hL 1 (lo := 7) (w := 4) rfl rfl), (fld_at hn hL 3 (lo := 14) (w := 2) rfl rfl), (fld_at hn hL 5 (lo := 21) (w := 5) rfl rfl)⟩).trans ?_
  exact congr (congrArg Instr.mctlMst (bits_of (v := a) (fld_at hn hL 4 (lo := 16) (w := 5) rfl rfl))) (bits_of (v := z) (fld_at hn hL 2 (lo := 11) (w := 3) rfl rfl))

/-- `mctl.mset`. -/
theorem mctlMset (a : BitVec 5) : Statement (.mctlMset a) := by
  intro _ _ _
  have hL : FieldsFit [(7, 4), (9, 0), (5, a.toNat), (5, 0), (6, 41)] := ⟨by decide, by decide, a.isLt, by decide, by decide, trivial⟩
  refine decode_of [(7, 4), (9, 0), (5, a.toNat), (5, 0), (6, 41)] hL rfl (by change 2751463428 + a.toNat * 65536 = _; simp only [ofDigits]; omega) fun num hn => ?_
  refine (decodeNat_mctl (fld_at hn hL 4 (lo := 26) (w := 6) rfl rfl)).trans ?_
  unfold decodeMctl
  rw [fld_at hn hL 0 (lo := 0) (w := 7) rfl rfl]
  refine (if_pos ⟨(fld_at hn hL 1 (lo := 7) (w := 9) rfl rfl), (fld_at hn hL 3 (lo := 21) (w := 5) rfl rfl)⟩).trans ?_
  exact congrArg Instr.mctlMset (bits_of (v := a) (fld_at hn hL 2 (lo := 16) (w := 5) rfl rfl))

/-- `mctl.zwset`. -/
theorem mctlZwset (a : BitVec 5) (z : BitVec 3) : Statement (.mctlZwset a z) := by
  intro _ _ _
  have hL : FieldsFit [(7, 5), (4, 0), (3, z.toNat), (2, 0), (5, a.toNat), (5, 0), (6, 41)] := ⟨by decide, by decide, z.isLt, by decide, a.isLt, by decide, by decide, trivial⟩
  refine decode_of [(7, 5), (4, 0), (3, z.toNat), (2, 0), (5, a.toNat), (5, 0), (6, 41)] hL rfl (by change 2751463429 + a.toNat * 65536 + z.toNat * 2048 = _; simp only [ofDigits]; omega) fun num hn => ?_
  refine (decodeNat_mctl (fld_at hn hL 6 (lo := 26) (w := 6) rfl rfl)).trans ?_
  unfold decodeMctl
  rw [fld_at hn hL 0 (lo := 0) (w := 7) rfl rfl]
  refine (if_pos ⟨(fld_at hn hL 1 (lo := 7) (w := 4) rfl rfl), (fld_at hn hL 3 (lo := 14) (w := 2) rfl rfl), (fld_at hn hL 5 (lo := 21) (w := 5) rfl rfl)⟩).trans ?_
  exact congr (congrArg Instr.mctlZwset (bits_of (v := a) (fld_at hn hL 4 (lo := 16) (w := 5) rfl rfl))) (bits_of (v := z) (fld_at hn hL 2 (lo := 11) (w := 3) rfl rfl))

/-- `eng.gsp`. -/
theorem engGsp (d : BitVec 5) (a : BitVec 5) (b : BitVec 5) (c : BitVec 5) (o : BitVec 2) (e : BitVec 2) : Statement (.engGsp d a b c o e) := by
  intro _ _ _
  have hL : FieldsFit [(2, e.toNat), (2, o.toNat), (2, 0), (5, c.toNat), (5, b.toNat), (5, a.toNat), (5, d.toNat), (6, 48)] := ⟨e.isLt, o.isLt, by decide, c.isLt, b.isLt, a.isLt, d.isLt, by decide, trivial⟩
  refine decode_of [(2, e.toNat), (2, o.toNat), (2, 0), (5, c.toNat), (5, b.toNat), (5, a.toNat), (5, d.toNat), (6, 48)] hL rfl (by change 3221225472 + d.toNat * 2097152 + a.toNat * 65536 + b.toNat * 2048 + c.toNat * 64 + o.toNat * 4 + e.toNat = _; simp only [ofDigits]; omega) fun num hn => ?_
  refine (decodeNat_eng (fld_at hn hL 7 (lo := 26) (w := 6) rfl rfl)).trans ?_
  unfold decodeEng
  rw [fld_at hn hL 2 (lo := 4) (w := 2) rfl rfl]
  exact congr (congr (congr (congr (congr (congrArg Instr.engGsp (bits_of (v := d) (fld_at hn hL 6 (lo := 21) (w := 5) rfl rfl))) (bits_of (v := a) (fld_at hn hL 5 (lo := 16) (w := 5) rfl rfl))) (bits_of (v := b) (fld_at hn hL 4 (lo := 11) (w := 5) rfl rfl))) (bits_of (v := c) (fld_at hn hL 3 (lo := 6) (w := 5) rfl rfl))) (bits_of (v := o) (fld_at hn hL 1 (lo := 2) (w := 2) rfl rfl))) (bits_of (v := e) (fld_at hn hL 0 (lo := 0) (w := 2) rfl rfl))

/-- `eng.ssp`. -/
theorem engSsp (d : BitVec 5) (a : BitVec 5) (b : BitVec 5) (c : BitVec 5) (o : BitVec 2) (e : BitVec 2) : Statement (.engSsp d a b c o e) := by
  intro _ _ _
  have hL : FieldsFit [(2, e.toNat), (2, o.toNat), (2, 1), (5, c.toNat), (5, b.toNat), (5, a.toNat), (5, d.toNat), (6, 48)] := ⟨e.isLt, o.isLt, by decide, c.isLt, b.isLt, a.isLt, d.isLt, by decide, trivial⟩
  refine decode_of [(2, e.toNat), (2, o.toNat), (2, 1), (5, c.toNat), (5, b.toNat), (5, a.toNat), (5, d.toNat), (6, 48)] hL rfl (by change 3221225488 + d.toNat * 2097152 + a.toNat * 65536 + b.toNat * 2048 + c.toNat * 64 + o.toNat * 4 + e.toNat = _; simp only [ofDigits]; omega) fun num hn => ?_
  refine (decodeNat_eng (fld_at hn hL 7 (lo := 26) (w := 6) rfl rfl)).trans ?_
  unfold decodeEng
  rw [fld_at hn hL 2 (lo := 4) (w := 2) rfl rfl]
  exact congr (congr (congr (congr (congr (congrArg Instr.engSsp (bits_of (v := d) (fld_at hn hL 6 (lo := 21) (w := 5) rfl rfl))) (bits_of (v := a) (fld_at hn hL 5 (lo := 16) (w := 5) rfl rfl))) (bits_of (v := b) (fld_at hn hL 4 (lo := 11) (w := 5) rfl rfl))) (bits_of (v := c) (fld_at hn hL 3 (lo := 6) (w := 5) rfl rfl))) (bits_of (v := o) (fld_at hn hL 1 (lo := 2) (w := 2) rfl rfl))) (bits_of (v := e) (fld_at hn hL 0 (lo := 0) (w := 2) rfl rfl))

/-- `eng.sadd`. -/
theorem engSadd (d : BitVec 5) (a : BitVec 5) (b : BitVec 5) (c : BitVec 5) (o : BitVec 2) (e : BitVec 2) : Statement (.engSadd d a b c o e) := by
  intro _ _ _
  have hL : FieldsFit [(2, e.toNat), (2, o.toNat), (2, 2), (5, c.toNat), (5, b.toNat), (5, a.toNat), (5, d.toNat), (6, 48)] := ⟨e.isLt, o.isLt, by decide, c.isLt, b.isLt, a.isLt, d.isLt, by decide, trivial⟩
  refine decode_of [(2, e.toNat), (2, o.toNat), (2, 2), (5, c.toNat), (5, b.toNat), (5, a.toNat), (5, d.toNat), (6, 48)] hL rfl (by change 3221225504 + d.toNat * 2097152 + a.toNat * 65536 + b.toNat * 2048 + c.toNat * 64 + o.toNat * 4 + e.toNat = _; simp only [ofDigits]; omega) fun num hn => ?_
  refine (decodeNat_eng (fld_at hn hL 7 (lo := 26) (w := 6) rfl rfl)).trans ?_
  unfold decodeEng
  rw [fld_at hn hL 2 (lo := 4) (w := 2) rfl rfl]
  exact congr (congr (congr (congr (congr (congrArg Instr.engSadd (bits_of (v := d) (fld_at hn hL 6 (lo := 21) (w := 5) rfl rfl))) (bits_of (v := a) (fld_at hn hL 5 (lo := 16) (w := 5) rfl rfl))) (bits_of (v := b) (fld_at hn hL 4 (lo := 11) (w := 5) rfl rfl))) (bits_of (v := c) (fld_at hn hL 3 (lo := 6) (w := 5) rfl rfl))) (bits_of (v := o) (fld_at hn hL 1 (lo := 2) (w := 2) rfl rfl))) (bits_of (v := e) (fld_at hn hL 0 (lo := 0) (w := 2) rfl rfl))

/-- `eng.bapply`. -/
theorem engBapply (d : BitVec 5) (a : BitVec 5) (b : BitVec 5) (c : BitVec 5) (o : BitVec 2) (e : BitVec 2) : Statement (.engBapply d a b c o e) := by
  intro _ _ _
  have hL : FieldsFit [(2, e.toNat), (2, o.toNat), (2, 3), (5, c.toNat), (5, b.toNat), (5, a.toNat), (5, d.toNat), (6, 48)] := ⟨e.isLt, o.isLt, by decide, c.isLt, b.isLt, a.isLt, d.isLt, by decide, trivial⟩
  refine decode_of [(2, e.toNat), (2, o.toNat), (2, 3), (5, c.toNat), (5, b.toNat), (5, a.toNat), (5, d.toNat), (6, 48)] hL rfl (by change 3221225520 + d.toNat * 2097152 + a.toNat * 65536 + b.toNat * 2048 + c.toNat * 64 + o.toNat * 4 + e.toNat = _; simp only [ofDigits]; omega) fun num hn => ?_
  refine (decodeNat_eng (fld_at hn hL 7 (lo := 26) (w := 6) rfl rfl)).trans ?_
  unfold decodeEng
  rw [fld_at hn hL 2 (lo := 4) (w := 2) rfl rfl]
  exact congr (congr (congr (congr (congr (congrArg Instr.engBapply (bits_of (v := d) (fld_at hn hL 6 (lo := 21) (w := 5) rfl rfl))) (bits_of (v := a) (fld_at hn hL 5 (lo := 16) (w := 5) rfl rfl))) (bits_of (v := b) (fld_at hn hL 4 (lo := 11) (w := 5) rfl rfl))) (bits_of (v := c) (fld_at hn hL 3 (lo := 6) (w := 5) rfl rfl))) (bits_of (v := o) (fld_at hn hL 1 (lo := 2) (w := 2) rfl rfl))) (bits_of (v := e) (fld_at hn hL 0 (lo := 0) (w := 2) rfl rfl))

/-- `cpe.cpy`. -/
theorem cpeCpy (d : BitVec 5) (a : BitVec 5) (b : BitVec 5) (c : BitVec 4) (o : BitVec 2) (e : BitVec 2) : Statement (.cpeCpy d a b c o e) := by
  intro _ _ _
  have hL : FieldsFit [(2, e.toNat), (2, o.toNat), (2, 0), (1, 0), (4, c.toNat), (5, b.toNat), (5, a.toNat), (5, d.toNat), (6, 49)] := ⟨e.isLt, o.isLt, by decide, by decide, c.isLt, b.isLt, a.isLt, d.isLt, by decide, trivial⟩
  refine decode_of [(2, e.toNat), (2, o.toNat), (2, 0), (1, 0), (4, c.toNat), (5, b.toNat), (5, a.toNat), (5, d.toNat), (6, 49)] hL rfl (by change 3288334336 + d.toNat * 2097152 + a.toNat * 65536 + b.toNat * 2048 + c.toNat * 128 + o.toNat * 4 + e.toNat = _; simp only [ofDigits]; omega) fun num hn => ?_
  refine (decodeNat_cpe (fld_at hn hL 8 (lo := 26) (w := 6) rfl rfl)).trans ?_
  unfold decodeCpe
  rw [fld_at hn hL 2 (lo := 4) (w := 2) rfl rfl]
  refine (if_pos (fld_at hn hL 3 (lo := 6) (w := 1) rfl rfl)).trans ?_
  exact congr (congr (congr (congr (congr (congrArg Instr.cpeCpy (bits_of (v := d) (fld_at hn hL 7 (lo := 21) (w := 5) rfl rfl))) (bits_of (v := a) (fld_at hn hL 6 (lo := 16) (w := 5) rfl rfl))) (bits_of (v := b) (fld_at hn hL 5 (lo := 11) (w := 5) rfl rfl))) (bits_of (v := c) (fld_at hn hL 4 (lo := 7) (w := 4) rfl rfl))) (bits_of (v := o) (fld_at hn hL 1 (lo := 2) (w := 2) rfl rfl))) (bits_of (v := e) (fld_at hn hL 0 (lo := 0) (w := 2) rfl rfl))

/-- `cpe.cwait`. -/
theorem cpeCwait (d : BitVec 5) (a : BitVec 5) (o : Bool) (e : BitVec 2) : Statement (.cpeCwait d a o e) := by
  intro _ wf _
  have ord : o.toNat = 0 → e.toNat = 0 := by
    replace wf : orderOk o e = true := wf
    revert wf; cases o <;> simp [orderOk]; intro h; simp [h]
  have hL : FieldsFit [(2, e.toNat), (1, o.toNat), (1, 0), (2, 1), (10, 0), (5, a.toNat), (5, d.toNat), (6, 49)] := ⟨e.isLt, o.toNat_lt, by decide, by decide, by decide, a.isLt, d.isLt, by decide, trivial⟩
  refine decode_of [(2, e.toNat), (1, o.toNat), (1, 0), (2, 1), (10, 0), (5, a.toNat), (5, d.toNat), (6, 49)] hL rfl (by change 3288334352 + d.toNat * 2097152 + a.toNat * 65536 + o.toNat * 4 + e.toNat = _; simp only [ofDigits]; omega) fun num hn => ?_
  refine (decodeNat_cpe (fld_at hn hL 7 (lo := 26) (w := 6) rfl rfl)).trans ?_
  unfold decodeCpe
  rw [fld_at hn hL 3 (lo := 4) (w := 2) rfl rfl]
  refine (if_pos ⟨(fld_at hn hL 2 (lo := 3) (w := 1) rfl rfl), (fld_at hn hL 4 (lo := 6) (w := 10) rfl rfl), (by rw [fld_at hn hL 1 (lo := 2) (w := 1) rfl rfl, fld_at hn hL 0 (lo := 0) (w := 2) rfl rfl]; exact ord)⟩).trans ?_
  exact congr (congr (congr (congrArg Instr.cpeCwait (bits_of (v := d) (fld_at hn hL 6 (lo := 21) (w := 5) rfl rfl))) (bits_of (v := a) (fld_at hn hL 5 (lo := 16) (w := 5) rfl rfl))) (flag_of (v := o) (fld_at hn hL 1 (lo := 2) (w := 1) rfl rfl))) (bits_of (v := e) (fld_at hn hL 0 (lo := 0) (w := 2) rfl rfl))

/-- `cpe.cptr`. -/
theorem cpeCptr (d : BitVec 5) (a : BitVec 5) : Statement (.cpeCptr d a) := by
  intro _ _ _
  have hL : FieldsFit [(4, 0), (2, 2), (10, 0), (5, a.toNat), (5, d.toNat), (6, 49)] := ⟨by decide, by decide, by decide, a.isLt, d.isLt, by decide, trivial⟩
  refine decode_of [(4, 0), (2, 2), (10, 0), (5, a.toNat), (5, d.toNat), (6, 49)] hL rfl (by change 3288334368 + d.toNat * 2097152 + a.toNat * 65536 = _; simp only [ofDigits]; omega) fun num hn => ?_
  refine (decodeNat_cpe (fld_at hn hL 5 (lo := 26) (w := 6) rfl rfl)).trans ?_
  unfold decodeCpe
  rw [fld_at hn hL 1 (lo := 4) (w := 2) rfl rfl]
  refine (if_pos ⟨(fld_at hn hL 0 (lo := 0) (w := 4) rfl rfl), (fld_at hn hL 2 (lo := 6) (w := 10) rfl rfl)⟩).trans ?_
  exact congr (congrArg Instr.cpeCptr (bits_of (v := d) (fld_at hn hL 4 (lo := 21) (w := 5) rfl rfl))) (bits_of (v := a) (fld_at hn hL 3 (lo := 16) (w := 5) rfl rfl))

/-- `cpe.cdrain`. -/
theorem cpeCdrain (d : BitVec 5) (o : Bool) (e : BitVec 2) : Statement (.cpeCdrain d o e) := by
  intro _ wf _
  have ord : o.toNat = 0 → e.toNat = 0 := by
    replace wf : orderOk o e = true := wf
    revert wf; cases o <;> simp [orderOk]; intro h; simp [h]
  have hL : FieldsFit [(2, e.toNat), (1, o.toNat), (1, 0), (2, 3), (15, 0), (5, d.toNat), (6, 49)] := ⟨e.isLt, o.toNat_lt, by decide, by decide, by decide, d.isLt, by decide, trivial⟩
  refine decode_of [(2, e.toNat), (1, o.toNat), (1, 0), (2, 3), (15, 0), (5, d.toNat), (6, 49)] hL rfl (by change 3288334384 + d.toNat * 2097152 + o.toNat * 4 + e.toNat = _; simp only [ofDigits]; omega) fun num hn => ?_
  refine (decodeNat_cpe (fld_at hn hL 6 (lo := 26) (w := 6) rfl rfl)).trans ?_
  unfold decodeCpe
  rw [fld_at hn hL 3 (lo := 4) (w := 2) rfl rfl]
  refine (if_pos ⟨(fld_at hn hL 2 (lo := 3) (w := 1) rfl rfl), (fld_at hn hL 4 (lo := 6) (w := 15) rfl rfl), (by rw [fld_at hn hL 1 (lo := 2) (w := 1) rfl rfl, fld_at hn hL 0 (lo := 0) (w := 2) rfl rfl]; exact ord)⟩).trans ?_
  exact congr (congr (congrArg Instr.cpeCdrain (bits_of (v := d) (fld_at hn hL 5 (lo := 21) (w := 5) rfl rfl))) (flag_of (v := o) (fld_at hn hL 1 (lo := 2) (w := 1) rfl rfl))) (bits_of (v := e) (fld_at hn hL 0 (lo := 0) (w := 2) rfl rfl))

/-- `bar.wait`. -/
theorem barWait (d : BitVec 5) (a : BitVec 5) (b : BitVec 5) (o : BitVec 2) (e : BitVec 2) : Statement (.barWait d a b o e) := by
  intro _ _ _
  have hL : FieldsFit [(2, e.toNat), (2, o.toNat), (2, 0), (5, 0), (5, b.toNat), (5, a.toNat), (5, d.toNat), (6, 50)] := ⟨e.isLt, o.isLt, by decide, by decide, b.isLt, a.isLt, d.isLt, by decide, trivial⟩
  refine decode_of [(2, e.toNat), (2, o.toNat), (2, 0), (5, 0), (5, b.toNat), (5, a.toNat), (5, d.toNat), (6, 50)] hL rfl (by change 3355443200 + d.toNat * 2097152 + a.toNat * 65536 + b.toNat * 2048 + o.toNat * 4 + e.toNat = _; simp only [ofDigits]; omega) fun num hn => ?_
  refine (decodeNat_bar (fld_at hn hL 7 (lo := 26) (w := 6) rfl rfl)).trans ?_
  unfold decodeBar
  rw [fld_at hn hL 2 (lo := 4) (w := 2) rfl rfl]
  refine (if_pos (fld_at hn hL 3 (lo := 6) (w := 5) rfl rfl)).trans ?_
  exact congr (congr (congr (congr (congrArg Instr.barWait (bits_of (v := d) (fld_at hn hL 6 (lo := 21) (w := 5) rfl rfl))) (bits_of (v := a) (fld_at hn hL 5 (lo := 16) (w := 5) rfl rfl))) (bits_of (v := b) (fld_at hn hL 4 (lo := 11) (w := 5) rfl rfl))) (bits_of (v := o) (fld_at hn hL 1 (lo := 2) (w := 2) rfl rfl))) (bits_of (v := e) (fld_at hn hL 0 (lo := 0) (w := 2) rfl rfl))

/-- `bar.init`. -/
theorem barInit (d : BitVec 5) (a : BitVec 5) (b : BitVec 5) (c : BitVec 5) (o : Bool) (e : BitVec 2) : Statement (.barInit d a b c o e) := by
  intro _ _ _
  have hL : FieldsFit [(2, e.toNat), (1, 0), (1, o.toNat), (2, 1), (5, c.toNat), (5, b.toNat), (5, a.toNat), (5, d.toNat), (6, 50)] := ⟨e.isLt, by decide, o.toNat_lt, by decide, c.isLt, b.isLt, a.isLt, d.isLt, by decide, trivial⟩
  refine decode_of [(2, e.toNat), (1, 0), (1, o.toNat), (2, 1), (5, c.toNat), (5, b.toNat), (5, a.toNat), (5, d.toNat), (6, 50)] hL rfl (by change 3355443216 + d.toNat * 2097152 + a.toNat * 65536 + b.toNat * 2048 + c.toNat * 64 + o.toNat * 8 + e.toNat = _; simp only [ofDigits]; omega) fun num hn => ?_
  refine (decodeNat_bar (fld_at hn hL 8 (lo := 26) (w := 6) rfl rfl)).trans ?_
  unfold decodeBar
  rw [fld_at hn hL 3 (lo := 4) (w := 2) rfl rfl]
  refine (if_pos (fld_at hn hL 1 (lo := 2) (w := 1) rfl rfl)).trans ?_
  exact congr (congr (congr (congr (congr (congrArg Instr.barInit (bits_of (v := d) (fld_at hn hL 7 (lo := 21) (w := 5) rfl rfl))) (bits_of (v := a) (fld_at hn hL 6 (lo := 16) (w := 5) rfl rfl))) (bits_of (v := b) (fld_at hn hL 5 (lo := 11) (w := 5) rfl rfl))) (bits_of (v := c) (fld_at hn hL 4 (lo := 6) (w := 5) rfl rfl))) (flag_of (v := o) (fld_at hn hL 2 (lo := 3) (w := 1) rfl rfl))) (bits_of (v := e) (fld_at hn hL 0 (lo := 0) (w := 2) rfl rfl))

/-- `bar.inv`. -/
theorem barInv (a : BitVec 5) (o : Bool) (e : BitVec 2) : Statement (.barInv a o e) := by
  intro _ _ _
  have hL : FieldsFit [(2, e.toNat), (1, 0), (1, o.toNat), (2, 2), (10, 0), (5, a.toNat), (5, 0), (6, 50)] := ⟨e.isLt, by decide, o.toNat_lt, by decide, by decide, a.isLt, by decide, by decide, trivial⟩
  refine decode_of [(2, e.toNat), (1, 0), (1, o.toNat), (2, 2), (10, 0), (5, a.toNat), (5, 0), (6, 50)] hL rfl (by change 3355443232 + a.toNat * 65536 + o.toNat * 8 + e.toNat = _; simp only [ofDigits]; omega) fun num hn => ?_
  refine (decodeNat_bar (fld_at hn hL 7 (lo := 26) (w := 6) rfl rfl)).trans ?_
  unfold decodeBar
  rw [fld_at hn hL 3 (lo := 4) (w := 2) rfl rfl]
  refine (if_pos ⟨(fld_at hn hL 1 (lo := 2) (w := 1) rfl rfl), (fld_at hn hL 4 (lo := 6) (w := 10) rfl rfl), (fld_at hn hL 6 (lo := 21) (w := 5) rfl rfl)⟩).trans ?_
  exact congr (congr (congrArg Instr.barInv (bits_of (v := a) (fld_at hn hL 5 (lo := 16) (w := 5) rfl rfl))) (flag_of (v := o) (fld_at hn hL 2 (lo := 3) (w := 1) rfl rfl))) (bits_of (v := e) (fld_at hn hL 0 (lo := 0) (w := 2) rfl rfl))

/-- `wl.push`. -/
theorem wlPush (d : BitVec 5) (a : BitVec 5) (b : BitVec 5) (c : BitVec 5) (o : Bool) (e : BitVec 2) : Statement (.wlPush d a b c o e) := by
  intro _ _ _
  have hL : FieldsFit [(2, e.toNat), (1, 0), (1, o.toNat), (2, 0), (5, c.toNat), (5, b.toNat), (5, a.toNat), (5, d.toNat), (6, 51)] := ⟨e.isLt, by decide, o.toNat_lt, by decide, c.isLt, b.isLt, a.isLt, d.isLt, by decide, trivial⟩
  refine decode_of [(2, e.toNat), (1, 0), (1, o.toNat), (2, 0), (5, c.toNat), (5, b.toNat), (5, a.toNat), (5, d.toNat), (6, 51)] hL rfl (by change 3422552064 + d.toNat * 2097152 + a.toNat * 65536 + b.toNat * 2048 + c.toNat * 64 + o.toNat * 8 + e.toNat = _; simp only [ofDigits]; omega) fun num hn => ?_
  refine (decodeNat_wl (fld_at hn hL 8 (lo := 26) (w := 6) rfl rfl)).trans ?_
  unfold decodeWl
  rw [fld_at hn hL 3 (lo := 4) (w := 2) rfl rfl]
  refine (if_pos (fld_at hn hL 1 (lo := 2) (w := 1) rfl rfl)).trans ?_
  exact congr (congr (congr (congr (congr (congrArg Instr.wlPush (bits_of (v := d) (fld_at hn hL 7 (lo := 21) (w := 5) rfl rfl))) (bits_of (v := a) (fld_at hn hL 6 (lo := 16) (w := 5) rfl rfl))) (bits_of (v := b) (fld_at hn hL 5 (lo := 11) (w := 5) rfl rfl))) (bits_of (v := c) (fld_at hn hL 4 (lo := 6) (w := 5) rfl rfl))) (flag_of (v := o) (fld_at hn hL 2 (lo := 3) (w := 1) rfl rfl))) (bits_of (v := e) (fld_at hn hL 0 (lo := 0) (w := 2) rfl rfl))

/-- `wl.popb`. -/
theorem wlPopb (d : BitVec 5) (a : BitVec 5) (b : BitVec 5) (c : BitVec 5) (o : Bool) (e : BitVec 2) : Statement (.wlPopb d a b c o e) := by
  intro _ _ _
  have hL : FieldsFit [(2, e.toNat), (1, o.toNat), (1, 0), (2, 1), (5, c.toNat), (5, b.toNat), (5, a.toNat), (5, d.toNat), (6, 51)] := ⟨e.isLt, o.toNat_lt, by decide, by decide, c.isLt, b.isLt, a.isLt, d.isLt, by decide, trivial⟩
  refine decode_of [(2, e.toNat), (1, o.toNat), (1, 0), (2, 1), (5, c.toNat), (5, b.toNat), (5, a.toNat), (5, d.toNat), (6, 51)] hL rfl (by change 3422552080 + d.toNat * 2097152 + a.toNat * 65536 + b.toNat * 2048 + c.toNat * 64 + o.toNat * 4 + e.toNat = _; simp only [ofDigits]; omega) fun num hn => ?_
  refine (decodeNat_wl (fld_at hn hL 8 (lo := 26) (w := 6) rfl rfl)).trans ?_
  unfold decodeWl
  rw [fld_at hn hL 3 (lo := 4) (w := 2) rfl rfl]
  refine (if_pos (fld_at hn hL 2 (lo := 3) (w := 1) rfl rfl)).trans ?_
  exact congr (congr (congr (congr (congr (congrArg Instr.wlPopb (bits_of (v := d) (fld_at hn hL 7 (lo := 21) (w := 5) rfl rfl))) (bits_of (v := a) (fld_at hn hL 6 (lo := 16) (w := 5) rfl rfl))) (bits_of (v := b) (fld_at hn hL 5 (lo := 11) (w := 5) rfl rfl))) (bits_of (v := c) (fld_at hn hL 4 (lo := 6) (w := 5) rfl rfl))) (flag_of (v := o) (fld_at hn hL 1 (lo := 2) (w := 1) rfl rfl))) (bits_of (v := e) (fld_at hn hL 0 (lo := 0) (w := 2) rfl rfl))

/-- `wl.dins`. -/
theorem wlDins (d : BitVec 5) (a : BitVec 5) (b : BitVec 5) (c : BitVec 5) (o : Bool) (e : BitVec 2) : Statement (.wlDins d a b c o e) := by
  intro _ _ _
  have hL : FieldsFit [(2, e.toNat), (1, 0), (1, o.toNat), (2, 2), (5, c.toNat), (5, b.toNat), (5, a.toNat), (5, d.toNat), (6, 51)] := ⟨e.isLt, by decide, o.toNat_lt, by decide, c.isLt, b.isLt, a.isLt, d.isLt, by decide, trivial⟩
  refine decode_of [(2, e.toNat), (1, 0), (1, o.toNat), (2, 2), (5, c.toNat), (5, b.toNat), (5, a.toNat), (5, d.toNat), (6, 51)] hL rfl (by change 3422552096 + d.toNat * 2097152 + a.toNat * 65536 + b.toNat * 2048 + c.toNat * 64 + o.toNat * 8 + e.toNat = _; simp only [ofDigits]; omega) fun num hn => ?_
  refine (decodeNat_wl (fld_at hn hL 8 (lo := 26) (w := 6) rfl rfl)).trans ?_
  unfold decodeWl
  rw [fld_at hn hL 3 (lo := 4) (w := 2) rfl rfl]
  refine (if_pos (fld_at hn hL 1 (lo := 2) (w := 1) rfl rfl)).trans ?_
  exact congr (congr (congr (congr (congr (congrArg Instr.wlDins (bits_of (v := d) (fld_at hn hL 7 (lo := 21) (w := 5) rfl rfl))) (bits_of (v := a) (fld_at hn hL 6 (lo := 16) (w := 5) rfl rfl))) (bits_of (v := b) (fld_at hn hL 5 (lo := 11) (w := 5) rfl rfl))) (bits_of (v := c) (fld_at hn hL 4 (lo := 6) (w := 5) rfl rfl))) (flag_of (v := o) (fld_at hn hL 2 (lo := 3) (w := 1) rfl rfl))) (bits_of (v := e) (fld_at hn hL 0 (lo := 0) (w := 2) rfl rfl))

/-- `wl.cnt`. -/
theorem wlCnt (d : BitVec 5) (a : BitVec 5) (o : Bool) (e : BitVec 2) : Statement (.wlCnt d a o e) := by
  intro _ _ _
  have hL : FieldsFit [(2, e.toNat), (1, o.toNat), (1, 0), (2, 3), (10, 0), (5, a.toNat), (5, d.toNat), (6, 51)] := ⟨e.isLt, o.toNat_lt, by decide, by decide, by decide, a.isLt, d.isLt, by decide, trivial⟩
  refine decode_of [(2, e.toNat), (1, o.toNat), (1, 0), (2, 3), (10, 0), (5, a.toNat), (5, d.toNat), (6, 51)] hL rfl (by change 3422552112 + d.toNat * 2097152 + a.toNat * 65536 + o.toNat * 4 + e.toNat = _; simp only [ofDigits]; omega) fun num hn => ?_
  refine (decodeNat_wl (fld_at hn hL 7 (lo := 26) (w := 6) rfl rfl)).trans ?_
  unfold decodeWl
  rw [fld_at hn hL 3 (lo := 4) (w := 2) rfl rfl]
  refine (if_pos ⟨(fld_at hn hL 2 (lo := 3) (w := 1) rfl rfl), (fld_at hn hL 4 (lo := 6) (w := 10) rfl rfl)⟩).trans ?_
  exact congr (congr (congr (congrArg Instr.wlCnt (bits_of (v := d) (fld_at hn hL 6 (lo := 21) (w := 5) rfl rfl))) (bits_of (v := a) (fld_at hn hL 5 (lo := 16) (w := 5) rfl rfl))) (flag_of (v := o) (fld_at hn hL 1 (lo := 2) (w := 1) rfl rfl))) (bits_of (v := e) (fld_at hn hL 0 (lo := 0) (w := 2) rfl rfl))

/-- `task.spawn`. -/
theorem taskSpawn (d : BitVec 5) (a : BitVec 5) (b : BitVec 5) (c : BitVec 4) (o : Bool) (e : BitVec 2) : Statement (.taskSpawn d a b c o e) := by
  intro _ wf _
  have ord : o.toNat = 0 → e.toNat = 0 := by
    replace wf : orderOk o e = true := wf
    revert wf; cases o <;> simp [orderOk]; intro h; simp [h]
  have hL : FieldsFit [(2, e.toNat), (1, 0), (1, o.toNat), (2, 0), (1, 0), (4, c.toNat), (5, b.toNat), (5, a.toNat), (5, d.toNat), (6, 52)] := ⟨e.isLt, by decide, o.toNat_lt, by decide, by decide, c.isLt, b.isLt, a.isLt, d.isLt, by decide, trivial⟩
  refine decode_of [(2, e.toNat), (1, 0), (1, o.toNat), (2, 0), (1, 0), (4, c.toNat), (5, b.toNat), (5, a.toNat), (5, d.toNat), (6, 52)] hL rfl (by change 3489660928 + d.toNat * 2097152 + a.toNat * 65536 + b.toNat * 2048 + c.toNat * 128 + o.toNat * 8 + e.toNat = _; simp only [ofDigits]; omega) fun num hn => ?_
  refine (decodeNat_task (fld_at hn hL 9 (lo := 26) (w := 6) rfl rfl)).trans ?_
  unfold decodeTask
  rw [fld_at hn hL 3 (lo := 4) (w := 2) rfl rfl]
  refine (if_pos ⟨(fld_at hn hL 1 (lo := 2) (w := 1) rfl rfl), (fld_at hn hL 4 (lo := 6) (w := 1) rfl rfl), (by rw [fld_at hn hL 2 (lo := 3) (w := 1) rfl rfl, fld_at hn hL 0 (lo := 0) (w := 2) rfl rfl]; exact ord)⟩).trans ?_
  exact congr (congr (congr (congr (congr (congrArg Instr.taskSpawn (bits_of (v := d) (fld_at hn hL 8 (lo := 21) (w := 5) rfl rfl))) (bits_of (v := a) (fld_at hn hL 7 (lo := 16) (w := 5) rfl rfl))) (bits_of (v := b) (fld_at hn hL 6 (lo := 11) (w := 5) rfl rfl))) (bits_of (v := c) (fld_at hn hL 5 (lo := 7) (w := 4) rfl rfl))) (flag_of (v := o) (fld_at hn hL 2 (lo := 3) (w := 1) rfl rfl))) (bits_of (v := e) (fld_at hn hL 0 (lo := 0) (w := 2) rfl rfl))

/-- `task.join`. -/
theorem taskJoin (a : BitVec 5) (b : BitVec 5) (o : Bool) (e : BitVec 2) : Statement (.taskJoin a b o e) := by
  intro _ wf _
  have ord : o.toNat = 0 → e.toNat = 0 := by
    replace wf : orderOk o e = true := wf
    revert wf; cases o <;> simp [orderOk]; intro h; simp [h]
  have hL : FieldsFit [(2, e.toNat), (1, 0), (1, o.toNat), (2, 1), (5, 0), (5, b.toNat), (5, a.toNat), (5, 0), (6, 52)] := ⟨e.isLt, by decide, o.toNat_lt, by decide, by decide, b.isLt, a.isLt, by decide, by decide, trivial⟩
  refine decode_of [(2, e.toNat), (1, 0), (1, o.toNat), (2, 1), (5, 0), (5, b.toNat), (5, a.toNat), (5, 0), (6, 52)] hL rfl (by change 3489660944 + a.toNat * 65536 + b.toNat * 2048 + o.toNat * 8 + e.toNat = _; simp only [ofDigits]; omega) fun num hn => ?_
  refine (decodeNat_task (fld_at hn hL 8 (lo := 26) (w := 6) rfl rfl)).trans ?_
  unfold decodeTask
  rw [fld_at hn hL 3 (lo := 4) (w := 2) rfl rfl]
  refine (if_pos ⟨(fld_at hn hL 1 (lo := 2) (w := 1) rfl rfl), (fld_at hn hL 4 (lo := 6) (w := 5) rfl rfl), (fld_at hn hL 7 (lo := 21) (w := 5) rfl rfl), (by rw [fld_at hn hL 2 (lo := 3) (w := 1) rfl rfl, fld_at hn hL 0 (lo := 0) (w := 2) rfl rfl]; exact ord)⟩).trans ?_
  exact congr (congr (congr (congrArg Instr.taskJoin (bits_of (v := a) (fld_at hn hL 6 (lo := 16) (w := 5) rfl rfl))) (bits_of (v := b) (fld_at hn hL 5 (lo := 11) (w := 5) rfl rfl))) (flag_of (v := o) (fld_at hn hL 2 (lo := 3) (w := 1) rfl rfl))) (bits_of (v := e) (fld_at hn hL 0 (lo := 0) (w := 2) rfl rfl))

/-- `task.dep`. -/
theorem taskDep (d : BitVec 5) (a : BitVec 5) (b : BitVec 5) : Statement (.taskDep d a b) := by
  intro _ _ _
  have hL : FieldsFit [(4, 0), (2, 2), (5, 0), (5, b.toNat), (5, a.toNat), (5, d.toNat), (6, 52)] := ⟨by decide, by decide, by decide, b.isLt, a.isLt, d.isLt, by decide, trivial⟩
  refine decode_of [(4, 0), (2, 2), (5, 0), (5, b.toNat), (5, a.toNat), (5, d.toNat), (6, 52)] hL rfl (by change 3489660960 + d.toNat * 2097152 + a.toNat * 65536 + b.toNat * 2048 = _; simp only [ofDigits]; omega) fun num hn => ?_
  refine (decodeNat_task (fld_at hn hL 6 (lo := 26) (w := 6) rfl rfl)).trans ?_
  unfold decodeTask
  rw [fld_at hn hL 1 (lo := 4) (w := 2) rfl rfl]
  refine (if_pos ⟨(fld_at hn hL 0 (lo := 0) (w := 4) rfl rfl), (fld_at hn hL 2 (lo := 6) (w := 5) rfl rfl)⟩).trans ?_
  exact congr (congr (congrArg Instr.taskDep (bits_of (v := d) (fld_at hn hL 5 (lo := 21) (w := 5) rfl rfl))) (bits_of (v := a) (fld_at hn hL 4 (lo := 16) (w := 5) rfl rfl))) (bits_of (v := b) (fld_at hn hL 3 (lo := 11) (w := 5) rfl rfl))

/-- `task.exit`. -/
theorem taskExit : Statement .taskExit := by
  intro _ _ _
  have hL : FieldsFit [(4, 0), (2, 3), (20, 0), (6, 52)] := ⟨by decide, by decide, by decide, by decide, trivial⟩
  refine decode_of [(4, 0), (2, 3), (20, 0), (6, 52)] hL rfl rfl fun num hn => ?_
  refine (decodeNat_task (fld_at hn hL 3 (lo := 26) (w := 6) rfl rfl)).trans ?_
  unfold decodeTask
  rw [fld_at hn hL 1 (lo := 4) (w := 2) rfl rfl]
  refine (if_pos ⟨(fld_at hn hL 0 (lo := 0) (w := 4) rfl rfl), (fld_at hn hL 2 (lo := 6) (w := 20) rfl rfl)⟩).trans ?_
  rfl

/-- `trc.mark`. -/
theorem trcMark (a : BitVec 5) (b : BitVec 5) : Statement (.trcMark a b) := by
  intro _ _ _
  have hL : FieldsFit [(4, 0), (2, 0), (5, 0), (5, b.toNat), (5, a.toNat), (5, 0), (6, 53)] := ⟨by decide, by decide, by decide, b.isLt, a.isLt, by decide, by decide, trivial⟩
  refine decode_of [(4, 0), (2, 0), (5, 0), (5, b.toNat), (5, a.toNat), (5, 0), (6, 53)] hL rfl (by change 3556769792 + a.toNat * 65536 + b.toNat * 2048 = _; simp only [ofDigits]; omega) fun num hn => ?_
  refine (decodeNat_trc (fld_at hn hL 6 (lo := 26) (w := 6) rfl rfl)).trans ?_
  unfold decodeTrc
  rw [fld_at hn hL 1 (lo := 4) (w := 2) rfl rfl]
  refine (if_pos ⟨(fld_at hn hL 0 (lo := 0) (w := 4) rfl rfl), (fld_at hn hL 2 (lo := 6) (w := 5) rfl rfl), (fld_at hn hL 5 (lo := 21) (w := 5) rfl rfl)⟩).trans ?_
  exact congr (congrArg Instr.trcMark (bits_of (v := a) (fld_at hn hL 4 (lo := 16) (w := 5) rfl rfl))) (bits_of (v := b) (fld_at hn hL 3 (lo := 11) (w := 5) rfl rfl))

/-- `trc.latch`. -/
theorem trcLatch (d : BitVec 5) : Statement (.trcLatch d) := by
  intro _ _ _
  have hL : FieldsFit [(4, 0), (2, 1), (15, 0), (5, d.toNat), (6, 53)] := ⟨by decide, by decide, by decide, d.isLt, by decide, trivial⟩
  refine decode_of [(4, 0), (2, 1), (15, 0), (5, d.toNat), (6, 53)] hL rfl (by change 3556769808 + d.toNat * 2097152 = _; simp only [ofDigits]; omega) fun num hn => ?_
  refine (decodeNat_trc (fld_at hn hL 4 (lo := 26) (w := 6) rfl rfl)).trans ?_
  unfold decodeTrc
  rw [fld_at hn hL 1 (lo := 4) (w := 2) rfl rfl]
  refine (if_pos ⟨(fld_at hn hL 0 (lo := 0) (w := 4) rfl rfl), (fld_at hn hL 2 (lo := 6) (w := 15) rfl rfl)⟩).trans ?_
  exact congrArg Instr.trcLatch (bits_of (v := d) (fld_at hn hL 3 (lo := 21) (w := 5) rfl rfl))

/-- `trc.ctrr`. -/
theorem trcCtrr (d : BitVec 5) (a : BitVec 5) (b : BitVec 5) : Statement (.trcCtrr d a b) := by
  intro _ _ _
  have hL : FieldsFit [(4, 0), (2, 2), (5, 0), (5, b.toNat), (5, a.toNat), (5, d.toNat), (6, 53)] := ⟨by decide, by decide, by decide, b.isLt, a.isLt, d.isLt, by decide, trivial⟩
  refine decode_of [(4, 0), (2, 2), (5, 0), (5, b.toNat), (5, a.toNat), (5, d.toNat), (6, 53)] hL rfl (by change 3556769824 + d.toNat * 2097152 + a.toNat * 65536 + b.toNat * 2048 = _; simp only [ofDigits]; omega) fun num hn => ?_
  refine (decodeNat_trc (fld_at hn hL 6 (lo := 26) (w := 6) rfl rfl)).trans ?_
  unfold decodeTrc
  rw [fld_at hn hL 1 (lo := 4) (w := 2) rfl rfl]
  refine (if_pos ⟨(fld_at hn hL 0 (lo := 0) (w := 4) rfl rfl), (fld_at hn hL 2 (lo := 6) (w := 5) rfl rfl)⟩).trans ?_
  exact congr (congr (congrArg Instr.trcCtrr (bits_of (v := d) (fld_at hn hL 5 (lo := 21) (w := 5) rfl rfl))) (bits_of (v := a) (fld_at hn hL 4 (lo := 16) (w := 5) rfl rfl))) (bits_of (v := b) (fld_at hn hL 3 (lo := 11) (w := 5) rfl rfl))

/-- An event has no word. -/
theorem setvlStreamGrant (hart : Nat) : Statement (.setvlStreamGrant hart) := by intro h; exact absurd h Bool.false_ne_true

/-- An event has no word. -/
theorem codeFillComplete (obj : Nat) (page : Nat) (content : Option (List (BitVec 8))) : Statement (.codeFillComplete obj page content) := by intro h; exact absurd h Bool.false_ne_true

/-- An event has no word. -/
theorem idxLineArrival (hart : Nat) : Statement (.idxLineArrival hart) := by intro h; exact absurd h Bool.false_ne_true

/-- An event has no word. -/
theorem arrayAccept (core : Nat) : Statement (.arrayAccept core) := by intro h; exact absurd h Bool.false_ne_true

/-- An event has no word. -/
theorem arrayRetire (core : Nat) (mismatch : Bool) : Statement (.arrayRetire core mismatch) := by intro h; exact absurd h Bool.false_ne_true

/-- An event has no word. -/
theorem cinchLaneCheck (hart : Nat) (mismatch : Bool) : Statement (.cinchLaneCheck hart mismatch) := by intro h; exact absurd h Bool.false_ne_true

/-- An event has no word. -/
theorem teaselScrub (found : List BlockFinding) : Statement (.teaselScrub found) := by intro h; exact absurd h Bool.false_ne_true

/-- An event has no word. -/
theorem teaselBlockRepair (found : BlockFinding) : Statement (.teaselBlockRepair found) := by intro h; exact absurd h Bool.false_ne_true

/-- An event has no word. -/
theorem distributorChoice : Statement (.distributorChoice) := by intro h; exact absurd h Bool.false_ne_true

/-- An event has no word. -/
theorem sliceEnd (hart : Nat) : Statement (.sliceEnd hart) := by intro h; exact absurd h Bool.false_ne_true

/-- An event has no word. -/
theorem viSliceEnd (hart : Nat) : Statement (.viSliceEnd hart) := by intro h; exact absurd h Bool.false_ne_true

/-- An event has no word. -/
theorem preWinExpiry (hart : Nat) : Statement (.preWinExpiry hart) := by intro h; exact absurd h Bool.false_ne_true

/-- An event has no word. -/
theorem saveComplete (hart : Nat) : Statement (.saveComplete hart) := by intro h; exact absurd h Bool.false_ne_true

/-- An event has no word. -/
theorem vectorSequencerChoice (core : Nat) (ready : List Nat) : Statement (.vectorSequencerChoice core ready) := by intro h; exact absurd h Bool.false_ne_true

/-- An event has no word. -/
theorem joinPushRetry (held : Nat) : Statement (.joinPushRetry held) := by intro h; exact absurd h Bool.false_ne_true

/-- An event has no word. -/
theorem launchEnd (launch : Nat) : Statement (.launchEnd launch) := by intro h; exact absurd h Bool.false_ne_true

/-- An event has no word. -/
theorem copyBurst (engine : Nat) (bytes : Nat) : Statement (.copyBurst engine bytes) := by intro h; exact absurd h Bool.false_ne_true

/-- An event has no word. -/
theorem copyComplete (copy : Nat) : Statement (.copyComplete copy) := by intro h; exact absurd h Bool.false_ne_true

/-- An event has no word. -/
theorem engineCommandComplete (command : Nat) : Statement (.engineCommandComplete command) := by intro h; exact absurd h Bool.false_ne_true

/-- An event has no word. -/
theorem streamRefill (hart : Nat) (stream : Nat) (count : Nat) : Statement (.streamRefill hart stream count) := by intro h; exact absurd h Bool.false_ne_true

/-- An event has no word. -/
theorem cpeWaitReturn (hart : Nat) : Statement (.cpeWaitReturn hart) := by intro h; exact absurd h Bool.false_ne_true

/-- An event has no word. -/
theorem barrierWake (hart : Nat) : Statement (.barrierWake hart) := by intro h; exact absurd h Bool.false_ne_true

/-- An event has no word. -/
theorem lockWordTake (hart : Nat) : Statement (.lockWordTake hart) := by intro h; exact absurd h Bool.false_ne_true

/-- An event has no word. -/
theorem idleWake (hart : Nat) : Statement (.idleWake hart) := by intro h; exact absurd h Bool.false_ne_true

/-- An event has no word. -/
theorem idleTimeout (hart : Nat) : Statement (.idleTimeout hart) := by intro h; exact absurd h Bool.false_ne_true

/-- An event has no word. -/
theorem atsTranslationCompletion (vi : Nat) (page : Nat) (log2size : Nat) (host : Nat) (canRead : Bool) (canWrite : Bool) : Statement (.atsTranslationCompletion vi page log2size host canRead canWrite) := by intro h; exact absurd h Bool.false_ne_true

/-- An event has no word. -/
theorem pageRequestResponse (hart : Nat) (success : Bool) : Statement (.pageRequestResponse hart success) := by intro h; exact absurd h Bool.false_ne_true

/-- An event has no word. -/
theorem pageRequestTimeout (hart : Nat) : Statement (.pageRequestTimeout hart) := by intro h; exact absurd h Bool.false_ne_true

/-- An event has no word. -/
theorem atsInvalidateRequest (vi : Nat) (page : Nat) (log2size : Nat) : Statement (.atsInvalidateRequest vi page log2size) := by intro h; exact absurd h Bool.false_ne_true

/-- An event has no word. -/
theorem invalidationComplete (index : Nat) : Statement (.invalidationComplete index) := by intro h; exact absurd h Bool.false_ne_true

/-- An event has no word. -/
theorem hostPostedWrite (address : Nat) (bytes : List (BitVec 8)) : Statement (.hostPostedWrite address bytes) := by intro h; exact absurd h Bool.false_ne_true

/-- An event has no word. -/
theorem peerAccess (package : Nat) (agent : Nat) (op : PeerOp) (address : Nat) : Statement (.peerAccess package agent op address) := by intro h; exact absurd h Bool.false_ne_true

/-- An event has no word. -/
theorem peerTimeout (request : Nat) : Statement (.peerTimeout request) := by intro h; exact absurd h Bool.false_ne_true

/-- An event has no word. -/
theorem latchTake (index : Nat) : Statement (.latchTake index) := by intro h; exact absurd h Bool.false_ne_true

/-- An event has no word. -/
theorem traceSample (hart : Nat) (slip : BitVec 2) : Statement (.traceSample hart slip) := by intro h; exact absurd h Bool.false_ne_true

/-- An event has no word. -/
theorem powerManagerTick (watts : Nat) (junctions : List Int) : Statement (.powerManagerTick watts junctions) := by intro h; exact absurd h Bool.false_ne_true

/-- An event has no word. -/
theorem clockStepUp : Statement (.clockStepUp) := by intro h; exact absurd h Bool.false_ne_true

/-- An event has no word. -/
theorem thermalTrip : Statement (.thermalTrip) := by intro h; exact absurd h Bool.false_ne_true

/-- An event has no word. -/
theorem powerLoss : Statement (.powerLoss) := by intro h; exact absurd h Bool.false_ne_true

/-- An event has no word. -/
theorem wakeN (result : BringUp) : Statement (.wakeN result) := by intro h; exact absurd h Bool.false_ne_true

/-- An event has no word. -/
theorem latchN : Statement (.latchN) := by intro h; exact absurd h Bool.false_ne_true

/-- An event has no word. -/
theorem tsync : Statement (.tsync) := by intro h; exact absurd h Bool.false_ne_true

/-- An event has no word. -/
theorem attest (nonce : BitVec 256) : Statement (.attest nonce) := by intro h; exact absurd h Bool.false_ne_true

/-- An event has no word. -/
theorem certs : Statement (.certs) := by intro h; exact absurd h Bool.false_ne_true

/-- An event has no word. -/
theorem reset : Statement (.reset) := by intro h; exact absurd h Bool.false_ne_true

/-- An event has no word. -/
theorem timeset (value : BitVec 64) : Statement (.timeset value) := by intro h; exact absurd h Bool.false_ne_true

/-- An event has no word. -/
theorem status : Statement (.status) := by intro h; exact absurd h Bool.false_ne_true

/-- An event has no word. -/
theorem power (write : Option (BitVec 16 × BitVec 16)) : Statement (.power write) := by intro h; exact absurd h Bool.false_ne_true

/-- An event has no word. -/
theorem loadObject (vi : Nat) (image : List (BitVec 8)) (places : List Nat) : Statement (.loadObject vi image places) := by intro h; exact absurd h Bool.false_ne_true

/-- An event has no word. -/
theorem unloadObject (vi : Nat) (obj : Nat) : Statement (.unloadObject vi obj) := by intro h; exact absurd h Bool.false_ne_true

/-- An event has no word. -/
theorem lrec (vi : Nat) (address : BitVec 64) : Statement (.lrec vi address) := by intro h; exact absurd h Bool.false_ne_true

/-- An event has no word. -/
theorem killt (vi : Nat) (task : BitVec 64) : Statement (.killt vi task) := by intro h; exact absurd h Bool.false_ne_true

/-- An event has no word. -/
theorem tlbInvalidate (vi : Nat) (target : Nat) (size : BitVec 2) (stage2 : Bool) : Statement (.tlbInvalidate vi target size stage2) := by intro h; exact absurd h Bool.false_ne_true

/-- An event has no word. -/
theorem tlbInvalidateVi (vi : Nat) (target : Nat) (stage2 : Bool) : Statement (.tlbInvalidateVi vi target stage2) := by intro h; exact absurd h Bool.false_ne_true

/-- An event has no word. -/
theorem debugStop (vi : Nat) (hart : Nat) : Statement (.debugStop vi hart) := by intro h; exact absurd h Bool.false_ne_true

/-- An event has no word. -/
theorem step (vi : Nat) (hart : Nat) : Statement (.step vi hart) := by intro h; exact absurd h Bool.false_ne_true

/-- An event has no word. -/
theorem resume (vi : Nat) (hart : Nat) : Statement (.resume vi hart) := by intro h; exact absurd h Bool.false_ne_true

/-- An event has no word. -/
theorem debugMemoryViewRead (vi : Nat) (hart : Nat) (window : ViewWindow) (address : Nat) : Statement (.debugMemoryViewRead vi hart window address) := by intro h; exact absurd h Bool.false_ne_true

/-- An event has no word. -/
theorem debugMemoryViewWrite (vi : Nat) (hart : Nat) (address : Nat) (value : BitVec 64) : Statement (.debugMemoryViewWrite vi hart address value) := by intro h; exact absurd h Bool.false_ne_true

/-- An event has no word. -/
theorem interfaceTableWrite (vi : Nat) (offset : Nat) (value : BitVec 64) : Statement (.interfaceTableWrite vi offset value) := by intro h; exact absurd h Bool.false_ne_true

/-- An event has no word. -/
theorem functionLevelReset (vi : Nat) : Statement (.functionLevelReset vi) := by intro h; exact absurd h Bool.false_ne_true

/-- An event has no word. -/
theorem registerWrite (target : RegTarget) (value : BitVec 64) : Statement (.registerWrite target value) := by intro h; exact absurd h Bool.false_ne_true

/-- A word that is no instruction is excluded. -/
theorem notAnInstruction (w : BitVec 32) (why : WordFault) : Statement (.notAnInstruction w why) := by intro _ _ h; exact absurd rfl (h w why)

/-- An event has no word. -/
theorem stirrupElementService (command : Nat) (count : Nat) : Statement (.stirrupElementService command count) := by intro h; exact absurd h Bool.false_ne_true

/-- An event has no word. -/
theorem hostPortCompletion (request : Nat) (answer : HostAnswer) : Statement (.hostPortCompletion request answer) := by intro h; exact absurd h Bool.false_ne_true

/-- An event has no word. -/
theorem peerElementCompletion (request : Nat) (answer : Option Nat) : Statement (.peerElementCompletion request answer) := by intro h; exact absurd h Bool.false_ne_true

end Sys2Proof.Laws.RoundTrip
end

