-- ==== Sys2Proof/Safety.lean ====
section
/-! DEFINITION. What counts as a safe run, and the words that the statements about instructions are made of: what an
instruction may have changed, and how it completes. -/

namespace Sys2Proof.Machine

/-! ## Runs -/

/-- A step of the machine that answers a next state. -/
def Steps (s t : State) : Prop := step s = .next t

/-- Every state that a run of steps reaches from `s`. -/
inductive Reaches (s : State) : State → Prop where
  | start : Reaches s s
  | more {t u : State} : Reaches s t → Steps t u → Reaches s u

/-- No run from `s` meets a refusal. -/
def NeverRefused (s : State) : Prop := ∀ t, Reaches s t → ∀ r, step t ≠ .refused r

/-- Home memory is in its canonical form. -/
def State.canonical (s : State) : Prop := s.mem.wf = true

/-! ## What changed -/

/-- Nothing of the machine differs but harts, and of those the running one only: memory, every core, interface, queue and
register of the device is as it was. -/
structure OnlyHart (s t : State) : Prop where
  rest : { t with harts := s.harts } = s
  others : ∀ n, n ≠ s.cur → t.hart n = s.hart n

/-- The running hart completed an instruction that wrote `v` to x[d] and goes on at `pc`. INSTRET counts it. Nothing else
of the machine changed (what the hart had been answered from outside, and its marks of an instruction in flight, which are the
model's own, are used up). -/
structure Wrote (s t : State) (d : BitVec 5) (v pc : Word) : Prop where
  only : OnlyHart s t
  regs : ∀ r, t.h.rx r = if r = d ∧ d ≠ 0 then v else s.h.rx r
  pc : t.h.pc = pc
  counted : t.h.instret = s.h.instret + 1
  hart : { t.h with
    x := s.h.x, pc := s.h.pc, instret := s.h.instret, answers := s.h.answers, placing := s.h.placing, issued := s.h.issued } = s.h

/-- The running hart took an exception: the trap registers hold the cause, the three values and the mode, PC is the
handler's address, and every register of the hart is as it was. TRACE is off, so nothing is recorded (R292). Both links are
cleared; the packages that hold tags of the hart are told so, and nothing else is sent (R258). -/
structure Trapped (s t : State) (cause : BitVec 8) (tpc tvstart tval : Word) : Prop where
  cause : t.h.trap.tcause = cause
  tpc : t.h.trap.tpc = tpc
  tvstart : t.h.trap.tvstart = tvstart
  tval : t.h.trap.tval = tval
  handler : t.h.trap.handler = true
  pc : t.h.pc = s.h.trap.tvec
  links : ∀ l ∈ t.links, l.agent ≠ s.cur
  others : ∀ n, n ≠ s.cur → t.hart n = s.hart n
  hart : { t.h with
    trap := s.h.trap, pc := s.h.pc, answers := s.h.answers, placing := s.h.placing, issued := s.h.issued } = s.h
  kept : t.h.trap.tvec = s.h.trap.tvec ∧ t.h.trap.tscratch = s.h.trap.tscratch
  sent : ∃ l, t.out = s.out ++ l ∧ ∀ r ∈ l, r.kind = 5 ∧ r.value = s.cur
  rest : { t with harts := s.harts, links := s.links, free := s.free, out := s.out, nextReq := s.nextReq } = s

/-- The running hart can take an exception into its handler: it is in task mode, TVEC is set, TRACE is off, and every earlier
array operation has retired (R29, R292, R346). -/
def CanTrap (s : State) : Prop :=
  s.h.trap.handler = false ∧ s.h.trap.tvec ≠ 0 ∧ s.h.dbg.trace = false ∧ s.h.array = []

/-- What a hart holds beside x, PC, INSTRET, its counters, the record of its open interval and the marks of an instruction in
flight: two harts with one view differ in nothing else. -/
def Hart.view (h : Hart) : Hart :=
  { h with
    x := [], pc := 0, instret := 0, counters := {}, answers := [], ckpt := {}, marks := {}, shrunk := none, lost := []
    committing := false, implicit := false, placing := false, issued := false
    dirty := {}, streams := h.streams.map Stream.bare }

/-- The running hart is in task mode with nothing pending: no array operation, no gather, no check that runs or failed, no commit under
way, no request to leave, no trace, and a store buffer that is empty. -/
structure Calm (s : State) : Prop where
  live : s.h.live = true
  runs : s.h.wait = .run
  halted : s.h.dbg.halted = false
  task : s.h.trap.handler = false
  trace : s.h.dbg.trace = false
  array : s.h.array = []
  gathers : s.h.gathers = []
  checked : s.h.marks.failed = none ∧ s.h.marks.checks = []
  closed : s.h.committing = false
  asked : s.h.preempt = none ∧ s.h.dbg.haltReq = false
  buffer : s.h.sb = [] ∧ s.h.sbused = 0

/-- The running hart completed a commit point that wrote `v` to x[d]: it goes on at the next word under a checkpoint taken
there, and its other registers and its memory are as they were. -/
structure CommittedAt (s t : State) (d : BitVec 5) (v : Word) : Prop where
  others : ∀ n, n ≠ s.cur → t.hart n = s.hart n
  view : t.h.view = s.h.view
  regs : ∀ r, t.h.rx r = if r = d ∧ d ≠ 0 then v else s.h.rx r
  pc : t.h.pc = s.h.pc + 4
  counted : t.h.instret = s.h.instret + 1
  point : t.h.ckpt.pc = s.h.pc + 4 ∧ t.h.ckpt.vstart = 0 ∧ t.h.ckpt.mask = s.h.ckmask ∧ t.h.ckpt.strip = s.h.strip
  saved : ∀ r, s.h.ckmask.getLsbD r = true → Sparse.get 0 t.h.ckpt.x r = Sparse.get 0 t.h.x r

/-! ## Vector instructions -/

/-- What a destination element `i` holds after an instruction that performs the elements [VSTART, e): by its class, prestart,
active, inactive or tail (R113). -/
def Vc.classed {α : Type} (c : Vc) (active : Nat → Bool) (e i : Nat) (old zero new : α) : α :=
  if i < c.start then old
  else if i < e then (if active i then new else if c.ip then zero else old)
  else if c.tp then zero else old

/-- The conditions on the state under which a vector instruction with context `c` meets no trap of its mode and no request of
the scheduler: task mode, a legal rounding mode, a strip within VLMAX, no lost span core, and no request. -/
structure VectorReady (s : State) (c : Vc) : Prop where
  task : s.h.trap.handler = false
  mode : c.rm < 6
  room : 0 < c.vlenb
  strip : c.vl ≤ c.share * c.cores
  calm : s.h.preempt = none ∧ s.h.dbg.haltElement = none ∧ s.h.shrunk = none

/-- A `w`-bit group of `regs` registers at `base`: it starts at a multiple of its size, ends in the file, and holds every
element that the span has room for. -/
structure Vc.Group (c : Vc) (base w regs : Nat) : Prop where
  whole : 0 < w ∧ w ∣ c.vlenb * 8
  holds : c.share * w ≤ regs * (c.vlenb * 8)
  last : base + regs ≤ 32

/-- The running hart completed a vector instruction that read the registers `rs` over `n` elements: it wrote `v` to x[d], its
strip registers became `k`, its streams advanced, and the pipes and counters of its span were charged. The vector and predicate
registers are for other statements. Nothing else changed. -/
structure VectorDone (s t : State) (d : BitVec 5) (v : Word) (k : Strip) (rs : List Nat) (n : Nat) : Prop where
  rest : { t with harts := s.harts, cores := s.cores } = s
  others : ∀ m, m ≠ s.cur → t.hart m = s.hart m
  cores : ∀ m, { t.core m with
    vh := (s.core m).vh, used := (s.core m).used, laneSel := (s.core m).laneSel, ccnt := (s.core m).ccnt } = s.core m
  regs : ∀ r, t.h.rx r = if r = d ∧ d ≠ 0 then v else s.h.rx r
  pc : t.h.pc = s.h.pc + 4
  counted : t.h.instret = s.h.instret + 1
  vstart : t.h.vstart = 0
  strip : t.h.strip = k
  streams : t.h.streams = (s.h.pop rs n false).streams
  rotated : t.h.files.vrot = s.h.files.vrot ∧ t.h.files.prot = s.h.files.prot
  hart : { t.h with
    x := s.h.x, pc := s.h.pc, vstart := s.h.vstart, strip := s.h.strip, files := s.h.files, streams := s.h.streams
    instret := s.h.instret, counters := s.h.counters, marks := s.h.marks, dirty := s.h.dirty, lost := s.h.lost, answers := s.h.answers
    placing := s.h.placing, issued := s.h.issued } = s.h

/-- Every vector register on every span position is as it was. -/
def SameVectors (s t : State) : Prop := ∀ q r, r < 32 → t.h.vreg q r = s.h.vreg q r

/-- Every predicate register on every span position is as it was. -/
def SamePreds (s t : State) : Prop := ∀ q k, k < 16 → t.h.preg q k = s.h.preg q k

/-- The group of `w`-bit elements at `base` holds `val i` in the active elements of [VSTART, e), and zeros or its old elements
in the other classes (R113). Other registers, and the bits that are no element, are as they were. -/
structure GroupWritten (s t : State) (c : Vc) (base w regs : Nat) (active : Nat → Bool) (e : Nat) (val : Nat → Nat) : Prop where
  elements : ∀ i, i < c.share * c.cores →
    t.h.element c base w i = c.classed active e i (s.h.element c base w i) 0 (val i % 2 ^ w)
  others : ∀ q r, r < 32 → (r < base ∨ base + regs ≤ r) → t.h.vreg q r = s.h.vreg q r
  above : ∀ q, t.h.vreg q base / 2 ^ (c.share * w) = s.h.vreg q base / 2 ^ (c.share * w)
  preds : SamePreds s t

/-- Predicate `k` holds `val i` in the active elements of [VSTART, e), and zeros or its old bits in the other classes (R111,
R113); p0 keeps reading ones. Other predicates and every vector register are as they were. -/
structure PredWritten (s t : State) (c : Vc) (k : Nat) (active : Nat → Bool) (e : Nat) (val : Nat → Bool) : Prop where
  bits : k ≠ 0 → ∀ i, i < c.share * c.cores → t.h.pbit c k i = c.classed active e i (s.h.pbit c k i) false (val i)
  others : ∀ q j, j < 16 → (j ≠ k ∨ k = 0) → t.h.preg q j = s.h.preg q j
  vectors : SameVectors s t

/-- How many active elements [VSTART, i) holds: the number of draws taken before element `i` (R130, R136). -/
def Vc.before (c : Vc) (active : Nat → Bool) (i : Nat) : Nat := (c.activeList active i).length

/-- The flags that the active elements of the strip raise, together (R132). -/
def Vc.raised (c : Vc) (active : Nat → Bool) (fl : Nat → Flags) : Flags :=
  (c.activeList active c.vl).foldl (fun f i => f ||| fl i) 0

/-- Sources that give every active element of the strip: none of a bound stream is missing or faulted, none is awaited from a
gather, and none lies in a lost block (R203, R208, R335). -/
def Vc.readable (c : Vc) (active : Nat → Bool) (srcs : List Source) : Prop :=
  ∀ i, c.start ≤ i → i < c.vl → active i = true → ∀ t ∈ srcs, t.cause i = none ∧ t.missing i = false ∧ t.lost i = none

end Sys2Proof.Machine
end

