-- ==== Sys2Proof/Certificates/Slice0/Obligations.lean ====
section
/-! DEFINITION. The statements for the provers, with the words that they are made of. -/

open Sys2Proof Sys2Proof.Machine

namespace Sys2Proof.Claims

/-- Instruction `i` completes at `s`: it writes `v` to x[d], goes on at the next word and changes nothing else. -/
def Gives (s : State) (d : BitVec 5) (i : Instr) (v : Word) : Prop :=
  ∃ t, exec i s = .next t ∧ Wrote s t d v (s.h.pc + 4)

/-- The interface of the running hart's task holds all `n` cores of the unit that the hart's core lies in (R342). -/
def holdsAll (s : State) (n : Nat) : Bool :=
  s.h.task.vi == 0 || (List.range n).all fun k => (s.vi s.h.task.vi).hasCore (s.cur / 4 / n * n + k)

/-- The counters of the hart, its core, its cluster and its die, and their shadows: number and value (R342). The numbers of the
space that are not listed read 0. -/
def counters : List (Nat × (State → Word)) :=
  let core (s : State) : Core := s.core (s.cur / 4)
  let cluster (s : State) : SharedCounters := Sparse.get {} s.clusters (s.cur / 64)
  let die (s : State) : SharedCounters := Sparse.get {} s.dies (s.cur / 1024)
  [(0x100, fun s => s.h.counters.slotcyc), (0x101, fun s => s.h.counters.beats), (0x102, fun s => s.h.counters.arrcyc),
    (0x103, fun s => s.h.counters.strips), (0x104, fun s => s.h.counters.trims), (0x105, fun s => s.h.counters.rewinds),
    (0x1F0, fun s => (core s).ltime), (0x1F1, fun s => (core s).lseq)]
  ++ ((List.range 16).flatMap fun k =>
    [(0x180 + k, fun s => Sparse.get 0 s.h.counters.shadow (0x100 + k)), (0x190 + k, fun s => Sparse.get 0 (core s).shadow (0x110 + k))])
  ++ (List.range 8).flatMap fun k =>
    [(0x110 + k, fun s => Sparse.get 0 (core s).ccnt k), (0x118 + k, fun s => (Sparse.get 0 (core s).csel k).setWidth 64),
      (0x120 + k, fun s => if holdsAll s 16 then Sparse.get 0 (cluster s).values k else 0),
      (0x128 + k, fun s => if holdsAll s 256 then Sparse.get 0 (die s).values k else 0),
      (0x1A0 + k, fun s => if holdsAll s 16 then Sparse.get 0 (cluster s).shadow k else 0),
      (0x1A8 + k, fun s => if holdsAll s 256 then Sparse.get 0 (die s).shadow k else 0)]

/-- The control registers that a task may read, with what they hold: number and value (R71). -/
def readable : List (Nat × (State → Word)) :=
  [(0x000, fun s => s.h.strip.vl), (0x001, fun s => s.h.strip.vtype.setWidth 64), (0x002, fun s => s.h.vstart),
    (0x003, fun s => s.h.strip.sord), (0x004, fun s => s.h.strip.saddr), (0x005, fun s => s.h.achr), (0x006, fun s => s.h.achc),
    (0x007, fun s => s.h.strip.trimc.setWidth 64), (0x008, fun s => s.h.strip.trimi)]
  ++ [(0x010, fun s => s.h.ckmask.setWidth 64), (0x012, fun s => s.h.ftrim.setWidth 64), (0x013, fun s => s.h.strip.rngs),
    (0x021, fun s => BitVec.ofNat 64 s.h.span.length), (0x022, fun s => s.h.task.start.poolpart.setWidth 64),
    (0x038, fun s => s.h.matrix.mvl.setWidth 64), (0x052, fun s => BitVec.ofNat 64 s.h.task.vi)]
  ++ [(0x060, fun s => s.h.task.id), (0x061, fun s => s.h.task.frame), (0x062, fun s => s.h.task.joinp),
    (0x070, fun s => s.cycle), (0x071, fun s => s.time), (0x072, fun s => s.h.instret), (0x084, fun s => s.h.trap.tvec),
    (0x086, fun s => s.h.trap.tscratch), (0x0A0, fun s => BitVec.ofNat 64 s.h.sbused), (0x0B0, fun s => s.h.counters.slips),
    (0x0B1, fun s => s.h.counters.slipv), (0x0B2, fun s => s.h.counters.slipm)]
  ++ [(0x011, fun s => s.h.strip.fflags.setWidth 64), (0x014, fun s => BitVec.ofNat 64 (s.vi s.h.task.vi).preWin),
    (0x020, fun s => BitVec.ofNat 64 s.h.vlenb), (0x050, fun s => BitVec.ofNat 64 (hartIdFor s s.h.task.vi s.cur)),
    (0x051, fun s => BitVec.ofNat 64 (coreIdFor s s.h.task.vi (s.cur / 4)))]
  ++ ((List.range 8).flatMap fun k =>
    [(0x030 + k, fun s => Sparse.get 0 s.h.matrix.zw k), (0x040 + k, fun s => Sparse.get 0 s.h.matrix.ufd k),
      (0x058 + k, fun s => (Sparse.get 0 s.h.task.lpath k).setWidth 64)])
  ++ counters

/-- No earlier instruction in flight can still change the register (R72): FFLAGS waits for the array, a ZW for the operations on its
tile, and the slip counts for gathers and probes, which go on counting (R341). -/
def Settled (s : State) (n : Nat) : Prop :=
  (n = 0x011 → s.h.array = []) ∧ (0x030 ≤ n → n ≤ 0x037 → ∀ e ∈ s.h.array, e.tile % 8 ≠ n - 0x030)
    ∧ (0x0B0 ≤ n → n ≤ 0x0B2 → s.h.gathers = [])

/-- The trap registers that only handler mode may read or write (R71). -/
def handlerRegisters : List (Nat × (State → Word)) :=
  [(0x080, fun s => s.h.trap.tcause.setWidth 64), (0x081, fun s => s.h.trap.tpc), (0x082, fun s => s.h.trap.tvstart),
    (0x083, fun s => s.h.trap.tval), (0x085, fun s => if s.h.trap.handler then 1 else 0)]

/-- A writable register: its number, the bits it has, its value in a hart, and the hart with it put back as in another. -/
structure Writable where
  number : Nat
  mask : Word
  get : Hart → Word
  putBack : Hart → Hart → Hart

/-- The registers of a hart that a task may write, but for the unfolding descriptors (R71). -/
def writable : List Writable :=
  [⟨0x002, BitVec.allOnes 64, fun h => h.vstart, fun t s => { t with vstart := s.vstart }⟩,
    ⟨0x010, 0xFFFFFFFE, fun h => h.ckmask.setWidth 64, fun t s => { t with ckmask := s.ckmask }⟩,
    ⟨0x012, 0x1F, fun h => h.ftrim.setWidth 64, fun t s => { t with ftrim := s.ftrim }⟩,
    ⟨0x013, BitVec.allOnes 64, fun h => h.strip.rngs, fun t s => { t with strip := { t.strip with rngs := s.strip.rngs } }⟩,
    ⟨0x084, BitVec.allOnes 64, fun h => h.trap.tvec, fun t s => { t with trap := { t.trap with tvec := s.trap.tvec } }⟩,
    ⟨0x086, BitVec.allOnes 64, fun h => h.trap.tscratch, fun t s => { t with trap := { t.trap with tscratch := s.trap.tscratch } }⟩]
  ++ [⟨0x011, 0x1F, fun h => h.strip.fflags.setWidth 64, fun t s => { t with strip := { t.strip with fflags := s.strip.fflags } }⟩]

/-- The trap registers that a handler may write; a write of TSTAT changes nothing (R293). -/
def handlerWritable : List Writable :=
  [⟨0x080, 0xFF, fun h => h.trap.tcause.setWidth 64, fun t s => { t with trap := { t.trap with tcause := s.trap.tcause } }⟩,
    ⟨0x081, BitVec.allOnes 64, fun h => h.trap.tpc, fun t s => { t with trap := { t.trap with tpc := s.trap.tpc } }⟩,
    ⟨0x082, BitVec.allOnes 64, fun h => h.trap.tvstart, fun t s => { t with trap := { t.trap with tvstart := s.trap.tvstart } }⟩,
    ⟨0x083, BitVec.allOnes 64, fun h => h.trap.tval, fun t s => { t with trap := { t.trap with tval := s.trap.tval } }⟩]

/-- A control register has the number: the table of R71 lists it, or it lies in the counter or the debug space. -/
def assigned (n : Nat) : Bool :=
  ((readable ++ handlerRegisters).map (·.1)).contains n || decide (0x100 ≤ n) && decide (n < 0x220)

/-- The number is that of a register that task or handler mode may write (R71, R342). -/
def writableNumber (n : Nat) : Bool :=
  ((writable ++ handlerWritable).map (·.number)).contains n || n == 0x085 || decide (0x040 ≤ n) && decide (n ≤ 0x047)
    || decide (0x118 ≤ n) && decide (n ≤ 0x11F)

/-- The running hart wrote `v` to register `r`, its old value to x[d], and changed nothing else but PC and INSTRET. -/
structure WroteControl (s t : State) (d : BitVec 5) (r : Writable) (v : Word) : Prop where
  only : OnlyHart s t
  register : r.get t.h = v &&& r.mask
  regs : ∀ q, t.h.rx q = if q = d ∧ d ≠ 0 then r.get s.h else s.h.rx q
  pc : t.h.pc = s.h.pc + 4
  counted : t.h.instret = s.h.instret + 1
  hart : { r.putBack t.h s.h with
    x := s.h.x, pc := s.h.pc, instret := s.h.instret, answers := s.h.answers, placing := s.h.placing, issued := s.h.issued } = s.h

/-- What a `ctl` that writes `v` over the old value `old` of a register does to the rest of the running hart. -/
structure CtlDone (s t : State) (d : BitVec 5) (old : Word) : Prop where
  others : ∀ n, n ≠ s.cur → t.hart n = s.hart n
  regs : ∀ q, t.h.rx q = if q = d ∧ d ≠ 0 then old else s.h.rx q
  pc : t.h.pc = s.h.pc + 4
  counted : t.h.instret = s.h.instret + 1

/-- The effective address x[A] + sext(I, 12) (R62). -/
def addressOf (s : State) (a : BitVec 5) (i : BitVec 12) : Nat := (s.h.rx a + BitVec.ofInt 64 i.toInt).toNat

/-- `n` bytes from home address `a` up as the running hart's core reads them: each from its L1 data cache where that holds the byte, else
from the home (R200; log entry 79). -/
def cachedBytes (s : State) (a : Nat) : Nat → Nat
  | 0 => 0
  | n + 1 => ((Sparse.find s.l1 (s.cur / 4 * 2 ^ 52 + a)).getD (s.mem.byte a)).toNat + 256 * cachedBytes s (a + 1) n

/-- A strongly ordered access may begin: no buffered store and no access under way goes before it (R240). -/
def StrongFree (s : State) : Prop := s.h.sb.any (fun e => e.ord == .strong) = false ∧ strongPending s s.h.owner = false

/-- An access of `n` bytes at `ea` passes the checks of R62 on a page of home memory that is no device: its home address is
`la`, and it reads `v`, the hart's buffered stores laid over the bytes of the home or of the core's copy (R67). -/
def ReadsHome (s : State) (ea n : Nat) (ordering : Bool) (la v : Nat) : Prop :=
  ∃ p, scalarPage s s.cur ea n true false ordering = .ok p ∧ p.loc = .home la ∧ p.device = false
    ∧ (p.ord = .strong → StrongFree s) ∧ s.mem.poisoned la n = false
    ∧ v = overlay s.h.sb (.home la) n (if p.ord = .strong then s.mem.read la n else cachedBytes s la n)

/-- The loads and stores of `n` bytes with an offset; true for a load. -/
def sizes : List (Nat × (BitVec 5 → BitVec 5 → BitVec 12 → Instr) × Bool) :=
  [(1, .ldB, true), (1, .ldBu, true), (2, .ldH, true), (2, .ldHu, true), (4, .ldW, true), (4, .ldWu, true), (8, .ldD, true),
    (8, .ldLl, true), (1, .stB, false), (2, .stH, false), (4, .stW, false), (8, .stD, false)]

/-- The running hart's place of a store or an atomic operation at x[A]: it passes its checks at home address `la` on an
ordinary page, and no hart waits at a barrier that the write could break. -/
structure AtHome (s : State) (r : Res Page) (la : Nat) : Prop where
  page : ∃ p, r = .ok p ∧ p.loc = .home la ∧ p.device = false
  quiet : ∀ c ∈ s.harts, ∀ line, c.2.waitsOn line = false
  nothingOut : s.posted = [] ∧ s.out = []

/-- The operands of a vector instruction are legal and there: sources (register, width, registers of the group) that it may
read, a destination group that it may write and that has its physical registers (R108, R110, R203). -/
structure Operands (s : State) (c : Vc) (active : Nat → Bool) (srcs : List (Nat × Nat × Nat)) (d w regs : Nat) : Prop where
  ready : VectorReady s c
  sources : ∀ x ∈ srcs, x.1 % x.2.2 = 0 ∧ s.h.readOk c x.1 x.2.2 x.2.1 = true
  there : c.readable active (srcs.map fun x => s.h.source c x.1 x.2.1)
  dest : d % regs = 0 ∧ s.h.writeOk d regs = true
  group : c.Group d w regs
  slots : c.writes = true → (s.h.marks.claim (s.h.slotsOf d regs) []).isSome = true

/-- The same for an instruction that reads the guard, which must fit the predicates (R111). -/
structure LaneReady (s : State) (c : Vc) (active : Nat → Bool) (srcs : List (Nat × Nat × Nat)) (d w regs : Nat) : Prop
    extends Operands s c active srcs d w regs where
  guard : c.predOk false = true

/-- The same for an instruction that writes predicate `k`. -/
structure CompareReady (s : State) (c : Vc) (srcs : List (Nat × Nat × Nat)) (k : Nat) : Prop where
  ready : VectorReady s c
  sources : ∀ x ∈ srcs, x.1 % x.2.2 = 0 ∧ s.h.readOk c x.1 x.2.2 x.2.1 = true
  there : c.readable (s.h.active c) (srcs.map fun x => s.h.source c x.1 x.2.1)
  guard : c.predOk true = true
  slots : c.writes = true → (s.h.marks.claim [] (s.h.predSlots k)).isSome = true

/-- No active element raises a flag that FTRIM enables (R132). -/
def NoTrim (s : State) (c : Vc) (active : Nat → Bool) (fl : Nat → Flags) : Prop :=
  ∀ i, c.start ≤ i → i < c.vl → active i = true → flagCause (fl i) s.h.ftrim = none

/-- Instruction `n` completes: its active elements hold `val`, FFLAGS gains their flags `fl`, and with `draws` RNGS advances by
one step for each (R113, R124, R132, R136). -/
def FillsGroup (s : State) (n : Instr) (c : Vc) (active : Nat → Bool) (rs : List Nat) (d w regs : Nat) (draws : Bool)
    (val : Nat → Nat) (fl : Nat → Flags) : Prop :=
  NoTrim s c active fl → ∃ t, exec n s = .next t ∧ GroupWritten s t c d w regs active c.vl val
    ∧ VectorDone s t 0 0 { s.h.strip with
        fflags := s.h.strip.fflags ||| c.raised active fl
        rngs := if draws then s.h.strip.rngs + BitVec.ofNat 64 (c.before active c.vl) * gamma else s.h.strip.rngs } rs c.vl

/-- Instruction `n` completes and writes predicate `k` by `val`. -/
def FillsPred (s : State) (n : Instr) (c : Vc) (active : Nat → Bool) (rs : List Nat) (k : Nat) (val : Nat → Bool)
    (fl : Nat → Flags) : Prop :=
  NoTrim s c active fl → ∃ t, exec n s = .next t ∧ PredWritten s t c k active c.vl val
    ∧ VectorDone s t 0 0 { s.h.strip with fflags := s.h.strip.fflags ||| c.raised active fl } rs c.vl

/-- Every element below VL of the sources is there: none is a stream element to come (R203), and none lies in a lost block
(R335). -/
def AllThere (s : State) (c : Vc) (rs : List (BitVec 5)) : Prop :=
  ∀ i < c.vl, ∀ r ∈ rs, (s.h.source c r.toNat c.sew).missing i = false ∧ (s.h.source c r.toNat c.sew).lost i = none

/-- The runs of an access read `v`: the bytes of the homes, or of the copies of the core's L1 data cache, or the scratchpad's, the
hart's own buffered stores laid over them (R67, R200, log entry 79); a strongly ordered one may begin (R240). -/
def ReadsRuns (s : State) (l : List Spot) (v : Nat) : Prop :=
  readSpots s s.h.sb s.h.answers l true = .ok v ∧ ((∃ p ∈ l, p.ord = .strong) → StrongFree s ∧ s.h.answers = [])

/-- The access passes every check of R190 on pages that ask for no commit before it, and its bytes read `v` (R192). -/
def Fetches (s : State) (a : Access) (v : Nat) : Prop :=
  ∃ l, a.spots = .ok l ∧ (∀ p ∈ l, p.device = false) ∧ ReadsRuns s l v

/-- What a load needs of a page; `dev` where the function may touch a device-class page (R192). -/
def reading (dev : Bool) : Need := { r := true, w := false, align := 0, device := dev }

/-- A gather or a probe of `w`-bit elements of the running hart, as the in-flight table holds it from its issue at `s` to `t` until its
lines have arrived (R208, R350): its destination is `n` registers from `d`, which held the old contents before it, with the tail
policy where nothing of it has come (R113, R209). -/
def flight (s t : State) (probe : Bool) (c : Vc) (d n w : Nat) : Gather :=
  { pc := s.h.pc, sord := s.h.strip.sord, probe, slots := s.h.slotsOf d n, age := s.h.instret, from_ := c.start, to_ := c.vl, width := w
    share := c.share, bits := c.vlenb * 8, old := (s.h.zeroTail c d w c.start).contents d n, new := t.h.contents d n }

/-- The Stirrup instance of the die of each place has accepted one element more for the running hart's queue (R206, R222). -/
def Served (s t : State) (l : List Spot) : Prop :=
  (l = [] → t.moved = s.moved) ∧ ∀ k, Sparse.get 0 t.moved k = Sparse.get 0 s.moved k
    + (l.filter fun p => movedKey (s.build.engines + stirrupOf s.build p.loc) s.h.task.vi s.h.task.queue == k).length

/-- No instance of Stirrup serves a command of another queue before the running hart's elements (R222). -/
def Unshared (s : State) : Prop := ∀ k, shareSpent s s.cur k = false

/-- What a store needs of a page. -/
def writing (dev : Bool) : Need := { r := false, w := true, align := 0, device := dev }

/-- The element width and the group of a vector access: SEW and GRP, or under FAM 3 the narrow width and its group (R187). -/
def dataWidth (c : Vc) : Nat := if c.fam = 3 then c.n else c.sew
def dataRegs (c : Vc) : Nat := if c.fam = 3 then max 1 (c.grp * c.n / c.sew) else c.grp

/-- The conditions of R188 on the type of a vector access. -/
def accessType (c : Vc) : Prop := c.fam = 3 → c.fx < 20 ∧ c.n < c.sew

/-- The address of element `i` under each addressing function, of `w` bytes or `ew` bits, with the bit in its first byte
(R187). -/
def unitAt (s : State) (base ew i : Nat) (need : Need) : Access := memAccess s (base + i * ew / 8) (i * ew % 8) (max 1 (ew / 8)) need
def stridedAt (s : State) (base : Nat) (stride : Int) (w i : Nat) (need : Need) : Access :=
  memAccess s ((base + i * stride : Int) % (2 ^ 64 : Nat)).toNat 0 w need
def tileAt (s : State) (base : Nat) (shape : Word) (w i : Nat) (need : Need) : Access :=
  let cols := shape.toNat / 2 ^ 48
  let pitch := signed shape.toNat 48
  memAccess s ((base + (i / cols : Nat) * pitch + (i % cols * w : Nat) : Int) % (2 ^ 64 : Nat)).toNat 0 w need
def scratchAt (s : State) (base desc ew i : Nat) : Access :=
  let o := base + i * ew / 8
  let row (o : Nat) : Nat := if desc / 2 ^ 5 % 16 = 0 then o else o ^^^ (o / 2 ^ (desc % 32) % 2 ^ (desc / 2 ^ 5 % 16) * 16)
  { ea := row o, bit := i * ew % 8, spots := scratchSpots s ((List.range (max 1 (ew / 8))).map fun k => row (o + k)) }

/-- The sources of a vector store are legal and there (R188, R203). -/
structure StoreReady (s : State) (c : Vc) (active : Nat → Bool) (srcs : List (Nat × Nat × Nat)) : Prop where
  ready : VectorReady s c
  sources : ∀ x ∈ srcs, x.1 % x.2.2 = 0 ∧ s.h.readOk c x.1 x.2.2 x.2.1 = true
  there : c.readable active (srcs.map fun x => s.h.source c x.1 x.2.1)
  guard : c.predOk false = true

/-- Instruction `n` completes and puts `entries` of `bits` bits into the strip store buffer, in that order: no register and no byte of
memory changes, and nothing of it has reached Stirrup (R94, R189, R208). -/
def Buffers (s : State) (n : Instr) (c : Vc) (rs : List Nat) (entries : List SbEntry) (bits : Nat) : Prop :=
  s.h.sbused + (bits + 7) / 8 ≤ s.h.sbCap →
  ∃ t, exec n s = .next t ∧ t.h.sb = s.h.sb ++ entries ∧ t.h.sbused = s.h.sbused + (bits + 7) / 8 ∧ SameVectors s t ∧ SamePreds s t
    ∧ VectorDone s (t.setH { t.h with sb := s.h.sb, sbused := s.h.sbused }) 0 0 s.h.strip rs c.vl

/-- Instruction `n` traps as a whole with cause `k`; TVAL is the word (R28). -/
def TrapsWhole (s : State) (n : Instr) (k : BitVec 8) : Prop :=
  ∃ t, exec n s = .next t ∧ Trapped s t k s.h.pc s.h.vstart (s.ir.setWidth 64)

/-- A vector instruction in mode `c` judges its whole before its first element: RM 6 or 7, then what it accepts (`legal`), then the
physical registers of the slots that it writes (R27, R28, R110). -/
def Judges (s : State) (n : Instr) (c : Vc) (legal : Prop) (slots preds : List Nat) : Prop :=
  (6 ≤ c.rm → TrapsWhole s n Cause.illegalMode) ∧ (c.rm < 6 → ¬legal → TrapsWhole s n Cause.illegalType)
    ∧ (c.rm < 6 → legal → c.writes = true → s.h.marks.claim slots preds = none → TrapsWhole s n Cause.renameLimit)

/-- The groups that an instruction reads (register, width, registers) are aligned and may be read (R108, R203). -/
def MayRead (s : State) (c : Vc) (srcs : List (Nat × Nat × Nat)) : Prop :=
  ∀ x ∈ srcs, x.1 % x.2.2 = 0 ∧ s.h.readOk c x.1 x.2.2 x.2.1 = true

/-- The group that an instruction writes is aligned and bound to no stream (R108, R203). -/
def MayWrite (s : State) (d regs : Nat) : Prop := d % regs = 0 ∧ s.h.writeOk d regs = true

/-- A strip was trimmed at element `i` by cause `k`, with FFLAGS gaining `fl` (R88). -/
def Trimmed (s t : State) (i : Nat) (k : BitVec 8) (fl : Flags) : Prop :=
  t.h.pc = s.h.pc + 4 ∧ t.h.vstart = 0 ∧ (∀ r, t.h.rx r = s.h.rx r)
    ∧ t.h.strip = { s.h.strip with vl := BitVec.ofNat 64 i, trimc := k, trimi := BitVec.ofNat 64 i, fflags := s.h.strip.fflags ||| fl }

/-- The causes that an element's checks give (R190). -/
def memoryCauses : List (BitVec 8) :=
  [Cause.noncanonical, Cause.misaligned, Cause.pageAbsent, Cause.pagePerm, Cause.bound, Cause.illegalMode, Cause.deviceClassMisuse, Cause.poison]

/-- The images that zwset accepts (R169). -/
def legalImage (v : Nat) : Prop :=
  let a := v % 32
  let b := v / 2 ^ 9 % 32
  let acct := v / 2 ^ 18 % 4
  let qa := v / 2 ^ 20 % 32
  let qb := v / 2 ^ 25 % 32
  let qz := v / 2 ^ 30 % 64
  a < 20 ∧ b < 20 ∧ v / 2 ^ 38 % 2 ^ 24 = 0 ∧ acct ≠ 3 ∧ qa ≤ 16 ∧ qb ≤ 16 ∧ qz ≤ 48 ∧ (acct < 2 → a < 8 ∧ b < 8) ∧ (acct = 2 → qz = 0)
    ∧ (8 ≤ a → qa = 0) ∧ (8 ≤ b → qb = 0) ∧ (v.testBit 36 = true → a = 4 ∨ a = 5) ∧ (v.testBit 37 = true → b = 4 ∨ b = 5)

/-- No request of the scheduler or the debugger waits, and the hart is in task mode. -/
def Unasked (h : Hart) : Prop := h.trap.handler = false ∧ h.preempt = none ∧ h.dbg.haltElement = none

/-- A naturally aligned element of `w` bytes at `ea` passes its checks, on one ordinary page of home memory: its home address is
`la` (R190, R261). -/
def HomeElement (s : State) (ea w : Nat) (r wr : Bool) (la : Nat) : Prop :=
  ∃ p, checkSpots s (ea % 2 ^ 64) w { r, w := wr, align := w, device := false } = .ok [p] ∧ p.loc = .home la ∧ p.va = ea % 2 ^ 64
    ∧ p.device = false ∧ p.ord ≠ .strong ∧ la % w = 0

/-- No hart waits at a barrier. -/
def Quiet (s : State) : Prop := ∀ c ∈ s.harts, ∀ line, c.2.waitsOn line = false

/-- The `n` bytes that an engine's access names are one run of home memory from `a` on. -/
def OneHome (r : Res (List Spot)) (a n : Nat) : Prop := ∃ p : Spot, r = .ok [p] ∧ p.loc = .home a ∧ p.bytes = n

/-- A memory with the poison of home memory and its bytes, but for those that `may` allows to differ. -/
def Differs (s : State) (may : Nat → Prop) (m : Memory) : Prop :=
  (∀ y, ¬may y → m.byte y = s.mem.byte y) ∧ m.poison = s.mem.poison ∧ m.cachePoison = s.mem.cachePoison

/-- A unit of the device reaches the `n` bytes at `va` of interface `vi` at home address `a`, to read (`r`) or to write, whatever the bytes
hold that `may` names. -/
def Reached (s : State) (vi va n : Nat) (r : Bool) (may : Nat → Prop) (a : Nat) : Prop :=
  ∀ m, Differs s may m → ∀ k < n, deviceHome { s with mem := m } vi (va + k) r (!r) r = .ok (.home (a + k))

/-- The bytes of `[a, a + n)`. -/
def inside (a n y : Nat) : Prop := a ≤ y ∧ y < a + n

/-- A memory that holds what home memory holds, but for the elements of `list`, of `w` bytes at `la`. -/
def Apart (s : State) (list : List Nat) (la : Nat → Nat) (w : Nat) (m : Memory) : Prop :=
  ∀ x, (∀ i ∈ list, x < la i ∨ la i + w ≤ x) → m.byte x = s.mem.byte x

/-- The running hart holds a vector link on the line of home address `la`. -/
def VectorLinked (s : State) (la : Nat) : Bool := s.links.any fun l => l.agent == s.cur && l.vector && l.line == .home (la / 64 * 64)

/-- The running hart opened a strip with grant `g` by the setvl at PC: step 5 and step 6 of R83. -/
structure Opened (s t : State) (d : BitVec 5) (first : Bool) (i : BitVec 8) (g : Nat) : Prop where
  rest : { t with harts := s.harts, cores := s.cores } = s
  others : ∀ n, n ≠ s.cur → t.hart n = s.hart n
  regs : ∀ r, t.h.rx r = if r = d ∧ d ≠ 0 then BitVec.ofNat 64 g else s.h.rx r
  strip : t.h.strip = { s.h.strip with
    vl := BitVec.ofNat 64 g, gvl := BitVec.ofNat 64 g, vtype := BitVec.ofNat 12 (i.toNat * 16), trimc := 0, trimi := 0
    saddr := s.h.pc, sord := if first then 0 else s.h.strip.sord + 1 }
  next : t.h.pc = s.h.pc + 4 ∧ t.h.vstart = 0 ∧ t.h.instret = s.h.instret + 1
  point : t.h.ckpt.pc = s.h.pc + 4 ∧ t.h.ckpt.strip = t.h.strip
  hart : { t.h.view with strip := s.h.strip, vstart := s.h.vstart, dbg := s.h.dbg, wait := s.h.wait } = s.h.view

/-- A calm hart's commit point. -/
def atCommit (s : State) : State := match commitHart s s.cur with
  | .ok c => c
  | .error c => c

/-- Nothing is posted to the host, and no answer from outside is awaited. -/
def NothingOut (s : State) : Prop := s.posted = [] ∧ s.out = []

/-- The running hart ended a commit-point instruction that wrote `v` to x[d]: it goes on at the next word under a checkpoint
taken there. -/
def Commits (s t : State) (d : BitVec 5) (v : Word) : Prop :=
  (∀ r, t.h.rx r = if r = d ∧ d ≠ 0 then v else s.h.rx r) ∧ t.h.pc = s.h.pc + 4 ∧ t.h.ckpt.pc = s.h.pc + 4
    ∧ t.h.instret = s.h.instret + 1 ∧ t.h.wait = .run ∧ t.h.live = true

/-- The running hart issued a command: x[D] has its sequence number, and its completion-table entry is open (R212, R226). -/
structure Issued (s t : State) (d : BitVec 5) (copy : Bool) : Prop where
  rest : { t with harts := s.harts, commands := s.commands, copies := s.copies, nextCmd := s.nextCmd } = s
  others : ∀ n, n ≠ s.cur → t.hart n = s.hart n
  ends : Commits s t d (BitVec.ofNat 64 (s.h.task.seq + 1))
  numbered : t.nextCmd = s.nextCmd + 1 ∧ t.h.task.seq = s.h.task.seq + 1
  entry : Sparse.find t.h.task.ctab ((s.h.task.seq + 1) % 256)
    = some { seq := s.h.task.seq + 1, copy, n := 0, cause := 0, complete := false, pc := s.h.pc, sord := s.h.strip.sord
             age := s.h.instret }
  entries : ∀ k, k ≠ (s.h.task.seq + 1) % 256 → Sparse.find t.h.task.ctab k = Sparse.find s.h.task.ctab k
  hart : { t.h.view with task := s.h.task } = s.h.view ∧ { t.h.task with seq := s.h.task.seq, ctab := s.h.task.ctab } = s.h.task

/-- A descriptor of `n` bytes at `va` passes its checks as a leading element and reads `v` (R212). -/
def Describes (s : State) (va : Word) (n v : Nat) : Prop :=
  ∃ l, checkSpots s va.toNat n { reading false with align := 8 } = .ok l ∧ ReadsRuns s l v

/-- A join-counter address is none, or aligned and translated for R and W (R212). -/
def CounterOk (s : State) (jp : Nat) : Prop :=
  jp % 64 = 0 ∧ (jp = 0 ∨ ∃ p, scalarPage s s.cur jp 8 true true false = .ok p)

/-- What R227 gives for the record of command `q` of a task. -/
def resultOf (t : Task) (q : Nat) : Word :=
  let minus (cause : BitVec 8) (n : Nat) : Word := 0 - BitVec.ofNat 64 (cause.toNat * 2 ^ 48 + n)
  match t.record q with
  | none => minus Cause.seqUnknown 0
  | some e => match e.complete, e.copy with
    | true, _ => if e.cause = 0 then BitVec.ofNat 64 e.n else minus e.cause e.n
    | false, true => BitVec.ofNat 64 e.n
    | false, false => minus Cause.cmdPending 0

/-- Hart `n` is as it was but for its wait, and so is everything else. -/
def WaitIs (s t : State) (n : Nat) (w : Wait) : Prop :=
  (t.hart n).wait = w ∧ { t.hart n with wait := (s.hart n).wait } = s.hart n ∧ (∀ k, k ≠ n → t.hart k = s.hart k)
    ∧ { t with harts := s.harts } = s

/-- The request `r` is answered with `a`: its hart, which waits for it, performs its instruction again. -/
def Answers (s t : State) (r : ExtReq) (n : Nat) (a : Answer) : Prop :=
  t.out = (s.out.filter fun x => x.id != r.id) ∧ (t.hart n).answers = (s.hart n).answers ++ [a] ∧ (t.hart n).wait = .run
    ∧ { t.hart n with answers := (s.hart n).answers, wait := (s.hart n).wait } = s.hart n ∧ (∀ k, k ≠ n → t.hart k = s.hart k)
    ∧ { t with harts := s.harts, out := s.out } = s

/-- The majors that R24 lists. -/
def majors : List Nat :=
  [0x01, 0x02, 0x03, 0x04, 0x05, 0x06, 0x07, 0x08, 0x09, 0x0A, 0x0B, 0x0C, 0x0D, 0x0E, 0x10, 0x11, 0x12, 0x13, 0x14, 0x15]
  ++ [0x16, 0x17, 0x18, 0x19, 0x1A, 0x1B, 0x1C, 0x1D, 0x20, 0x21, 0x22, 0x23, 0x28, 0x29, 0x30, 0x31, 0x32, 0x33, 0x34, 0x35]

end Sys2Proof.Claims

open Sys2Proof.Claims

/-! ## Words, steps and the whole machine -/

/-- R16, R20, R24, R25: words written out from the encodings of the manual decode to the instructions that they stand for. -/
def Obligations.DecodedWords : Prop :=
  decode 0x04A63800 = .sopAdd 5 6 7 ∧ decode 0x08AA0FFC = .sopiAddi 5 10 0xFFC ∧ decode 0x10CA6010 = .ldD 6 10 0x010
  ∧ decode 0x18A01FFD = .brNe 5 0 0xFFD ∧ decode 0x24E00007 = .ctlCrr 7 0x007 ∧ decode 0x28000006 = .sysScommit
  ∧ decode 0x353584C0 = .mdset 1 0x1AC26 ∧ decode 0x00000000 = .notAnInstruction 0 .illegalMajor
  ∧ decode 0xFFFFFFFF = .notAnInstruction 0xFFFFFFFF .illegalMajor

/-- R16, R20: decoding the word of a well-formed instruction gives the instruction back, whatever its operands. -/
def Obligations.DecodeOfEncode : Prop :=
  ∀ i : Instr, Sys2Proof.Laws.RoundTrip.Statement i

/-- R16, R24, R27: every 32-bit word decodes to one well-formed instruction whose word it is, so no bit of a word is dropped;
and a word is ILLEGAL_MAJOR exactly where its major is unlisted. -/
def Obligations.EveryWordDecodes : Prop :=
  ∀ w : BitVec 32, (decode w).isWord = true ∧ (decode w).wellFormed = true ∧ encode (decode w) = w
    ∧ (decode w = .notAnInstruction w .illegalMajor ↔ w.toNat / 2 ^ 26 ∉ majors)

/-- R14, R42, R93, R285: a hart's turn performs the instruction that the word at its PC decodes to; where the debugger steps or stops
no hart and the task has no errata (R363), the step is exactly that instruction's effect, but that the core remembers who issued
(R57). A vector instruction waits until the sequencers of its span serve the hart; a commit under way goes on first. A PC outside the
mapped code pages raises FETCH_FAULT, and a page not yet filled starts its fill and makes the hart wait. The model's own choices:
turns (log entry 2), the check of a PC that no jalr checked (12), the pages of a refused object (66), TVAL of FETCH_FAULT (94). -/
def Obligations.StepRunsDecoded : Prop :=
  ∀ (s : State) (n : Nat) (rest : List Turn), s.power.state = .ready →
    let u : State := dueLatches (tick { s with agenda := rest })
    (s.agenda = .hart n :: rest ∨ (∃ ready, s.agenda = .issue ready :: rest ∧ leastRecent u ready = some n)
      ∨ (s.agenda = [] ∧ rest = [] ∧ s.cur = n)) →
    let b := beginTurn { u with cur := n } n
    let pc := b.h.pc.toNat
    let unstepped (t : State) : Prop := ∀ k, (t.hart k).dbg.stepping = false ∧ (t.hart k).dbg.stop = none
    b.h.ready = true →
    (b.h.committing = true → step s = closeTurn b (.next (resumeCommit b id)))
    ∧ (b.h.committing = false → pc % 4 ≠ 0 → step s = closeTurn b (.next (trapEntry b Cause.misaligned b.h.pc b.h.vstart b.h.pc)))
    ∧ (b.h.committing = false → pc % 4 = 0 →
      (∀ o, codeObject b b.h.task.vi pc = some o →
        let page := (pc - o.codebase) / 65536
        let w := Sparse.get 0 o.words ((pc - o.codebase) / 4)
        let runs (q : State) : Prop :=
          step s = closeHart n w b (exec (decode w) { q with ir := w })
          ∧ ∀ t, exec (decode w) { q with ir := w } = .next t → unstepped t → b.h.task.start.errata = 0 →
            ∃ v, step s = .next v ∧ { v with cores := t.cores, harts := t.harts } = t
              ∧ (∀ k, { v.core k with issued := (t.core k).issued } = t.core k)
              ∧ (∀ k, { v.hart k with issued := (t.hart k).issued } = t.hart k)
              ∧ (b.h.issued = true → v = t)
              ∧ (b.h.issued = false → movedOn (b.hart n) (t.hart n) = true →
                  (v.core (n / 4)).issued = (t.core (n / 4)).issued.filter (fun m => m != n) ++ [n])
        (page ∈ o.filled → usesSequencer (decode w) w = false → runs b)
        ∧ (page ∈ o.filled → usesSequencer (decode w) w = true →
            let q := askSequencers b n
            (sequenced q n = true → runs q) ∧ (sequenced q n = false → step s = closeHart n w b (.next (stalled q n none))))
        ∧ (page ∉ o.filled → unstepped b → ∃ t, step s = .next t
            ∧ (t.hart n).wait = .fetch o.id page ∧ (t.hart n).pc = b.h.pc ∧ (∀ k, k ≠ n → t.hart k = b.hart k) ∧ t.mem = b.mem))
      ∧ (codeObject b b.h.task.vi pc = none →
          step s = closeTurn b (.next (trapEntry b Cause.fetchFault b.h.pc b.h.vstart b.h.pc))))

/-- Every instruction and every event completes in every state, and a step never refuses; a step faults only where FAULT has
stopped the clock and nothing is due (R367). -/
def Obligations.NothingIsRefused : Prop :=
  (∀ (i : Instr) (s : State), ∃ t, exec i s = .next t)
  ∧ (∀ s : State, NeverRefused s)
  ∧ ∀ (s : State) (f : Fault), step s = .fault f ↔ s.agenda = [] ∧ s.power.state = .fault ∧ f = .clockStopped

/-- R331, R332, R339, R342, R344, R365, R368: what the manual says holds after device reset. That memory has its canonical form is the
model's own clause (log entry 3). -/
def Obligations.ResetValues : Prop :=
  let s := State.reset
  s.power.state = .off ∧ s.power.alert = false ∧ s.power.thl = false ∧ s.power.pwl = false ∧ s.power.fcur = 3000
  ∧ s.power.fmax = 3000 ∧ s.power.plim = (if Config.isModule then 2600 else 2400)
  ∧ s.relcfg.window = 600 ∧ s.relcfg.rwlim = 4 ∧ s.relcfg.thresh = 4 ∧ s.oos = 0 ∧ s.cycle = 0
  ∧ (∀ n, (s.core n).laneSel = 0 ∧ (s.core n).arrayOps = 0 ∧ (s.core n).lseq = 0
      ∧ ∀ k, Sparse.get 0 (s.core n).ccnt k = 0 ∧ Sparse.get 0 (s.core n).csel k = 0 ∧ Sparse.get 0 (s.core n).shadow k = 0)
  ∧ (∀ n, (s.hart n).live = false) ∧ s.mem.wf = true

/-- Home memory stays in its canonical form, whatever a step does: no address twice, none out of order, and no listed byte that
an unlisted address would read as well. The form is the model's own (log entry 3). -/
def Obligations.MemoryStaysCanonical : Prop :=
  ∀ s t : State, s.mem.wf = true → step s = .next t → t.mem.wf = true

/-! ## Scalar instructions -/

/-- R59: the arithmetic, logic, shift, compare, multiply and counting functions of sop, for every state and operand; clz and ctz
of no set bit are 64. -/
def Obligations.ScalarArithmetic : Prop :=
  (∀ (s : State) (d a b : BitVec 5),
     let x := s.h.rx a
     let y := s.h.rx b
     let k := y.toNat % 64
     Gives s d (.sopAdd d a b) (x + y) ∧ Gives s d (.sopSub d a b) (x - y)
     ∧ Gives s d (.sopAnd d a b) (x &&& y) ∧ Gives s d (.sopOr d a b) (x ||| y)
     ∧ Gives s d (.sopXor d a b) (x ^^^ y) ∧ Gives s d (.sopAndn d a b) (x &&& ~~~y)
     ∧ Gives s d (.sopSll d a b) (BitVec.ofNat 64 (x.toNat * 2 ^ k))
     ∧ Gives s d (.sopSrl d a b) (BitVec.ofNat 64 (x.toNat / 2 ^ k))
     ∧ Gives s d (.sopSra d a b) (BitVec.ofInt 64 (x.toInt / 2 ^ k))
     ∧ Gives s d (.sopSlt d a b) (if x.toInt < y.toInt then 1 else 0)
     ∧ Gives s d (.sopSltu d a b) (if x.toNat < y.toNat then 1 else 0)
     ∧ Gives s d (.sopMin d a b) (BitVec.ofInt 64 (min x.toInt y.toInt))
     ∧ Gives s d (.sopMax d a b) (BitVec.ofInt 64 (max x.toInt y.toInt))
     ∧ Gives s d (.sopMinu d a b) (BitVec.ofNat 64 (min x.toNat y.toNat))
     ∧ Gives s d (.sopMaxu d a b) (BitVec.ofNat 64 (max x.toNat y.toNat))
     ∧ Gives s d (.sopMul d a b) (BitVec.ofInt 64 (x.toInt * y.toInt))
     ∧ Gives s d (.sopMulh d a b) (BitVec.ofInt 64 (x.toInt * y.toInt / 2 ^ 64))
     ∧ Gives s d (.sopMulhu d a b) (BitVec.ofNat 64 (x.toNat * y.toNat / 2 ^ 64)))
  ∧ (∀ (s : State) (d a : BitVec 5),
       let x := s.h.rx a
       ∃ lz tz : Nat, Gives s d (.sopClz d a) (BitVec.ofNat 64 lz) ∧ Gives s d (.sopCtz d a) (BitVec.ofNat 64 tz)
         ∧ Gives s d (.sopPop d a) (BitVec.ofNat 64 ((List.range 64).filter fun i => x.getLsbD i).length)
         ∧ lz ≤ 64 ∧ tz ≤ 64 ∧ (∀ i, i < lz → x.getLsbD (63 - i) = false) ∧ (∀ i, i < tz → x.getLsbD i = false)
         ∧ (lz < 64 → x.getLsbD (63 - lz) = true) ∧ (tz < 64 → x.getLsbD tz = true))

/-- R60: division truncates toward zero, the remainder has the sign of the dividend, and the two borderline inputs give
fixed results. -/
def Obligations.SopDivision : Prop :=
  ∀ (s : State) (d a b : BitVec 5),
    let x := s.h.rx a
    let y := s.h.rx b
    ∃ q r qu ru : Word,
      Gives s d (.sopDiv d a b) q ∧ Gives s d (.sopRem d a b) r ∧ Gives s d (.sopDivu d a b) qu ∧ Gives s d (.sopRemu d a b) ru
      ∧ (y = 0 → q = BitVec.allOnes 64 ∧ r = x ∧ qu = BitVec.allOnes 64 ∧ ru = x)
      ∧ (y ≠ 0 → qu.toNat = x.toNat / y.toNat ∧ ru.toNat = x.toNat % y.toNat)
      ∧ (x.toInt = -2 ^ 63 ∧ y.toInt = -1 → q = x ∧ r = 0)
      ∧ (y ≠ 0 ∧ ¬(x.toInt = -2 ^ 63 ∧ y.toInt = -1) →
          q.toInt = x.toInt.tdiv y.toInt ∧ x.toInt = q.toInt * y.toInt + r.toInt
          ∧ (r.toInt = 0 ∨ (0 < r.toInt ↔ 0 < x.toInt)) ∧ r.toInt.natAbs < y.toInt.natAbs)

/-- R22, R59, R61: sopi takes its second operand from the sign-extended immediate or the shift amount, and lui writes
sext(I, 21) · 2,048. -/
def Obligations.SopiAndLuiResults : Prop :=
  ∀ (s : State) (d a : BitVec 5) (i : BitVec 12) (k : BitVec 6) (j : BitVec 21),
    let x := s.h.rx a
    let y : Word := BitVec.ofInt 64 i.toInt
    Gives s d (.sopiAddi d a i) (x + y) ∧ Gives s d (.sopiAndi d a i) (x &&& y) ∧ Gives s d (.sopiOri d a i) (x ||| y)
    ∧ Gives s d (.sopiXori d a i) (x ^^^ y) ∧ Gives s d (.sopiSlti d a i) (if x.toInt < i.toInt then 1 else 0)
    ∧ Gives s d (.sopiSltiu d a i) (if x.toNat < y.toNat then 1 else 0)
    ∧ Gives s d (.sopiMuli d a i) (BitVec.ofInt 64 (x.toInt * i.toInt))
    ∧ Gives s d (.sopiSlli d a k) (BitVec.ofNat 64 (x.toNat * 2 ^ k.toNat))
    ∧ Gives s d (.sopiSrli d a k) (BitVec.ofNat 64 (x.toNat / 2 ^ k.toNat))
    ∧ Gives s d (.sopiSrai d a k) (BitVec.ofInt 64 (x.toInt / 2 ^ k.toNat))
    ∧ Gives s d (.lui d j) (BitVec.ofInt 64 (j.toInt * 2048))

/-- R68, R69: the branches compare x[A] with x[B] and write no register; jal and jalr write the link. -/
def Obligations.ControlTransfer : Prop :=
  ∀ (s : State) (d a b : BitVec 5) (i : BitVec 12) (j : BitVec 21),
    let x := s.h.rx a
    let y := s.h.rx b
    let goes (n : Instr) (cond : Prop) : Prop := ∃ t, exec n s = .next t ∧
      (cond → Wrote s t 0 0 (s.h.pc + BitVec.ofInt 64 (4 * i.toInt))) ∧ (¬cond → Wrote s t 0 0 (s.h.pc + 4))
    let target := x + BitVec.ofInt 64 i.toInt
    goes (.brEq a b i) (x = y) ∧ goes (.brNe a b i) (x ≠ y) ∧ goes (.brLt a b i) (x.toInt < y.toInt)
    ∧ goes (.brGe a b i) (y.toInt ≤ x.toInt) ∧ goes (.brLtu a b i) (x.toNat < y.toNat) ∧ goes (.brGeu a b i) (y.toNat ≤ x.toNat)
    ∧ (∃ t, exec (.jal d j) s = .next t ∧ Wrote s t d (s.h.pc + 4) (s.h.pc + BitVec.ofInt 64 (4 * j.toInt)))
    ∧ (target.toNat % 4 = 0 → ∃ t, exec (.jalr d a i) s = .next t ∧ Wrote s t d (s.h.pc + 4) target)
    ∧ (target.toNat % 4 ≠ 0 → CanTrap s → ∃ t, exec (.jalr d a i) s = .next t
        ∧ Trapped s t Cause.misaligned s.h.pc s.h.vstart target)

/-- R70, R71, R72, R342: crr, and crs and crc of x0, read every register that a task may read, the counters among them, and write
none; where an instruction in flight can still change the register, they wait. The numbers of the counter space that hold no
counter read 0. -/
def Obligations.ControlReads : Prop :=
  ∀ (s : State) (d : BitVec 5),
    (∀ p ∈ readable, let n := BitVec.ofNat 12 p.1
      ∀ i ∈ [Instr.ctlCrr d n, .ctlCrs d 0 n, .ctlCrc d 0 n],
        (Settled s p.1 → Gives s d i (p.2 s))
        ∧ (¬Settled s p.1 → ∃ t, exec i s = .next t ∧ OnlyHart s t ∧ t.h.pc = s.h.pc ∧ { t.h with stall := s.h.stall } = s.h))
    ∧ ∀ k, 0x100 ≤ k → k < 0x200 → (∀ p ∈ counters, p.1 ≠ k) →
      ∀ i ∈ [Instr.ctlCrr d (BitVec.ofNat 12 k), .ctlCrs d 0 (BitVec.ofNat 12 k), .ctlCrc d 0 (BitVec.ofNat 12 k)], Gives s d i 0

/-- R70, R71, R116, R293, R342: crw writes x[A], crs sets and crc clears its bits, x[D] gets the old value, and absent bits stay zero,
for every register that a task may write, CSEL0 to CSEL7 of the core among them, and for the trap registers that a handler may
write; a handler's write of TSTAT changes nothing. mdset writes the image to m[M] and nothing else. -/
def Obligations.ControlAndModeWrites : Prop :=
  (∀ (s : State) (d a : BitVec 5),
     let x := s.h.rx a
     let does (n : BitVec 12) (old : Word) (q : State → Word → Prop) : Prop :=
       (∃ t, exec (.ctlCrw d a n) s = .next t ∧ q t x) ∧ (a ≠ 0 → ∃ t, exec (.ctlCrs d a n) s = .next t ∧ q t (old ||| x))
       ∧ (a ≠ 0 → ∃ t, exec (.ctlCrc d a n) s = .next t ∧ q t (old &&& ~~~x))
     (∀ r ∈ writable, Settled s r.number → does (BitVec.ofNat 12 r.number) (r.get s.h) fun t v => WroteControl s t d r v)
     ∧ (s.h.trap.handler = true →
       (∀ r ∈ handlerWritable, does (BitVec.ofNat 12 r.number) (r.get s.h) fun t v => WroteControl s t d r v)
       ∧ does 0x085 1 fun t _ => Wrote s t d 1 (s.h.pc + 4))
     ∧ ∀ k < 8,
       (let old := Sparse.get 0 s.h.matrix.ufd k
        let mask : Word := if k % 2 = 0 then BitVec.allOnes 64 else 0x00000FFFFFFFFFFF
        does (BitVec.ofNat 12 (0x040 + k)) old fun t v => CtlDone s t d old ∧ { t with harts := s.harts } = s
          ∧ (∀ j, Sparse.get 0 t.h.matrix.ufd j = if j = k then v &&& mask else Sparse.get 0 s.h.matrix.ufd j)
          ∧ { t.h with
              matrix := { t.h.matrix with ufd := s.h.matrix.ufd }, x := s.h.x, pc := s.h.pc, instret := s.h.instret
              answers := s.h.answers, placing := s.h.placing, issued := s.h.issued } = s.h)
       ∧ (let old : Word := (Sparse.get 0 (s.core (s.cur / 4)).csel k).setWidth 64
        does (BitVec.ofNat 12 (0x118 + k)) old fun t v => CtlDone s t d old ∧ { t with harts := s.harts, cores := s.cores } = s
          ∧ (∀ j, Sparse.get 0 (t.core (s.cur / 4)).csel j = if j = k then v.setWidth 8 else Sparse.get 0 (s.core (s.cur / 4)).csel j)
          ∧ { t.core (s.cur / 4) with csel := (s.core (s.cur / 4)).csel } = s.core (s.cur / 4)
          ∧ (∀ m, m ≠ s.cur / 4 → t.core m = s.core m)
          ∧ { t.h with
              x := s.h.x, pc := s.h.pc, instret := s.h.instret, answers := s.h.answers, placing := s.h.placing
              issued := s.h.issued } = s.h))
  ∧ (∀ (s : State) (g : BitVec 2) (n : BitVec 19), ∃ t, exec (.mdset g n) s = .next t ∧ OnlyHart s t
       ∧ Sparse.get 0 t.h.modes g.toNat = BitVec.ofNat 24 (n.toNat * 32)
       ∧ (∀ k, k ≠ g.toNat → Sparse.get 0 t.h.modes k = Sparse.get 0 s.h.modes k)
       ∧ t.h.pc = s.h.pc + 4
       ∧ { t.h with
           modes := s.h.modes, pc := s.h.pc, instret := s.h.instret, answers := s.h.answers, placing := s.h.placing
           issued := s.h.issued } = s.h)

/-- R70, R71, R292, R342: a register marked H is read in handler mode, and raises PRIVILEGED in task mode, read or written; a debug
register raises PRIVILEGED in every mode; every unassigned number, and every write to a read-only register, raise RESERVED_FIELD.
In task mode with a handler set the hart enters it, in handler mode the exception kills the task. -/
def Obligations.ControlPrivilege : Prop :=
  ∀ (s : State) (d a : BitVec 5),
    let reads (k : Nat) : List Instr := let n := BitVec.ofNat 12 k
      [.ctlCrr d n, .ctlCrs d 0 n, .ctlCrc d 0 n]
    let writes (k : Nat) : List Instr := let n := BitVec.ofNat 12 k
      [.ctlCrw d a n] ++ if a = 0 then [] else [.ctlCrs d a n, .ctlCrc d a n]
    let enters (i : Instr) (c : BitVec 8) : Prop := CanTrap s → ∃ t, exec i s = .next t
      ∧ Trapped s t c s.h.pc s.h.vstart (s.ir.setWidth 64)
    let raises (i : Instr) (c : BitVec 8) : Prop := enters i c
      ∧ (s.h.trap.handler = true → s.h.dbg.trace = false → s.h.array = [] → ∃ t, exec i s = .next t ∧ (t.hart s.cur).live = false)
    (∀ p ∈ handlerRegisters, (s.h.trap.handler = true → ∀ i ∈ reads p.1, Gives s d i (p.2 s))
      ∧ ∀ i ∈ reads p.1 ++ writes p.1, enters i Cause.privileged)
    ∧ (∀ k < 32, ∀ i ∈ reads (0x200 + k) ++ writes (0x200 + k), raises i Cause.privileged)
    ∧ (∀ k < 0x1000, assigned k = false → ∀ i ∈ reads k ++ writes k, raises i Cause.reservedField)
    ∧ ∀ k < 0x200, assigned k = true → writableNumber k = false → Settled s k → ∀ i ∈ writes k, raises i Cause.reservedField

/-! ## Exceptions, commit points and system functions -/

/-- R28, R73, R74, R76: sys.svc and sys.brk take their exceptions, with TPC at the next word and at their own (TVAL is open, log
entry 10); a claimed break halts the hart instead, once nothing of it is in flight (R348); sys.tret returns to TPC and TVSTART in task mode,
and raises PRIVILEGED there. -/
def Obligations.ServiceBreakAndReturn : Prop :=
  (∀ s : State, CanTrap s →
     (∃ t v, exec .sysSvc s = .next t ∧ Trapped s t Cause.svc (s.h.pc + 4) s.h.vstart v)
     ∧ (s.h.dbg.claim = false → ∃ t v, exec .sysBrk s = .next t ∧ Trapped s t Cause.break_ s.h.pc s.h.vstart v)
     ∧ (s.h.dbg.claim = true → s.h.live = true → s.h.dbg.halted = false → s.h.marks.failed = none →
         ∃ t, exec .sysBrk s = .next t ∧ OnlyHart s t ∧ t.h.pc = s.h.pc ∧ t.h.trap = s.h.trap ∧ (∀ r, t.h.rx r = s.h.rx r)
           ∧ (s.h.gathers = [] → s.h.marks.checks = [] → t.h.dbg.halted = true ∧ t.h.dbg.cause = Cause.break_)
           ∧ (¬(s.h.gathers = [] ∧ s.h.marks.checks = []) → t.h.dbg.halted = false ∧ t.h.dbg.stop = some Cause.break_)))
  ∧ (∀ s : State,
       (s.h.trap.handler = true → s.h.trap.tpc.toNat % 4 = 0 → ∃ t, exec .sysTret s = .next t ∧ OnlyHart s t
         ∧ t.h.pc = s.h.trap.tpc ∧ t.h.vstart = s.h.trap.tvstart ∧ t.h.trap = { s.h.trap with handler := false }
         ∧ { t.h with
               pc := s.h.pc, vstart := s.h.vstart, trap := s.h.trap, instret := s.h.instret, answers := s.h.answers
               placing := s.h.placing, issued := s.h.issued } = s.h)
       ∧ (s.h.trap.handler = true → s.h.trap.tpc.toNat % 4 ≠ 0 → s.h.dbg.trace = false → s.h.array = [] →
           ∃ t, exec .sysTret s = .next t ∧ (t.hart s.cur).live = false)
       ∧ (CanTrap s → ∃ t, exec .sysTret s = .next t ∧ Trapped s t Cause.privileged s.h.pc s.h.vstart (s.ir.setWidth 64)))

/-- R27, R28, R292, R294: a word that is no instruction raises the cause of the step that it fails, with TVAL the word; in handler
mode every vector, memory, matrix, engine, copy, barrier, work-list and task function and setvl kill the task, as every exception
in handler mode or with TVEC 0 does. -/
def Obligations.IllegalWordsAndKills : Prop :=
  (∀ (s : State) (w : BitVec 32), CanTrap s → s.ir = w →
     (∃ t, exec (.notAnInstruction w .illegalMajor) s = .next t ∧ Trapped s t Cause.illegalMajor s.h.pc s.h.vstart (w.setWidth 64))
     ∧ (∃ t, exec (.notAnInstruction w .reservedFn) s = .next t ∧ Trapped s t Cause.reservedFn s.h.pc s.h.vstart (w.setWidth 64))
     ∧ (∃ t, exec (.notAnInstruction w .reservedField) s = .next t
         ∧ Trapped s t Cause.reservedField s.h.pc s.h.vstart (w.setWidth 64)))
  ∧ (∀ (s : State) (w : BitVec 32), s.h.trap.handler = true → s.h.dbg.trace = false → s.h.array = [] →
       (w.toNat / 2 ^ 26 = 0x0C ∨ (0x10 ≤ w.toNat / 2 ^ 26 ∧ w.toNat / 2 ^ 26 ≤ 0x34)) →
       (∀ why, decode w ≠ .notAnInstruction w why) →
       ∃ t, exec (decode w) s = .next t ∧ (t.hart s.cur).live = false)
  ∧ (∀ (s : State) (cause : BitVec 8) (tpc tvstart tval : Word), s.h.dbg.trace = false → s.h.array = [] →
       (s.h.trap.handler = true ∨ s.h.trap.tvec = 0) → ((trapEntry s cause tpc tvstart tval).hart s.cur).live = false)

/-- R75, R93, R95, R98, R100, R242: scommit, fence and idle are commit points whose checkpoint holds the state after them (a fence
of release kind asks for no more when nothing is posted outside; idle then waits); a commit, once nothing is in flight and every check
of the interval is over, performs the buffered stores at their homes in program order. No hart waits at a barrier, which such a
write could break (R268), and no command shares Stirrup with a scatter's elements (R222). -/
def Obligations.CommitPointsAndStores : Prop :=
  (∀ (s : State) (k : BitVec 2) (p : BitVec 3), Calm s →
     (∃ t, exec .sysScommit s = .next t ∧ CommittedAt s t 0 0 ∧ { t with harts := s.harts } = s)
     ∧ (s.posted = [] → s.out = [] → ∃ t, exec (.sysFence k p) s = .next t ∧ CommittedAt s t 0 0 ∧ { t with harts := s.harts } = s)
     ∧ (∃ t, exec .sysIdle s = .next t ∧ { t with harts := s.harts } = s ∧ t.h.pc = s.h.pc + 4 ∧ t.h.ckpt.pc = s.h.pc + 4
         ∧ t.h.wait = .idle s.h.llLine false s.cycle ∧ (∀ r, t.h.rx r = s.h.rx r) ∧ { t.h.view with wait := .run } = s.h.view
         ∧ ∀ n, n ≠ s.cur → t.hart n = s.hart n))
  ∧ (∀ s : State, s.h.array = [] → s.h.gathers = [] → s.posted = [] → s.out = [] → s.h.marks.failed = none → s.h.marks.checks = [] →
       s.h.preempt = none → s.h.dbg.haltReq = false → (∀ e ∈ s.h.sb, e.served = true → s.commands = []) →
       (∀ e ∈ s.h.sb, ∃ a, e.loc = .home a) → (∀ c ∈ s.harts, ∀ line, c.2.waitsOn line = false) →
       ∃ t, exec .sysScommit s = .next t ∧ t.h.sb = [] ∧ t.h.sbused = 0
         ∧ t.mem = s.h.sb.foldl (fun m e => match e.loc with
             | .home a => m.merge a e.bit e.bits e.data
             | _ => m) s.mem)

/-- R77: with x[B] = 0 the cache-maintenance functions have no effect; on one line that translates, dinv and dflush discard the copy of
the core's L1 data cache, and at an HBM4E line dinv discards the die-cache copy and dclean and dflush write it to its memory; they
touch no register (the L1 data cache as the model has it: log entry 79). R205: sys.ipf starts the fill of every unfilled code page that
a line of its first 2^18 bytes lies in, and does not wait; with x[B] = 0 it does nothing. -/
def Obligations.CacheMaintenance : Prop :=
  ∀ (s : State) (a b : BitVec 5),
    (a ≠ 0 → s.h.rx b = 0 → ∀ i ∈ [Instr.sysDinv a b, .sysDclean a b, .sysDflush a b],
      ∃ t, exec i s = .next t ∧ Wrote s t 0 0 (s.h.pc + 4))
    ∧ (a ≠ 0 → ∀ (p q : Page) (la lb : Nat), s.h.meetElement = none → s.h.rx b = 1 → canonical ((s.h.rx a).toNat / 64 * 64) = true →
      translateFor s s.cur ((s.h.rx a).toNat / 64 * 64) false true = .ok p → p.loc = .home la →
      translateFor s s.cur ((s.h.rx a).toNat / 64 * 64) true false = .ok q → q.loc = .home lb →
      let acts (i : Instr) (m : Memory) (discards : Bool) (line : Nat) : Prop := ∃ t, exec i s = .next t ∧ t.mem = m
        ∧ (t.l1 = if discards then
              s.l1.filter fun c => !(c.1 / 2 ^ 52 == s.cur / 4 && c.1 % 2 ^ 52 / 64 == line / 64)
            else s.l1)
        ∧ { t with harts := s.harts, mem := s.mem, l1 := s.l1 } = s ∧ (∀ n, n ≠ s.cur → t.hart n = s.hart n)
        ∧ (∀ r, t.h.rx r = s.h.rx r) ∧ t.h.pc = s.h.pc + 4
      acts (.sysDinv a b) (if isHbm la then s.mem.discardLine la else s.mem) true la
      ∧ acts (.sysDclean a b) (if isHbm lb then s.mem.cleanLine lb else s.mem) false lb
      ∧ acts (.sysDflush a b) (if isHbm lb then s.mem.cleanLine lb else s.mem) true lb)
    ∧ (s.h.rx b = 0 → ∃ t, exec (.sysIpf a b) s = .next t ∧ Wrote s t 0 0 (s.h.pc + 4))
    ∧ (let lo := (s.h.rx a).toNat / 64 * 64
       let hi := ((s.h.rx a).toNat + min (s.h.rx b).toNat 262144 + 63) / 64 * 64
       s.h.rx b ≠ 0 → ∃ t, exec (.sysIpf a b) s = .next t ∧ { t with harts := s.harts, objects := s.objects } = s
         ∧ (∀ r, t.h.rx r = s.h.rx r) ∧ t.h.pc = s.h.pc + 4 ∧ (∀ n, n ≠ s.cur → t.hart n = s.hart n)
         ∧ ∃ g : Object → Object, t.objects = s.objects.map g
           ∧ ∀ o ∈ s.objects, { g o with filling := o.filling } = o ∧ (o.vi ≠ s.h.task.vi → g o = o)
             ∧ (o.vi = s.h.task.vi → ∀ page, page ∈ (g o).filling ↔ page ∈ o.filling ∨ (page < o.npage ∧ page ∉ o.filled
                 ∧ ∃ x, lo ≤ x ∧ x < hi ∧ o.codebase + 65536 * page ≤ x ∧ x < o.codebase + 65536 * (page + 1))))

/-! ## Scalar memory -/

/-- R62, R63, R67, R200, R258: each load writes to x[D] its n bytes, the hart's buffered stores laid over those of the home (or of the
copy that its core's L1 data cache holds, log entry 79), extended to 64 bits as its mnemonic says; ld.ll reads the home and
links its line. -/
def Obligations.LoadResults : Prop :=
  ∀ (s : State) (d a : BitVec 5) (i : BitVec 12) (p : BitVec 3) (la v : Nat),
    let ea := addressOf s a i
    (ReadsHome s ea 1 false la v → Gives s d (.ldB d a i) (BitVec.ofInt 64 (BitVec.ofNat 8 v).toInt)
      ∧ Gives s d (.ldBu d a i) (BitVec.ofNat 64 v))
    ∧ (ReadsHome s ea 2 false la v → Gives s d (.ldH d a i) (BitVec.ofInt 64 (BitVec.ofNat 16 v).toInt)
      ∧ Gives s d (.ldHu d a i) (BitVec.ofNat 64 v))
    ∧ (ReadsHome s ea 4 false la v → Gives s d (.ldW d a i) (BitVec.ofInt 64 (BitVec.ofNat 32 v).toInt)
      ∧ Gives s d (.ldWu d a i) (BitVec.ofNat 64 v))
    ∧ (ReadsHome s ea 8 false la v → Gives s d (.ldD d a i) (BitVec.ofNat 64 v))
    ∧ (ReadsHome s (s.h.rx a).toNat 8 true la v → Gives s d (.ldAcq d a p) (BitVec.ofNat 64 v))
    ∧ (ReadsHome s ea 8 false la v → ∃ t, exec (.ldLl d a i) s = .next t
        ∧ (∀ r, t.h.rx r = if r = d ∧ d ≠ 0 then BitVec.ofNat 64 (overlay s.h.sb (.home la) 8 (s.mem.read la 8)) else s.h.rx r)
        ∧ t.h.pc = s.h.pc + 4 ∧ t.mem = s.mem
        ∧ (∃ l ∈ t.links, l.agent = s.cur ∧ l.vector = false ∧ l.line = .home (la / 64 * 64))
        ∧ (∀ l ∈ t.links, l.agent = s.cur → l.vector = false → l.line = .home (la / 64 * 64))
        ∧ (∀ l ∈ s.links, l.agent ≠ s.cur → l ∈ t.links) ∧ ∀ n, n ≠ s.cur → t.hart n = s.hart n)

/-- R58, R62, R65: the first failing check of a scalar access traps, changes no register, and gives TVAL the address: steps 1 to 3 for
every load and store, step 4 (ILLEGAL_MODE) for ld.acq and st.rel, and step 5 (POISON) for the loads. -/
def Obligations.ScalarAccessChecks : Prop :=
  ∀ (s : State) (d a : BitVec 5) (i : BitVec 12) (p : BitVec 3), CanTrap s →
    let checks (n : Nat) (instr : Instr) (loads ordering : Bool) (ea : Nat) : Prop :=
      let traps (k : BitVec 8) : Prop := ∃ t, exec instr s = .next t ∧ Trapped s t k s.h.pc s.h.vstart (BitVec.ofNat 64 ea)
      (canonical ea = false → traps Cause.noncanonical)
      ∧ (canonical ea = true → ea % n ≠ 0 → traps Cause.misaligned)
      ∧ (canonical ea = true → ea % n = 0 → ∀ k, translateFor s s.cur ea loads (!loads) = .cause k → traps k)
      ∧ (canonical ea = true → ea % n = 0 → ordering = true →
        ∀ q, translateFor s s.cur ea loads (!loads) = .ok q → q.ord = .unordered → traps Cause.illegalMode)
      ∧ (loads = true → ∀ q, scalarPage s s.cur ea n true false ordering = .ok q → q.device = false → (q.ord = .strong → StrongFree s) →
        placePoisoned s q.loc n = true → traps Cause.poison)
    (∀ c ∈ sizes, checks c.1 (c.2.1 d a i) c.2.2 false (addressOf s a i))
    ∧ checks 8 (.ldAcq d a p) true true (s.h.rx a).toNat ∧ checks 8 (.stRel d a p) false true (s.h.rx a).toNat

/-- R64, R67, R94: a store enters the strip store buffer with 8 bytes of it and touches no memory; every other register keeps
its value. -/
def Obligations.StoresAreBuffered : Prop :=
  ∀ (s : State) (b a : BitVec 5) (i : BitVec 12) (p : Page), s.h.sbused + 8 ≤ s.h.sbCap →
    let ea := addressOf s a i
    let buffers (c : Instr) (n : Nat) : Prop := scalarPage s s.cur ea n false true false = .ok p →
      ∃ t, exec c s = .next t ∧ OnlyHart s t ∧ t.h.sb = s.h.sb
          ++ [{ loc := p.loc, bit := 0, bits := 8 * n, data := (s.h.rx b).toNat % 2 ^ (8 * n), ord := p.ord, device := p.device, va := ea }]
        ∧ t.h.sbused = s.h.sbused + 8 ∧ t.h.pc = s.h.pc + 4 ∧ t.h.instret = s.h.instret + 1
        ∧ { t.h with
            sb := s.h.sb, sbused := s.h.sbused, pc := s.h.pc, instret := s.h.instret, answers := s.h.answers
            placing := s.h.placing, issued := s.h.issued } = s.h
    buffers (.stB b a i) 1 ∧ buffers (.stH b a i) 2 ∧ buffers (.stW b a i) 4 ∧ buffers (.stD b a i) 8

/-- R65, R94, R256, R260: the unconditional samo operations write the new value at the home in one action and give x[D] the old
one; st.rel commits and performs its own store at the home. Each is a commit point. -/
def Obligations.AtomicAndReleaseResults : Prop :=
  (∀ (s : State) (d a b : BitVec 5) (p : BitVec 3) (q l : Bool) (la : Nat), Calm s →
     AtHome s (samoPage s (s.h.rx a).toNat true true (q || l)) la →
     let old := BitVec.ofNat 64 (s.mem.read la 8)
     let y := s.h.rx b
     let does (i : Instr) (new : Word) : Prop := ∃ t, exec i s = .next t ∧ t.mem = s.mem.write la new.toNat 8
       ∧ (∀ r, t.h.rx r = if r = d ∧ d ≠ 0 then old else s.h.rx r) ∧ t.h.pc = s.h.pc + 4 ∧ t.h.ckpt.pc = s.h.pc + 4
       ∧ (∀ x, (x < la ∨ la + 8 ≤ x) → t.mem.byte x = s.mem.byte x) ∧ (∀ k ∈ t.links, k.line ≠ .home (la / 64 * 64))
     does (.samoSwap d a b p q l) y ∧ does (.samoFadd d a b p q l) (old + y)
     ∧ does (.samoFmin d a b p q l) (if y.toInt < old.toInt then y else old)
     ∧ does (.samoFmax d a b p q l) (if old.toInt < y.toInt then y else old)
     ∧ does (.samoFand d a b p q l) (old &&& y) ∧ does (.samoFor d a b p q l) (old ||| y))
  ∧ (∀ (s : State) (b a : BitVec 5) (p : BitVec 3) (la : Nat), Calm s →
       AtHome s (scalarPage s s.cur (s.h.rx a).toNat 8 false true true) la →
       ∃ t, exec (.stRel b a p) s = .next t ∧ t.mem = s.mem.write la (s.h.rx b).toNat 8
         ∧ (∀ r, t.h.rx r = s.h.rx r) ∧ t.h.pc = s.h.pc + 4 ∧ t.h.ckpt.pc = s.h.pc + 4 ∧ t.h.view = s.h.view
         ∧ ∀ x, (x < la ∨ la + 8 ≤ x) → t.mem.byte x = s.mem.byte x)

/-- R258, R259, R260: samo.ll reads and links its line; samo.sc stores and gives 0 where the link holds, else stores nothing
and gives 1, and the link is cleared either way. -/
def Obligations.LinkedResults : Prop :=
  ∀ (s : State) (d a b : BitVec 5) (p : BitVec 3) (q l : Bool) (la : Nat), Calm s →
    (AtHome s (samoPage s (s.h.rx a).toNat true false (q || l)) la →
      ∃ t, exec (.samoLl d a p q l) s = .next t ∧ t.mem = s.mem
        ∧ (∀ r, t.h.rx r = if r = d ∧ d ≠ 0 then BitVec.ofNat 64 (s.mem.read la 8) else s.h.rx r) ∧ t.h.pc = s.h.pc + 4
        ∧ ∃ k ∈ t.links, k.agent = s.cur ∧ k.vector = false ∧ k.line = .home (la / 64 * 64))
    ∧ (AtHome s (samoPage s (s.h.rx a).toNat false true (q || l)) la →
      let linked : Bool := s.links.any fun k => k.agent == s.cur && !k.vector && k.line == .home (la / 64 * 64)
      ∃ t, exec (.samoSc d a b p q l) s = .next t
        ∧ t.mem = (if linked then s.mem.write la (s.h.rx b).toNat 8 else s.mem)
        ∧ (∀ r, t.h.rx r = if r = d ∧ d ≠ 0 then (if linked then 0 else 1) else s.h.rx r) ∧ t.h.pc = s.h.pc + 4
        ∧ ∀ k ∈ t.links, k.agent = s.cur → k.vector = true)

/-! ## Strips and lanes -/

/-- R110, R111, R119, R120: brot counts x[A] down, rotates v16 to v31 and p8 to p15 by one name, fills p15 and branches; with x[A] = 0 it
falls through. A predicate that has no room for the strip's elements raises ILLEGAL_TYPE where it rotates (log entry 90), and one
beyond the physical registers RENAME_LIMIT. -/
def Obligations.LoopRotation : Prop :=
  ∀ (s : State) (a b : BitVec 5) (i : BitVec 12),
    let n := s.h.rx a
    (n = 0 → ∃ t, exec (.brot a b i) s = .next t ∧ Wrote s t 0 0 (s.h.pc + 4))
    ∧ (n ≠ 0 → s.h.vlenb < (s.h.vc 0).share → CanTrap s → ∃ t, exec (.brot a b i) s = .next t
      ∧ Trapped s t Cause.illegalType s.h.pc s.h.vstart (s.ir.setWidth 64))
    ∧ (n ≠ 0 → (s.h.vc 0).share ≤ s.h.vlenb → s.h.marks.claim [] [8 + s.h.files.prot.toNat] = none → CanTrap s →
      ∃ t, exec (.brot a b i) s = .next t ∧ Trapped s t Cause.renameLimit s.h.pc s.h.vstart (s.ir.setWidth 64))
    ∧ (n ≠ 0 → (s.h.vc 0).share ≤ s.h.vlenb → (s.h.marks.claim [] [8 + s.h.files.prot.toNat]).isSome = true →
      ∃ t, exec (.brot a b i) s = .next t ∧ OnlyHart s t
      ∧ (∀ r, t.h.rx r = if r = a then n - 1 else s.h.rx r) ∧ t.h.pc = s.h.pc + BitVec.ofInt 64 (4 * i.toInt)
      ∧ t.h.instret = s.h.instret + 1
      ∧ (∀ q r, r < 16 → t.h.vreg q r = s.h.vreg q r) ∧ (∀ q r, 16 ≤ r → r < 31 → t.h.vreg q r = s.h.vreg q (r + 1))
      ∧ (∀ q, t.h.vreg q 31 = s.h.vreg q 16)
      ∧ (∀ q r, r < 8 → t.h.preg q r = s.h.preg q r) ∧ (∀ q r, 8 ≤ r → r < 15 → t.h.preg q r = s.h.preg q (r + 1))
      ∧ (∀ q, q < s.h.span.length → t.h.preg q 15 = if (s.h.rx b).toNat < n.toNat then 2 ^ s.h.vlenb - 1 else 0)
      ∧ { t.h with
          x := s.h.x, files := s.h.files, pc := s.h.pc, instret := s.h.instret, marks := s.h.marks, dirty := s.h.dirty
          answers := s.h.answers, placing := s.h.placing, issued := s.h.issued } = s.h)

/-- R80 to R86: setvl commits and grants min(request, VLMAX), cut by the streams that SA counts and rounded down to blocks; where
their filled elements do not suffice it waits, and the grant comes as an event. A VTYPE of R81 raises ILLEGAL_TYPE. -/
def Obligations.StripGrants : Prop :=
  ∀ (s : State) (d a : BitVec 5) (first : Bool) (i : BitVec 8),
    let t := BitVec.ofNat 12 (i.toNat * 16)
    let sew := vtypeSew t
    let bl := vtypeBl t
    let share := s.h.vlenb * 8 / sew * vtypeGrp t
    let counted := if i.getLsbD 0 then s.h.streams.filter fun x => decide (x.pos < x.count) else []
    let cap := counted.foldl (fun n x => min n (x.count - x.pos)) (min (s.h.rx a).toNat (share * s.h.span.length))
    let whole : Bool := decide (bl ≠ 0 ∧ bl ≤ cap)
    let block (n : Nat) : Nat := if whole then n / bl * bl else n
    let filled (x : Stream) : Nat := min x.count (x.first + x.filled.length) - x.pos
    let enough := ∀ x ∈ counted, (if whole then bl else min cap 1) ≤ filled x
    let g := block (counted.foldl (fun n x => min n (filled x)) cap)
    let legal := i.toNat / 32 ≠ 7 ∧ (bl = 0 ∨ bl ≤ share ∧ bl ∣ share)
    (legal → Calm s → s.h.stripBreak first = false →
      (enough → ∃ u, exec (.setvl d a first i) s = .next u ∧ Opened s u d first i g)
      ∧ (¬enough → ∃ u, exec (.setvl d a first i) s = .next u ∧ u.h.wait = .streams d a first i ∧ { u.h.view with wait := .run } = s.h.view
          ∧ (∀ r, u.h.rx r = s.h.rx r) ∧ u.h.pc = s.h.pc ∧ u.h.ckpt.pc = s.h.pc))
    ∧ (s.power.state = .ready → s.h.wait = .streams d a first i → s.h.waits = true → s.h.dbg.trace = false → enough →
        ∃ u, exec (.setvlStreamGrant s.cur) s = .next u ∧ Opened s u d first i g ∧ u.h.wait = .run)
    ∧ (¬legal → CanTrap s → ∃ u, exec (.setvl d a first i) s = .next u
        ∧ Trapped s u Cause.illegalType s.h.pc s.h.vstart (s.ir.setWidth 64))

/-- R27, R88, R112, R123, R132, R141, R169, R179, R180, R188, R190, R392: what a vector instruction judges before its first element,
family by family: RM, the types that it accepts with its groups and its guard, and its physical registers; the checks of an element in
their order; a cause at the leading element traps with TVAL its address, or its index for a flag, and one at a later element trims the
strip, which leaves no result there; and the whole-instruction causes of mop and mctl. -/
def Obligations.VectorCauses : Prop :=
  (∀ (s : State) (d a b e : BitVec 5) (p : BitVec 4) (x y w : Bool) (u : BitVec 3) (m : BitVec 2), CanTrap s →
    let c := s.h.vc m
    let grp (r : BitVec 5) : Nat × Nat × Nat := (r.toNat, c.sew, c.grp)
    let lane (type : Prop) (srcs : List (Nat × Nat × Nat)) (regs : Nat) (n : Instr) : Prop :=
      Judges s n c (type ∧ MayRead s c srcs ∧ MayWrite s d.toNat regs ∧ c.predOk false = true) (s.h.slotsOf d.toNat regs) []
    let compare (type : Prop) (srcs : List (Nat × Nat × Nat)) (n : Instr) : Prop :=
      Judges s n c (type ∧ MayRead s c srcs ∧ c.predOk true = true) [] (s.h.predSlots p.toNat)
    let int := 8 ≤ c.sew ∧ c.fam < 2
    let float := c.fam = 2 ∧ (c.sew = 32 ∨ c.sew = 64 ∨ (c.sew = 16 ∧ (c.fx = 16 ∨ c.fx = 17)))
    (∀ n ∈ [Instr.valuAdd, .valuSub, .valuRsub, .valuAnd, .valuOr, .valuXor, .valuAndn, .valuSll, .valuSrl, .valuSra, .valuMin, .valuMax
        , .valuMinu, .valuMaxu, .valuMul, .valuMulh, .valuMulhu, .valuAdds, .valuSubs, .valuAddsu, .valuSubsu, .valuMerge],
      lane int [grp a, grp b] c.grp (n d a b x y m))
    ∧ (∀ n ∈ [Instr.valuxAdd, .valuxSub, .valuxRsub, .valuxAnd, .valuxOr, .valuxXor, .valuxAndn, .valuxSll, .valuxSrl, .valuxSra
        , .valuxMin, .valuxMax, .valuxMinu, .valuxMaxu, .valuxMul, .valuxMulh, .valuxMulhu, .valuxAdds, .valuxSubs, .valuxAddsu
        , .valuxSubsu, .valuxMerge], lane int [grp a] c.grp (n d a b x m))
    ∧ (∀ n ∈ [Instr.valuMv, .valuAbs], lane int [grp a] c.grp (n d a x m)) ∧ lane int [] c.grp (.valuxMv d b m)
    ∧ (∀ n ∈ [Instr.vimacMacc, .vimacNmsac], lane int [grp a, grp b, grp e] c.grp (n d a b e x y w m))
    ∧ (∀ n ∈ [Instr.valuEq, .valuNe, .valuLt, .valuLtu, .valuLe, .valuLeu], compare int [grp a, grp b] (n p a b x y m))
    ∧ (∀ n ∈ [Instr.valuxEq, .valuxNe, .valuxLt, .valuxLtu, .valuxLe, .valuxLeu], compare int [grp a] (n p a b x m))
    ∧ (∀ n ∈ [Instr.vfpAdd, .vfpSub, .vfpMul, .vfpDiv, .vfpMin, .vfpMax, .vfpSgnj, .vfpSgnjn, .vfpSgnjx],
      lane float [grp a, grp b] c.grp (n d a b x y m))
    ∧ (∀ n ∈ [Instr.vfpxAdd, .vfpxSub, .vfpxMul, .vfpxDiv, .vfpxMin, .vfpxMax, .vfpxSgnj, .vfpxSgnjn, .vfpxSgnjx],
      lane float [grp a] c.grp (n d a b x m))
    ∧ (∀ n ∈ [Instr.vfpSqrt, .vfpRec, .vfpRsq, .vfpExp2, .vfpLog2, .vfpClass], lane float [grp a] c.grp (n d a x m))
    ∧ (∀ n ∈ [Instr.vfmaMadd, .vfmaNmadd, .vfmsMsub, .vfmsNmsub], lane float [grp a, grp b, grp e] c.grp (n d a b e x y w m))
    ∧ (∀ n ∈ [Instr.vfpEq, .vfpLt, .vfpLe], compare float [grp a, grp b] (n p a b x y m))
    ∧ (∀ n ∈ [Instr.vfpxEq, .vfpxLt, .vfpxLe], compare float [grp a] (n p a b x m))
    ∧ lane (8 ≤ c.sew) [] c.grp (.vrngBits d m) ∧ lane float [] c.grp (.vrngUnif d m)
    ∧ (let thin := max 1 (c.grp * c.n / c.sew)
      let slim := (a.toNat, c.n, thin)
      let named := c.sew = 32 ∨ c.sew = 64 ∨ (c.sew = 16 ∧ (c.fx = 16 ∨ c.fx = 17))
      let takes (lo hi : Nat) := 8 ≤ c.sew ∧ lo ≤ c.fx ∧ c.fx ≤ hi ∧ c.n < c.sew
      let plain := takes 0 7 ∧ c.fx ≠ 2 ∧ c.fx ≠ 3
      let scaled := 16 ≤ c.sew ∧ c.fx ∈ [4, 5, 6, 7, 9, 14, 15] ∧ c.bl ≠ 0 ∧ s.h.writeOk b.toNat 1 = true
      (∀ n ∈ [Instr.vcvtI2f, .vcvtU2f, .vcvtF2i, .vcvtF2u], lane named [grp a] c.grp (n d a x m))
      ∧ lane (16 ≤ c.sew ∧ takes 8 19) [slim] c.grp (.vcvtFwid d a x m) ∧ lane (16 ≤ c.sew ∧ takes 8 19) [grp a] thin (.vcvtFnar d a x m)
      ∧ lane (takes 0 7) [slim] c.grp (.vcvtIwid d a x m) ∧ lane plain [slim] c.grp (.vcvtUwid d a x m)
      ∧ lane (plain ∧ (c.sat = true → c.fam < 2)) [grp a] thin (.vcvtInar d a x m)
      ∧ lane (named ∧ c.bl ≠ 0 ∧ s.h.writeOk b.toNat 1 = true) [grp a] c.grp (.vcvtBscale d a b x y m)
      ∧ lane scaled [grp a] thin (.vcvtQuant d a b x y m) ∧ lane scaled [slim] c.grp (.vcvtDequant d a b x y m)
      ∧ lane (16 ≤ c.sew ∧ 8 ≤ c.fx ∧ c.fx ≤ 19 ∧ (c.sew = 16 → c.fx ≠ 16 ∧ c.fx < 18)) [grp a] c.grp (.vcvtFrnd d a x m)
      ∧ lane (takes 0 19) [grp a] thin (.vcvtPack d a x m) ∧ lane (takes 0 19) [slim] c.grp (.vcvtUnpack d a x m))
    ∧ (let ew := dataWidth c
      let r := dataRegs c
      let nf := u.toNat + 1
      let data (f : Nat) := d.toNat % r = 0 ∧ d.toNat + f * r ≤ 32 ∧ (f = 1 ∨ 16 ≤ d.toNat ∨ d.toNat + f * r ≤ 16)
      let loads (type : Prop) (f : Nat) (more : List (Nat × Nat × Nat)) (n : Instr) : Prop :=
        Judges s n c (accessType c ∧ type ∧ data f ∧ s.h.writeOk d.toNat (f * r) = true ∧ MayRead s c more ∧ c.predOk false = true)
          (s.h.slotsOf d.toNat (f * r)) []
      let stores (type : Prop) (f : Nat) (more : List (Nat × Nat × Nat)) (n : Instr) : Prop :=
        Judges s n c (accessType c ∧ type ∧ data f ∧ MayRead s c (((List.range f).map fun k => (d.toNat + k * r, ew, r)) ++ more)
          ∧ c.predOk false = true) [] []
      let shape := 8 ≤ ew ∧ (s.h.rx b).toNat / 2 ^ 48 ≠ 0
      let swizzle := swizzleOk (s.h.rx b).toNat = true
      (loads True 1 [] (.vldUnit d a m) ∧ loads (8 ≤ ew) 1 [] (.vldStrd d a b m) ∧ loads (8 ≤ ew) 1 [grp b] (.vldIdx d a b y m)
      ∧ loads (8 ≤ ew) nf [] (.vldSeg d a m u) ∧ loads shape 1 [] (.vldTile d a b m) ∧ loads True 1 [] (.vldSp d a m)
      ∧ loads swizzle 1 [] (.vldSpx d a b m))
      ∧ (stores True 1 [] (.vstUnit d a x m) ∧ stores (8 ≤ ew) 1 [] (.vstStrd d a b x m) ∧ stores (8 ≤ ew) 1 [grp b] (.vstIdx d a b x y m)
      ∧ stores (8 ≤ ew) nf [] (.vstSeg d a x m u) ∧ stores shape 1 [] (.vstTile d a b x m) ∧ stores True 1 [] (.vstSp d a x m)
      ∧ stores swizzle 1 [] (.vstSpx d a b x m))
      ∧ lane (c.sew = 32 ∨ c.sew = 64) [grp b] c.grp (.vldPrb d a b y m)))
  ∧ (∀ (s : State) (ea n : Nat) (need : Need),
    let parts := pageParts ea n
    let gives (k : BitVec 8) : Prop := checkSpots s ea n need = .cause k
    ((∃ q ∈ parts, canonical q.1 = false) → gives Cause.noncanonical)
    ∧ ((∀ q ∈ parts, canonical q.1 = true) →
      (need.align ≠ 0 → ea % need.align ≠ 0 → gives Cause.misaligned)
      ∧ ((need.align = 0 ∨ ea % need.align = 0) →
        (∀ k, translateParts s s.cur need parts = .cause k → gives k)
        ∧ ∀ l, translateParts s s.cur need parts = .ok l →
          let device := ∃ q ∈ l, q.device = true
          (device → need.device = false → gives Cause.deviceClassMisuse)
          ∧ (device → need.device = true → ea % n ≠ 0 → gives Cause.misaligned)
          ∧ ((device → need.device = true ∧ ea % n = 0) → need.r = true → (∃ q ∈ l, placePoisoned s q.loc q.bytes = true) →
            gives Cause.poison))))
  ∧ (∀ (s : State) (d a b : BitVec 5) (x y : Bool) (m : BitVec 2) (V : Nat → Nat) (P : Nat → List Spot),
    let c := s.h.vc m
    let act := s.h.active c
    s.h.dbg.trace = false → ∀ i k, c.start ≤ i → i < c.vl → act i = true →
      let A := (s.h.source c a.toNat c.sew).get
      let B := (s.h.source c b.toNat c.sew).get
      let val (u : Nat) : FVal := c.fmt.value u
      let base := (s.h.rx a).toNat
      let ew := dataWidth c
      let below : List Nat := c.activeList act i
      let traps (n : Instr) (tval : Word) : Prop := ∃ t, exec n s = .next t ∧ Trapped s t k s.h.pc s.h.vstart tval
      (∀ o ∈ [(Instr.vfpAdd d a b x y m, fun i => addVal c.fmt c.rm (val (A i)) (val (B i)) 0),
          (.vfpMul d a b x y m, fun i => mulRound c.fmt c.rm (val (A i)) (val (B i)) 0),
          (.vfpDiv d a b x y m, fun i => divVal c.fmt c.rm (val (A i)) (val (B i)) 0)],
        s.h.streams = [] → c.floatType = true → c.rm < 5 →
        LaneReady s c act [(a.toNat, c.sew, c.grp), (b.toNat, c.sew, c.grp)] d.toNat c.sew c.grp →
        flagCause (o.2 i).2 s.h.ftrim = some k →
        (∀ j, c.start ≤ j → j < i → act j = true → flagCause (o.2 j).2 s.h.ftrim = none) →
        (i = c.start → CanTrap s → traps o.1 (BitVec.ofNat 64 i))
        ∧ (c.start < i → ∃ t, exec o.1 s = .next t ∧ GroupWritten s t c d.toNat c.sew c.grp act i (fun j => (o.2 j).1)
          ∧ Trimmed s t i k (below.foldl (fun f j => f ||| (o.2 j).2) 0)))
      ∧ (k ∈ memoryCauses → accessType c →
        let loaded (n : Instr) (at_ : Nat → Access) : Prop :=
          LaneReady s c act [] d.toNat ew (dataRegs c) → (at_ i).spots = .cause k →
          (∀ j, c.start ≤ j → j < i → act j = true → Fetches s (at_ j) (V j)) →
          (i = c.start → CanTrap s → traps n (BitVec.ofNat 64 (at_ i).ea))
          ∧ (c.start < i → ∃ t, exec n s = .next t ∧ Trimmed s t i k 0
            ∧ GroupWritten s t c d.toNat ew (dataRegs c) act i fun j => V j / 2 ^ (at_ j).bit)
        let stored (n : Instr) (at_ : Nat → Access) : Prop :=
          StoreReady s c act [(d.toNat, ew, dataRegs c)] → d.toNat + dataRegs c ≤ 32 → (at_ i).spots = .cause k →
          (∀ j, c.start ≤ j → j < i → act j = true → (at_ j).spots = .ok (P j)) →
          s.h.sbused + (below.length * ew + 7) / 8 ≤ s.h.sbCap → s.h.streams = [] →
          (i = c.start → CanTrap s → traps n (BitVec.ofNat 64 (at_ i).ea))
          ∧ (c.start < i → ∃ t, exec n s = .next t ∧ Trimmed s t i k 0 ∧ SameVectors s t
            ∧ t.h.sb = s.h.sb ++ below.flatMap fun j => entriesOf (at_ j).bit ew ((s.h.source c d.toNat ew).get j) (P j))
        let strided (need : Need) (i : Nat) : Access := stridedAt s base (s.h.rx b).toInt (max 1 (ew / 8)) i need
        loaded (.vldUnit d a m) (fun i => unitAt s base ew i (reading true)) ∧ stored (.vstUnit d a x m) (fun i => unitAt s base ew i (writing true))
        ∧ (8 ≤ ew → loaded (.vldStrd d a b m) (strided (reading true)) ∧ stored (.vstStrd d a b x m) (strided (writing true)))
        ∧ (base < 2 ^ 24 → loaded (.vldSp d a m) (fun i => scratchAt s base 0 ew i) ∧ stored (.vstSp d a x m) fun i => scratchAt s base 0 ew i)))
  ∧ (∀ (s : State) (d a b sa sb : BitVec 5) (z : BitVec 3) (x y : Bool) (m : BitVec 2), CanTrap s →
    let v := (s.h.rx a).toNat
    let tile := z.toNat < s.h.task.start.tiles
    (∀ n ∈ [Instr.mctlMzero z, .mctlMld a z, .mctlMst a z, .mctlZwset a z], ¬tile → TrapsWhole s n Cause.tileUnallocated)
    ∧ (tile → ¬legalImage v → TrapsWhole s (.mctlZwset a z) Cause.illegalType)
    ∧ (v = 0 ∨ 64 < v → TrapsWhole s (.mctlMset a) Cause.illegalType)
    ∧ (let c := s.h.vc m
      let legal := c.sew = 32 ∧ c.fam < 3 ∧ MayWrite s d.toNat c.grp ∧ c.predOk false = true
      let n := Instr.mctlMdrain d a z m
      (6 ≤ c.rm → TrapsWhole s n Cause.illegalMode) ∧ (c.rm < 6 → ¬legal → TrapsWhole s n Cause.illegalType)
      ∧ (c.rm < 6 → legal → ¬tile → TrapsWhole s n Cause.tileUnallocated))
    ∧ (let c := s.h.vc 0
      let zw := (Sparse.get 0 s.h.matrix.zw z.toNat).toNat
      let scales (code : Nat) : Prop := code ∈ [4, 5, 6, 7, 9, 14, 15]
      let ops := [(Instr.mopMop z a b sa sb x y, a.toNat % c.grp = 0 ∧ b.toNat % c.grp = 0), (.mopMopu z a b sa sb y, b.toNat % c.grp = 0)]
      s.h.streams = [] → ∀ o ∈ ops,
        (6 ≤ c.rm → TrapsWhole s o.1 Cause.illegalMode) ∧ (c.rm < 6 → ¬o.2 → TrapsWhole s o.1 Cause.illegalType)
        ∧ (c.rm < 6 → o.2 → ¬tile → TrapsWhole s o.1 Cause.tileUnallocated)
        ∧ (c.rm < 6 → o.2 → tile → (sa ≠ 31 ∧ ¬scales (zw % 32) ∨ sb ≠ 31 ∧ ¬scales (zw / 2 ^ 9 % 32)) →
          TrapsWhole s o.1 Cause.reservedField)))

/-- R123, R137, R139: the integer functions of valu and vimac, on every active element, at FAM 0 (signed) and 1 (unsigned), with
and without SAT. -/
def Obligations.LaneIntegers : Prop :=
  ∀ (s : State) (d a b e : BitVec 5) (x y z : Bool) (m : BitVec 2),
    let c := s.h.vc m
    let act := s.h.active c
    let grp (r : BitVec 5) := (r.toNat, c.sew, c.grp)
    let A := (s.h.source c a.toNat c.sew).get
    let B := (s.h.source c b.toNat c.sew).get
    let C := (s.h.source c e.toNat c.sew).get
    let W := 2 ^ c.sew
    let num (v : Nat) : Int := if c.fam = 0 then signed v c.sew else (v % W : Nat)
    let clamp (sign : Bool) (v : Int) : Int := if sign then max (-2 ^ (c.sew - 1)) (min v (2 ^ (c.sew - 1) - 1)) else max 0 (min v (2 ^ c.sew - 1))
    let bits (v : Int) : Nat := (v % (2 ^ c.sew : Nat)).toNat
    let fit (v : Int) : Nat := bits (if c.sat then clamp (c.fam == 0) v else v)
    8 ≤ c.sew → c.fam < 2 →
    (LaneReady s c act [grp a, grp b] d.toNat c.sew c.grp →
      let gives (n : Instr) (f : Nat → Nat → Nat) : Prop :=
        FillsGroup s n c act [a.toNat, b.toNat] d.toNat c.sew c.grp false (fun i => f (A i) (B i)) fun _ => 0
      gives (.valuAdd d a b x y m) (fun u v => fit (num u + num v)) ∧ gives (.valuSub d a b x y m) (fun u v => fit (num u - num v))
      ∧ gives (.valuRsub d a b x y m) (fun u v => fit (num v - num u)) ∧ gives (.valuAnd d a b x y m) (fun u v => u &&& v)
      ∧ gives (.valuOr d a b x y m) (fun u v => u ||| v) ∧ gives (.valuXor d a b x y m) (fun u v => u ^^^ v)
      ∧ gives (.valuAndn d a b x y m) (fun u v => u &&& (W - 1 - v)) ∧ gives (.valuSll d a b x y m) (fun u v => u * 2 ^ (v % c.sew))
      ∧ gives (.valuSrl d a b x y m) (fun u v => u / 2 ^ (v % c.sew))
      ∧ gives (.valuSra d a b x y m) (fun u v => bits ((signed u c.sew) / 2 ^ (v % c.sew)))
      ∧ gives (.valuMin d a b x y m) (fun u v => if signed v c.sew < signed u c.sew then v else u)
      ∧ gives (.valuMax d a b x y m) (fun u v => if signed u c.sew < signed v c.sew then v else u)
      ∧ gives (.valuMinu d a b x y m) min ∧ gives (.valuMaxu d a b x y m) max
      ∧ gives (.valuMul d a b x y m) (fun u v => fit (num u * num v))
      ∧ gives (.valuMulh d a b x y m) (fun u v => bits (signed u c.sew * signed v c.sew / W))
      ∧ gives (.valuMulhu d a b x y m) (fun u v => u * v / W)
      ∧ gives (.valuAdds d a b x y m) (fun u v => bits (clamp true (signed u c.sew + signed v c.sew)))
      ∧ gives (.valuSubs d a b x y m) (fun u v => bits (clamp true (signed u c.sew - signed v c.sew)))
      ∧ gives (.valuAddsu d a b x y m) (fun u v => bits (clamp false ((u : Int) + v)))
      ∧ gives (.valuSubsu d a b x y m) (fun u v => bits (clamp false ((u : Int) - v))))
    ∧ (LaneReady s c act [grp a] d.toNat c.sew c.grp →
      FillsGroup s (.valuMv d a x m) c act [a.toNat] d.toNat c.sew c.grp false A (fun _ => 0)
      ∧ FillsGroup s (.valuAbs d a x m) c act [a.toNat] d.toNat c.sew c.grp false
        (fun i => let v : Int := (signed (A i) c.sew).natAbs; bits (if c.sat then clamp true v else v)) fun _ => 0)
    ∧ (LaneReady s c (fun _ => true) [grp a, grp b] d.toNat c.sew c.grp →
      FillsGroup s (.valuMerge d a b x y m) c (fun _ => true) [a.toNat, b.toNat] d.toNat c.sew c.grp false
        (fun i => if act i then B i else A i) fun _ => 0)
    ∧ (LaneReady s c act [grp a, grp b, grp e] d.toNat c.sew c.grp →
      let rs := [a.toNat, b.toNat, e.toNat]
      FillsGroup s (.vimacMacc d a b e x y z m) c act rs d.toNat c.sew c.grp false
        (fun i => fit (num (C i) + num (A i) * num (B i))) (fun _ => 0)
      ∧ FillsGroup s (.vimacNmsac d a b e x y z m) c act rs d.toNat c.sew c.grp false
        (fun i => fit (num (C i) - num (A i) * num (B i))) fun _ => 0)

/-- R123, R137: the functions of valux, whose second operand is the low SEW bits of x[B]. -/
def Obligations.LaneIntegersScalar : Prop :=
  ∀ (s : State) (d a b : BitVec 5) (x : Bool) (m : BitVec 2),
    let c := s.h.vc m
    let act := s.h.active c
    let A := (s.h.source c a.toNat c.sew).get
    let W := 2 ^ c.sew
    let v := (s.h.rx b).toNat % W
    let num (v : Nat) : Int := if c.fam = 0 then signed v c.sew else (v % W : Nat)
    let clamp (sign : Bool) (v : Int) : Int := if sign then max (-2 ^ (c.sew - 1)) (min v (2 ^ (c.sew - 1) - 1)) else max 0 (min v (2 ^ c.sew - 1))
    let bits (v : Int) : Nat := (v % (2 ^ c.sew : Nat)).toNat
    let fit (v : Int) : Nat := bits (if c.sat then clamp (c.fam == 0) v else v)
    8 ≤ c.sew → c.fam < 2 →
    (LaneReady s c act [(a.toNat, c.sew, c.grp)] d.toNat c.sew c.grp →
      let gives (n : Instr) (f : Nat → Nat) : Prop :=
        FillsGroup s n c act [a.toNat] d.toNat c.sew c.grp false (fun i => f (A i)) fun _ => 0
      gives (.valuxAdd d a b x m) (fun u => fit (num u + num v)) ∧ gives (.valuxSub d a b x m) (fun u => fit (num u - num v))
      ∧ gives (.valuxRsub d a b x m) (fun u => fit (num v - num u)) ∧ gives (.valuxAnd d a b x m) (fun u => u &&& v)
      ∧ gives (.valuxOr d a b x m) (fun u => u ||| v) ∧ gives (.valuxXor d a b x m) (fun u => u ^^^ v)
      ∧ gives (.valuxAndn d a b x m) (fun u => u &&& (W - 1 - v)) ∧ gives (.valuxSll d a b x m) (fun u => u * 2 ^ (v % c.sew))
      ∧ gives (.valuxSrl d a b x m) (fun u => u / 2 ^ (v % c.sew))
      ∧ gives (.valuxSra d a b x m) (fun u => bits ((signed u c.sew) / 2 ^ (v % c.sew)))
      ∧ gives (.valuxMin d a b x m) (fun u => if signed v c.sew < signed u c.sew then v else u)
      ∧ gives (.valuxMax d a b x m) (fun u => if signed u c.sew < signed v c.sew then v else u)
      ∧ gives (.valuxMinu d a b x m) (fun u => min u v) ∧ gives (.valuxMaxu d a b x m) (fun u => max u v)
      ∧ gives (.valuxMul d a b x m) (fun u => fit (num u * num v))
      ∧ gives (.valuxMulh d a b x m) (fun u => bits (signed u c.sew * signed v c.sew / W))
      ∧ gives (.valuxMulhu d a b x m) (fun u => u * v / W)
      ∧ gives (.valuxAdds d a b x m) (fun u => bits (clamp true (signed u c.sew + signed v c.sew)))
      ∧ gives (.valuxSubs d a b x m) (fun u => bits (clamp true (signed u c.sew - signed v c.sew)))
      ∧ gives (.valuxAddsu d a b x m) (fun u => bits (clamp false ((u : Int) + v)))
      ∧ gives (.valuxSubsu d a b x m) (fun u => bits (clamp false ((u : Int) - v))))
    ∧ (LaneReady s c act [] d.toNat c.sew c.grp →
      FillsGroup s (.valuxMv d b m) c act [] d.toNat c.sew c.grp false (fun _ => v) fun _ => 0)
    ∧ (LaneReady s c (fun _ => true) [(a.toNat, c.sew, c.grp)] d.toNat c.sew c.grp →
      FillsGroup s (.valuxMerge d a b x m) c (fun _ => true) [a.toNat] d.toNat c.sew c.grp false
        (fun i => if act i then v else A i) fun _ => 0)

/-- R123, R137, R138: the compares write a predicate bit for each active element; the float ones raise NV for a signalling NaN,
and lt and le for every NaN. That a compare takes no draw under RM 5 is the model's choice (log entry 74). -/
def Obligations.LaneCompares : Prop :=
  ∀ (s : State) (d : BitVec 4) (a b : BitVec 5) (x y : Bool) (m : BitVec 2),
    let c := s.h.vc m
    let A := (s.h.source c a.toNat c.sew).get
    let B := (s.h.source c b.toNat c.sew).get
    let v := (s.h.rx b).toNat % 2 ^ c.sew
    let gives (n : Instr) (rs : List Nat) (B : Nat → Nat) (f : Nat → Nat → Bool) (fl : Nat → Nat → Flags) : Prop :=
      FillsPred s n c (s.h.active c) rs d.toNat (fun i => f (A i) (B i)) fun i => fl (A i) (B i)
    let sgn (u : Nat) : Int := signed u c.sew
    let val (u : Nat) : FVal := c.fmt.value u
    let quiet (u v : Nat) : Flags := if (val u).isSignalling || (val v).isSignalling then Flags.nv else 0
    let loud (u v : Nat) : Flags := if (val u).isNan || (val v).isNan then Flags.nv else 0
    let less (u v : Nat) : Bool := (val u).lt (val v)
    let same (u v : Nat) : Bool := !(val u).isNan && !(val v).isNan && !less u v && !less v u
    (CompareReady s c [(a.toNat, c.sew, c.grp), (b.toNat, c.sew, c.grp)] d.toNat →
      let rs := [a.toNat, b.toNat]
      (8 ≤ c.sew → c.fam < 2 →
        let int (n : Instr) (f : Nat → Nat → Bool) : Prop := gives n rs B f fun _ _ => 0
        int (.valuEq d a b x y m) (fun u v => u == v) ∧ int (.valuNe d a b x y m) (fun u v => u != v)
        ∧ int (.valuLt d a b x y m) (fun u v => decide (sgn u < sgn v)) ∧ int (.valuLe d a b x y m) (fun u v => decide (sgn u ≤ sgn v))
        ∧ int (.valuLtu d a b x y m) (fun u v => decide (u < v)) ∧ int (.valuLeu d a b x y m) (fun u v => decide (u ≤ v)))
      ∧ (c.floatType = true →
        gives (.vfpEq d a b x y m) rs B same quiet ∧ gives (.vfpLt d a b x y m) rs B less loud
        ∧ gives (.vfpLe d a b x y m) rs B (fun u v => less u v || same u v) loud))
    ∧ (CompareReady s c [(a.toNat, c.sew, c.grp)] d.toNat →
      let rs := [a.toNat]
      (8 ≤ c.sew → c.fam < 2 →
        let int (n : Instr) (f : Nat → Nat → Bool) : Prop := gives n rs (fun _ => v) f fun _ _ => 0
        int (.valuxEq d a b x m) (fun u v => u == v) ∧ int (.valuxNe d a b x m) (fun u v => u != v)
        ∧ int (.valuxLt d a b x m) (fun u v => decide (sgn u < sgn v)) ∧ int (.valuxLe d a b x m) (fun u v => decide (sgn u ≤ sgn v))
        ∧ int (.valuxLtu d a b x m) (fun u v => decide (u < v)) ∧ int (.valuxLeu d a b x m) (fun u v => decide (u ≤ v)))
      ∧ (c.floatType = true →
        gives (.vfpxEq d a b x m) rs (fun _ => v) same quiet ∧ gives (.vfpxLt d a b x m) rs (fun _ => v) less loud
        ∧ gives (.vfpxLe d a b x m) rs (fun _ => v) (fun u v => less u v || same u v) loud))

/-- R130, R138, R139: the float functions, element by element: the operation of the lane format on the values, rounded once by
RM with the element's draw, and its flags. The model's own choices: NV for a signalling NaN in rec, rsq, exp2 and log2 (log entry 73), and
that min and max take no draw (74). -/
def Obligations.LaneFloats : Prop :=
  ∀ (s : State) (d a b e : BitVec 5) (x y z : Bool) (m : BitVec 2),
    let c := s.h.vc m
    let act := s.h.active c
    let grp (r : BitVec 5) := (r.toNat, c.sew, c.grp)
    let A := (s.h.source c a.toNat c.sew).get
    let B := (s.h.source c b.toNat c.sew).get
    let C := (s.h.source c e.toNat c.sew).get
    let v := (s.h.rx b).toNat % 2 ^ c.sew
    let val (u : Nat) : FVal := c.fmt.value u
    let st : Bool := c.rm == 5
    let u (i : Nat) : Nat := if st then drawFraction s.h.strip.rngs (c.before act i) else 0
    let gives (n : Instr) (rs : List Nat) (draws : Bool) (f : Nat → Nat × Flags) : Prop :=
      FillsGroup s n c act rs d.toNat c.sew c.grp draws (fun i => (f i).1) fun i => (f i).2
    let top := c.sew - 1
    let sign (w : Nat) (neg : Bool) : Nat × Flags := (w % 2 ^ top + neg.toNat * 2 ^ top, 0)
    let two (n : Instr) (rs : List Nat) (B : Nat → Nat) (draws : Bool) (f : Nat → Nat → Nat → Nat × Flags) : Prop :=
      gives n rs draws fun i => f (A i) (B i) (u i)
    c.floatType = true →
    (LaneReady s c act [grp a, grp b] d.toNat c.sew c.grp →
      let rs := [a.toNat, b.toNat]
      two (.vfpAdd d a b x y m) rs B st (fun p q u => addVal c.fmt c.rm (val p) (val q) u)
      ∧ two (.vfpSub d a b x y m) rs B st (fun p q u => addVal c.fmt c.rm (val p) (val q).negate u)
      ∧ two (.vfpMul d a b x y m) rs B st (fun p q u => mulRound c.fmt c.rm (val p) (val q) u)
      ∧ two (.vfpDiv d a b x y m) rs B st (fun p q u => divVal c.fmt c.rm (val p) (val q) u)
      ∧ two (.vfpMin d a b x y m) rs B false (fun p q _ => minMax c.fmt false p q)
      ∧ two (.vfpMax d a b x y m) rs B false (fun p q _ => minMax c.fmt true p q)
      ∧ two (.vfpSgnj d a b x y m) rs B false (fun p q _ => sign p (q.testBit top))
      ∧ two (.vfpSgnjn d a b x y m) rs B false (fun p q _ => sign p (!q.testBit top))
      ∧ two (.vfpSgnjx d a b x y m) rs B false (fun p q _ => sign p (p.testBit top != q.testBit top)))
    ∧ (LaneReady s c act [grp a] d.toNat c.sew c.grp →
      let rs := [a.toNat]
      let B := fun _ => v
      two (.vfpxAdd d a b x m) rs B st (fun p q u => addVal c.fmt c.rm (val p) (val q) u)
      ∧ two (.vfpxSub d a b x m) rs B st (fun p q u => addVal c.fmt c.rm (val p) (val q).negate u)
      ∧ two (.vfpxMul d a b x m) rs B st (fun p q u => mulRound c.fmt c.rm (val p) (val q) u)
      ∧ two (.vfpxDiv d a b x m) rs B st (fun p q u => divVal c.fmt c.rm (val p) (val q) u)
      ∧ two (.vfpxMin d a b x m) rs B false (fun p q _ => minMax c.fmt false p q)
      ∧ two (.vfpxMax d a b x m) rs B false (fun p q _ => minMax c.fmt true p q)
      ∧ two (.vfpxSgnj d a b x m) rs B false (fun p q _ => sign p (q.testBit top))
      ∧ two (.vfpxSgnjn d a b x m) rs B false (fun p q _ => sign p (!q.testBit top))
      ∧ two (.vfpxSgnjx d a b x m) rs B false (fun p q _ => sign p (p.testBit top != q.testBit top))
      ∧ two (.vfpSqrt d a x m) rs B st (fun p _ u => sqrtVal c.fmt c.rm (val p) u)
      ∧ two (.vfpRec d a x m) rs B st (fun p _ u => divVal c.fmt c.rm (.fin false 1 0) (val p) u)
      ∧ two (.vfpRsq d a x m) rs B st (fun p _ u => rsqVal c.fmt c.rm (val p) u)
      ∧ two (.vfpExp2 d a x m) rs B st (fun p _ u => exp2Val c.fmt c.rm (val p) u)
      ∧ two (.vfpLog2 d a x m) rs B st (fun p _ u => log2Val c.fmt c.rm (val p) u)
      ∧ two (.vfpClass d a x m) rs B false (fun p _ _ => (classBits c.fmt p, 0)))
    ∧ (LaneReady s c act [grp a, grp b, grp e] d.toNat c.sew c.grp →
      let fma (n : Instr) (np nc : Bool) : Prop := gives n [a.toNat, b.toNat, e.toNat] st fun i =>
        fmaRound c.fmt c.rm np nc (val (A i)) (val (B i)) (val (C i)) (u i)
      fma (.vfmaMadd d a b e x y z m) false false ∧ fma (.vfmaNmadd d a b e x y z m) true true
      ∧ fma (.vfmsMsub d a b e x y z m) false true ∧ fma (.vfmsNmsub d a b e x y z m) true false)

/-- R140 to R143: each conversion, where it accepts SEW, FX, BL, SAT and FAM: integers and lane floats, narrow floats and
integers, and blocks with their scales. The model's own choices: the scale elements of bscale are 16-bit FP16 numbers (log entry 75), a
zero point too large for its format enters it modulo 2^N (76), an infinite E5M2 element dequantises to infinity (77), and an integer 0
under a negative scale to -0 (91). -/
def Obligations.LaneConversions : Prop :=
  ∀ (s : State) (d a b : BitVec 5) (x y : Bool) (m : BitVec 2),
    let c := s.h.vc m
    let act := s.h.active c
    let narrow := max 1 (c.grp * c.n / c.sew)
    let W := 2 ^ c.sew
    let N := 2 ^ c.n
    let lane : Fmt := if c.sew = 64 then fp64 else if c.sew = 32 then fp32 else if c.fx = 16 then bf16 else fp16
    let wide : Fmt := if c.sew = 64 then fp64 else if c.sew = 32 then fp32 else fp16
    let elt (fromNarrow : Bool) : Nat → Nat := (s.h.source c a.toNat (if fromNarrow then c.n else c.sew)).get
    let go (n : Instr) (fromNarrow toNarrow rounds : Bool) (f : Nat → Nat → Nat → Nat × Flags) : Prop :=
      let u (i : Nat) : Nat := if rounds && c.rm == 5 then drawFraction s.h.strip.rngs (c.before act i) else 0
      let src := if fromNarrow then (a.toNat, c.n, narrow) else (a.toNat, c.sew, c.grp)
      let dst := if toNarrow then (c.n, narrow) else (c.sew, c.grp)
      LaneReady s c act [src] d.toNat dst.1 dst.2 →
        FillsGroup s n c act [a.toNat] d.toNat dst.1 dst.2 (rounds && c.rm == 5) (fun i => (f i (elt fromNarrow i) (u i)).1)
          fun i => (f i (elt fromNarrow i) (u i)).2
    let named := c.sew = 32 ∨ c.sew = 64 ∨ (c.sew = 16 ∧ (c.fx = 16 ∨ c.fx = 17))
    let narrows (lo hi : Nat) := 8 ≤ c.sew ∧ lo ≤ c.fx ∧ c.fx ≤ hi ∧ c.n < c.sew
    let plain := narrows 0 7 ∧ c.fx ≠ 2 ∧ c.fx ≠ 3
    let scaled := 16 ≤ c.sew ∧ c.fx ∈ [4, 5, 6, 7, 9, 14, 15] ∧ c.bl ≠ 0 ∧ s.h.writeOk b.toNat 1 = true
    let toInt (lo hi : Int) (v u : Nat) : Nat × Flags :=
      let r := floatToInt lane c.rm lo hi v u
      ((r.1 % (W : Nat)).toNat, r.2)
    let scale (w i : Nat) : ScaleElt := scaleElt (s.h.vreg (i / c.share) b.toNat / 2 ^ (i % c.share / c.bl * w) % 2 ^ w)
    let ws := if c.fx = 4 ∨ c.fx = 5 then 32 else 16
    (named → go (.vcvtI2f d a x m) false false true (fun _ v u => intToFloat lane c.rm (signed v c.sew) u)
      ∧ go (.vcvtU2f d a x m) false false true (fun _ v u => intToFloat lane c.rm v u)
      ∧ go (.vcvtF2i d a x m) false false true (fun _ v u => toInt (-2 ^ (c.sew - 1)) (2 ^ (c.sew - 1) - 1) v u)
      ∧ go (.vcvtF2u d a x m) false false true (fun _ v u => toInt 0 (2 ^ c.sew - 1) v u)
      ∧ (c.bl ≠ 0 → s.h.writeOk b.toNat 1 = true →
        go (.vcvtBscale d a b x y m) false false true fun i v u => bscale lane c.rm (scale 16 i) v u))
    ∧ (16 ≤ c.sew → narrows 8 19 → go (.vcvtFwid d a x m) true false false (fun _ v _ => widen (fmtOf c.fx) wide v)
      ∧ go (.vcvtFnar d a x m) false true true fun _ v u => Machine.narrow wide (fmtOf c.fx) c.rm c.sat v u)
    ∧ (narrows 0 7 → go (.vcvtIwid d a x m) true false false fun _ v _ =>
        (((if c.fx = 2 then (if v % 2 = 0 then 1 else -1) else if c.fx = 3 then (if v % 4 = 1 then 1 else if v % 4 = 3 then -1 else 0)
          else signed v c.n : Int) % (W : Nat)).toNat, 0))
    ∧ (plain → go (.vcvtUwid d a x m) true false false (fun _ v _ => (v, 0))
      ∧ ((c.sat = true → c.fam < 2) → go (.vcvtInar d a x m) false true false fun _ v _ =>
        let z : Int := if c.fam = 0 then signed v c.sew else (v % W : Nat)
        let r : Int := if c.fx = 1 ∨ 6 ≤ c.fx then max (-2 ^ (c.n - 1)) (min z (2 ^ (c.n - 1) - 1)) else max 0 (min z (2 ^ c.n - 1))
        (if c.sat then (r % (N : Nat)).toNat else v, 0)))
    ∧ (scaled → go (.vcvtQuant d a b x y m) false true true (fun i v u => quant wide c.fx c.n c.rm c.sat (scale ws i) v u)
      ∧ go (.vcvtDequant d a b x y m) true false true fun i v u => dequant wide c.fx c.n c.rm (scale ws i) v u)
    ∧ (16 ≤ c.sew → 8 ≤ c.fx → c.fx ≤ 19 → (c.sew = 16 → c.fx ≠ 16 ∧ c.fx < 18) →
      go (.vcvtFrnd d a x m) false false true fun _ v u =>
        let r := Machine.narrow wide (fmtOf c.fx) c.rm c.sat v u
        ((widen (fmtOf c.fx) wide r.1).1, r.2))
    ∧ (narrows 0 19 → go (.vcvtPack d a x m) false true false (fun _ v _ => (v, 0))
      ∧ go (.vcvtUnpack d a x m) true false false fun _ v _ => (v, 0))

/-- R136, R144: vrng writes each active element from its own draw, and RNGS advances by one step for each. -/
def Obligations.RandomElements : Prop :=
  ∀ (s : State) (d : BitVec 5) (m : BitVec 2),
    let c := s.h.vc m
    let act := s.h.active c
    let k (i : Nat) : Nat :=
      let z := s.h.strip.rngs + BitVec.ofNat 64 (c.before act i) * 0x9E3779B97F4A7C15
      let z := (z ^^^ (z >>> 30)) * 0xBF58476D1CE4E5B9
      let z := (z ^^^ (z >>> 27)) * 0x94D049BB133111EB
      (z ^^^ (z >>> 31)).toNat
    LaneReady s c act [] d.toNat c.sew c.grp →
      (8 ≤ c.sew → FillsGroup s (.vrngBits d m) c act [] d.toNat c.sew c.grp true k fun _ => 0)
      ∧ (c.floatType = true → ∃ f : Nat → Nat, FillsGroup s (.vrngUnif d m) c act [] d.toNat c.sew c.grp true f (fun _ => 0)
        ∧ ∀ i, ∃ (mant : Nat) (e : Int), c.fmt.value (f i) = .fin false mant e ∧ e ≤ 0
          ∧ ((k i / 2 ^ (64 - (c.fmt.mb + 1)) : Nat) : Rat) / 2 ^ (c.fmt.mb + 1) = (mant : Rat) / 2 ^ e.natAbs)

/-- R117: the functions of vpred over [VSTART, VL), with first and cnt judged over all of [0, VL). -/
def Obligations.PredicateLogic : Prop :=
  ∀ (s : State) (d a b : BitVec 4) (m : BitVec 2),
    let c := s.h.vc m
    let A := s.h.pbit c a.toNat
    let B := s.h.pbit c b.toNat
    CompareReady s c [] d.toNat →
      let gives (n : Instr) (f : Nat → Bool) : Prop := FillsPred s n c (fun _ => true) [] d.toNat f fun _ => 0
      gives (.vpredAnd d a b m) (fun i => A i && B i) ∧ gives (.vpredOr d a b m) (fun i => A i || B i)
      ∧ gives (.vpredXor d a b m) (fun i => A i != B i) ∧ gives (.vpredAndn d a b m) (fun i => A i && !B i)
      ∧ gives (.vpredNot d a m) (fun i => !A i) ∧ gives (.vpredSet d m) (fun _ => true) ∧ gives (.vpredClr d m) (fun _ => false)
      ∧ gives (.vpredFirst d a m) (fun i => decide (A i = true ∧ ∀ j < i, A j = false))
      ∧ gives (.vpredCnt d a m) (fun i => decide (i < ((List.range c.vl).filter A).length))
      ∧ gives (.vpredMv d a m) A

/-! ## Rearrangement, reductions, scans and selection -/

/-- R145, R150 to R152: the functions of vperm, within the slice of each element and, for xch, between slices. -/
def Obligations.Permutations : Prop :=
  ∀ (s : State) (d a b : BitVec 5) (x y : Bool) (m : BitVec 2),
    let c := s.h.vc m
    let act := s.h.active c
    let A := (s.h.source c a.toNat c.sew).get
    let B := (s.h.source c b.toNat c.sew).get
    let k := (s.h.rx b).toNat
    let low := k % 2 ^ c.sew
    let first (i : Nat) : Nat := (s.h.sliceOf c i).1
    let n (i : Nat) : Nat := (s.h.sliceOf c i).2
    let loc (i t : Nat) : Nat := if t < n i then A (first i + t) else 0
    let all := fun _ : Nat => true
    let fills (q : Instr) (rs : List Nat) (f : Nat → Nat) : Prop :=
      FillsGroup s q c act rs d.toNat c.sew c.grp false f fun _ => 0
    (LaneReady s c all [(a.toNat, c.sew, c.grp), (b.toNat, c.sew, c.grp)] d.toNat c.sew c.grp → AllThere s c [a, b] →
      let rs := [a.toNat, b.toNat]
      fills (.vpermPerm d a b x y m) rs (fun i => loc i (B i))
      ∧ fills (.vpermRshp d a b x y m) rs (fun i =>
        let cols := max 1 (B (first i))
        let rows := (n i + cols - 1) / cols
        loc i ((i - first i) % rows * cols + (i - first i) / rows))
      ∧ fills (.vpermXch d a b x y m) rs (fun i =>
        let base := s.h.dieAt 0
        let from_ := s.h.sliceOn c (base + ((s.h.dieAt (i / c.share) - base) ^^^ (B (first i) % 2 ^ (s.h.task.start.span.toNat / 16 % 4))))
        if i - first i < from_.2 then A (from_.1 + (i - first i)) else 0))
    ∧ (LaneReady s c all [(a.toNat, c.sew, c.grp)] d.toNat c.sew c.grp → AllThere s c [a] →
      let rs := [a.toNat]
      fills (.vpermSlup d a b x m) rs (fun i => if k ≤ i - first i then A (i - k) else s.h.element c d.toNat c.sew i)
      ∧ fills (.vpermSldn d a b x m) rs (fun i => loc i (i - first i + k))
      ∧ fills (.vpermSl1up d a b x m) rs (fun i => if first i < i then A (i - 1) else low)
      ∧ fills (.vpermSl1dn d a b x m) rs (fun i => if i - first i + 1 < n i then A (i + 1) else low))
    ∧ (LaneReady s c all [] d.toNat c.sew c.grp → fills (.vpermBcast d b m) [] fun _ => low)
    ∧ (VectorReady s c → a.toNat % c.grp = 0 → s.h.readOk c a.toNat c.grp c.sew = true → AllThere s c [a] →
      (k < c.vl → (s.h.source c a.toNat c.sew).cause k = none) →
      let v := if k < c.vl then A k else 0
      ∃ t, exec (.vpermExt d a b x m) s = .next t ∧ SameVectors s t ∧ SamePreds s t
        ∧ VectorDone s t d (if c.fam = 0 then BitVec.ofInt 64 (signed v c.sew) else BitVec.ofNat 64 v) s.h.strip [a.toNat] c.vl)
    ∧ (Operands s { c with start := 0, tp := false } (fun _ => false) [] d.toNat c.sew c.grp →
      ∃ t, exec (.vpermIns d a b m) s = .next t ∧ VectorDone s t 0 0 s.h.strip [] c.vl
        ∧ GroupWritten s t { c with start := 0, ip := false, tp := false } d.toNat c.sew c.grp (· == k) c.vl
          fun _ => (s.h.rx a).toNat)

/-- R153 to R155: the reductions fold the carried value x[B] with the active elements in ascending order, fsum through its fixed
tree, and write x[D] alone. -/
def Obligations.Reductions : Prop :=
  ∀ (s : State) (d a b : BitVec 5) (x : Bool) (m : BitVec 2),
    let c := s.h.vc m
    let act := s.h.active c
    let A := (s.h.source c a.toNat c.sew).get
    let v := (s.h.rx b).toNat % 2 ^ c.sew
    let l := (c.activeList act c.vl).map A
    let num (v : Nat) : Int := if c.fam = 0 then signed v c.sew else (v % 2 ^ c.sew : Nat)
    let lo : Int := if c.fam = 0 then -2 ^ (c.sew - 1) else 0
    let hi : Int := if c.fam = 0 then 2 ^ (c.sew - 1) - 1 else 2 ^ c.sew - 1
    let fit (z : Int) : Nat := ((if c.sat then max lo (min z hi) else z) % (2 ^ c.sew : Nat)).toNat
    VectorReady s c → a.toNat % c.grp = 0 → s.h.readOk c a.toNat c.grp c.sew = true → c.predOk false = true → AllThere s c [a] →
    c.readable act [s.h.source c a.toNat c.sew] →
    let writes (n : Instr) (w : Word) (fl : Flags) : Prop := ∃ t, exec n s = .next t ∧ SameVectors s t ∧ SamePreds s t
      ∧ VectorDone s t d w { s.h.strip with fflags := s.h.strip.fflags ||| fl } [a.toNat] c.vl
    (8 ≤ c.sew → c.fam < 2 →
      let int (n : Instr) (r : Nat) : Prop := writes n (if c.fam = 0 then BitVec.ofInt 64 (signed r c.sew) else BitVec.ofNat 64 r) 0
      int (.vredSum d a b x m) (fit ((l.map num).foldl (· + ·) (num v)))
      ∧ int (.vredMin d a b x m) (l.foldl (fun r u => if signed u c.sew < signed r c.sew then u else r) v)
      ∧ int (.vredMax d a b x m) (l.foldl (fun r u => if signed r c.sew < signed u c.sew then u else r) v)
      ∧ int (.vredMinu d a b x m) (l.foldl min v) ∧ int (.vredMaxu d a b x m) (l.foldl max v)
      ∧ int (.vredAnd d a b x m) (l.foldl (· &&& ·) v) ∧ int (.vredOr d a b x m) (l.foldl (· ||| ·) v)
      ∧ int (.vredXor d a b x m) (l.foldl (· ^^^ ·) v))
    ∧ (c.floatType = true →
      let e := max c.vl c.start
      let float (n : Instr) (r : Nat × Attributed) : Prop := (∀ p ∈ r.2, p.2 &&& s.h.ftrim = 0) →
        writes n (BitVec.ofNat 64 r.1) (r.2.foldl (fun f p => f ||| p.2) 0)
      let fold (isMax : Bool) : Nat × Attributed := (c.activeList act e).foldl
        (fun r i => ((minMax c.fmt isMax r.1 (A i)).1, r.2 ++ [(i, (minMax c.fmt isMax r.1 (A i)).2)])) (v, [])
      float (.vredFsum d a b x m) (sumOver c A v (c.activeList act e) e)
      ∧ float (.vredFmin d a b x m) (fold false) ∧ float (.vredFmax d a b x m) (fold true))

/-- R157: a scan leaves in each active element the running value before it (EX) or after it, and the last one in x[B].
That fsum takes no draw under RM 5 is the model's choice (log entry 74). -/
def Obligations.Scans : Prop :=
  ∀ (s : State) (d a b : BitVec 5) (x ex : Bool) (m : BitVec 2),
    let c := s.h.vc m
    let act := s.h.active c
    let A := (s.h.source c a.toNat c.sew).get
    let v := (s.h.rx b).toNat % 2 ^ c.sew
    let num (v : Nat) : Int := if c.fam = 0 then signed v c.sew else (v % 2 ^ c.sew : Nat)
    let lo : Int := if c.fam = 0 then -2 ^ (c.sew - 1) else 0
    let hi : Int := if c.fam = 0 then 2 ^ (c.sew - 1) - 1 else 2 ^ c.sew - 1
    let fit (z : Int) : Nat := ((if c.sat then max lo (min z hi) else z) % (2 ^ c.sew : Nat)).toNat
    let rm := if c.rm = 5 then 0 else c.rm
    LaneReady s c act [(a.toNat, c.sew, c.grp)] d.toNat c.sew c.grp →
    let does (n : Instr) (float : Bool) (f : Nat → Nat → Nat × Flags) : Prop :=
      let run (i : Nat) : Nat := (c.activeList act i).foldl (fun r j => (f r (A j)).1) v
      let after (i : Nat) : Nat × Flags := f (run i) (A i)
      let last := run (max c.vl c.start)
      NoTrim s c act (fun i => (after i).2) → ∃ t, exec n s = .next t
        ∧ GroupWritten s t c d.toNat c.sew c.grp act c.vl (fun i => if ex then run i else (after i).1)
        ∧ VectorDone s t b (if float = false ∧ c.fam = 0 then BitVec.ofInt 64 (signed last c.sew) else BitVec.ofNat 64 last)
          { s.h.strip with fflags := s.h.strip.fflags ||| c.raised act fun i => (after i).2 } [a.toNat] c.vl
    (8 ≤ c.sew → c.fam < 2 → does (.vscanSum d a b x m ex) false (fun r u => (fit (num r + num u), 0))
      ∧ does (.vscanMin d a b x m ex) false (fun r u => (if num u < num r then u else r, 0))
      ∧ does (.vscanMax d a b x m ex) false (fun r u => (if num r < num u then u else r, 0)))
    ∧ (c.floatType = true → does (.vscanFsum d a b x m ex) true (fun r u => addVal c.fmt rm (c.fmt.value r) (c.fmt.value u) 0)
      ∧ does (.vscanFmin d a b x m ex) true (fun r u => minMax c.fmt false r u)
      ∧ does (.vscanFmax d a b x m ex) true (fun r u => minMax c.fmt true r u))

/-- R158 to R162: selection. cmpr packs the active elements and expd spreads them; iota counts; topk packs and topkm marks the
x[B] active elements that rank highest, the lower index first among equals; isect and eqsplit follow their loops over whole
lists. The packing functions set VL to what they wrote. The model's own choice: eqsplit takes the differences of its row pointers modulo
2^SEW (log entry 85). -/
def Obligations.Selections : Prop :=
  ∀ (s : State) (d a b : BitVec 5) (p : BitVec 4) (x y : Bool) (m : BitVec 2),
    let c := s.h.vc m
    let c0 := { c with start := 0 }
    let act := s.h.active c
    let A := (s.h.source c a.toNat c.sew).get
    let B := (s.h.source c b.toNat c.sew).get
    let grp (r : BitVec 5) := (r.toNat, c.sew, c.grp)
    let all := fun _ : Nat => true
    let packs (n : Instr) (k : Vc) (rs : List Nat) (vals : List Nat) (vl : Nat) (fl : Flags) : Prop :=
      ∃ t, exec n s = .next t ∧ GroupWritten s t k d.toNat c.sew c.grp all vl (fun i => vals.getD (i - k.start) 0)
        ∧ VectorDone s t 0 0 { s.h.strip with fflags := s.h.strip.fflags ||| fl, vl := BitVec.ofNat 64 vl } rs c.vl
    let val (u : Nat) : FVal := c.fmt.value u
    let below (u v : Nat) : Bool := if c.fam = 0 then decide (signed u c.sew < signed v c.sew) else if c.fam = 1 then decide (u < v)
      else ((val v).isNan && !(val u).isNan) || (val u).lt (val v)
    let fl (i : Nat) : Flags := if c.fam = 2 ∧ (val (A i)).isSignalling = true then Flags.nv else 0
    let n := if c.start < c.vl then c.vl else c.start
    let list := c.activeList act n
    let topType := 8 ≤ c.sew ∧ (c.fam < 2 ∨ c.floatType = true)
    8 ≤ c.sew →
    (LaneReady s c all [] d.toNat c.sew c.grp →
      FillsGroup s (.vselIota d m) c act [] d.toNat c.sew c.grp false (fun i => i) fun _ => 0)
    ∧ (s.h.oneDie = true → LaneReady s c all [grp a] d.toNat c.sew c.grp → AllThere s c [a] →
      FillsGroup s (.vselExpd d a x m) c act [a.toNat] d.toNat c.sew c.grp false (fun i => A (c.start + c.before act i)) fun _ => 0)
    ∧ (s.h.oneDie = true → LaneReady s c act [grp a] d.toNat c.sew c.grp →
      (AllThere s c [a] → packs (.vselCmpr d a x m) c [a.toNat] (list.map A) (if c.start < c.vl then c.start + list.length else c.vl) 0)
      ∧ (topType → NoTrim s c act fl → ∃ order : List Nat, order.Perm list
        ∧ order.Pairwise (fun i j => below (A i) (A j) = false ∧ (below (A j) (A i) = false → i < j))
        ∧ packs (.vselTopk d a b x m) c [a.toNat] ((order.take (s.h.rx b).toNat).map A)
          (if c.start < c.vl then c.start + min (s.h.rx b).toNat list.length else c.vl) (c.raised act fl)))
    ∧ (s.h.oneDie = true → CompareReady s c [grp a] p.toNat → topType → ∃ order : List Nat, order.Perm list
        ∧ order.Pairwise (fun i j => below (A i) (A j) = false ∧ (below (A j) (A i) = false → i < j))
        ∧ FillsPred s (.vselTopkm p a b x m) c act [a.toNat] p.toNat (fun i => decide (i ∈ order.take (s.h.rx b).toNat)) fl)
    ∧ (s.h.oneDie = true → Operands s c0 all [grp a, grp b] d.toNat c.sew c.grp →
      let la := (List.range c.vl).map A
      let lb := (List.range c.vl).map B
      let both := intersect (2 ^ c.sew - 1) (c.vl + c.vl) la lb
      let cuts := splitRows c.sew la (lb.headD 0)
      packs (.vselIsect d a b x y m) c0 [a.toNat, b.toNat] both both.length 0
      ∧ (c.sew = 32 ∨ c.sew = 64 → packs (.vselEqsplit d a b x y m) c0 [a.toNat, b.toNat]
        (if c.vl ≤ 1 then [0] else cuts) (if c.vl ≤ 1 then c.vl else cuts.length) 0))

/-! ## Vector memory -/

/-- R187 to R189, R192, R195, R196, R208: each vector load whose active elements read `V i` fills its group with their bits and
changes nothing else; a gather stays in flight besides, and its elements count to its queue's share of Stirrup (R222). The model's own
choices: the values of a gather are fixed at its issue and come one element group at a time (log entry 49), Stirrup counts an element
where it accepts it (22), and an entry of the in-flight table has INSTRET at issue for its age (70). -/
def Obligations.VectorLoads : Prop :=
  ∀ (s : State) (d a b : BitVec 5) (y : Bool) (u : BitVec 3) (m : BitVec 2) (V : Nat → Nat),
    let c := s.h.vc m
    let act := s.h.active c
    let base := (s.h.rx a).toNat
    let ew := dataWidth c
    let w := max 1 (ew / 8)
    let index := (s.h.source c b.toNat c.sew).get
    let goes (n : Instr) (srcs : List (Nat × Nat × Nat)) (at_ : Nat → Access) (engine : Bool) : Prop :=
      LaneReady s c act srcs d.toNat ew (dataRegs c) → (∀ i, c.start ≤ i → i < c.vl → act i = true → Fetches s (at_ i) (V i)) →
      (engine = true → Unshared s) →
      ∃ t, exec n s = .next t
        ∧ t.h.gathers = s.h.gathers ++ (if engine then [flight s t false c d.toNat (dataRegs c) ew] else [])
        ∧ Served s t (if engine then (c.activeList act c.vl).flatMap fun i => (at_ i).places else [])
        ∧ VectorDone s { t.setH { t.h with gathers := s.h.gathers } with moved := s.moved } 0 0 s.h.strip (srcs.map (·.1)) c.vl
        ∧ GroupWritten s t c d.toNat ew (dataRegs c) act c.vl fun i => V i / 2 ^ (at_ i).bit
    accessType c →
    goes (.vldUnit d a m) [] (fun i => unitAt s base ew i (reading true)) false
    ∧ (base < 2 ^ 24 → goes (.vldSp d a m) [] (fun i => scratchAt s base 0 ew i) false
      ∧ (swizzleOk (s.h.rx b).toNat = true → goes (.vldSpx d a b m) [] (fun i => scratchAt s base (s.h.rx b).toNat ew i) false))
    ∧ (8 ≤ ew → goes (.vldStrd d a b m) [] (fun i => stridedAt s base (s.h.rx b).toInt w i (reading true)) false
      ∧ goes (.vldIdx d a b y m) [(b.toNat, c.sew, c.grp)] (fun i => memAccess s (base + index i * w) 0 w { reading false with served := true })
        true
      ∧ ((s.h.rx b).toNat / 2 ^ 48 ≠ 0 → goes (.vldTile d a b m) [] (fun i => tileAt s base (s.h.rx b) w i (reading false)) false)
      ∧ (∀ F : Nat → Nat → Nat, let nf := u.toNat + 1
        let r := dataRegs c
        VectorReady s c → c.predOk false = true → d.toNat % r = 0 → (nf = 1 ∨ 16 ≤ d.toNat ∨ d.toNat + nf * r ≤ 16) →
        s.h.writeOk d.toNat (r * nf) = true → (∀ k < nf, c.Group (d.toNat + k * r) ew r) →
        (c.writes = true → (s.h.marks.claim (s.h.slotsOf d.toNat (r * nf)) []).isSome = true) →
        (∀ i, c.start ≤ i → i < c.vl → act i = true → ∀ k < nf, Fetches s (memAccess s (base + (i * nf + k) * w) 0 w (reading false)) (F i k)) →
        ∃ t, exec (.vldSeg d a m u) s = .next t ∧ VectorDone s t 0 0 s.h.strip [] c.vl ∧ SamePreds s t
          ∧ (∀ k < nf, ∀ i, i < c.share * c.cores → t.h.element c (d.toNat + k * r) ew i
            = c.classed act c.vl i (s.h.element c (d.toNat + k * r) ew i) 0 (F i k % 2 ^ ew))
          ∧ ∀ q k, k < 32 → (k < d.toNat ∨ d.toNat + nf * r ≤ k) → t.h.vreg q k = s.h.vreg q k))

/-- R187 to R189, R191, R195 to R197, R208: each vector store enters the active elements, in element order, into the store
buffer, each at its places with its own bits; those of a scatter are marked for Stirrup, which takes them at the commit. That each
element of a scatter is marked, and not the instruction as a whole, is the model's own form of R208 (log entry 22). -/
def Obligations.VectorStores : Prop :=
  ∀ (s : State) (d a b : BitVec 5) (x y : Bool) (u : BitVec 3) (m : BitVec 2) (P : Nat → Nat → List Spot),
    let c := s.h.vc m
    let act := s.h.active c
    let base := (s.h.rx a).toNat
    let ew := dataWidth c
    let r := dataRegs c
    let w := max 1 (ew / 8)
    let index := (s.h.source c b.toNat c.sew).get
    let data (k : Nat) : Nat → Nat := (s.h.source c (d.toNat + k * r) ew).get
    let list := c.activeList act c.vl
    let goes (n : Instr) (more : List (BitVec 5)) (nf : Nat) (at_ : Nat → Nat → Access) (engine : Bool) : Prop :=
      StoreReady s c act (((List.range nf).map fun k => (d.toNat + k * r, ew, r)) ++ more.map fun q => (q.toNat, c.sew, c.grp)) →
      d.toNat % r = 0 → d.toNat + nf * r ≤ 32 → (nf = 1 ∨ 16 ≤ d.toNat ∨ d.toNat + nf * r ≤ 16) →
      (∀ i, c.start ≤ i → i < c.vl → act i = true → ∀ k < nf, (at_ i k).spots = .ok (P i k)) →
      Buffers s n c (((List.range nf).map fun k => d.toNat + k * r) ++ more.map (·.toNat))
        (list.flatMap fun i => (List.range nf).flatMap fun k =>
          (entriesOf (at_ i k).bit ew (data k i) (P i k)).map fun e => { e with served := engine }) (list.length * (ew * nf))
    accessType c →
    goes (.vstUnit d a x m) [] 1 (fun i _ => unitAt s base ew i (writing true)) false
    ∧ (base < 2 ^ 24 → goes (.vstSp d a x m) [] 1 (fun i _ => scratchAt s base 0 ew i) false
      ∧ (swizzleOk (s.h.rx b).toNat = true → goes (.vstSpx d a b x m) [] 1 (fun i _ => scratchAt s base (s.h.rx b).toNat ew i) false))
    ∧ (8 ≤ ew → goes (.vstStrd d a b x m) [] 1 (fun i _ => stridedAt s base (s.h.rx b).toInt w i (writing true)) false
      ∧ goes (.vstIdx d a b x y m) [b] 1 (fun i _ => memAccess s (base + index i * w) 0 w { writing false with served := true }) true
      ∧ ((s.h.rx b).toNat / 2 ^ 48 ≠ 0 →
        goes (.vstTile d a b x m) [] 1 (fun i _ => tileAt s base (s.h.rx b) w i (writing false)) false)
      ∧ goes (.vstSeg d a x m u) [] (u.toNat + 1)
        (fun i k => memAccess s (base + (i * (u.toNat + 1) + k) * w) 0 w (writing false)) false)

/-- R121, R122, R210, R211: a spill frame holds the elements from byte 16 on and then its header with VL and VTYPE; a fill of a
frame with the register's type loads as many elements as it holds, and one of another type raises ILLEGAL_TYPE; a hash probe gives
each key its value, or all ones. The model's own choices: a probe stays in flight with its values fixed at issue (log entry 49), its
accesses count to its queue's share of Stirrup (22), its age is INSTRET at issue (70), and a fill needs the registers that VL asks
for (83). -/
def Obligations.FramesAndProbes : Prop :=
  ∀ (s : State) (d a b : BitVec 5) (x y : Bool) (m : BitVec 2) (V : Nat → Nat) (P : Nat → List Spot) (L : Nat → Seen) (H : List Spot),
    let c := s.h.plainVc
    let base := (s.h.rx a).toNat
    let all := fun _ : Nat => true
    let src := (s.h.source c d.toNat c.sew).get
    let eltAt (need : Need) (i : Nat) : Access := memAccess s (base + 16 + i * c.sew / 8) (i * c.sew % 8) (max 1 (c.sew / 8)) need
    let headAt (need : Need) : Access := memAccess s base 0 16 { need with align := 16 }
    let list := c.activeList all c.vl
    (c.start < c.vl → StoreReady s c all [(d.toNat, c.sew, c.grp)] → (headAt (writing false)).spots = .ok H →
      (∀ i, c.start ≤ i → i < c.vl → (eltAt (writing false) i).spots = .ok (P i)) →
      Buffers s (.vstSpill d a x) c [d.toNat]
        ((list.flatMap fun i => entriesOf (i * c.sew % 8) c.sew (src i) (P i))
          ++ entriesOf 0 128 (c.vl + s.h.strip.vtype.toNat * 2 ^ 64) H)
        (list.length * c.sew + 128))
    ∧ (∀ n : Nat, c.start < c.vl → n < 2 ^ 64 → Fetches s (headAt (reading false)) (n + s.h.strip.vtype.toNat * 2 ^ 64) →
      let k := { c with vl := min n c.vl }
      Operands s c all [] d.toNat c.sew c.grp → (∀ i, c.start ≤ i → i < min n c.vl → Fetches s (eltAt (reading false) i) (V i)) →
      ∃ t, exec (.vldFill d a) s = .next t ∧ VectorDone s t 0 0 s.h.strip [] k.vl
        ∧ GroupWritten s t k d.toNat c.sew c.grp all k.vl fun i => V i / 2 ^ (i * c.sew % 8))
    ∧ (∀ v : Nat, c.start < c.vl → Fetches s (headAt (reading false)) v → Operands s c all [] d.toNat c.sew c.grp → CanTrap s →
      (v / 2 ^ 71 % 2 ^ 5 ≠ s.h.strip.vtype.toNat / 2 ^ 7 ∨ v / 2 ^ 76 ≠ 0) →
      ∃ t, exec (.vldFill d a) s = .next t ∧ Trapped s t Cause.illegalType s.h.pc s.h.vstart s.h.vstart)
    ∧ (∀ (v : Nat) (p : Probe), let c := s.h.vc m
      let act := s.h.active c
      let w := c.sew / 8
      let key := (s.h.source c b.toNat c.sew).get
      c.sew = 32 ∨ c.sew = 64 → LaneReady s c act [(b.toNat, c.sew, c.grp)] d.toNat c.sew c.grp →
      (∃ i, c.start ≤ i ∧ i < c.vl ∧ act i = true) →
      Fetches s (memAccess s base 0 32 { reading false with align := 8 }) v → probeOf v w = some p →
      (∀ i, c.start ≤ i → i < c.vl → act i = true →
        (∀ seen, probeKey s p w (key i) (i == c.start) i seen = .ok (V i, seen ++ L i) 0) ∧ ∀ q ∈ L i, q.1 ≠ 0) →
      ∃ t, exec (.vldPrb d a b y m) s = .next t
        ∧ t.h.gathers = s.h.gathers ++ [flight s t true c d.toNat c.grp c.sew]
        ∧ Served s t (((c.activeList act c.vl).flatMap L).map (·.2))
        ∧ VectorDone s { t.setH { t.h with gathers := s.h.gathers } with moved := s.moved } 0 0 s.h.strip [b.toNat] c.vl
        ∧ GroupWritten s t c d.toNat c.sew c.grp act c.vl V)

/-- R201, R202: sbind reads a descriptor and binds its stream at position 0; sadv moves a stream; sunbind frees the group, which
then reads zero. Each leaves every other register as it was. A stream's age among the items for a copy engine is the model's own:
the number of the next command when it was bound (log entry 65); and sbind acts at VL 0 too (92). -/
def Obligations.BoundStreams : Prop :=
  ∀ (s : State) (g : BitVec 2) (d a b : BitVec 5) (m : BitVec 2), Unasked s.h →
    let done (h : Hart) : Hart :=
      { h with vstart := 0, pc := s.h.pc + 4, instret := s.h.instret + 1, answers := [], placing := false, issued := false }
    (∀ (base : Word) (count ext0 ext1 ewc : Nat) (str0 str1 str2 : Word), 1 ≤ count → count ≤ 2 ^ 48 → 1 ≤ ext0 → ext0 < 2 ^ 32 →
      1 ≤ ext1 → ext1 < 2 ^ 32 → 3 ≤ ewc → ewc ≤ 6 → s.h.streams.length < 4 →
      (∀ x ∈ s.h.streams, x.group ≠ 4 * g.toNat) →
      Fetches s (memAccess s (s.h.rx a).toNat 0 64 { reading false with align := 8 })
        (base.toNat + count * 2 ^ 64 + (ext0 + ext1 * 2 ^ 32) * 2 ^ 128 + str0.toNat * 2 ^ 192 + str1.toNat * 2 ^ 256
          + str2.toNat * 2 ^ 320 + ewc * 2 ^ 384) →
      ∃ t, exec (.vstrSbind g a m) s = .next t ∧ OnlyHart s t
        ∧ t.h = done { s.h with streams := s.h.streams ++
          [{ group := 4 * g.toNat, desc := s.h.rx a, base, count, ext0, ext1, str0, str1, str2, ewc, pos := 0, first := 0, filled := []
             faults := [], age := s.nextCmd }] })
    ∧ ((∃ x ∈ s.h.streams, x.group = d.toNat) →
      (∃ t, exec (.vstrSadv d b m) s = .next t ∧ OnlyHart s t ∧ { t.h with streams := s.h.streams } = done s.h
        ∧ t.h.streams.map (fun x => { x.bare with pos := 0, first := 0 }) = s.h.streams.map (fun x => { x.bare with pos := 0, first := 0 })
        ∧ t.h.streams.map (·.pos) = s.h.streams.map fun x =>
            if x.group = d.toNat then min x.count (x.pos + (s.h.rx b).toNat) else x.pos)
      ∧ (s.h.marks.claim (s.h.slotsOf d.toNat 4) [] = none → CanTrap s → ∃ t, exec (.vstrSunbind d m) s = .next t
        ∧ Trapped s t Cause.renameLimit s.h.pc s.h.vstart (s.ir.setWidth 64))
      ∧ (d.toNat + 4 ≤ 32 → (s.h.marks.claim (s.h.slotsOf d.toNat 4) []).isSome = true →
        ∃ t, exec (.vstrSunbind d m) s = .next t ∧ OnlyHart s t
        ∧ t.h.streams = s.h.streams.filter (fun x => decide (x.group ≠ d.toNat))
        ∧ (∀ q k, q < s.h.span.length → k < 4 → t.h.vreg q (d.toNat + k) = 0)
        ∧ (∀ q r, r < 32 → (r < d.toNat ∨ d.toNat + 4 ≤ r ∨ s.h.span.length ≤ q) → t.h.vreg q r = s.h.vreg q r)
        ∧ SamePreds s t
        ∧ { t.h with
            files := s.h.files, dirty := s.h.dirty, streams := s.h.streams, marks := s.h.marks, lost := s.h.lost } = done s.h))

/-- R258, R262: vatom.gld reads the indexed elements and links exactly their lines; vatom.scc stores the elements of D whose
lines are still linked, in element order, puts 0 or 1 in their place and drops the links, as a commit point. -/
def Obligations.LinkedVectors : Prop :=
  ∀ (s : State) (d a b : BitVec 5) (x y : Bool) (m : BitVec 2) (la : Nat → Nat),
    let c := s.h.vc m
    let act := s.h.active c
    let w := c.sew / 8
    let ea (i : Nat) : Nat := (s.h.rx a).toNat + (s.h.source c b.toNat c.sew).get i * w
    let list := c.activeList act c.vl
    let D (i : Nat) : Nat := s.h.element c d.toNat c.sew i
    c.sew = 32 ∨ c.sew = 64 → c.fam < 2 → LaneReady s c act [(b.toNat, c.sew, c.grp)] d.toNat c.sew c.grp →
    ((∀ i ∈ list, HomeElement s (ea i) w true false (la i) ∧ s.mem.poisoned (la i) w = false) → s.links.length + c.vl ≤ 65536 →
      ∃ t, exec (.vatomGld d a b y m) s = .next t ∧ VectorDone s { t with links := s.links } 0 0 s.h.strip [b.toNat] c.vl
        ∧ GroupWritten s t c d.toNat c.sew c.grp act c.vl (fun i => overlay s.h.sb (.home (la i)) w (s.mem.read (la i) w))
        ∧ (∀ i ∈ list, VectorLinked t (la i) = true)
        ∧ (∀ l ∈ t.links, l.agent = s.cur → l.vector = true → ∃ i ∈ list, l.line = .home (la i / 64 * 64))
        ∧ (t.links.filter fun l => !(l.agent == s.cur && l.vector)) = s.links.filter fun l => !(l.agent == s.cur && l.vector))
    ∧ (Calm s → Quiet s → s.h.answers = [] →
      (∀ q, Apart s list la w q → ∀ i ∈ list, HomeElement { s with mem := q } (ea i) w false true (la i)) →
      (∀ i ∈ list, ∀ j ∈ list, i ≠ j → la i / 64 ≠ la j / 64) →
      ∃ t, exec (.vatomScc d a b x y m) s = .next t
        ∧ t.mem = list.foldl (fun q i => if VectorLinked s (la i) then q.write (la i) (D i) w else q) s.mem
        ∧ GroupWritten s t c d.toNat c.sew c.grp act c.vl (fun i => if VectorLinked s (la i) then 0 else 1)
        ∧ (∀ r, t.h.rx r = s.h.rx r) ∧ t.h.pc = s.h.pc + 4 ∧ t.h.vstart = 0 ∧ t.h.ckpt.pc = s.h.pc + 4
        ∧ ∀ l ∈ t.links, l.agent = s.cur → l.vector = false)

/-- R263, R264: vatom.lock takes the distinct words of the active elements when all are free, and keeps them in ascending order
in the lock table; vatom.unlock writes 0 to those that the table holds and removes them. Both are commit points. -/
def Obligations.LockSets : Prop :=
  ∀ (s : State) (a b : BitVec 5) (y : Bool) (la : Nat → Nat),
    let c := s.h.vc 0
    let list := c.activeList (s.h.active c) c.vl
    let ea (i : Nat) : Nat := ((s.h.rx a).toNat + (s.h.source c b.toNat c.sew).get i * 8) % 2 ^ 64
    let apart := ∀ i ∈ list, ∀ j ∈ list, ea i ≠ ea j → la (ea i) + 8 ≤ la (ea j) ∨ la (ea j) + 8 ≤ la (ea i)
    let commits (n : Instr) (p : State → Prop) : Prop := ∃ t, exec n s = .next t ∧ p t ∧ (∀ r, t.h.rx r = s.h.rx r)
      ∧ t.h.pc = s.h.pc + 4 ∧ t.h.vstart = 0 ∧ t.h.ckpt.pc = s.h.pc + 4 ∧ SameVectors s t ∧ SamePreds s t
      ∧ Apart s list (fun i => la (ea i)) 8 t.mem
    c.sew = 32 ∨ c.sew = 64 → c.fam < 2 → Calm s → Quiet s → s.h.answers = [] →
    StoreReady s c (s.h.active c) [(b.toNat, c.sew, c.grp)] → apart →
    ((∀ i ∈ list, HomeElement s (ea i) 8 true true (la (ea i)) ∧ s.mem.read (la (ea i)) 8 = 0
        ∧ s.mem.poisoned (la (ea i)) 8 = false) → s.h.task.locks = [] →
      (list.map ea).eraseDups.length ≤ 64 →
      commits (.vatomLock a b y) fun t => t.h.task.locks.Pairwise (· < ·) ∧ (∀ q, q ∈ t.h.task.locks ↔ q ∈ list.map ea)
        ∧ ∀ i ∈ list, t.mem.read (la (ea i)) 8 = holderValue s s.cur)
    ∧ ((∀ i ∈ list, HomeElement s (ea i) 8 false true (la (ea i))) → s.posted = [] → s.out = [] →
      (∀ q, Apart s list (fun i => la (ea i)) 8 q → ∀ i ∈ list,
        ∃ p, Machine.translate { s with mem := q } deviceUnit s.h.task.vi (ea i) false true none = .ok p ∧ p.loc = .home (la (ea i))) →
      commits (.vatomUnlock a b y) fun t => t.h.task.locks = (s.h.task.locks.filter fun q => decide (q ∉ list.map ea))
        ∧ ∀ i ∈ list, (ea i ∈ s.h.task.locks → t.mem.read (la (ea i)) 8 = 0)
          ∧ (ea i ∉ s.h.task.locks → t.mem.read (la (ea i)) 8 = s.mem.read (la (ea i)) 8))

/-! ## The matrix array -/

/-- R167, R177, R178: mop and mopu put one entry into the hart's array queue: the tile, the slices of the register groups on
every span core as they stand, the scales and the rounding mode; no tile, register or byte of memory changes yet. With VL 0 there is no
entry, and while the queue is full the instruction waits. The model's own choices: VSTART is 0 after them (log entry 17), and an
entry's age is INSTRET at issue (70). -/
def Obligations.MatrixEntries : Prop :=
  ∀ (s : State) (z : BitVec 3) (a b sa sb : BitVec 5) (x y : Bool),
    let c := s.h.vc 0
    let zw := Sparse.get 0 s.h.matrix.zw z.toNat
    let slices (r : BitVec 5) : List Nat := (List.range c.cores).flatMap fun q => (List.range c.grp).map fun k => s.h.vreg q (r.toNat + k)
    let scale (r : BitVec 5) : Option (List Nat) := if r = 31 then none else some ((List.range c.cores).map fun q => s.h.vreg q r.toNat)
    let scaled (code : Nat) : Prop := code ∈ [4, 5, 6, 7, 9, 14, 15]
    let entry (unfold : Option (Word × Word × Word)) (av : List Nat) : ArrayEntry :=
      { pc := s.h.pc, sord := s.h.strip.sord, tile := z.toNat, slices := c.grp, unfold, a := av, b := slices b, scaleA := scale sa
        scaleB := scale sb, rm := BitVec.ofNat 3 c.rm, buffered := s.h.sb.length, accepted := false, zw := 0, mvl := 0, padding := []
        age := s.h.instret }
    let enters (n : Instr) (e : ArrayEntry) : Prop :=
      let leaves (es : List ArrayEntry) : Prop := ∃ t, exec n s = .next t ∧ OnlyHart s t ∧ t.h = { s.h with
        array := es, vstart := 0, pc := s.h.pc + 4, instret := s.h.instret + 1, answers := [], placing := false, issued := false }
      (c.vl = 0 → leaves s.h.array) ∧ (c.vl ≠ 0 → s.h.array.length < 4 → leaves (s.h.array ++ [e]))
        ∧ (c.vl ≠ 0 → 4 ≤ s.h.array.length → exec n s = .next (s.setH { s.h with stall := some 1 }))
    Unasked s.h → c.rm < 6 → z.toNat < s.h.task.start.tiles → s.h.streams = [] → s.h.gathers = [] → s.h.lost = [] →
    b.toNat % c.grp = 0 → (sa = 31 ∨ scaled (zw.toNat % 32)) → (sb = 31 ∨ scaled (zw.toNat / 2 ^ 9 % 32)) →
    (a.toNat % c.grp = 0 → enters (.mopMop z a b sa sb x y) (entry none (slices a)))
    ∧ (let xa := s.h.rx a
      let even := Sparse.get 0 s.h.matrix.ufd (2 * (xa.toNat / 2 ^ 62))
      let odd := Sparse.get 0 s.h.matrix.ufd (2 * (xa.toNat / 2 ^ 62) + 1)
      ufdOk even odd = true → ufdEnd even (storageWidth (zw.toNat % 32) (zw.toNat / 2 ^ 5 % 16 + 1)) ≤ s.h.spBytes * 8 →
      enters (.mopMopu z a b sa sb y) (entry (some (xa, even, odd)) []))

/-- R170: one integer update of a tile position: the exact sum moves from fraction QA + QB to QZ, LOSS says whether bits were
lost, OVF whether the new value left 32 bits, which then wraps or clamps. -/
def Obligations.IntegerAccumulation : Prop :=
  ∀ (zw : Word) (old : BitVec 32) (sum : Int),
    let qa : Nat := zw.toNat / 2 ^ 20 % 32
    let qb : Nat := zw.toNat / 2 ^ 25 % 32
    let qz : Nat := zw.toNat / 2 ^ 30 % 64
    let acct := zw.toNat / 2 ^ 18 % 4
    let d : Int := (qa : Int) + (qb : Int) - (qz : Int)
    let s' : Int := if 0 < d then sum / 2 ^ d.toNat else sum * 2 ^ (-d).toNat
    let t := old.toInt + s'
    let outside := t < -2 ^ 31 ∨ 2 ^ 31 - 1 < t
    let r := intUpdate zw old sum
    r.1 = BitVec.ofInt 32 (if outside ∧ acct ≠ 0 then (if 0 < t then 2 ^ 31 - 1 else -2 ^ 31) else t)
    ∧ (r.2.1 = true ↔ outside) ∧ (r.2.2 = true ↔ 0 < d ∧ s' * 2 ^ d.toNat ≠ sum)

/-- R165, R166, R169, R179 to R181: mzero clears a tile, mset and zwset write MVL and a precision register, mdrain reads a tile
into a group, and mld and mst move the window from and to memory. No array entry is pending, and the arrays of the span are free; where
one is not, a function on a tile waits (R183). The model's own choices: VSTART is 0 after each (log entry 17), mld writes the tile's
copy on every span core and mst stores the home core's (49), and mzero acts at VL 0 too (84). -/
def Obligations.MatrixControl : Prop :=
  ∀ (s : State) (d a : BitVec 5) (z : BitVec 3) (m : BitVec 2),
    let mat := s.h.matrix
    let elt (h : Hart) (q row col : Nat) : BitVec 32 := Sparse.get 0 h.matrix.tiles (((q * 8 + z.toNat) * 64 + row) * 64 + col)
    let mvl := mat.mvl.toNat
    let base := (s.h.rx a).toNat
    let next (h : Hart) : Hart :=
      { h with vstart := 0, pc := s.h.pc + 4, instret := s.h.instret + 1, answers := [], placing := false, issued := false }
    let free := ∀ core ∈ s.h.span, arrayFree s core = true
    let still (t : State) : Prop := { t with harts := s.harts, cores := s.cores } = s ∧ (∀ n, n ≠ s.cur → t.hart n = s.hart n)
      ∧ { t.h with matrix := mat, marks := s.h.marks, dirty := s.h.dirty, counters := s.h.counters } = next s.h
    let otherTiles (t : State) : Prop := ∀ k, k / 4096 % 8 ≠ z.toNat → Sparse.get 0 t.h.matrix.tiles k = Sparse.get 0 mat.tiles k
    let onlyTiles (t : State) : Prop := { t.h.matrix with tiles := mat.tiles } = mat ∧ otherTiles t
    let win (i : Nat) (need : Need) : Access := memAccess s (base + 4 * i) 0 4 { need with align := 4 }
    Unasked s.h → s.h.shrunk = none → s.h.array = [] →
    (1 ≤ base → base ≤ 64 → ∃ t, exec (.mctlMset a) s = .next t ∧ still t ∧ t.h.matrix = { mat with mvl := BitVec.ofNat 7 base })
    ∧ (z.toNat < s.h.task.start.tiles →
      (zwOk (s.h.rx a) = true → ∃ t, exec (.mctlZwset a z) s = .next t ∧ still t
        ∧ { t.h.matrix with zw := mat.zw } = mat
        ∧ ∀ k, Sparse.get 0 t.h.matrix.zw k = if k = z.toNat then s.h.rx a else Sparse.get 0 mat.zw k)
      ∧ (¬free → ∀ i ∈ [Instr.mctlMzero z, .mctlMld a z, .mctlMst a z], exec i s = .next (s.setH { s.h with stall := none }))
      ∧ (free → ∃ t, exec (.mctlMzero z) s = .next t ∧ still t ∧ onlyTiles t
        ∧ ∀ q row col, row < 64 → col < 64 → elt t.h q row col = 0)
      ∧ (∀ V : Nat → Nat, free → s.h.strip.vl ≠ 0 → s.h.vstart.toNat < mvl * mvl → mvl ≤ 64 →
        (∀ i, s.h.vstart.toNat ≤ i → i < mvl * mvl → Fetches s (win i (reading false)) (V i)) →
        ∃ t, exec (.mctlMld a z) s = .next t ∧ still t ∧ onlyTiles t
          ∧ ∀ q row col, row < 64 → col < 64 → elt t.h q row col =
            if q < s.h.span.length ∧ row < mvl ∧ col < mvl ∧ s.h.vstart.toNat ≤ row * mvl + col then BitVec.ofNat 32 (V (row * mvl + col))
            else elt s.h q row col)
      ∧ (∀ P : Nat → List Spot, free → s.h.strip.vl ≠ 0 → s.h.vstart.toNat < mvl * mvl →
        (∀ i, s.h.vstart.toNat ≤ i → i < mvl * mvl → (win i (writing false)).spots = .ok (P i)) →
        let n := mvl * mvl - s.h.vstart.toNat
        s.h.sbused + 4 * n ≤ s.h.sbCap →
        ∃ t, exec (.mctlMst a z) s = .next t ∧ t.h.matrix = mat ∧ t.h.sbused = s.h.sbused + 4 * n
          ∧ t.h.sb = s.h.sb ++ ((List.range n).flatMap fun j => let i := s.h.vstart.toNat + j
            entriesOf 0 32 (elt s.h 0 (i / mvl) (i % mvl)).toNat (P i))
          ∧ still (t.setH { t.h with sb := s.h.sb, sbused := s.h.sbused }))
      ∧ (let c := s.h.vc m
        let act := s.h.active c
        let zw := Sparse.get 0 mat.zw z.toNat
        let acct := zw.toNat / 2 ^ 18 % 4
        let rounds : Bool := c.fam == 2 && decide (acct < 2)
        let draws : Bool := c.rm == 5 && rounds
        let value (i : Nat) : Nat × Flags :=
          let w := base + i % c.share / mvl
          let v := if w < mvl then (elt s.h (i / c.share) w (i % c.share % mvl)).toNat else 0
          let n := signed v 32
          if rounds then fp32.round c.rm ⟨decide (n < 0), n.natAbs, -((zw.toNat / 2 ^ 30 % 64 : Nat) : Int), false⟩ false
            (if draws then drawFraction s.h.strip.rngs (c.before act i) else 0)
          else (v, 0)
        free → c.sew = 32 → c.fam < 3 → LaneReady s c act [] d.toNat 32 c.grp → NoTrim s c act (fun i => (value i).2) →
        ∃ t, exec (.mctlMdrain d a z m) s = .next t ∧ GroupWritten s t c d.toNat 32 c.grp act c.vl (fun i => (value i).1)
          ∧ t.h.matrix = mat ∧ t.h.pc = s.h.pc + 4 ∧ t.h.vstart = 0 ∧ (∀ r, t.h.rx r = s.h.rx r) ∧ t.mem = s.mem
          ∧ t.h.strip = { s.h.strip with
            fflags := s.h.strip.fflags ||| c.raised act fun i => (value i).2
            rngs := if draws then s.h.strip.rngs + BitVec.ofNat 64 (c.before act c.vl) * gamma else s.h.strip.rngs }))

/-! ## Engines, barriers, work-lists and tasks -/

/-- R212 to R221, R228: eng and cpe.cpy commit, check their descriptors and hand a command with the descriptors' fields to the
engines; x[D] gets its sequence number. An illegal descriptor raises ILLEGAL_TYPE and issues nothing. -/
def Obligations.CommandIssue : Prop :=
  ∀ (s : State) (d a b c : BitVec 5) (cc : BitVec 4) (o e : BitVec 2) (A B : Nat),
    let n := (s.h.rx c).toNat
    let fld := descField
    let jp := fld B 0x18 8
    let jc := (s.h.rx c).toNat
    let command (kind : EngKind) (count j : Nat) : Command :=
      { id := s.nextCmd, by_ := issuer s, pc := s.h.pc, seq := s.h.task.seq + 1, kind, count, acquire := o.getLsbD 0
        release := o.getLsbD 1, scope := e, joinp := BitVec.ofNat 64 j, done := 0, cause := none, started := false, order := []
        answers := [] }
    let issues (i : Instr) (k : Command) : Prop :=
      ∃ t, exec i s = .next t ∧ Issued s t d false ∧ t.commands = s.commands ++ [k] ∧ t.copies = s.copies
    let refuses (i : Instr) : Prop := s.h.trap.tvec ≠ 0 → ∃ t, exec i s = .next t ∧ t.h.trap.tcause = Cause.illegalType
      ∧ t.h.trap.tpc = s.h.pc ∧ t.h.pc = s.h.trap.tvec ∧ t.commands = s.commands ∧ t.copies = s.copies
    Calm s → s.h.task.entryBusy (s.h.task.seq + 1) = false →
    (Describes s (s.h.rx a) 16 A → Describes s (s.h.rx b) 32 B →
      (rowsOk A B = true → n ≤ 2 ^ 24 → CounterOk s jp →
        let kind (mk : Nat → Nat → Nat → Nat → Nat → Nat → Nat → EngKind) : EngKind :=
          mk (fld A 0 8) (fld A 8 4) (fld A 0x0C 4) (fld B 0 8) (fld B 8 4) (fld B 0x0C 4) (fld B 0x10 2)
        issues (.engGsp d a b c o e) (command (kind .gsp) n jp) ∧ issues (.engSsp d a b c o e) (command (kind .ssp) n jp))
      ∧ (rowsOk A B = false ∨ 2 ^ 24 < n ∨ jp % 64 ≠ 0 → refuses (.engGsp d a b c o e) ∧ refuses (.engSsp d a b c o e)))
    ∧ (Describes s (s.h.rx a) 48 A → regionOk A = true →
      (Describes s (s.h.rx b) 32 B → addBlockOk B ((addSize (fld A 0x0E 1)).getD 1) = true → n ≤ 2 ^ 24 → CounterOk s jp →
        issues (.engSadd d a b c o e) (command (.sadd (fld A 0 8) (fld A 8 4) (fld A 0x0C 2) (fld A 0x0E 1) (fld A 0x0F 1)
          (fld A 0x10 8) (fld A 0x18 4) (fld B 0 8) (fld B 8 8) (fld B 0x10 4) (fld B 0x14 1 == 1)) n jp))
      ∧ ((s.h.rx b).toNat < ceilDiv (fld A 8 4) (2 ^ fld A 0x0F 1) → CounterOk s jc →
        issues (.engBapply d a b c o e) (command (.bapply (fld A 0 8) (fld A 8 4) (fld A 0x0C 2) (fld A 0x0E 1) (fld A 0x0F 1)
          (fld A 0x10 8) (fld A 0x18 4) (s.h.rx b).toNat) 0 jc)))
    ∧ (let dst := (s.h.rx a).toNat
      let src := (s.h.rx b).toNat
      let len := (s.h.rx (BitVec.ofNat 5 (2 * cc.toNat))).toNat
      let j := (s.h.rx (BitVec.ofNat 5 (2 * cc.toNat + 1))).toNat
      (len ≤ 2 ^ 40 → rangesOverlap dst src len = false → CounterOk s j →
        ∃ t, exec (.cpeCpy d a b cc o e) s = .next t ∧ Issued s t d true ∧ t.commands = s.commands ∧ t.copies = s.copies
          ++ [{ id := s.nextCmd, by_ := issuer s, pc := s.h.pc, seq := s.h.task.seq + 1, dst, src, len, acquire := o.getLsbD 0
                release := o.getLsbD 1, scope := e, joinp := BitVec.ofNat 64 j, wptr := 0, cause := none, engine := none
                answers := [] }])
      ∧ (2 ^ 40 < len ∨ rangesOverlap dst src len = true ∨ j % 64 ≠ 0 → refuses (.cpeCpy d a b cc o e)))

/-- R214, R226 to R230: cpe.cptr returns a command's result at once; cwait and cdrain wait until the record, or every record,
exists, and an event ends that wait; the completion of a command writes its record. -/
def Obligations.CommandResults : Prop :=
  (∀ (s : State) (d a : BitVec 5) (o : Bool) (e : BitVec 2), Calm s →
    let q := s.h.rx a
    let gives (u : State) (i : Instr) (v : Word) : Prop := ∃ t, exec i s = .next t ∧ CommittedAt u t d v ∧ { t with harts := s.harts } = s
    let read : State := s.setH { s.h with task := s.h.task.readRecord q.toNat }
    let waits (i : Instr) (w : Wait) : Prop := ∃ t, exec i s = .next t ∧ t.h.wait = w ∧ t.h.pc = s.h.pc
      ∧ (∀ r, t.h.rx r = s.h.rx r) ∧ { t with harts := s.harts } = s
    gives read (.cpeCptr d a) (resultOf s.h.task q.toNat)
    ∧ (s.h.task.settledCommand q.toNat = true → gives read (.cpeCwait d a o e) (resultOf s.h.task q.toNat))
    ∧ (s.h.task.settledCommand q.toNat = false → waits (.cpeCwait d a o e) (.cwait d q o))
    ∧ ((∀ k ∈ s.h.task.ctab, k.2.complete = true) → gives s (.cpeCdrain d o e) (BitVec.ofNat 64 s.h.task.seq))
    ∧ (¬(∀ k ∈ s.h.task.ctab, k.2.complete = true) → waits (.cpeCdrain d o e) (.cdrain d o)))
  ∧ (∀ (s : State) (d : BitVec 5) (q : Word) (o : Bool), s.power.state = .ready → s.h.waits = true → s.h.preempt = none →
    s.h.dbg.haltReq = false →
    let returns (v : Word) : Prop := ∃ t, exec (.cpeWaitReturn s.cur) s = .next t ∧ Commits s t d v ∧ { t with harts := s.harts } = s
    (s.h.wait = .cwait d q o → s.h.task.settledCommand q.toNat = true → returns (resultOf s.h.task q.toNat))
    ∧ (s.h.wait = .cdrain d o → (∀ k ∈ s.h.task.ctab, k.2.complete = true) → returns (BitVec.ofNat 64 s.h.task.seq)))
  ∧ (∀ (s : State) (id k : Nat) (x : Completion), s.power.state = .ready →
    let records (i : Instr) (seq n : Nat) (copy : Bool) (cause : BitVec 8) (u : State) : Prop := ∃ t, exec i s = .next t
      ∧ (∀ j, Sparse.find (t.hart k).task.ctab j = if j = seq % 256 then some { x with copy, n, cause, complete := true }
          else Sparse.find (s.hart k).task.ctab j)
      ∧ (∀ j, j ≠ k → t.hart j = s.hart j) ∧ ((s.hart k).wait = .command → (t.hart k).wait = .run)
      ∧ { t with harts := s.harts } = u
    (∀ c, s.commands.find? (fun y => y.id == id) = some c → c.finished = true → c.release = false → c.joinp = 0 →
      hartOfTask s c.by_.vi c.by_.task = some k → Sparse.find (s.hart k).task.ctab (c.seq % 256) = some x → x.seq = c.seq →
      records (.engineCommandComplete id) c.seq c.done false (c.cause.getD 0)
        { s with commands := s.commands.filter fun y => y.id != id })
    ∧ (∀ c, s.copies.find? (fun y => y.id == id) = some c → c.finished = true → c.release = false → c.joinp = 0 →
      hartOfTask s c.by_.vi c.by_.task = some k → Sparse.find (s.hart k).task.ctab (c.seq % 256) = some x → x.seq = c.seq →
      records (.copyComplete id) c.seq c.wptr true (c.cause.getD 0) { s with copies := s.copies.filter fun y => y.id != id }))

/-- R203, R217 to R222, R225, R228, R229, R232: one element of the command that its Stirrup instance serves next: a row of gsp or
ssp, an append of sadd, the start and one record of bapply, with the causes that end each; one burst of the copy that its engine
moves next; one element that refills a bound stream. The model's own choices: which item a unit takes among equal ones, and what its
counts are (log entry 22), that a refill is an item of each engine of its die (55), and that a command that waits holds no request
slot (22). -/
def Obligations.EngineService : Prop :=
  (∀ (s : State) (c : Command) (rest : List Command) (unit tbase rowb nrow idxa spoff spitch swz idx v : Nat), s.power.state = .ready →
    serviceOrder s unit (s.commands.filter fun y => !y.finished && y.servedAt s unit) = c :: rest →
    c.kind = .gsp tbase rowb nrow idxa spoff spitch swz → c.load s (idxa + 4 * c.done) 4 = .ok idx →
    let places := (List.range rowb).map fun k => swizzle swz (spoff + c.done * spitch + k)
    let after (t : State) (f : Command → Command) : Prop := t.commands = s.commands.map (fun y => if y.id = c.id then f y else y)
      ∧ { t with commands := s.commands, cores := s.cores, moved := s.moved } = s
      ∧ ∀ k, Sparse.get 0 t.moved k = Sparse.get 0 s.moved k + (if k = movedKey (s.build.engines + unit) c.by_.vi c.by_.queue then 1 else 0)
    (idx < nrow → (∀ p ∈ places, p < c.by_.spBytes) → c.load s (tbase + idx * rowb) rowb = .ok v →
      ∃ t, exec (.stirrupElementService unit 1) s = .next t
        ∧ after t (fun y => { y with done := y.done + 1, answers := [], blocked := false })
        ∧ (t.core c.by_.core).scratch = scatterScratch (s.core c.by_.core).scratch places v
        ∧ ∀ k, k ≠ c.by_.core → t.core k = s.core k)
    ∧ (nrow ≤ idx ∨ (∃ p ∈ places, c.by_.spBytes ≤ p) → ∃ t, exec (.stirrupElementService unit 1) s = .next t ∧ t.cores = s.cores
        ∧ after t fun y => { y with cause := some Cause.bound, blocked := false }))
  ∧ (∀ (s : State) (c : Command) (rest : List Command) (unit : Nat), s.power.state = .ready → Quiet s →
    serviceOrder s unit (s.commands.filter fun y => !y.finished && y.servedAt s unit) = c :: rest →
    let e := c.done
    let core := s.core c.by_.core
    let after (t : State) (f : Command → Command) : Prop := t.commands = s.commands.map (fun y => if y.id = c.id then f y else y)
      ∧ { t with commands := s.commands, moved := s.moved, mem := s.mem, l1 := s.l1, links := s.links, harts := s.harts } = s
      ∧ ∀ k, Sparse.get 0 t.moved k = Sparse.get 0 s.moved k + (if k = movedKey (s.build.engines + unit) c.by_.vi c.by_.queue then 1 else 0)
    let serves (p : State → Prop) : Prop := ∃ t, exec (.stirrupElementService unit 1) s = .next t ∧ p t
    let moves (t : State) : Prop := after t fun y => { y with done := y.done + 1, answers := [], blocked := false }
    let ends (cause : BitVec 8) : Prop := serves fun t => t.mem = s.mem
      ∧ after t fun y => { y with cause := some cause, blocked := false }
    let waits : Prop := rest = [] → exec (.stirrupElementService unit 1) s
      = .next { s with commands := s.commands.map fun y => if y.id = c.id then { y with blocked := true } else y }
    let keeps (t : State) (may : Nat → Prop) : Prop := ∀ y, ¬may y → t.mem.byte y = s.mem.byte y
    (∀ tbase rowb nrow idxa spoff spitch swz idx la, c.kind = .ssp tbase rowb nrow idxa spoff spitch swz →
      c.load s (idxa + 4 * e) 4 = .ok idx →
      let places := (List.range rowb).map fun k => swizzle swz (spoff + e * spitch + k)
      (nrow ≤ idx ∨ (∃ p ∈ places, c.by_.spBytes ≤ p) → ends Cause.bound)
      ∧ (idx < nrow → (∀ p ∈ places, p < c.by_.spBytes ∧ scratchLost s c.by_.core p 1 = false) →
        OneHome (c.spots s (tbase + idx * rowb) rowb false true) la rowb →
        serves fun t => moves t ∧ keeps t (inside la rowb)
          ∧ ∀ k < rowb, t.mem.byte (la + k) = Sparse.get 0 core.scratch (places.getD k 0)))
    ∧ (∀ tbase nrow rowe fmt log2br qbase qcap idxa vala vpitch vsp r v ha ra,
      c.kind = .sadd tbase nrow rowe fmt log2br qbase qcap idxa vala vpitch vsp → c.load s (idxa + 4 * e) 4 = .ok r →
      let vb := rowe * [4, 8, 4, 8, 2, 2].getD fmt 1
      let recb := 64 + (vb + 15) / 16 * 16
      let hdr := qbase + r / 2 ^ log2br * (64 + qcap * recb)
      let va := vala + e * vpitch
      let head := s.mem.read ha 64
      let count := head % 2 ^ 32
      (nrow ≤ r → ends Cause.bound)
      ∧ (r < nrow → vsp = true → c.by_.spBytes < va + vb → ends Cause.bound)
      ∧ (r < nrow → r < 2 ^ 32 → e < 2 ^ 32 → c.seq < 2 ^ 64 → (vsp = false → c.load s va vb = .ok v) →
        (vsp = true → va + vb ≤ c.by_.spBytes ∧ scratchLost s c.by_.core va vb = false ∧ v = readScratch core.scratch va vb) →
        OneHome (c.spots s hdr 64 true true) ha 64 →
        (head / 2 ^ 32 % 2 ^ 32 ≠ 0 → waits)
        ∧ (head / 2 ^ 32 % 2 ^ 32 = 0 → (qcap < count ∨ head / 2 ^ 64 ≠ 0 → ends Cause.binMalformed)
          ∧ (count = qcap → head / 2 ^ 64 = 0 → ends Cause.binRegionFull)
          ∧ (count < qcap → head / 2 ^ 64 = 0 → OneHome (c.spots s (hdr + 64 + count * recb) recb false true) ra recb →
            (ra + recb ≤ ha ∨ ha + 64 ≤ ra) →
            serves fun t => moves t ∧ keeps t (fun y => inside ha 64 y ∨ inside ra recb y) ∧ t.mem.read ha 64 = head + 1
              ∧ t.mem.read ra 4 = r ∧ t.mem.read (ra + 0x04) 4 = e ∧ t.mem.read (ra + 0x08) 8 = c.by_.sord.toNat
              ∧ t.mem.read (ra + 0x10) 8 = c.seq
              ∧ (∀ k < 8, t.mem.read (ra + 0x18 + 4 * k) 4 = (Sparse.get 0 c.by_.lpath k).toNat)
              ∧ t.mem.read (ra + 0x40) vb = v % 2 ^ (8 * vb)))))
    ∧ (∀ tbase nrow rowe fmt log2br qbase qcap bin ha, c.kind = .bapply tbase nrow rowe fmt log2br qbase qcap bin →
      let esz := [4, 8, 4, 8, 2, 2].getD fmt 1
      let vb := rowe * esz
      let recb := 64 + (vb + 15) / 16 * 16
      let hdr := qbase + bin * (64 + qcap * recb)
      let head := s.mem.read ha 64
      let count := head % 2 ^ 32
      (c.started = false → OneHome (c.spots s hdr 64 true true) ha 64 →
        (head / 2 ^ 32 % 2 ^ 32 ≠ 0 → waits)
        ∧ (head / 2 ^ 32 % 2 ^ 32 = 0 → (qcap < count ∨ head / 2 ^ 64 ≠ 0 → ends Cause.binMalformed)
          ∧ ∀ ra : Nat → Nat, count ≤ qcap → head / 2 ^ 64 = 0 →
            (∀ k < count, OneHome (c.spots s (hdr + 64 + k * recb) 64 true true) (ra k) 64) →
            let key (k : Nat) : List Nat :=
              (List.range 8).map (fun l => s.mem.read (ra k + 0x18 + 4 * l) 4) ++ [s.mem.read (ra k + 8) 8, s.mem.read (ra k + 0x10) 8]
              ++ [s.mem.read (ra k + 4) 4]
            serves fun t => keeps t (inside ha 64) ∧ t.mem.read ha 64 = head + (if count = 0 then 0 else 2 ^ 32)
              ∧ ∃ order : List Nat, order.Perm (List.range count) ∧ order.Pairwise (fun i j => ¬key j < key i)
                ∧ after t fun y => { y with started := true, order, answers := [], blocked := false }))
      ∧ (∀ ra ta, c.started = true → OneHome (c.spots s (hdr + 64 + c.order.getD e 0 * recb) recb true true) ra recb →
        OneHome (c.spots s (tbase + s.mem.read ra 4 * vb) vb true true) ta vb → (ta + vb ≤ ha ∨ ha + 8 ≤ ta) → fmt < 6 → 1 ≤ rowe →
        let last := c.order.length ≤ e + 1
        (last → ∀ m, Differs s (inside ta vb) m →
          OneHome (enginePlaces { s with mem := m } (stirrupUnitFor s c.by_.vi) c.by_.vi c.answers c.ordered hdr 8 true true) ha 8) →
        let add (a b : Nat) : Nat :=
          let float (f : Fmt) : Nat := (addVal f 0 (f.value a) (f.value b) 0).1
          [(a + b) % 2 ^ 32, (a + b) % 2 ^ 64, float fp32, float fp64, float fp16, float bf16].getD fmt 0
        serves fun t => moves t ∧ keeps t (fun y => inside ta vb y ∨ last ∧ inside ha 8 y)
          ∧ (∀ j < rowe, t.mem.read (ta + esz * j) esz = add (s.mem.read (ta + esz * j) esz) (s.mem.read (ra + 64 + esz * j) esz))
          ∧ (last → t.mem.read ha 8 = 0))))
  ∧ (∀ (s : State) (c : Copy) (engine bytes v : Nat) (l l8 d : List Spot), s.power.state = .ready → s.copies = [c] →
    nextItem s engine = some (.copy c) → c.unit = none → c.line = none →
    let n := c.len - c.wptr
    let a := (c.src + c.wptr) % 2 ^ 64
    let places (va n : Nat) (r : Bool) := enginePlaces s (fun _ => deviceUnit) c.by_.vi c.answers c.ordered va n r (!r)
    (c.dst + c.wptr) % 64 + n ≤ 64 → a % 64 + n ≤ 64 → places a n true = .ok l → spotsPoisoned s l = false →
    places (8 * (a / 8)) (8 * ((a + n - 1) / 8 - a / 8 + 1)) true = .ok l8 → readSpots s [] c.answers l8 = .ok v →
    places (c.dst + c.wptr) n false = .ok d → (∀ p ∈ d, p.loc.isPeer = false) →
    ∃ t, exec (.copyBurst engine bytes) s = .next t
      ∧ t.mem = ((spotParts d (v / 2 ^ (8 * (a % 8)) % 2 ^ (8 * n))).foldl (fun u p => writeSpot u (.copy c.id) p.1 p.2) s).mem
      ∧ t.copies = [{ c with engine := some engine, wptr := c.len, cause := none, answers := [], unit := lastUnit a n v }]
      ∧ ∀ k, Sparse.get 0 t.moved k = Sparse.get 0 s.moved k
          + (if k = movedKey engine c.by_.vi c.by_.queue then n else 0))
  ∧ (∀ (s : State) (n k v : Nat) (t : Stream) (l : List Spot), s.power.state = .ready → (s.hart n).live = true →
    (s.hart n).streams[k]? = some t → (refillEngine s n k).isSome = true →
    let j := t.first + t.filled.length
    let w := 2 ^ t.ewc / 8
    j < t.count → j < t.pos + 4 * (s.hart n).vlenb * 8 / 2 ^ t.ewc * (s.hart n).span.length →
    checkSpots ({ s with cur := n }.setHart n { s.hart n with answers := (s.hart n).streamAnswers }) (t.address j) w (reading false) = .ok l →
    readSpots s (s.hart n).sb (s.hart n).streamAnswers l = .ok v →
    ∃ u, exec (.streamRefill n k 1) s = .next u ∧ (u.hart n).streams = (s.hart n).streams.set k { t with filled := t.filled ++ [v] }
      ∧ { u.hart n with streams := (s.hart n).streams, streamAnswers := (s.hart n).streamAnswers } = s.hart n
      ∧ (∀ m, m ≠ n → u.hart m = s.hart m)
      ∧ { u with harts := s.harts, moved := s.moved } = s)

/-- R265 to R268: bar.init writes the object anew and gives GEN; bar.wait arrives, and goes on with PHASE once its phase has
passed, or waits for the event that ends the wait; a late, a far or a broken arrival and bar.inv are as R267 and R268 say. -/
def Obligations.Barriers : Prop :=
  (∀ (s : State) (d a b c : BitVec 5) (o e : BitVec 2) (r : Bool) (la : Nat),
    let va := s.h.rx a
    let obj (t : State) : Barrier := barrierOf (t.mem.read la 64)
    let x := obj s
    let p := if b = 0 then s.h.strip.sord else s.h.rx b
    let v := (s.h.rx b).toNat
    let outside (t : State) : Prop := ∀ y, (y < la ∨ la + 64 ≤ y) → t.mem.byte y = s.mem.byte y
    let broken (t : State) : Prop := t.mem = s.mem.setByte (la + 5) Cause.barrierBroken
      ∧ ∀ n dd w q f, n ≠ s.cur → (s.hart n).wait = .barrier dd w (.home la) q f false →
        (t.hart n).wait = .barrier dd w (.home la) q f true
    Calm s → NothingOut s → s.h.task.pending = none →
    (objectHome s va.toNat 64 64 r = .ok (.home la) →
      (v / 2 ^ 34 = 0 → 1 ≤ v % 2 ^ 32 → v % 2 ^ 32 ≤ 65535 → (∀ h ∈ s.harts, h.2.waitsOn (.home la) = false) →
        ∃ t, exec (.barInit d a b c r e) s = .next t ∧ Commits s t d (BitVec.ofNat 64 ((x.gen + 1) % 2 ^ 64)) ∧ outside t
          ∧ obj t = { x with
            count := v % 2 ^ 32, dist := v / 2 ^ 32, status := 0, phase := (s.h.rx c).toNat, arr := [0, 0, 0, 0]
            gen := (x.gen + 1) % 2 ^ 64 })
      ∧ (∃ t, exec (.barInv a r e) s = .next t ∧ Commits s t 0 0 ∧ broken t))
    ∧ (objectHome s va.toNat 64 64 (o != 0) = .ok (.home la) → s.h.task.broke = false →
      let waits (q : State → Prop) : Prop := ∃ t, exec (.barWait d a b o e) s = .next t ∧ q t
      (x.status ≠ 0 → waits fun t => Commits s t d (0 - 1) ∧ t.mem = s.mem)
      ∧ (x.status = 0 → x.malformed = false →
        (p.toNat < x.phase → waits fun t => Commits s t d (BitVec.ofNat 64 x.phase) ∧ t.mem = s.mem)
        ∧ (x.phase + 4 ≤ p.toNat → waits fun t => Commits s t d (0 - 1) ∧ broken t)
        ∧ (x.phase ≤ p.toNat → p.toNat < x.phase + 4 →
          let y := x.arrive p.toNat
          waits fun t => obj t = y ∧ outside t
            ∧ (p.toNat < y.phase + y.dist → Commits s t d (BitVec.ofNat 64 y.phase) ∧ t.h.task.pending = none)
            ∧ (y.phase + y.dist ≤ p.toNat → t.h.wait = .barrier d va (.home la) p (o.getLsbD 0) false ∧ t.h.pc = s.h.pc
              ∧ ∀ q, t.h.rx q = s.h.rx q)))))
  ∧ (∀ (s : State) (d : BitVec 5) (va p : Word) (la : Nat) (acq broken : Bool), s.power.state = .ready →
    s.h.wait = .barrier d va (.home la) p acq broken → s.h.waits = true → s.h.preempt = none → s.h.dbg.haltReq = false →
    let x := barrierOf (s.mem.read la 64)
    let wakes (v : Word) : Prop := ∃ t, exec (.barrierWake s.cur) s = .next t ∧ Commits s t d v ∧ { t with harts := s.harts } = s
      ∧ t.h.task.pending = none
    (broken = true → wakes (0 - 1)) ∧ (broken = false → p.toNat < x.phase + x.dist → wakes (BitVec.ofNat 64 x.phase)))

/-- R269 to R271: wl.cnt gives TAIL - HEAD; wl.push and wl.dins append their values in order, one after the other, and give how many;
one append puts its value into the slot of TAIL and steps TAIL, unless the list is full; wl.dins first sets the value's bit of the
bitmap, and appends nothing where it was set; wl.popb moves min(M, length) entries from the head to its destination, and of the spill
those that then belong in the ring. -/
def Obligations.WorkLists : Prop :=
  ∀ (s : State) (d a b c : BitVec 5) (r : Bool) (e : BitVec 2) (la : Nat),
    let x := workListOf (s.mem.read la 64)
    let u := atCommit s
    let base := (s.h.rx b).toNat
    let n := (s.h.rx c).toNat
    let vi := s.h.task.vi
    let gives (i : Instr) (v : Word) (m : Memory) : Prop := ∃ t, exec i s = .next t ∧ Commits s t d v ∧ t.mem = m
    Calm s → NothingOut s → objectHome s (s.h.rx a).toNat 64 64 r = .ok (.home la) → x.malformed = false →
    gives (.wlCnt d a r e) (BitVec.ofNat 64 (x.tail - x.head)) s.mem
    ∧ (n ≤ 4096 →
      (missingValue u base n 0 = none →
        let z (dedup : Bool) := appendFrom base vi (.home la) dedup n 0 0 u
        gives (.wlPush d a b c r e) (z false).2 (z false).1.mem ∧ gives (.wlDins d a b c r e) (z true).2 (z true).1.mem)
      ∧ (∀ spots v w, popSpots u base n 0 [] = (spots, none) →
        let k := min n (x.tail - x.head)
        let first := x.head + max x.rcap k
        popTo x vi x.head (spots.take k) u = .ok v → refillRing x vi (min x.tail (x.head + k + x.rcap) - first) first v = .ok w →
        gives (.wlPopb d a b c r e) (BitVec.ofNat 64 k) (w.writeHome none (la + 0x18) (x.head + k) 8).mem)
      ∧ (∀ dst src spill ring : Nat → Nat, Quiet s →
        let k := min n (x.tail - x.head)
        let first := x.head + max x.rcap k
        let moved := min x.tail (x.head + k + x.rcap) - first
        let may (y : Nat) : Prop := (∃ i < k, inside (dst i) 8 y) ∨ ∃ j < moved, inside (ring j) 8 y
        let apart (p q : Nat) : Prop := p + 8 ≤ q ∨ q + 8 ≤ p
        (∀ i < n, OneHome (checkSpots u ((base + 8 * i) % 2 ^ 64) 8 (writing false)) (dst i) 8) →
        (∀ i < k, Reached u vi (x.entry (x.head + i)) 8 true may (src i) ∧ (dst i + 8 ≤ la ∨ la + 64 ≤ dst i)
          ∧ (∀ j < k, apart (dst i) (src j) ∧ (i ≠ j → apart (dst i) (dst j))) ∧ ∀ j < moved, apart (dst i) (spill j) ∧ apart (dst i) (ring j)) →
        (∀ j < moved, Reached u vi (x.sbase + 8 * ((first + j) % x.scap)) 8 true may (spill j)
          ∧ Reached u vi (x.base + 8 * ((first + j) % x.rcap)) 8 false may (ring j) ∧ (ring j + 8 ≤ la ∨ la + 64 ≤ ring j)
          ∧ ∀ i < moved, apart (ring j) (spill i) ∧ (i ≠ j → apart (ring j) (ring i))) →
        ∃ t, exec (.wlPopb d a b c r e) s = .next t ∧ Commits s t d (BitVec.ofNat 64 k)
          ∧ (∀ i < k, t.mem.read (dst i) 8 = s.mem.read (src i) 8) ∧ (∀ j < moved, t.mem.read (ring j) 8 = s.mem.read (spill j) 8)
          ∧ t.mem.read (la + 0x18) 8 = x.head + k ∧ ∀ y, ¬may y → ¬inside (la + 0x18) 8 y → t.mem.byte y = s.mem.byte y))
    ∧ (∀ v ea be : Nat, Quiet s → n = 1 → arrayValue u base 0 = .ok v →
      let ends (i : Instr) (cause : BitVec 8) : Prop := gives i (0 - BitVec.ofNat 64 (cause.toNat * 2 ^ 48)) s.mem
      let full := x.rcap + x.scap ≤ x.tail - x.head
      let leaves (i : Instr) (w : Word) (m : Memory) : Prop := ∃ t, exec i s = .next t ∧ Commits s t d w ∧ ∀ y, t.mem.byte y = m.byte y
      let appended (m : Memory) : Memory := (m.write ea v 8).write (la + 0x20) (x.tail + 1) 8
      let byte := (s.mem.byte be).toNat
      let outside := x.dbase = 0 ∨ x.drange ≤ v
      (full → ends (.wlPush d a b c r e) Cause.wlSpillFull)
      ∧ (outside → ends (.wlDins d a b c r e) Cause.bound) ∧ (¬outside → full → ends (.wlDins d a b c r e) Cause.wlSpillFull)
      ∧ (¬full → Reached u vi (x.entry x.tail) 8 false (fun y => y = be ∨ inside ea 8 y) ea →
        leaves (.wlPush d a b c r e) 1 (appended s.mem)
        ∧ (¬outside → Reached u vi (x.dbase + v / 8) 1 true (fun _ => False) be →
          (byte.testBit (v % 8) = true → gives (.wlDins d a b c r e) 0 s.mem)
          ∧ (byte.testBit (v % 8) = false → Reached u vi (x.dbase + v / 8) 1 false (fun _ => False) be →
            leaves (.wlDins d a b c r e) 1 (appended (s.mem.setByte be (BitVec.ofNat 8 (byte + 2 ^ (v % 8)))))))))
    ∧ (∀ (dedup : Bool) (k j ins v : Nat) (w w' : State) (new : Bool), arrayValue w base j = .ok v →
      (appendValue w vi (.home la) dedup v = .ok (w', new) →
        appendFrom base vi (.home la) dedup (k + 1) j ins w = appendFrom base vi (.home la) dedup k (j + 1) (ins + new.toNat) w')
      ∧ ∀ cause, appendValue w vi (.home la) dedup v = .cause cause →
        appendFrom base vi (.home la) dedup (k + 1) j ins w = (w, 0 - BitVec.ofNat 64 (cause.toNat * 2 ^ 48 + j)))
    ∧ (x.entry x.tail = if x.tail < x.head + x.rcap then x.base + 8 * (x.tail % x.rcap) else x.sbase + 8 * (x.tail % x.scap))
    ∧ (x.rcap + x.scap ≤ x.tail - x.head → ∀ v, appendValue s vi (.home la) false v = .cause Cause.wlSpillFull)
    ∧ (x.tail - x.head < x.rcap + x.scap → ∀ v w, deviceStore s s.h.owner vi (x.entry x.tail) v 8 = .ok w →
        appendValue s vi (.home la) false v = .ok (w.writeHome none (la + 0x20) (x.tail + 1) 8, true))

/-- R278, R279, R286 to R290: task.dep adds to a join counter; task.spawn counts the child on its counter and queues its slot, or
gives QUEUE_FULL; task.join leaves its continuation on the counter and decrements it, and task.exit signals the task's end;
both free the hart slot. The model's own choices: a queue whose descriptor cannot be read counts as full (log entry 24), and a join gives
back the task's locks (25). -/
def Obligations.TaskFunctions : Prop :=
  ∀ (s : State) (d a b : BitVec 5) (cc : BitVec 4) (r : Bool) (e : BitVec 2) (la : Nat),
    let u := atCommit s
    let t0 := s.h.task
    let va := s.h.rx a
    let n := if b = 0 then 1 else (s.h.rx b).toNat
    let jp := s.h.rx (BitVec.ofNat 5 (2 * cc.toNat))
    let ql := (s.h.rx (BitVec.ofNat 5 (2 * cc.toNat + 1))).toNat
    let q := ql % 256
    let l := ql / 256 % 8
    let k := t0.spawnk + 1
    let frees (i : Instr) (m : Memory) : Prop := ∃ t, exec i s = .next t ∧ (t.hart s.cur).live = false ∧ t.mem = m
      ∧ ∀ x ∈ t.links, x.agent ≠ s.cur
    Calm s → NothingOut s → Quiet s →
    (1 ≤ n → n ≤ 2 ^ 32 → objectHome u va.toNat 192 64 false = .ok (.home la) →
      let v := (s.mem.read la 8 + n) % 2 ^ 64
      ∃ t, exec (.taskDep d a b) s = .next t ∧ Commits s t d (BitVec.ofNat 64 v) ∧ t.mem = s.mem.write la v 8)
    ∧ (ql < 2 ^ 11 → t0.level < l → (hwQueue s t0.vi q).isSome = true → va.toNat % 4 = 0 → k < 2 ^ 32 →
      (jp = 0 ∨ objectHome u jp.toNat 192 64 r = .ok (.home la)) →
      ∀ desc, queueDesc u t0.vi q = some desc →
      let counted := if jp = 0 then u else u.writeHome none la (s.mem.read la 8 + 1) 8
      let slot := newSlot va (s.h.rx b) jp q l 0 (childPath t0.lpath l k) t0.start
      (∀ w, objectHome u ((desc.rbase + 128 * (desc.tail % desc.rcap)) % 2 ^ 64) 128 128 r = .ok w → desc.tail - desc.head ≠ desc.rcap →
        ∀ x, pushSlot counted t0.vi q slot 0 t0.root = some x →
          ∃ t, exec (.taskSpawn d a b cc r e) s = .next t ∧ Commits s t d (BitVec.ofNat 64 k) ∧ t.mem = x.mem ∧ t.h.task.spawnk = k)
      ∧ (desc.tail - desc.head = desc.rcap → pushSlot counted t0.vi q slot 0 t0.root = none →
          ∃ t, exec (.taskSpawn d a b cc r e) s = .next t ∧ Commits s t d (0 - BitVec.ofNat 64 (Cause.queueFull.toNat * 2 ^ 48))
            ∧ t.mem = s.mem ∧ t.h.task = t0))
    ∧ ((∀ x ∈ t0.ctab, x.2.complete = true) →
      (objectHome u va.toNat 192 64 r = .ok (.home la) →
        ((slotSpots u va.toNat).head?.map fun p => u.peek p.loc 8).getD 0 = 0 →
        let slot := newSlot (s.h.rx b) t0.frame t0.joinp t0.queue t0.level t0.spawnk t0.lpath t0.start
        let w := (writeSpots u u.h.owner (slotSpots u va.toNat) (slotImage slot)).writeHome none (la + 0x10) t0.seq 8
        let note : SlotNote := { vi := t0.vi, queue := 256, entry := va.toNat, status := 0, root := t0.root }
        let others := w.notes.filter fun x => !(x.vi == t0.vi && x.queue == 256 && x.entry == va.toNat)
        let left := { w with notes := note :: others }
        frees (.taskJoin a b r e) (decrement chainFuel (dropLocks left s.cur) t0.vi t0.id t0.queue va none).mem)
      ∧ (let v := dropLocks u s.cur
        NothingOut v → frees .taskExit (signalEnd v v.h.task none).mem))

/-! ## Events -/

/-- R342, R344 to R346: trc.mark records a mark, trc.latch and LATCH_N request a latch at the next multiple of 1,024 ns that is
2,048 ns away, or join a pending one, trc.ctrr waits for the latches of its core and reads shadows, a latch moves counters into
shadows, and a sample that falls due writes its record into the trace ring, or counts it as lost. The
model's own choices: when a sample falls due, and its PC and class (log entry 39), and a latch is taken at the first step at which TIME
has reached its time (45). -/
def Obligations.TraceFunctions : Prop :=
  (∀ (s : State) (d a b : BitVec 5),
    let at_ := match s.latches.find? fun l => decide (s.time.toNat < l.time) with
      | some l => l.time
      | none => (s.time.toNat + 2048 + 1023) / 1024 * 1024
    let vi := s.h.task.vi
    let num := (s.h.rx a).toNat
    (s.h.dbg.trace = false → ∃ t, exec (.trcMark a b) s = .next t ∧ Wrote s t 0 0 (s.h.pc + 4))
    ∧ (let u := traceRecord s s.cur 6 ((s.h.rx b).setWidth 8) (s.h.rx a) s.h.pc
      ∃ t, exec (.trcMark a b) s = .next t ∧ t.mem = u.mem ∧ t.h.dbg = u.h.dbg ∧ (∀ r, t.h.rx r = s.h.rx r) ∧ t.h.pc = s.h.pc + 4)
    ∧ (∃ t, exec (.trcLatch d) s = .next t ∧ { t with harts := s.harts, latches := s.latches } = s
      ∧ t.latches = s.latches ++ [{ time := at_, vi := if vi = 0 then none else some vi }]
      ∧ (∀ r, t.h.rx r = if r = d ∧ d ≠ 0 then BitVec.ofNat 64 at_ else s.h.rx r) ∧ t.h.pc = s.h.pc + 4
      ∧ ∀ n, n ≠ s.cur → t.hart n = s.hart n)
    ∧ (s.power.state = .ready → exec .latchN s = .next { s with latches := s.latches ++ [{ time := at_, vi := none }] })
    ∧ (coreOfId s vi (s.h.rx b).toNat = none → Gives s d (.trcCtrr d a b) (-1))
    ∧ (∀ core, coreOfId s vi (s.h.rx b).toNat = some core →
      ((∃ l ∈ s.latches, l.coversCore s core = true) → exec (.trcCtrr d a b) s = .next s)
      ∧ ((∀ l ∈ s.latches, l.coversCore s core = false) →
        (num < 0x190 ∨ 0x1AF < num → Gives s d (.trcCtrr d a b) (-1))
        ∧ (0x190 ≤ num → num < 0x1A0 → Gives s d (.trcCtrr d a b) (Sparse.get 0 (s.core core).shadow (num - 0x80)))
        ∧ (∀ x : Sparse SharedCounters × Nat,
          (0x1A0 ≤ num ∧ num < 0x1A8 ∧ x = (s.clusters, 16)) ∨ (0x1A8 ≤ num ∧ num < 0x1B0 ∧ x = (s.dies, 256)) →
          let shadow := Sparse.get 0 (Sparse.get {} x.1 (core / x.2)).shadow (num % 8)
          let holds := vi = 0 ∨ ∀ k < x.2, (s.vi vi).hasCore (core / x.2 * x.2 + k) = true
          (holds → Gives s d (.trcCtrr d a b) shadow) ∧ (¬holds → Gives s d (.trcCtrr d a b) 0)))))
  ∧ (∀ (s : State) (i : Nat) (l : Latch), s.power.state = .ready → s.latches[i]? = some l → l.time ≤ s.time.toNat →
    let covered (k : Nat) : Prop := ∃ x ∈ s.latches, x.time = l.time ∧ x.coversCore s k = true
    ∃ t, exec (.latchTake i) s = .next t ∧ t.latches = (s.latches.filter fun x => x.time != l.time) ∧ t.mem = s.mem
      ∧ (∀ n, covered (n / 4) → let c := (s.hart n).counters
          let g (k : Nat) := Sparse.get 0 (t.hart n).counters.shadow k
          g 0x100 = c.slotcyc ∧ g 0x101 = c.beats ∧ g 0x102 = c.arrcyc ∧ g 0x103 = c.strips ∧ g 0x104 = c.trims ∧ g 0x105 = c.rewinds)
      ∧ (∀ k < s.build.cores, covered k → (t.core k).ltime = BitVec.ofNat 64 l.time ∧ (t.core k).lseq = (s.core k).lseq + 1
          ∧ ∀ j < 8, Sparse.get 0 (t.core k).shadow (0x110 + j) = Sparse.get 0 (s.core k).ccnt j)
      ∧ (∀ k, ¬covered k → t.core k = s.core k) ∧ ∀ n, ¬covered (n / 4) → t.hart n = s.hart n)
  ∧ (∀ (s : State) (n : Nat) (c : BitVec 2), s.power.state = .ready →
    let h := s.hart n
    let p := h.dbg.sper.toNat
    let d : Debug := { h.dbg with sampledAt := BitVec.ofNat 64 ((h.dbg.sampledAt.toNat / p + 1) * p) }
    let w := s.setHart n { h with dbg := d }
    let lost := w.setHart n { h with dbg := { d with trlost := d.trlost + 1 } }
    let va := d.trbase.toNat + 48 * (d.trtail.toNat % d.trcap.toNat)
    let class_ := (h.slipClass.getD c.toNat) % 256
    let record := s.time.toNat + h.strip.saddr.toNat * 2 ^ 64 + h.strip.sord.toNat * 2 ^ 128
      + min h.strip.gvl.toNat (2 ^ 32 - 1) * 2 ^ 192 + hartIdFor s h.task.vi n % 2 ^ 16 * 2 ^ 224 + 7 * 2 ^ 240 + class_ * 2 ^ 248
      + h.unfinished.toNat * 2 ^ 320
    (sampleDue h = true → ∃ t, exec (.traceSample n c) s = .next t
      ∧ (d.trcap = 0 → t = w)
      ∧ (d.trcap ≠ 0 → d.trtail - d.trhead = d.trcap → t = lost)
      ∧ (d.trcap ≠ 0 → d.trtail - d.trhead ≠ d.trcap →
        (∀ u, deviceStore w (.device h.task.vi) h.task.vi va record 48 = .ok u →
          t = u.setHart n { u.hart n with dbg := { (u.hart n).dbg with trtail := d.trtail + 1 } })
        ∧ ((∀ u, deviceStore w (.device h.task.vi) h.task.vi va record 48 ≠ .ok u) → t = lost)))
    ∧ (sampleDue h = false → exec (.traceSample n c) s = .next s))

/-- R42, R75, R208, R263, R279, R328: the events that end a wait: packed lines arrive, one element group at a time, lock words become
free or a request takes the hart first, idle ends, a held continuation finds room, a code page is filled, and the host answers a
page request or does not. The model's own choices: Success drops the page's entry of the translation cache (log entry 28), and the
100 ms are counted on the device's own clock (4). -/
def Obligations.WaitEvents : Prop :=
  ∀ (s : State), s.power.state = .ready →
    (∀ n, ((s.hart n).gathers = [] → exec (.idxLineArrival n) s = .next s)
      ∧ ∀ g rest, (s.hart n).gathers = g :: rest →
        let group := max 1 (2048 / g.width)
        let next := (g.from_ / group + 1) * group
        exec (.idxLineArrival n) s = .next (s.setHart n { s.hart n with
          gathers := (if next < g.to_ then [{ g with from_ := next }] else []) ++ rest }))
    ∧ (∀ n l woken since, (s.hart n).wait = .idle l woken since → (s.hart n).waits = true →
      (woken = true → ∃ t, exec (.idleWake n) s = .next t ∧ WaitIs s t n .run)
      ∧ (65536 ≤ (s.cycle - since).toNat → ∃ t, exec (.idleTimeout n) s = .next t ∧ WaitIs s t n .run)
      ∧ (woken = false → exec (.idleWake n) s = .next s)
      ∧ ((s.cycle - since).toNat < 65536 → exec (.idleTimeout n) s = .next s))
    ∧ (∀ w a rest base idx, s.h.wait = .lock ((w, .home a) :: rest) none base idx → s.h.waits = true →
      (s.mem.read a 8 ≠ 0 → s.h.preempt = none → s.h.dbg.haltReq = false →
        ∃ t, exec (.lockWordTake s.cur) s = .next t ∧ WaitIs s t s.cur s.h.wait)
      ∧ (∀ p, s.mem.read a 8 ≠ 0 → s.h.preempt = some p → ∃ t, exec (.lockWordTake s.cur) s = .next t
        ∧ t.h.wait = .save false p.swc p.since ∧ t.h.task.locks = [] ∧ t.h.pc = s.h.pc ∧ t.h.vstart = 0)
      ∧ (s.mem.read a 8 = 0 → rest = [] → Quiet s → s.h.preempt = none → s.h.dbg.haltReq = false →
        ∃ t, exec (.lockWordTake s.cur) s = .next t ∧ t.mem = s.mem.write a (holderValue s s.cur) 8
          ∧ t.h.task.locks = s.h.task.locks ++ [w] ∧ t.h.wait = .run ∧ t.h.pc = s.h.pc + 4 ∧ t.h.vstart = 0
          ∧ t.h.ckpt.pc = s.h.pc + 4 ∧ ∀ r, t.h.rx r = s.h.rx r))
    ∧ (∀ i h, s.held[i]? = some h →
      let push := pushSlot s h.vi (slotField h.slot 0x18 2) h.slot h.status h.root
      (push = none → exec (.joinPushRetry i) s = .next s)
      ∧ ∀ x, push = some x → exec (.joinPushRetry i) s = .next { x with held := x.held.eraseIdx i })
    ∧ (∀ o page bytes, s.objects.find? (fun x => x.id == o.id) = some o → page ∈ o.filling → bytes.length = 65536 →
      digest bytes = o.hashes.getD page 0 →
      ∃ t, exec (.codeFillComplete o.id page (some bytes)) s = .next t ∧ { t with objects := s.objects, harts := s.harts } = s
        ∧ t.objects = (s.objects.map fun x => if x.id = o.id then
            { x with filled := page :: x.filled, filling := x.filling.filter (· != page), words := pageWords x.words page bytes }
          else x)
        ∧ ∀ n, t.hart n = if (s.hart n).wait = .fetch o.id page then { s.hart n with wait := .run } else s.hart n)
    ∧ (∀ va since ea, s.h.wait = .parked va true since ea → s.h.live = true → (∀ c ∈ s.harts, ∀ v w x, c.2.wait ≠ .parked v false w x) →
      (∃ t, exec (.pageRequestResponse s.cur true) s = .next t ∧ t.h.wait = .run ∧ t.h.pc = s.h.pc ∧ (∀ r, t.h.rx r = s.h.rx r)
        ∧ t.mem = s.mem ∧ ∀ e ∈ t.atc, ¬(e.vi = s.h.task.vi ∧ e.base ≤ va.toNat ∧ va.toNat < e.base + e.size))
      ∧ (CanTrap s → ∀ i, i = Instr.pageRequestResponse s.cur false
          ∨ (i = .pageRequestTimeout s.cur ∧ 10 ^ 8 ≤ (BitVec.ofNat 64 s.uptime - since).toNat) →
        ∃ t, exec i s = .next t ∧ t.h.trap.tcause = Cause.pageRequestFailed ∧ t.h.trap.tpc = s.h.pc ∧ t.h.trap.tvstart = s.h.vstart
          ∧ t.h.trap.tval = ea ∧ t.h.pc = s.h.trap.tvec ∧ t.h.trap.handler = true ∧ t.h.wait = .run ∧ ∀ r, t.h.rx r = s.h.rx r))

/-- R163, R173, R178, R183, R331 to R335, R339: the array takes the oldest entry of the hart that it serves with ZW and MVL as they
stand, and retires it into the tile once every span core has done its share; a lane check passes or fails its interval; Teasel
corrects a word, of which a single-bit repeat inside the window is counted, or loses a block; each failure is counted, for
counts that stay below THRESH. The model's own choice (log entry 31): the row is fixed when the array takes the entry, the entry retires
when every span core has reported, and a correction of the same word inside the window is what counts as a repeat. -/
def Obligations.ArrayAndChecks : Prop :=
  ∀ (s : State), s.power.state = .ready →
    (∀ core n e rest, arrayUsers s core = [n] → (∀ c ∈ (s.hart n).span, arrayFree s c = true) → (s.hart n).array = e :: rest →
      e.accepted = false → e.unfold = none →
      ∃ t, exec (.arrayAccept core) s = .next t ∧ (t.hart n).matrix = (s.hart n).matrix ∧ t.mem = s.mem
        ∧ (t.hart n).array = { e with
            accepted := true, zw := Sparse.get 0 (s.hart n).matrix.zw e.tile, mvl := (s.hart n).matrix.mvl.toNat, padding := []
            rows := (s.hart n).span.map fun c => (s.core c).arrayOps % max 1 (s.hart n).matrix.mvl.toNat } :: rest
        ∧ { t.hart n with array := (s.hart n).array, counters := (s.hart n).counters } = s.hart n ∧ ∀ k, k ≠ n → t.hart k = s.hart k)
    ∧ (∀ core n e rest, arrayHolder s core = some n → (s.hart n).array = e :: rest → (∃ c ∈ (s.hart n).span, c ≠ core ∧ c ∉ e.reported) →
      exec (.arrayRetire core false) s = .next (s.setHart n { s.hart n with array := { e with reported := core :: e.reported } :: rest }))
    ∧ (∀ core n e rest, arrayHolder s core = some n → (s.hart n).array = e :: rest → (∀ c ∈ (s.hart n).span, c = core ∨ c ∈ e.reported) →
      let out := arrayEffect e (s.hart n).span.length (s.hart n).matrix.tiles
      ∃ t, exec (.arrayRetire core false) s = .next t ∧ (t.hart n).array = rest ∧ (t.hart n).matrix.tiles = out.tiles ∧ t.mem = s.mem
        ∧ (∀ z, Sparse.get 0 (t.hart n).matrix.zw z = if z = e.tile ∧ e.replaced = false then
            Sparse.get 0 (s.hart n).matrix.zw z ||| (if out.ovf then 1 <<< 63 else 0) ||| (if out.loss then 1 <<< 62 else 0)
          else Sparse.get 0 (s.hart n).matrix.zw z)
        ∧ (t.hart n).strip = { (s.hart n).strip with fflags := (s.hart n).strip.fflags ||| (if out.nv then Flags.nv else 0) }
        ∧ (∀ r, (t.hart n).rx r = (s.hart n).rx r) ∧ ∀ k, k ≠ n → t.hart k = s.hart k)
    ∧ (∀ n q lane rest, (s.hart n).marks.checks = (q, lane) :: rest →
      let core := (s.hart n).span.getD q 0
      (∃ t, exec (.cinchLaneCheck n false) s = .next t ∧ { t with harts := s.harts } = s ∧ (∀ k, k ≠ n → t.hart k = s.hart k)
        ∧ t.hart n = { s.hart n with marks := { (s.hart n).marks with checks := rest } })
      ∧ (s.events = [] → 2 ≤ s.relcfg.lasting → (s.hart n).marks.failed = none →
        ∃ t, exec (.cinchLaneCheck n true) s = .next t ∧ t.mem = s.mem ∧ t.oos = s.oos
          ∧ t.events = [(.lane core lane, s.uptime), (.cinchLane core, s.uptime)]
          ∧ t.hart n = { s.hart n with marks := { (s.hart n).marks with checks := rest, failed := some .mismatch } }))
    ∧ exec (.teaselScrub []) s = .next s
    ∧ (∀ f : BlockFinding, f.words = [] → f.cols = [] → (∀ h, f.site ≠ .liveScalar h ∧ f.site ≠ .checkpointWord h) →
      exec (.teaselBlockRepair f) s = .next s ∧ exec (.teaselScrub [f]) s = .next s)
    ∧ (∀ (f : BlockFinding) (w block : Nat), f.site = .scratch f.core block → f.words = [w] →
      let u : FaultUnit := .ram f.core f.macroUnit
      let again := ∃ c ∈ s.corrections, c.1 = u ∧ c.2.1 = f.block * 64 + w ∧ s.uptime ≤ c.2.2 + s.relcfg.span
      let counts (events : List (FaultUnit × Nat)) : Prop := ∀ i ∈ [Instr.teaselBlockRepair f, .teaselScrub [f]], ∃ t, exec i s = .next t
        ∧ { t with cores := s.cores, corrections := s.corrections, events := s.events } = s
        ∧ t.corrections = (u, f.block * 64 + w, s.uptime) :: s.corrections ∧ t.events = events
        ∧ ∀ k, { t.core k with ccnt := (s.core k).ccnt } = s.core k
      (¬again ∨ f.cols.eraseDups.length ≠ 1 → counts s.events)
      ∧ (again → f.cols.eraseDups.length = 1 → s.events = [] → 2 ≤ s.relcfg.lasting → counts [(u, s.uptime)]))
    ∧ (∀ (f : BlockFinding) (u v c e block : Nat), f.site = .dieCache block → f.words = [u, v] → f.cols = [c, e] → u ≠ v → c ≠ e →
      s.events = [] → 2 ≤ s.relcfg.lasting → ∀ i ∈ [Instr.teaselBlockRepair f, .teaselScrub [f]],
        ∃ t, exec i s = .next t ∧ t.harts = s.harts ∧ (∀ x, t.mem.byte x = s.mem.byte x)
          ∧ (∀ x, s.mem.modified x = true → x / 512 = block → t.mem.poisoned x 1 = true)
          ∧ (∀ x, (s.mem.modified x = false ∨ x / 512 ≠ block) → t.mem.poisoned x 1 = s.mem.poisoned x 1))

/-- R57, R274, R276, R282, R283, R285, R296, R299, R301, R314, R316: a core issues for the ready hart that issued least recently; the
distributor starts what it chooses, a start sets PC, x3, x4, x10 and the task's number, slices and PRE_WIN raise requests, a save
frees the slot and keeps the context, the sequencer chooses by priority, virtual time and number; LREC names a record, which the
launch unit judges, and KILLT and the end of a launch do as the port says. The model's own choices: which harts are ready and when the
launch unit has its turn (log entry 2), BUSY until then and the errata of a launch (34), the order in which the distributor tries slots
(35), and that a hart which never issued counts as least recent and the lower number goes first (80). -/
def Obligations.SchedulerEvents : Prop :=
  ∀ (s : State), s.power.state = .ready →
    (∀ core (ready : List Nat), (∀ m ∈ ready, m / 4 = core) →
      let issued := (s.core core).issued
      ((∃ m ∈ ready, (s.hart m).ready = true) ↔ (leastRecent s ready).isSome = true)
      ∧ ∀ n, leastRecent s ready = some n → n ∈ ready ∧ (s.hart n).ready = true
        ∧ (n ∉ issued ∨ ∀ m ∈ ready, (s.hart m).ready = true → m ∈ issued ∧ issued.idxOf n ≤ issued.idxOf m))
    ∧ (let u := dropBindings (leaveMask (takeTables s))
      (∀ w, (idleOrder u).findSome? (chooseFor u) = some w → (∀ v, makeRoom w v = w) → exec .distributorChoice s = .next w)
      ∧ ((idleOrder u).findSome? (chooseFor u) = none → (∀ v, makeRoom u v = u) → exec .distributorChoice s = .next u))
    ∧ (∀ n span slots (t : Task) pc args status, refusedRoot s t.root = none → codeObject s t.vi pc.toNat = none →
      let u := startTask s n span slots t pc args status
      let h := u.hart n
      h.live = true ∧ h.pc = pc ∧ h.rx 3 = args ∧ h.rx 4 = t.start.rtbase ∧ h.rx 10 = status.setWidth 64 ∧ h.span = span ∧ h.vstart = 0
        ∧ (∀ r, r ≠ 3 → r ≠ 4 → r ≠ 10 → h.rx r = 0) ∧ h.ckmask = t.start.ckmask &&& 0xFFFFFFFE
        ∧ h.task = { t with id := BitVec.ofNat 64 (s.vi t.vi).nextTask } ∧ (u.vi t.vi).nextTask = (s.vi t.vi).nextTask + 1
        ∧ h.ckpt.pc = pc ∧ h.trap = {} ∧ h.sb = [] ∧ ∀ c ∈ span, (u.core c).poolpart = t.start.poolpart)
    ∧ (∀ n d, queueDesc s (s.hart n).task.vi (s.hart n).task.queue = some d → (s.hart n).live = true → d.quantum ≠ 0 →
      d.quantum ≤ ((s.hart n).counters.slotcyc - (s.hart n).slice).toNat →
      (waitsForSlot s (s.hart n).task.vi (s.hart n).task.prio n = false →
        exec (.sliceEnd n) s = .next (s.setHart n { s.hart n with slice := (s.hart n).counters.slotcyc }))
      ∧ (waitsForSlot s (s.hart n).task.vi (s.hart n).task.prio n = true →
        exec (.sliceEnd n) s = .next (raiseRequest s n Cause.sliceEnd)))
    ∧ (∀ n, (∀ k, n / 4 * 4 ≤ k → k < n / 4 * 4 + 4 → (viSliceOver s k = true ↔ k = n)) →
      exec (.viSliceEnd n) s = .next (raiseRequest s n Cause.sliceEnd))
    ∧ (∀ n cause, (s.hart n).live = true → (s.hart n).preempt = none → (s.hart n).task.area.isSome = true →
      ((s.hart n).wait = .command → (raiseRequest s n cause).hart n = { s.hart n with wait := .save false cause s.cycle })
      ∧ ((s.hart n).wait = .run → ((raiseRequest s n cause).hart n).preempt.map (·.swc) = some cause))
    ∧ (∀ n p, (s.hart n).live = true → (s.hart n).preempt = some p →
      let passed := (s.vi (s.hart n).task.vi).preWin ≤ (s.cycle - p.since).toNat
      let begun := (s.hart n).answers ≠ [] ∨ (s.hart n).whole = true ∨ (s.hart n).committing = true ∨ (s.hart n).placing = true
      ((s.hart n).wait = .answer ∨ ¬passed ∨ ((s.hart n).wait = .run ∧ begun) → exec (.preWinExpiry n) s = .next s)
      ∧ ((s.hart n).wait = .run → ¬begun → (s.hart n).dbg.stop = none → passed →
        ∃ t, exec (.preWinExpiry n) s = .next t ∧ { t with harts := s.harts } = s ∧ (∀ k, k ≠ n → t.hart k = s.hart k)
          ∧ t.hart n = { s.hart n with wait := .save true p.swc p.since, preempt := none }))
    ∧ (∀ n b swc since area w, (s.hart n).live = true → (s.hart n).wait = .save b swc since → (s.hart n).task.area = some area →
      let done := (s.hart n).array = [] ∧ (s.hart n).gathers = [] ∧ (s.hart n).marks.checks = []
      (¬done → exec (.saveComplete n) s = .next s)
      ∧ (done → (s.hart n).committing = false → (s.hart n).marks.failed = none → (s.hart n).saveLoss b = none →
        (s.hart n).dbg.trace = false → writeArea s (s.hart n) b swc since area = .ok w →
        ∃ t, exec (.saveComplete n) s = .next t ∧ (t.hart n).live = false ∧ (∀ l ∈ t.links, l.agent ≠ n)
          ∧ ∃ k ∈ t.saves, k.vi = (s.hart n).task.vi ∧ k.task = (s.hart n).task.id ∧ k.sb = (s.hart n).sb ∧ k.area = area))
    ∧ (∀ core ready, let cands := sequencerCandidates s core ready
      cands ≠ [] → (s.core core).chosen = none →
      ∃ t, exec (.vectorSequencerChoice core ready) s = .next t ∧ { t with cores := s.cores } = s
        ∧ ∃ n ∈ cands, (t.core core).chosen = some n ∧ (t.core core).used = 0 ∧ ∀ m ∈ cands,
          let p (k : Nat) := (s.hart k).task.prio
          let v (k : Nat) : Rat := Sparse.get 0 (t.core core).vh k
          p m < p n ∨ (p m = p n ∧ (v n < v m ∨ (v n = v m ∧ n ≤ m))))
    ∧ (∀ l, s.launches.find? (fun x => x.id == l.id) = some l → l.closed = false → recTasks l.record ≤ l.supplied → l.supplied ≤ l.ended →
      (∀ r ∈ s.out, r.kind ≠ 3) → s.posted = [] → recField l.record 0x18 8 = 0 →
      exec (.launchEnd l.id) s = .next
        { s with launches := s.launches.map fun x => if x.id = l.id then { x with closed := true } else x })
    ∧ (∀ vi (a : BitVec 64), exec (.lrec vi a) s
      = .next (s.setVi vi (if (s.vi vi).lrec = none then { s.vi vi with lrec := some a } else { s.vi vi with dropped := true })))
    ∧ (∀ vi rest, s.agenda = .judge vi :: rest → let u := dueLatches (tick { s with agenda := rest })
      step s = closeTurn u (.next (judgeSubmission u vi)))
    ∧ (∀ vi (a : BitVec 64), (s.vi vi).lrec = some a →
      let u := s.setVi vi { s.vi vi with lrec := none }
      let t := judgeSubmission s vi
      let port (st : BitVec 8) : State := u.setVi vi { u.vi vi with status := st }
      (a.toNat % 64 ≠ 0 → t = port 14)
      ∧ (∀ img, a.toNat % 64 = 0 → deviceRead u vi a.toNat 256 = .ok img →
        let r := recordOf img
        (entryRefused u vi (recEntry r) = true → t = port 11)
        ∧ (entryRefused u vi (recEntry r) = false → launchOk u vi r = false → t = port 10)
        ∧ (∀ d, entryRefused u vi (recEntry r) = false → launchOk u vi r = true → queueDesc u vi (recQueue r) = some d →
          (d.tail - d.head = d.rcap → t = port 13)
          ∧ ∀ v w, d.tail - d.head ≠ d.rcap → deviceWrite u vi (d.va + 0x20) (recField r 0x2A 2) 2 = .ok v →
            pushSlot v vi (recQueue r) (launchSlot a.toNat (recQueue r)) 0 (some s.nextLaunch) = some w →
            ∃ l, t.launches = w.launches ++ [l] ∧ l.id = s.nextLaunch ∧ l.vi = vi ∧ l.record = r
              ∧ l.errata = launchErrata u vi r ∧ l.supplied = 0 ∧ t.nextLaunch = s.nextLaunch + 1 ∧ t.mem = w.mem
              ∧ (t.vi vi).status = 0 ∧ (t.vi vi).oosSeen = w.oos ∧ (t.vi vi).accepted = (w.vi vi).accepted + 1)))
    ∧ (∀ vi task n, hartOfTask s vi task = some n → ∃ t, exec (.killt vi task) s = .next t ∧ (t.hart n).live = false
      ∧ ∀ l ∈ t.links, l.agent ≠ n)

/-- R238, R256, R257, R325 to R327, R330, R387: completions hand their values to what waits; a host write reaches its home; a peer's
element is admitted by a window and performed, or answered PAGE_PERM; an unreachable peer gives POISON; invalidations drop what
they cover and complete when no covered access is pending. The model's own choices: a read that the host answers as unsupported is
PAGE_PERM, and its instruction is performed again (log entry 27), a completed translation is cached where it grants what a waiter needs
(28), and an invalidation takes effect on the caches when it begins (29). -/
def Obligations.OutsideEvents : Prop :=
  ∀ (s : State), s.power.state = .ready →
    (∀ (r : ExtReq) (n vi addr v : Nat), requestOf s r.id = some r → r.owner = .hart n → (s.hart n).live = true →
      (s.hart n).wait = .answer → r.kind = 0 → r.op = 0 →
      let gives (i : Instr) (cause : BitVec 8) (v : Nat) : Prop := ∃ t, exec i s = .next t
        ∧ Answers s t r n { kind := 0, loc := r.loc, bytes := r.bytes, value := v % 2 ^ (8 * r.bytes), cause }
      (r.loc = .host vi addr → gives (.hostPortCompletion r.id (.data v)) 0 v
        ∧ gives (.hostPortCompletion r.id .unsupported) Cause.pagePerm 0)
      ∧ (r.loc = .peer vi addr → gives (.peerElementCompletion r.id (some v)) 0 v
        ∧ gives (.peerElementCompletion r.id none) Cause.pagePerm 0 ∧ gives (.peerTimeout r.id) Cause.poison 0))
    ∧ (∀ (r : ExtReq) (vi page size host : Nat) (cr cw : Bool), pageWaiters s vi page = [r] → page % 4096 = 0 → 12 ≤ size → size ≤ 30 →
      let run := exec (.atsTranslationCompletion vi page size host cr cw) s
      let rest := s.out.filter fun x => x.id != r.id
      (r.op = 0 → (r.value.testBit 0 = true ∧ cr = true ∨ r.value.testBit 1 = true ∧ cw = true) →
        (∀ o ∈ r.owner :: r.also, ∃ n, o = .hart n ∧ (s.hart n).live = true ∧ (s.hart n).wait = .answer) →
        ∃ t, run = .next t ∧ { t with atc := s.atc, out := s.out, harts := s.harts } = s ∧ t.out = rest
          ∧ t.atc = { vi, base := page / 2 ^ size * 2 ^ size, size := 2 ^ size, host := host / 2 ^ size * 2 ^ size, canRead := cr
                      canWrite := cw } :: s.atc.take (atcCapacity - 1)
          ∧ ∀ n, t.hart n = if Owner.hart n ∈ r.owner :: r.also then { s.hart n with wait := .run } else s.hart n)
      ∧ (r.op = 1 → run = .next { s with out := rest ++ [{ r with id := s.nextReq, op := 0 }], nextReq := s.nextReq + 1 }))
    ∧ (∀ (a : Nat) (bytes : List (BitVec 8)), (∀ k < bytes.length, homeExists s.build (a + k) = true) → Quiet s →
      ∃ t, exec (.hostPostedWrite a bytes) s = .next t ∧ t.mem = s.mem.write a (bytesValue bytes) bytes.length)
    ∧ (∀ (package agent a v mask : Nat) (w : Word), a < 2 ^ 52 →
      let here := ∀ k < 8, homeExists s.build (a + k) = true
      let replies (cause : BitVec 8) (x : Nat) := s.replies ++ [Reply.peer package agent cause x]
      ((∀ c ∈ s.windows, c.2.admits package a 8 true false = false) →
        exec (.peerAccess package agent (.read 8) a) s = .next { s with replies := replies Cause.pagePerm 0 })
      ∧ ((∃ c ∈ s.windows, c.2.admits package a 8 true false = true) → here → s.mem.poisoned a 8 = false →
        exec (.peerAccess package agent (.read 8) a) s = .next { s with replies := replies 0 (s.mem.read a 8) })
      ∧ ((∃ c ∈ s.windows, c.2.admits package a 8 true true = true) → here → s.mem.poisoned a 8 = false →
        Quiet s → ∃ t, exec (.peerAccess package agent (.fadd w) a) s = .next t ∧ t.replies = replies 0 (s.mem.read a 8)
          ∧ t.mem = s.mem.write a ((s.mem.read a 8 + w.toNat) % 2 ^ 64) 8)
      ∧ ((∃ c ∈ s.windows, c.2.admits package a 8 false true = true) → here → Quiet s →
        let old := s.mem.read a 8
        ∃ t, exec (.peerAccess package agent (.write 8 v mask) a) s = .next t ∧ t.replies = replies 0 0
          ∧ t.mem = s.mem.write a (old - (old &&& mask) + (v &&& mask)) 8))
    ∧ (let unheld := s.saves = [] ∧ s.posted = [] ∧ ∀ c ∈ s.harts, (s.hart c.1).sb = [] ∧ (s.hart c.1).committing = false
        ∧ ∀ l k b x, (s.hart c.1).wait ≠ .lock l k b x
      (∀ (vi target page size : Nat) (sz : BitVec 2) (st2 : Bool),
      let begun (i : Inval) : State := { s with
        tlb := s.tlb.filter fun t => !i.covers t.vi t.base t.size
        atc := s.atc.filter fun e => !i.covers e.vi e.base e.size
        out := s.out.map (coverRequest i), invals := s.invals ++ [i]
        vis := (s.setVi i.vi { s.vi i.vi with atsEpoch := (s.vi i.vi).atsEpoch + 1 }).vis }
      let n := 2 ^ size
      let m := 2 ^ (match sz.toNat with | 0 => 12 | 1 => 16 | 2 => 21 | _ => 30)
      let inva := (s.vi vi).inva.toNat
      unheld →
      exec (.atsInvalidateRequest vi page size) s
        = .next (begun { port := none, vi, base := page / n * n, size := n, whole := false, stage2 := false })
      ∧ ((vi = 0 ∨ (st2 = false ∧ target = vi)) → (∀ i ∈ s.invals, i.port ≠ some vi) →
        exec (.tlbInvalidate vi target sz st2) s
          = .next (begun { port := some vi, vi := target, base := inva / m * m, size := m, whole := false, stage2 := st2 })
        ∧ exec (.tlbInvalidateVi vi target st2) s
          = .next (begun { port := some vi, vi := target, base := 0, size := 0, whole := true, stage2 := st2 }))
      ∧ (¬(vi = 0 ∨ (st2 = false ∧ target = vi)) → exec (.tlbInvalidate vi target sz st2) s = .next s
        ∧ exec (.tlbInvalidateVi vi target st2) s = .next s))
      ∧ ∀ (k : Nat) (i : Inval), unheld → s.invals[k]? = some i → accessPending s i = false →
      ∃ t, exec (.invalidationComplete k) s = .next t ∧ t.invals = s.invals.eraseIdx k
        ∧ { t with invals := s.invals, vis := s.vis } = s
        ∧ ∀ v, t.vi v = if i.port = some v then { s.vi v with invsDone := (s.vi v).invsDone + 1 } else s.vi v)

/-- R50, R344, R365, R367 to R371: the power manager, the clock, trips, OFF, bring-up and the management commands, each with its
whole effect; a load is answered with its status and an accepted object is there; an unload makes the fetches that wait for the object
begin again. The model's own choices: when the clock is calm (log entry 40), what OFF keeps and when the keys exist (41), a trip in FAULT
gives OFF (68), and what becomes of the fetches of an unloaded object (97). A reload of a refused object has no clause; no test meets the
premises of a load with status 0, which needs a signed image. -/
def Obligations.ManagementEvents : Prop :=
  (∀ (s : State) (watts : Nat) (js : List Int), s.power.state = .ready →
    let p := s.power
    let above := p.plim < watts ∨ ∃ j ∈ js, 105 < j
    (watts < p.plim → (∀ j ∈ js, j < 105) →
      exec (.powerManagerTick watts js) s = .next { s with power := { p with junctions := js, below := true } })
    ∧ (above → (∀ j ∈ js, j < 115) → ∃ t, exec (.powerManagerTick watts js) s = .next t ∧ { t with power := p } = s
      ∧ t.power.fcur = max 1500 (p.fcur - 50) ∧ t.power.calm = 0 ∧ t.power.below = false ∧ t.power.state = .ready)
    ∧ (¬above → ¬(watts < p.plim ∧ ∀ j ∈ js, j < 105) →
      exec (.powerManagerTick watts js) s = .next { s with power := { p with junctions := js, below := false, calm := 0 } })
    ∧ ((∃ j ∈ js, 115 ≤ j) → ∃ t, exec (.powerManagerTick watts js) s = .next t ∧ t.power.state = .fault ∧ t.power.alert = true
      ∧ (∀ n, (t.hart n).live = false) ∧ t.mem = s.mem)
    ∧ (10 ^ 6 ≤ p.calm → p.fcur < p.fmax → ∃ t, exec .clockStepUp s = .next t ∧ { t with power := p } = s
      ∧ t.power.fcur = min p.fmax (p.fcur + 50) ∧ t.power.calm = 0)
    ∧ (∃ t, exec .thermalTrip s = .next t ∧ t.power = { p with state := .fault, alert := true } ∧ (∀ n, (t.hart n).live = false)
      ∧ { t with power := p, harts := s.harts } = s)
    ∧ exec .tsync s = .next { s with time := p.timeset })
  ∧ (∀ (s : State) (r : BringUp) (nonce : BitVec 256) (v : BitVec 64) (w : BitVec 16 × BitVec 16),
    let off : State := { State.reset with
      build := s.build, agenda := s.agenda, free := s.free, cur := s.cur, steps := s.steps, replies := s.replies
      power := { State.reset.power with plim := s.build.powerLimit, boots := s.power.boots } }
    let p := s.power
    let say (x : Reply) : State := { s with replies := s.replies ++ [x] }
    exec .powerLoss s = .next off ∧ exec .reset s = .next off
    ∧ (p.state = .fault → exec .thermalTrip s = .next off) ∧ (p.state = .off → exec .thermalTrip s = .next s)
    ∧ (p.state = .off → bringUpFailure s.build r = none →
      exec (.wakeN r) s = .next { s with power := { p with state := .ready, boots := p.boots + 1 }, oos := failedOos r.failedCores, time := p.timeset })
    ∧ (∀ c, p.state = .off → bringUpFailure s.build r = some c →
      exec (.wakeN r) s = .next { s with
        power := { p with state := .fault, code := c, alert := true, boots := p.boots + 1 }
        oos := if c.toNat < 4 then s.oos else failedOos r.failedCores })
    ∧ (p.state ≠ .off → exec (.wakeN r) s = .next s)
    ∧ exec .status s = .next (say (.status p.state.number p.code p.fcur p.junctions))
    ∧ (p.state = .off → exec (.attest nonce) s = .next s ∧ exec .certs s = .next s ∧ exec (.timeset v) s = .next s
      ∧ exec (.power (some w)) s = .next s)
    ∧ (p.state ≠ .off → exec (.timeset v) s = .next { s with power := { p with timeset := v } }
      ∧ exec (.power none) s = .next (say (.power (BitVec.ofNat 16 p.plim) (BitVec.ofNat 16 p.fmax)))
      ∧ (let plim (z : Nat) : Nat := if z < 600 then 600 else min z s.build.powerLimit
        let fmax (z : Nat) : Nat := max 1500 (min z 3000)
        let clock (z : Nat) : Nat := min p.fcur (fmax z)
        (∃ t, exec (.power (some w)) s = .next t
          ∧ t.replies = s.replies ++ [.power (BitVec.ofNat 16 (plim w.1.toNat)) (BitVec.ofNat 16 (fmax w.2.toNat))]
          ∧ { t with power := p, replies := s.replies } = s
          ∧ ((p.state = .ready → ∀ x, p.written = some x → x.1 ≠ s.cycle) →
            t.power.plim = plim w.1.toNat ∧ t.power.fmax = fmax w.2.toNat ∧ t.power.fcur = clock w.2.toNat)
          ∧ ∀ a b, p.state = .ready → p.written = some (s.cycle, a, b) →
            t.power.plim = plim a ∧ t.power.fmax = fmax b ∧ t.power.fcur = min (clock w.2.toNat) (fmax b))
        ∧ ∀ v : BitVec 64, p.state = .ready → ∃ t, exec (.registerWrite .pwrcfg v) s = .next t ∧ { t with power := p } = s
          ∧ t.power.plim = plim (v.toNat % 2 ^ 16) ∧ t.power.fmax = fmax (v.toNat / 2 ^ 16 % 2 ^ 16)
          ∧ t.power.fcur = clock (v.toNat / 2 ^ 16 % 2 ^ 16)
          ∧ t.power.written = some (s.cycle, v.toNat % 2 ^ 16, v.toNat / 2 ^ 16 % 2 ^ 16))
      ∧ (p.hasKeys = true →
        let fw := Config.firmwareMeasurement p.boots
        let version := Config.securityVersion p.boots
        let body := [nonce.toNat, fw.toNat, version.toNat, Config.stepping.toNat, s.oos.toNat]
        exec (.attest nonce) s = .next (say (.attest nonce fw version Config.stepping s.oos (Config.rsaSign fw body) (Config.slhSign fw body)))
        ∧ exec .certs s = .next (say (.certs (Config.rsaCertificate fw) (Config.slhCertificate fw))))))
  ∧ (∀ (s : State) (vi : Nat) (img : List (BitVec 8)) (places : List Nat), s.power.state = .ready → reloads s vi img = none →
    let st := loadStatus s vi none img
    let h := headerOf img
    ∃ t, exec (.loadObject vi img places) s = .next t
      ∧ (st ≠ 0 → t = { s with replies := s.replies ++ [.load vi st 0] })
      ∧ (st = 0 → placesOk s img h places = false → t = s)
      ∧ (st = 0 → placesOk s img h places = true → t.replies = s.replies ++ [.load vi 0 s.nextObj] ∧ t.nextObj = s.nextObj + 1
        ∧ (t.objects = objectOf s s.nextObj vi img h places :: s.objects.filter fun o => o.id != s.nextObj)
        ∧ ∀ n, (∀ page, (s.hart n).wait ≠ .fetch s.nextObj page) → t.hart n = s.hart n))
  ∧ ∀ (s : State) (vi : Nat) (o : Object), s.power.state = .ready → s.objects.find? (fun x => x.id == o.id && x.vi == vi) = some o →
    let busy := o.state = .loaded ∧ ¬(o.harts s = [] ∧ o.savedAreas s = [])
    (busy → exec (.unloadObject vi o.id) s = .next { s with replies := s.replies ++ [.unload vi 12] })
    ∧ (¬busy → ∃ t, exec (.unloadObject vi o.id) s = .next t ∧ t.replies = s.replies ++ [.unload vi 0]
      ∧ (t.objects = s.objects.filter fun x => x.id != o.id) ∧ { t with objects := s.objects, replies := s.replies, harts := s.harts } = s
      ∧ ∀ n, ((∀ page, (s.hart n).wait ≠ .fetch o.id page) → t.hart n = s.hart n)
        ∧ ∀ page, (s.hart n).wait = .fetch o.id page → t.hart n = { s.hart n with wait := .run })

/-- R311, R313, R316, R317, R339, R347 to R350, R362, R365: a debugger stops, steps and resumes a hart, reads its registers, its
memory and its in-flight table; registers take their writes and read back, the interface table stages them, the catalogue obeys
R362, and a function-level reset ends the function's tasks and empties its port. The model's own choices: which hart a number names,
and that STEP and RESUME withdraw a halt request (log entry 38), what a function-level reset ends and that VI 0 has none (42), and the
order of the in-flight table and its count of commands (70). -/
def Obligations.DebugAndRegisters : Prop :=
  ∀ (s : State), s.power.state = .ready →
    (∀ (vi id n : Nat), reachedHart s vi id = some n → (s.hart n).live = true →
      let d := (s.hart n).dbg
      let only (t : State) : Prop := { t with harts := s.harts } = s ∧ ∀ k, k ≠ n → t.hart k = s.hart k
      (d.halted = false → d.haltReq = false → (s.hart n).wait = .run → ∃ t, exec (.debugStop vi id) s = .next t ∧ only t
        ∧ t.hart n = { s.hart n with dbg := { d with haltBit := true, haltReq := true, haltSince := s.cycle } })
      ∧ (let done := (s.hart n).array = [] ∧ (s.hart n).gathers = [] ∧ (s.hart n).marks.checks = []
        (¬done → d.halted = false → d.haltReq = false → (s.hart n).wait = .command →
          exec (.debugStop vi id) s = .next (s.setHart n { s.hart n with
            dbg := { d with haltBit := true, stop := some Cause.debugStop } }))
        ∧ (done → d.halted = false → d.haltReq = false → d.trace = false → (s.hart n).wait = .command → (s.hart n).marks.failed = none →
          ∃ t, exec (.debugStop vi id) s = .next t ∧ only t ∧ (t.hart n).dbg.halted = true ∧ (t.hart n).dbg.cause = Cause.debugStop
            ∧ (t.hart n).pc = (s.hart n).pc ∧ (t.hart n).wait = .command)
        ∧ ∀ l woken since, done → d.halted = false → d.haltReq = false → d.trace = false → (s.hart n).wait = .idle l woken since →
          (s.hart n).marks.failed = none → ∃ t, exec (.debugStop vi id) s = .next t ∧ only t ∧ (t.hart n).dbg.halted = true
            ∧ (t.hart n).dbg.cause = Cause.debugStop ∧ (t.hart n).pc = (s.hart n).pc ∧ (t.hart n).wait = .run)
      ∧ (let reads (w : ViewWindow) (k : Nat) (v : Word) : Prop :=
          exec (.debugMemoryViewRead vi id w k) s = .next { s with replies := s.replies ++ [.view (some v.toNat)] }
        (∀ p ∈ readable ++ handlerRegisters, reads .register p.1 (p.2 { s with cur := n }))
        ∧ reads .register 0x200 (BitVec.ofNat 64 (d.haltBit.toNat + 4 * d.claim.toNat + 8 * d.trace.toNat + 16 * d.sample.toNat))
        ∧ reads .register 0x201 (BitVec.ofNat 64 (d.halted.toNat + 256 * d.cause.toNat)) ∧ reads .register 0x205 d.trtail
        ∧ reads .table 0x200 (BitVec.ofNat 64 ((s.hart n).array.length + (s.hart n).gathers.length
          + ((s.hart n).task.ctab.filter fun c => !(c.2.complete && c.2.read)).length - 16))
        ∧ ∀ e, (s.hart n).array = [e] → (s.hart n).gathers = [] → (s.hart n).task.ctab = [] →
          reads .table 0 e.pc ∧ reads .table 8 e.sord ∧ reads .table 0x18 (if e.accepted then 0x201 else 0x101))
      ∧ (d.halted = true → ∀ i b, (i, b) ∈ [(Instr.step vi id, true), (.resume vi id, false)] → ∃ t, exec i s = .next t ∧ only t
        ∧ (t.hart n).dbg.halted = false ∧ (t.hart n).dbg.stepping = b ∧ (t.hart n).dbg.haltReq = false
        ∧ { t.hart n with dbg := d, answers := (s.hart n).answers } = s.hart n)
      ∧ (∀ a v l, viewSpots s n a true false = .ok l → readSpots s (s.hart n).sb (s.hart n).answers l = .ok v →
        ∃ t, exec (.debugMemoryViewRead vi id .memory a) s = .next t ∧ t.replies = s.replies ++ [.view (some v)] ∧ t.mem = s.mem
          ∧ ∀ k, { t.hart k with answers := (s.hart k).answers } = s.hart k)
      ∧ (∀ z q e, z < (s.hart n).task.start.tiles → q < (s.hart n).span.length → e < 4096 → (∀ x ∈ (s.hart n).array, x.tile ≠ z) →
        exec (.debugMemoryViewRead vi id (.tile z q) e) s = .next { s with
          replies := s.replies ++ [.view (some (Sparse.get 0 (s.hart n).matrix.tiles (((q * 8 + z) * 64 + e / 64) * 64 + e % 64)).toNat)] })
      ∧ (∀ a (v : BitVec 64) l, viewSpots s n a false true = .ok l → ∃ t, exec (.debugMemoryViewWrite vi id a v) s = .next t
        ∧ t.replies = s.replies ++ [.view (some 0)]
        ∧ t.mem = ((entriesOf 0 64 v.toNat l).foldl (fun u e => performAs u (.device (s.hart n).task.vi) none e) s).mem)
      ∧ (∀ a (v : BitVec 64) h, OneHome (viewSpots s n a false true) h 8 → Quiet s → ∃ t, exec (.debugMemoryViewWrite vi id a v) s = .next t
        ∧ t.mem = s.mem.write h v.toNat 8 ∧ ∀ l ∈ t.links, l.line ≠ .home (h / 64 * 64)))
    ∧ (∀ (vi off : Nat) (v : BitVec 64), vi < 256 → off < 256 → off % 8 = 0 →
      ∃ t, exec (.interfaceTableWrite vi off v) s = .next t ∧ (∀ k, k ≠ vi → t.vi k = s.vi k) ∧ { t with vis := s.vis } = s
        ∧ { t.vi vi with staged := (s.vi vi).staged } = s.vi vi
        ∧ ∀ k, Sparse.get 0 (t.vi vi).staged k = if k = off / 8 then v &&& tableMask k else Sparse.get 0 (s.vi vi).staged k)
    ∧ (∀ (vi : Nat) (v : BitVec 64), let of (x : RegTarget) := exec (.registerWrite x v) s
      (s.events = [] → of .relcfg = .next { s with relcfg :=
        { window := BitVec.ofNat 32 (v.toNat / 2 ^ 16), rwlim := BitVec.ofNat 4 (v.toNat / 2 ^ 8), thresh := BitVec.ofNat 8 v.toNat } })
      ∧ of (.evhead vi) = .next (s.setVi vi { s.vi vi with evhead := v })
      ∧ of (.inva vi) = .next (s.setVi vi { s.vi vi with inva := BitVec.ofNat 64 (v.toNat / 4096 * 4096) })
      ∧ of (.dsel vi) = .next (s.setVi vi { s.vi vi with dsel := v }) ∧ of .zeroRange = .next s)
    ∧ (managementRead s 0x900 = BitVec.ofNat 64 (s.power.thl.toNat * 2 ^ 49 + s.power.pwl.toNat * 2 ^ 48 + s.power.fcur * 2 ^ 32
        + s.power.fmax * 2 ^ 16 + s.power.plim)
      ∧ (∀ c < 1024, (managementRead s (0x880 + c / 64 * 8)).getLsbD (c % 64) = s.oos.getLsbD c)
      ∧ (∀ vi off, vi < 256 → off < 256 → managementRead s (0x200000 + 256 * vi + off) = Sparse.get 0 (s.vi vi).staged (off / 8))
      ∧ (∀ vi, let v := s.vi vi
        portRead s vi 0x08 = BitVec.ofNat 64 (v.status.toNat + 256 * v.lrec.isSome.toNat + 512 * v.dropped.toNat + 2 ^ 32 * v.accepted.toNat)
        ∧ (∀ n k, reachedHart s vi v.dsel.toNat = some n → k < 0x220 → portRead s vi (0x1008 + 8 * k) = debugRead s n k)
        ∧ portRead s vi 0x4000 = BitVec.ofNat 64 (catalogue s).length ∧ (catalogue s).length ≤ 64)
      ∧ (catalogue s).Pairwise fun x y => x.id ≠ y.id ∧ (x.cp = true → y.cp = true → x.swbit ≠ y.swbit))
    ∧ (∀ vi, exec (.functionLevelReset 0) s = .next s ∧ (vi ≠ 0 → vi < 256 → s.commands = [] → s.copies = [] →
      ∃ t, exec (.functionLevelReset vi) s = .next t ∧ (t.vi vi).accepted = 0 ∧ (t.vi vi).lrec = none ∧ (t.vi vi).evhead = 0 ∧ (t.vi vi).evtail = 0
        ∧ (t.vi vi).areas = [] ∧ (∀ l ∈ t.launches, l.vi ≠ vi) ∧ (∀ k ∈ t.saves, k.vi ≠ vi) ∧ (∀ h ∈ t.held, h.vi ≠ vi)
        ∧ ∀ c ∈ s.harts, c.2.live = true → c.2.task.vi = vi → (t.hart c.1).live = false))

/-- R165, R167, R172, R173, R177: one FP32 update of a tile position. A NaN term or infinities of both signs give the canonical NaN, with NV
for 0 times infinity, mixed infinities or a signalling operand; an infinite term gives that infinity; else every term is truncated
toward zero to a multiple of 2^(E - 79), E the greatest floor(log2 |t|), LOSS says whether that dropped anything, and the exact sum is
rounded once, where OVF says that it became infinite. The terms are the products of the slices and the old element, and an operation
updates exactly the positions below MVL of its tile, on every span core. -/
def Obligations.FloatAccumulation : Prop :=
  (∀ (rm : Nat) (terms : List FVal) (zeroInf sig : Bool), rm < 6 →
    let r := floatUpdate rm terms zeroInf sig
    let mixed : Bool := decide (FVal.inf true ∈ terms ∧ FVal.inf false ∈ terms)
    let bad := (∃ b, FVal.nan b ∈ terms) ∨ mixed = true
    let mode := if rm = 5 then 0 else rm
    (bad → r = (0x7FC00000, false, false, zeroInf || mixed || sig))
    ∧ (¬bad → ∀ n, FVal.inf n ∈ terms → r = (if n then 0xFF800000 else 0x7F800000, false, false, false))
    ∧ ((∀ t ∈ terms, ∃ n m e, t = FVal.fin n m e) →
      let negative : Bool := terms.all FVal.isNeg || mode == 2
      let zero : BitVec 32 := if negative then 0x80000000 else 0
      ((∀ t ∈ terms, t.isZero = true) → r = (zero, false, false, false))
      ∧ ∀ E : Int, (∃ n m e, FVal.fin n m e ∈ terms ∧ m ≠ 0 ∧ m.log2 + e = E) → (∀ n m e, FVal.fin n m e ∈ terms → m ≠ 0 → m.log2 + e ≤ E) →
        let q := E - 79
        let cut (t : FVal) : Int := match t with
          | .fin n m e => (if n then -1 else 1) * ((if q ≤ e then m * 2 ^ (e - q).toNat else m / 2 ^ (q - e).toNat : Nat) : Int)
          | _ => 0
        let sum := (terms.map cut).sum
        r.2.2.2 = false
        ∧ (r.2.2.1 = true ↔ ∃ n m e, FVal.fin n m e ∈ terms ∧ e < q ∧ m % 2 ^ (q - e).toNat ≠ 0)
        ∧ (sum = 0 → r.1 = zero ∧ r.2.1 = false)
        ∧ (sum ≠ 0 → r.1 = BitVec.ofNat 32 (fp32.round mode ⟨decide (sum < 0), sum.natAbs, q, false⟩ false 0).1
          ∧ (r.2.1 = true ↔ r.1 &&& 0x7FFFFFFF = 0x7F800000))))
  ∧ (∀ (e : ArrayEntry) (old : BitVec 32) (q row col : Nat),
    let codeA := e.zw.toNat % 32
    let codeB := e.zw.toNat / 2 ^ 9 % 32
    let plain (code : Nat) : Prop := code ∈ [8, 10, 11, 12, 13, 16, 17, 18, 19]
    let bits (code : Nat) : Nat := if code = 8 then 4 else if code < 16 then 8 else if code < 18 then 16 else 32
    let elt (code : Nat) (regs : List Nat) (k i : Nat) : FVal :=
      (fmtOf code).value (regs.getD (q * e.slices + k) 0 / 2 ^ (i * bits code) % 2 ^ bits code)
    let A (k : Nat) := elt codeA e.a k row
    let B (k : Nat) := elt codeB e.b k col
    let z := fp32.value old.toNat
    e.zw.toNat / 2 ^ 18 % 4 = 2 → plain codeA → plain codeB → e.padding = [] →
    positionUpdate e old q row col = floatUpdate e.rm.toNat ((List.range e.slices).map (fun k => mulVal (A k) (B k)) ++ [z])
      (decide (∃ k < e.slices, (A k).isInf = true ∧ (B k).isZero = true ∨ (A k).isZero = true ∧ (B k).isInf = true))
      (decide (z.isSignalling = true ∨ ∃ k < e.slices, (A k).isSignalling = true ∨ (B k).isSignalling = true)))
  ∧ ∀ (e : ArrayEntry) (positions : Nat) (tiles : Sparse (BitVec 32)), e.tile < 8 → e.mvl ≤ 64 →
    let out := arrayEffect e positions tiles
    let key (q row col : Nat) : Nat := ((q * 8 + e.tile) * 64 + row) * 64 + col
    let new (q row col : Nat) := positionUpdate e (Sparse.get 0 tiles (key q row col)) q row col
    let some_ (f : BitVec 32 × Bool × Bool × Bool → Bool) : Prop := ∃ q row col, q < positions ∧ row < e.mvl ∧ col < e.mvl ∧ f (new q row col) = true
    (∀ q row col, row < 64 → col < 64 → Sparse.get 0 out.tiles (key q row col)
      = if q < positions ∧ row < e.mvl ∧ col < e.mvl then (new q row col).1 else Sparse.get 0 tiles (key q row col))
    ∧ (∀ k, k / 4096 % 8 ≠ e.tile → Sparse.get 0 out.tiles k = Sparse.get 0 tiles k)
    ∧ (out.ovf = true ↔ some_ fun r => r.2.1) ∧ (out.loss = true ↔ some_ fun r => r.2.2.1) ∧ (out.nv = true ↔ some_ fun r => r.2.2.2)
end

