-- ==== Sys2Proof/Laws/Sparse.lean ====
section
/-! SUPPORT. What the sparse stores of `Word.lean` read after an update, and that updates keep their form. -/

namespace Sys2Proof

/-! ## Reading after an update -/

theorem Sparse.get_put {α : Type} (d : α) (m : Sparse α) (k : Nat) (v : α) (j : Nat) :
    Sparse.get d (Sparse.put m k v) j = if j = k then v else Sparse.get d m j := by
  induction m with
  | nil => simp [Sparse.put, Sparse.get]
  | cons c m ih =>
    obtain ⟨k', v'⟩ := c
    unfold Sparse.put
    split
    · next h =>
      simp only [Sparse.get]
    · split
      · next h1 h2 =>
        subst h2
        simp only [Sparse.get]
        split <;> rfl
      · next h1 h2 =>
        simp only [Sparse.get, ih]
        by_cases hj : j = k'
        · subst hj; simp [Ne.symm h2]
        · simp [hj]

theorem Sparse.get_drop {α : Type} (d : α) (m : Sparse α) (k j : Nat) :
    Sparse.get d (Sparse.drop m k) j = if j = k then d else Sparse.get d m j := by
  induction m with
  | nil => simp [Sparse.drop, Sparse.get]
  | cons c m ih =>
    obtain ⟨k', v'⟩ := c
    by_cases h : k' = k
    · subst h
      have : Sparse.drop ((k', v') :: m) k' = Sparse.drop m k' := by simp [Sparse.drop]
      rw [this, ih]
      simp only [Sparse.get]
      split <;> simp_all
    · have : Sparse.drop ((k', v') :: m) k = (k', v') :: Sparse.drop m k := by simp [Sparse.drop, h]
      rw [this]
      simp only [Sparse.get, ih]
      by_cases hj : j = k'
      · subst hj; simp [h]
      · simp [hj]

/-- A read after a write of the store that keeps no default. -/
theorem Sparse.get_set {α : Type} [DecidableEq α] (d : α) (m : Sparse α) (k : Nat) (v : α) (j : Nat) :
    Sparse.get d (Sparse.set d m k v) j = if j = k then v else Sparse.get d m j := by
  unfold Sparse.set
  split
  · next h => subst h; exact Sparse.get_drop ..
  · exact Sparse.get_put ..

@[simp] theorem Sparse.get_put_self {α : Type} (d : α) (m : Sparse α) (k : Nat) (v : α) :
    Sparse.get d (Sparse.put m k v) k = v := by simp [Sparse.get_put]

theorem Sparse.get_put_ne {α : Type} (d : α) (m : Sparse α) {k j : Nat} (v : α) (h : j ≠ k) :
    Sparse.get d (Sparse.put m k v) j = Sparse.get d m j := by simp [Sparse.get_put, h]

@[simp] theorem Sparse.get_set_self {α : Type} [DecidableEq α] (d : α) (m : Sparse α) (k : Nat) (v : α) :
    Sparse.get d (Sparse.set d m k v) k = v := by simp [Sparse.get_set]

theorem Sparse.get_set_ne {α : Type} [DecidableEq α] (d : α) (m : Sparse α) {k j : Nat} (v : α) (h : j ≠ k) :
    Sparse.get d (Sparse.set d m k v) j = Sparse.get d m j := by simp [Sparse.get_set, h]

theorem Sparse.find_put {α : Type} (m : Sparse α) (k : Nat) (v : α) (j : Nat) :
    Sparse.find (Sparse.put m k v) j = if j = k then some v else Sparse.find m j := by
  induction m with
  | nil => simp [Sparse.put, Sparse.find]
  | cons c m ih =>
    obtain ⟨k', v'⟩ := c
    unfold Sparse.put
    split
    · simp only [Sparse.find]
    · split
      · next h1 h2 =>
        subst h2
        simp only [Sparse.find]
        split <;> rfl
      · next h1 h2 =>
        simp only [Sparse.find, ih]
        by_cases hj : j = k'
        · subst hj; simp [Ne.symm h2]
        · simp [hj]

/-! ## Form -/

theorem Sparse.above_mono {α : Type} {m : Sparse α} {a b : Nat} (h : Sparse.above b m = true) (hab : a ≤ b) :
    Sparse.above a m = true := by
  cases m with
  | nil => rfl
  | cons c m => obtain ⟨k, v⟩ := c; simp [Sparse.above] at *; exact ⟨by omega, h.2⟩

theorem Sparse.rising_of_above {α : Type} {m : Sparse α} {b : Nat} (h : Sparse.above b m = true) : Sparse.rising m = true := by
  cases m with
  | nil => rfl
  | cons c m => obtain ⟨k, v⟩ := c; simp [Sparse.above] at h; exact h.2

theorem Sparse.above_put {α : Type} {m : Sparse α} {b k : Nat} (v : α) (h : Sparse.above b m = true) (hk : b < k) :
    Sparse.above b (Sparse.put m k v) = true := by
  induction m generalizing b with
  | nil => simp [Sparse.put, Sparse.above, hk]
  | cons c m ih =>
    obtain ⟨k', v'⟩ := c
    simp only [Sparse.above, Bool.and_eq_true, decide_eq_true_eq] at h
    unfold Sparse.put
    split
    · next h1 => simp [Sparse.above, hk, h1, h.2]
    · split
      · next h1 h2 => subst h2; simp [Sparse.above, hk, h.2]
      · next h1 h2 => simp [Sparse.above, h.1, ih h.2 (by omega)]

theorem Sparse.rising_put {α : Type} {m : Sparse α} {k : Nat} (v : α) (h : Sparse.rising m = true) :
    Sparse.rising (Sparse.put m k v) = true := by
  cases m with
  | nil => rfl
  | cons c m =>
    obtain ⟨k', v'⟩ := c
    simp only [Sparse.rising] at h
    unfold Sparse.put
    split
    · next h1 => simp [Sparse.rising, Sparse.above, h1, h]
    · split
      · next h1 h2 => subst h2; exact h
      · next h1 h2 => exact Sparse.above_put v h (by omega)

theorem Sparse.above_filter {α : Type} {m : Sparse α} {b : Nat} (f : Nat × α → Bool) (h : Sparse.above b m = true) :
    Sparse.above b (m.filter f) = true := by
  induction m generalizing b with
  | nil => rfl
  | cons c m ih =>
    obtain ⟨k, v⟩ := c
    simp only [Sparse.above, Bool.and_eq_true, decide_eq_true_eq] at h
    simp only [List.filter]
    split
    · simp [Sparse.above, h.1, ih h.2]
    · exact Sparse.above_mono (ih h.2) (by omega)

theorem Sparse.rising_filter {α : Type} {m : Sparse α} (f : Nat × α → Bool) (h : Sparse.rising m = true) :
    Sparse.rising (m.filter f) = true := by
  induction m with
  | nil => rfl
  | cons c m ih =>
    obtain ⟨k, v⟩ := c
    simp only [Sparse.rising] at h
    simp only [List.filter]
    split
    · exact Sparse.above_filter f h
    · exact ih (Sparse.rising_of_above h)

theorem Sparse.mem_put {α : Type} {m : Sparse α} {k : Nat} {v : α} {c : Nat × α} (h : c ∈ Sparse.put m k v) :
    c = (k, v) ∨ c ∈ m := by
  induction m with
  | nil => simp [Sparse.put] at h; exact .inl h
  | cons e m ih =>
    obtain ⟨k', v'⟩ := e
    unfold Sparse.put at h
    split at h
    · simpa using h
    · split at h
      · rcases List.mem_cons.mp h with h | h
        · exact .inl h
        · exact .inr (List.mem_cons_of_mem _ h)
      · rcases List.mem_cons.mp h with h | h
        · exact .inr (h ▸ List.mem_cons_self ..)
        · rcases ih h with h | h
          · exact .inl h
          · exact .inr (List.mem_cons_of_mem _ h)

/-- A write keeps the canonical form. -/
theorem Sparse.canon_set {α : Type} [DecidableEq α] {d : α} {m : Sparse α} (k : Nat) (v : α) (h : Sparse.canon d m = true) :
    Sparse.canon d (Sparse.set d m k v) = true := by
  simp only [Sparse.canon, Bool.and_eq_true, List.all_eq_true, decide_eq_true_eq] at *
  unfold Sparse.set
  split
  · exact ⟨Sparse.rising_filter _ h.1, fun c hc => h.2 c (List.mem_filter.mp hc).1⟩
  · next hv =>
    refine ⟨Sparse.rising_put v h.1, fun c hc => ?_⟩
    rcases Sparse.mem_put hc with rfl | hc
    · exact hv
    · exact h.2 c hc

/-- Dropping pairs keeps the canonical form. -/
theorem Sparse.canon_filter {α : Type} [DecidableEq α] {d : α} {m : Sparse α} (f : Nat × α → Bool) (h : Sparse.canon d m = true) :
    Sparse.canon d (m.filter f) = true := by
  simp only [Sparse.canon, Bool.and_eq_true, List.all_eq_true] at *
  exact ⟨Sparse.rising_filter _ h.1, fun c hc => h.2 c (List.mem_filter.mp hc).1⟩

theorem Sparse.canon_drop {α : Type} [DecidableEq α] {d : α} {m : Sparse α} (k : Nat) (h : Sparse.canon d m = true) :
    Sparse.canon d (Sparse.drop m k) = true := Sparse.canon_filter _ h

end Sys2Proof
end

