-- ==== Sys2Proof/Laws/State.lean ====
section
/-! SUPPORT. What each field of State reads after each of its updates, and what the harts, cores and interfaces read. -/

namespace Sys2Proof.Machine


/-! ## After setHart -/

@[simp] theorem State.setHart_build (s : State) (n : Nat) (h : Hart) : (s.setHart n h).build = s.build := rfl
@[simp] theorem State.setHart_power (s : State) (n : Nat) (h : Hart) : (s.setHart n h).power = s.power := rfl
@[simp] theorem State.setHart_cycle (s : State) (n : Nat) (h : Hart) : (s.setHart n h).cycle = s.cycle := rfl
@[simp] theorem State.setHart_time (s : State) (n : Nat) (h : Hart) : (s.setHart n h).time = s.time := rfl
@[simp] theorem State.setHart_agenda (s : State) (n : Nat) (h : Hart) : (s.setHart n h).agenda = s.agenda := rfl
@[simp] theorem State.setHart_cur (s : State) (n : Nat) (h : Hart) : (s.setHart n h).cur = s.cur := rfl
@[simp] theorem State.setHart_ir (s : State) (n : Nat) (h : Hart) : (s.setHart n h).ir = s.ir := rfl
@[simp] theorem State.setHart_free (s : State) (n : Nat) (h : Hart) : (s.setHart n h).free = s.free := rfl
@[simp] theorem State.setHart_steps (s : State) (n : Nat) (h : Hart) : (s.setHart n h).steps = s.steps := rfl
@[simp] theorem State.setHart_uptime (s : State) (n : Nat) (h : Hart) : (s.setHart n h).uptime = s.uptime := rfl
@[simp] theorem State.setHart_outer (s : State) (n : Nat) (h : Hart) : (s.setHart n h).outer = s.outer := rfl
@[simp] theorem State.setHart_cores (s : State) (n : Nat) (h : Hart) : (s.setHart n h).cores = s.cores := rfl
@[simp] theorem State.setHart_mem (s : State) (n : Nat) (h : Hart) : (s.setHart n h).mem = s.mem := rfl
@[simp] theorem State.setHart_vis (s : State) (n : Nat) (h : Hart) : (s.setHart n h).vis = s.vis := rfl
@[simp] theorem State.setHart_queueV (s : State) (n : Nat) (h : Hart) : (s.setHart n h).queueV = s.queueV := rfl
@[simp] theorem State.setHart_objects (s : State) (n : Nat) (h : Hart) : (s.setHart n h).objects = s.objects := rfl
@[simp] theorem State.setHart_nextObj (s : State) (n : Nat) (h : Hart) : (s.setHart n h).nextObj = s.nextObj := rfl
@[simp] theorem State.setHart_launches (s : State) (n : Nat) (h : Hart) : (s.setHart n h).launches = s.launches := rfl
@[simp] theorem State.setHart_nextLaunch (s : State) (n : Nat) (h : Hart) : (s.setHart n h).nextLaunch = s.nextLaunch := rfl
@[simp] theorem State.setHart_held (s : State) (n : Nat) (h : Hart) : (s.setHart n h).held = s.held := rfl
@[simp] theorem State.setHart_notes (s : State) (n : Nat) (h : Hart) : (s.setHart n h).notes = s.notes := rfl
@[simp] theorem State.setHart_saves (s : State) (n : Nat) (h : Hart) : (s.setHart n h).saves = s.saves := rfl
@[simp] theorem State.setHart_commands (s : State) (n : Nat) (h : Hart) : (s.setHart n h).commands = s.commands := rfl
@[simp] theorem State.setHart_copies (s : State) (n : Nat) (h : Hart) : (s.setHart n h).copies = s.copies := rfl
@[simp] theorem State.setHart_nextCmd (s : State) (n : Nat) (h : Hart) : (s.setHart n h).nextCmd = s.nextCmd := rfl
@[simp] theorem State.setHart_moved (s : State) (n : Nat) (h : Hart) : (s.setHart n h).moved = s.moved := rfl
@[simp] theorem State.setHart_links (s : State) (n : Nat) (h : Hart) : (s.setHart n h).links = s.links := rfl
@[simp] theorem State.setHart_tlb (s : State) (n : Nat) (h : Hart) : (s.setHart n h).tlb = s.tlb := rfl
@[simp] theorem State.setHart_l1 (s : State) (n : Nat) (h : Hart) : (s.setHart n h).l1 = s.l1 := rfl
@[simp] theorem State.setHart_atc (s : State) (n : Nat) (h : Hart) : (s.setHart n h).atc = s.atc := rfl
@[simp] theorem State.setHart_invals (s : State) (n : Nat) (h : Hart) : (s.setHart n h).invals = s.invals := rfl
@[simp] theorem State.setHart_windows (s : State) (n : Nat) (h : Hart) : (s.setHart n h).windows = s.windows := rfl
@[simp] theorem State.setHart_out (s : State) (n : Nat) (h : Hart) : (s.setHart n h).out = s.out := rfl
@[simp] theorem State.setHart_nextReq (s : State) (n : Nat) (h : Hart) : (s.setHart n h).nextReq = s.nextReq := rfl
@[simp] theorem State.setHart_posted (s : State) (n : Nat) (h : Hart) : (s.setHart n h).posted = s.posted := rfl
@[simp] theorem State.setHart_replies (s : State) (n : Nat) (h : Hart) : (s.setHart n h).replies = s.replies := rfl
@[simp] theorem State.setHart_latches (s : State) (n : Nat) (h : Hart) : (s.setHart n h).latches = s.latches := rfl
@[simp] theorem State.setHart_relcfg (s : State) (n : Nat) (h : Hart) : (s.setHart n h).relcfg = s.relcfg := rfl
@[simp] theorem State.setHart_oos (s : State) (n : Nat) (h : Hart) : (s.setHart n h).oos = s.oos := rfl
@[simp] theorem State.setHart_events (s : State) (n : Nat) (h : Hart) : (s.setHart n h).events = s.events := rfl
@[simp] theorem State.setHart_corrections (s : State) (n : Nat) (h : Hart) : (s.setHart n h).corrections = s.corrections := rfl
@[simp] theorem State.setHart_clusters (s : State) (n : Nat) (h : Hart) : (s.setHart n h).clusters = s.clusters := rfl
@[simp] theorem State.setHart_dies (s : State) (n : Nat) (h : Hart) : (s.setHart n h).dies = s.dies := rfl

/-! ## After setCore -/

@[simp] theorem State.setCore_build (s : State) (n : Nat) (c : Core) : (s.setCore n c).build = s.build := rfl
@[simp] theorem State.setCore_power (s : State) (n : Nat) (c : Core) : (s.setCore n c).power = s.power := rfl
@[simp] theorem State.setCore_cycle (s : State) (n : Nat) (c : Core) : (s.setCore n c).cycle = s.cycle := rfl
@[simp] theorem State.setCore_time (s : State) (n : Nat) (c : Core) : (s.setCore n c).time = s.time := rfl
@[simp] theorem State.setCore_agenda (s : State) (n : Nat) (c : Core) : (s.setCore n c).agenda = s.agenda := rfl
@[simp] theorem State.setCore_cur (s : State) (n : Nat) (c : Core) : (s.setCore n c).cur = s.cur := rfl
@[simp] theorem State.setCore_ir (s : State) (n : Nat) (c : Core) : (s.setCore n c).ir = s.ir := rfl
@[simp] theorem State.setCore_free (s : State) (n : Nat) (c : Core) : (s.setCore n c).free = s.free := rfl
@[simp] theorem State.setCore_steps (s : State) (n : Nat) (c : Core) : (s.setCore n c).steps = s.steps := rfl
@[simp] theorem State.setCore_uptime (s : State) (n : Nat) (c : Core) : (s.setCore n c).uptime = s.uptime := rfl
@[simp] theorem State.setCore_outer (s : State) (n : Nat) (c : Core) : (s.setCore n c).outer = s.outer := rfl
@[simp] theorem State.setCore_harts (s : State) (n : Nat) (c : Core) : (s.setCore n c).harts = s.harts := rfl
@[simp] theorem State.setCore_mem (s : State) (n : Nat) (c : Core) : (s.setCore n c).mem = s.mem := rfl
@[simp] theorem State.setCore_vis (s : State) (n : Nat) (c : Core) : (s.setCore n c).vis = s.vis := rfl
@[simp] theorem State.setCore_queueV (s : State) (n : Nat) (c : Core) : (s.setCore n c).queueV = s.queueV := rfl
@[simp] theorem State.setCore_objects (s : State) (n : Nat) (c : Core) : (s.setCore n c).objects = s.objects := rfl
@[simp] theorem State.setCore_nextObj (s : State) (n : Nat) (c : Core) : (s.setCore n c).nextObj = s.nextObj := rfl
@[simp] theorem State.setCore_launches (s : State) (n : Nat) (c : Core) : (s.setCore n c).launches = s.launches := rfl
@[simp] theorem State.setCore_nextLaunch (s : State) (n : Nat) (c : Core) : (s.setCore n c).nextLaunch = s.nextLaunch := rfl
@[simp] theorem State.setCore_held (s : State) (n : Nat) (c : Core) : (s.setCore n c).held = s.held := rfl
@[simp] theorem State.setCore_notes (s : State) (n : Nat) (c : Core) : (s.setCore n c).notes = s.notes := rfl
@[simp] theorem State.setCore_saves (s : State) (n : Nat) (c : Core) : (s.setCore n c).saves = s.saves := rfl
@[simp] theorem State.setCore_commands (s : State) (n : Nat) (c : Core) : (s.setCore n c).commands = s.commands := rfl
@[simp] theorem State.setCore_copies (s : State) (n : Nat) (c : Core) : (s.setCore n c).copies = s.copies := rfl
@[simp] theorem State.setCore_nextCmd (s : State) (n : Nat) (c : Core) : (s.setCore n c).nextCmd = s.nextCmd := rfl
@[simp] theorem State.setCore_moved (s : State) (n : Nat) (c : Core) : (s.setCore n c).moved = s.moved := rfl
@[simp] theorem State.setCore_links (s : State) (n : Nat) (c : Core) : (s.setCore n c).links = s.links := rfl
@[simp] theorem State.setCore_tlb (s : State) (n : Nat) (c : Core) : (s.setCore n c).tlb = s.tlb := rfl
@[simp] theorem State.setCore_l1 (s : State) (n : Nat) (c : Core) : (s.setCore n c).l1 = s.l1 := rfl
@[simp] theorem State.setCore_atc (s : State) (n : Nat) (c : Core) : (s.setCore n c).atc = s.atc := rfl
@[simp] theorem State.setCore_invals (s : State) (n : Nat) (c : Core) : (s.setCore n c).invals = s.invals := rfl
@[simp] theorem State.setCore_windows (s : State) (n : Nat) (c : Core) : (s.setCore n c).windows = s.windows := rfl
@[simp] theorem State.setCore_out (s : State) (n : Nat) (c : Core) : (s.setCore n c).out = s.out := rfl
@[simp] theorem State.setCore_nextReq (s : State) (n : Nat) (c : Core) : (s.setCore n c).nextReq = s.nextReq := rfl
@[simp] theorem State.setCore_posted (s : State) (n : Nat) (c : Core) : (s.setCore n c).posted = s.posted := rfl
@[simp] theorem State.setCore_replies (s : State) (n : Nat) (c : Core) : (s.setCore n c).replies = s.replies := rfl
@[simp] theorem State.setCore_latches (s : State) (n : Nat) (c : Core) : (s.setCore n c).latches = s.latches := rfl
@[simp] theorem State.setCore_relcfg (s : State) (n : Nat) (c : Core) : (s.setCore n c).relcfg = s.relcfg := rfl
@[simp] theorem State.setCore_oos (s : State) (n : Nat) (c : Core) : (s.setCore n c).oos = s.oos := rfl
@[simp] theorem State.setCore_events (s : State) (n : Nat) (c : Core) : (s.setCore n c).events = s.events := rfl
@[simp] theorem State.setCore_corrections (s : State) (n : Nat) (c : Core) : (s.setCore n c).corrections = s.corrections := rfl
@[simp] theorem State.setCore_clusters (s : State) (n : Nat) (c : Core) : (s.setCore n c).clusters = s.clusters := rfl
@[simp] theorem State.setCore_dies (s : State) (n : Nat) (c : Core) : (s.setCore n c).dies = s.dies := rfl

/-! ## After setVi -/

@[simp] theorem State.setVi_build (s : State) (n : Nat) (v : Vi) : (s.setVi n v).build = s.build := rfl
@[simp] theorem State.setVi_power (s : State) (n : Nat) (v : Vi) : (s.setVi n v).power = s.power := rfl
@[simp] theorem State.setVi_cycle (s : State) (n : Nat) (v : Vi) : (s.setVi n v).cycle = s.cycle := rfl
@[simp] theorem State.setVi_time (s : State) (n : Nat) (v : Vi) : (s.setVi n v).time = s.time := rfl
@[simp] theorem State.setVi_agenda (s : State) (n : Nat) (v : Vi) : (s.setVi n v).agenda = s.agenda := rfl
@[simp] theorem State.setVi_cur (s : State) (n : Nat) (v : Vi) : (s.setVi n v).cur = s.cur := rfl
@[simp] theorem State.setVi_ir (s : State) (n : Nat) (v : Vi) : (s.setVi n v).ir = s.ir := rfl
@[simp] theorem State.setVi_free (s : State) (n : Nat) (v : Vi) : (s.setVi n v).free = s.free := rfl
@[simp] theorem State.setVi_steps (s : State) (n : Nat) (v : Vi) : (s.setVi n v).steps = s.steps := rfl
@[simp] theorem State.setVi_uptime (s : State) (n : Nat) (v : Vi) : (s.setVi n v).uptime = s.uptime := rfl
@[simp] theorem State.setVi_outer (s : State) (n : Nat) (v : Vi) : (s.setVi n v).outer = s.outer := rfl
@[simp] theorem State.setVi_harts (s : State) (n : Nat) (v : Vi) : (s.setVi n v).harts = s.harts := rfl
@[simp] theorem State.setVi_cores (s : State) (n : Nat) (v : Vi) : (s.setVi n v).cores = s.cores := rfl
@[simp] theorem State.setVi_mem (s : State) (n : Nat) (v : Vi) : (s.setVi n v).mem = s.mem := rfl
@[simp] theorem State.setVi_queueV (s : State) (n : Nat) (v : Vi) : (s.setVi n v).queueV = s.queueV := rfl
@[simp] theorem State.setVi_objects (s : State) (n : Nat) (v : Vi) : (s.setVi n v).objects = s.objects := rfl
@[simp] theorem State.setVi_nextObj (s : State) (n : Nat) (v : Vi) : (s.setVi n v).nextObj = s.nextObj := rfl
@[simp] theorem State.setVi_launches (s : State) (n : Nat) (v : Vi) : (s.setVi n v).launches = s.launches := rfl
@[simp] theorem State.setVi_nextLaunch (s : State) (n : Nat) (v : Vi) : (s.setVi n v).nextLaunch = s.nextLaunch := rfl
@[simp] theorem State.setVi_held (s : State) (n : Nat) (v : Vi) : (s.setVi n v).held = s.held := rfl
@[simp] theorem State.setVi_notes (s : State) (n : Nat) (v : Vi) : (s.setVi n v).notes = s.notes := rfl
@[simp] theorem State.setVi_saves (s : State) (n : Nat) (v : Vi) : (s.setVi n v).saves = s.saves := rfl
@[simp] theorem State.setVi_commands (s : State) (n : Nat) (v : Vi) : (s.setVi n v).commands = s.commands := rfl
@[simp] theorem State.setVi_copies (s : State) (n : Nat) (v : Vi) : (s.setVi n v).copies = s.copies := rfl
@[simp] theorem State.setVi_nextCmd (s : State) (n : Nat) (v : Vi) : (s.setVi n v).nextCmd = s.nextCmd := rfl
@[simp] theorem State.setVi_moved (s : State) (n : Nat) (v : Vi) : (s.setVi n v).moved = s.moved := rfl
@[simp] theorem State.setVi_links (s : State) (n : Nat) (v : Vi) : (s.setVi n v).links = s.links := rfl
@[simp] theorem State.setVi_tlb (s : State) (n : Nat) (v : Vi) : (s.setVi n v).tlb = s.tlb := rfl
@[simp] theorem State.setVi_l1 (s : State) (n : Nat) (v : Vi) : (s.setVi n v).l1 = s.l1 := rfl
@[simp] theorem State.setVi_atc (s : State) (n : Nat) (v : Vi) : (s.setVi n v).atc = s.atc := rfl
@[simp] theorem State.setVi_invals (s : State) (n : Nat) (v : Vi) : (s.setVi n v).invals = s.invals := rfl
@[simp] theorem State.setVi_windows (s : State) (n : Nat) (v : Vi) : (s.setVi n v).windows = s.windows := rfl
@[simp] theorem State.setVi_out (s : State) (n : Nat) (v : Vi) : (s.setVi n v).out = s.out := rfl
@[simp] theorem State.setVi_nextReq (s : State) (n : Nat) (v : Vi) : (s.setVi n v).nextReq = s.nextReq := rfl
@[simp] theorem State.setVi_posted (s : State) (n : Nat) (v : Vi) : (s.setVi n v).posted = s.posted := rfl
@[simp] theorem State.setVi_replies (s : State) (n : Nat) (v : Vi) : (s.setVi n v).replies = s.replies := rfl
@[simp] theorem State.setVi_latches (s : State) (n : Nat) (v : Vi) : (s.setVi n v).latches = s.latches := rfl
@[simp] theorem State.setVi_relcfg (s : State) (n : Nat) (v : Vi) : (s.setVi n v).relcfg = s.relcfg := rfl
@[simp] theorem State.setVi_oos (s : State) (n : Nat) (v : Vi) : (s.setVi n v).oos = s.oos := rfl
@[simp] theorem State.setVi_events (s : State) (n : Nat) (v : Vi) : (s.setVi n v).events = s.events := rfl
@[simp] theorem State.setVi_corrections (s : State) (n : Nat) (v : Vi) : (s.setVi n v).corrections = s.corrections := rfl
@[simp] theorem State.setVi_clusters (s : State) (n : Nat) (v : Vi) : (s.setVi n v).clusters = s.clusters := rfl
@[simp] theorem State.setVi_dies (s : State) (n : Nat) (v : Vi) : (s.setVi n v).dies = s.dies := rfl

/-! ## After setH -/

@[simp] theorem State.setH_build (s : State) (h : Hart) : (s.setH h).build = s.build := rfl
@[simp] theorem State.setH_power (s : State) (h : Hart) : (s.setH h).power = s.power := rfl
@[simp] theorem State.setH_cycle (s : State) (h : Hart) : (s.setH h).cycle = s.cycle := rfl
@[simp] theorem State.setH_time (s : State) (h : Hart) : (s.setH h).time = s.time := rfl
@[simp] theorem State.setH_agenda (s : State) (h : Hart) : (s.setH h).agenda = s.agenda := rfl
@[simp] theorem State.setH_cur (s : State) (h : Hart) : (s.setH h).cur = s.cur := rfl
@[simp] theorem State.setH_ir (s : State) (h : Hart) : (s.setH h).ir = s.ir := rfl
@[simp] theorem State.setH_free (s : State) (h : Hart) : (s.setH h).free = s.free := rfl
@[simp] theorem State.setH_steps (s : State) (h : Hart) : (s.setH h).steps = s.steps := rfl
@[simp] theorem State.setH_uptime (s : State) (h : Hart) : (s.setH h).uptime = s.uptime := rfl
@[simp] theorem State.setH_outer (s : State) (h : Hart) : (s.setH h).outer = s.outer := rfl
@[simp] theorem State.setH_cores (s : State) (h : Hart) : (s.setH h).cores = s.cores := rfl
@[simp] theorem State.setH_mem (s : State) (h : Hart) : (s.setH h).mem = s.mem := rfl
@[simp] theorem State.setH_vis (s : State) (h : Hart) : (s.setH h).vis = s.vis := rfl
@[simp] theorem State.setH_queueV (s : State) (h : Hart) : (s.setH h).queueV = s.queueV := rfl
@[simp] theorem State.setH_objects (s : State) (h : Hart) : (s.setH h).objects = s.objects := rfl
@[simp] theorem State.setH_nextObj (s : State) (h : Hart) : (s.setH h).nextObj = s.nextObj := rfl
@[simp] theorem State.setH_launches (s : State) (h : Hart) : (s.setH h).launches = s.launches := rfl
@[simp] theorem State.setH_nextLaunch (s : State) (h : Hart) : (s.setH h).nextLaunch = s.nextLaunch := rfl
@[simp] theorem State.setH_held (s : State) (h : Hart) : (s.setH h).held = s.held := rfl
@[simp] theorem State.setH_notes (s : State) (h : Hart) : (s.setH h).notes = s.notes := rfl
@[simp] theorem State.setH_saves (s : State) (h : Hart) : (s.setH h).saves = s.saves := rfl
@[simp] theorem State.setH_commands (s : State) (h : Hart) : (s.setH h).commands = s.commands := rfl
@[simp] theorem State.setH_copies (s : State) (h : Hart) : (s.setH h).copies = s.copies := rfl
@[simp] theorem State.setH_nextCmd (s : State) (h : Hart) : (s.setH h).nextCmd = s.nextCmd := rfl
@[simp] theorem State.setH_moved (s : State) (h : Hart) : (s.setH h).moved = s.moved := rfl
@[simp] theorem State.setH_links (s : State) (h : Hart) : (s.setH h).links = s.links := rfl
@[simp] theorem State.setH_tlb (s : State) (h : Hart) : (s.setH h).tlb = s.tlb := rfl
@[simp] theorem State.setH_l1 (s : State) (h : Hart) : (s.setH h).l1 = s.l1 := rfl
@[simp] theorem State.setH_atc (s : State) (h : Hart) : (s.setH h).atc = s.atc := rfl
@[simp] theorem State.setH_invals (s : State) (h : Hart) : (s.setH h).invals = s.invals := rfl
@[simp] theorem State.setH_windows (s : State) (h : Hart) : (s.setH h).windows = s.windows := rfl
@[simp] theorem State.setH_out (s : State) (h : Hart) : (s.setH h).out = s.out := rfl
@[simp] theorem State.setH_nextReq (s : State) (h : Hart) : (s.setH h).nextReq = s.nextReq := rfl
@[simp] theorem State.setH_posted (s : State) (h : Hart) : (s.setH h).posted = s.posted := rfl
@[simp] theorem State.setH_replies (s : State) (h : Hart) : (s.setH h).replies = s.replies := rfl
@[simp] theorem State.setH_latches (s : State) (h : Hart) : (s.setH h).latches = s.latches := rfl
@[simp] theorem State.setH_relcfg (s : State) (h : Hart) : (s.setH h).relcfg = s.relcfg := rfl
@[simp] theorem State.setH_oos (s : State) (h : Hart) : (s.setH h).oos = s.oos := rfl
@[simp] theorem State.setH_events (s : State) (h : Hart) : (s.setH h).events = s.events := rfl
@[simp] theorem State.setH_corrections (s : State) (h : Hart) : (s.setH h).corrections = s.corrections := rfl
@[simp] theorem State.setH_clusters (s : State) (h : Hart) : (s.setH h).clusters = s.clusters := rfl
@[simp] theorem State.setH_dies (s : State) (h : Hart) : (s.setH h).dies = s.dies := rfl

/-! ## Harts, cores and interfaces -/

theorem State.hart_setHart (s : State) (n : Nat) (h : Hart) (m : Nat) : (s.setHart n h).hart m = if m = n then h else s.hart m := by
  simp [State.hart, State.setHart, Sparse.get_put]

@[simp] theorem State.hart_setHart_self (s : State) (n : Nat) (h : Hart) : (s.setHart n h).hart n = h := by
  simp [State.hart_setHart]

theorem State.hart_setHart_ne (s : State) {n m : Nat} (h : Hart) (e : m ≠ n) : (s.setHart n h).hart m = s.hart m := by
  simp [State.hart_setHart, e]

@[simp] theorem State.h_setH (s : State) (h : Hart) : (s.setH h).h = h := by
  simp [State.h, State.setH]

theorem State.hart_setH_ne (s : State) {m : Nat} (h : Hart) (e : m ≠ s.cur) : (s.setH h).hart m = s.hart m :=
  State.hart_setHart_ne s h e

@[simp] theorem State.hart_setCore (s : State) (n : Nat) (c : Core) (m : Nat) : (s.setCore n c).hart m = s.hart m := rfl

@[simp] theorem State.h_setCore (s : State) (n : Nat) (c : Core) : (s.setCore n c).h = s.h := rfl

@[simp] theorem State.hart_setVi (s : State) (n : Nat) (v : Vi) (m : Nat) : (s.setVi n v).hart m = s.hart m := rfl

@[simp] theorem State.h_setVi (s : State) (n : Nat) (v : Vi) : (s.setVi n v).h = s.h := rfl

theorem State.core_setCore (s : State) (n : Nat) (c : Core) (m : Nat) : (s.setCore n c).core m = if m = n then c else s.core m := by
  simp [State.core, State.setCore, Sparse.get_put]

@[simp] theorem State.core_setCore_self (s : State) (n : Nat) (c : Core) : (s.setCore n c).core n = c := by
  simp [State.core_setCore]

@[simp] theorem State.core_setHart (s : State) (n : Nat) (h : Hart) (m : Nat) : (s.setHart n h).core m = s.core m := rfl

@[simp] theorem State.core_setH (s : State) (h : Hart) (m : Nat) : (s.setH h).core m = s.core m := rfl

theorem State.vi_setVi (s : State) (n : Nat) (v : Vi) (m : Nat) : (s.setVi n v).vi m = if m = n then v else s.vi m := by
  simp [State.vi, State.setVi, Sparse.get_put]

@[simp] theorem State.vi_setVi_self (s : State) (n : Nat) (v : Vi) : (s.setVi n v).vi n = v := by
  simp [State.vi_setVi]

@[simp] theorem State.vi_setHart (s : State) (n : Nat) (h : Hart) (m : Nat) : (s.setHart n h).vi m = s.vi m := rfl

@[simp] theorem State.vi_setH (s : State) (h : Hart) (m : Nat) : (s.setH h).vi m = s.vi m := rfl

/-- Every state is its hart list put over the same rest. -/
@[simp] theorem State.rest_setHart (s : State) (n : Nat) (h : Hart) : { s.setHart n h with harts := s.harts } = s := rfl

@[simp] theorem State.rest_setH (s : State) (h : Hart) : { s.setH h with harts := s.harts } = s := rfl

theorem State.setH_setH (s : State) (g h : Hart) (n : Nat) : ((s.setH g).setH h).hart n = (s.setH h).hart n := by
  by_cases e : n = s.cur
  · subst e; simp [State.setH]
  · simp [State.setH, State.hart_setHart, e]

end Sys2Proof.Machine
end

