-- ==== Sys2Proof/Laws/Memory.lean ====
section
/-! SUPPORT. Bytes after a write, and that every operation on home memory keeps its canonical form. -/

namespace Sys2Proof.Machine

/-! ## Reading after a write -/

/-- A byte after a write of a byte. -/
theorem Memory.byte_setByte (m : Memory) (a : Nat) (b : Byte) (x : Nat) :
    (m.setByte a b).byte x = if x = a then b else m.byte x := by
  by_cases h : isHbm a = true
  · simp only [Memory.setByte, h, if_true, Memory.byte, Sparse.find_put]
    by_cases hx : x = a
    · subst hx; simp [h]
    · simp [hx]
  · simp only [Memory.setByte, h, Memory.byte]
    by_cases hx : x = a
    · subst hx; simp [h]
    · simp [hx, Sparse.get_set]

/-- A byte outside the bytes written. -/
theorem Memory.byte_write_outside (m : Memory) (a v n x : Nat) (h : x < a ∨ a + n ≤ x) : (m.write a v n).byte x = m.byte x := by
  induction n generalizing m a v with
  | zero => rfl
  | succ n ih =>
    unfold Memory.write
    rw [ih _ _ _ (by omega), Memory.byte_setByte, if_neg (by omega)]

/-- A byte among the bytes written (R3). -/
theorem Memory.byte_write (m : Memory) (a v n k : Nat) (h : k < n) :
    (m.write a v n).byte (a + k) = BitVec.ofNat 8 (v / 256 ^ k) := by
  induction n generalizing m a v k with
  | zero => omega
  | succ n ih =>
    unfold Memory.write
    cases k with
    | zero => rw [Memory.byte_write_outside _ _ _ _ _ (by omega), Memory.byte_setByte]; simp
    | succ k =>
      rw [show a + (k + 1) = a + 1 + k by omega, ih _ _ _ _ (by omega), Nat.pow_succ', Nat.div_div_eq_div_mul]

/-- A read depends on the bytes read only. -/
theorem Memory.read_congr (m m' : Memory) (a n : Nat) (h : ∀ k, k < n → m.byte (a + k) = m'.byte (a + k)) : m.read a n = m'.read a n := by
  induction n generalizing a with
  | zero => rfl
  | succ n ih =>
    have h0 := h 0 (by omega)
    simp only [Nat.add_zero] at h0
    simp only [Memory.read, h0]
    rw [ih (a + 1) fun k hk => by have := h (k + 1) (by omega); rwa [show a + (k + 1) = a + 1 + k by omega] at this]

/-- A read of bytes none of which is written. -/
theorem Memory.read_write_outside (m : Memory) (a v n b k : Nat) (h : b + k ≤ a ∨ a + n ≤ b) : (m.write a v n).read b k = m.read b k :=
  Memory.read_congr _ _ _ _ fun j hj => Memory.byte_write_outside _ _ _ _ _ (by omega)

/-- A read of the bytes that were written gives them back. -/
theorem Memory.read_write (m : Memory) (a v n : Nat) : (m.write a v n).read a n = v % 256 ^ n := by
  induction n generalizing m a v with
  | zero => simp [Memory.read, Nat.mod_one]
  | succ n ih =>
    have h0 : (m.write a v (n + 1)).byte a = BitVec.ofNat 8 v := by
      have := Memory.byte_write m a v (n + 1) 0 (by omega)
      simpa using this
    simp only [Memory.read, h0]
    rw [Memory.write, ih, BitVec.toNat_ofNat]
    have h1 := Nat.mod_mul (x := v) (a := 256) (b := 256 ^ n)
    rw [← Nat.pow_succ'] at h1
    exact h1.symm

/-! ## The canonical form -/

theorem Memory.wf_iff (m : Memory) : m.wf = true ↔
    Sparse.canon 0 m.cells = true ∧ Sparse.rising m.cache = true ∧ Sparse.canon false m.poison = true
      ∧ Sparse.canon false m.cachePoison = true := by
  simp [Memory.wf, and_assoc]

theorem Memory.wf_empty : ({} : Memory).wf = true := rfl

theorem Memory.wf_setByte {m : Memory} (a : Nat) (b : Byte) (h : m.wf = true) : (m.setByte a b).wf = true := by
  rw [Memory.wf_iff] at *
  unfold Memory.setByte
  split
  · exact ⟨h.1, Sparse.rising_put _ h.2.1, h.2.2⟩
  · exact ⟨Sparse.canon_set _ _ h.1, h.2⟩

theorem Memory.wf_write {m : Memory} (a v n : Nat) (h : m.wf = true) : (m.write a v n).wf = true := by
  induction n generalizing m a v with
  | zero => exact h
  | succ n ih => exact ih _ _ (Memory.wf_setByte _ _ h)

theorem Memory.wf_merge {m : Memory} (a bit bits data : Nat) (h : m.wf = true) : (m.merge a bit bits data).wf = true := by
  unfold Memory.merge
  split
  · exact Memory.wf_write _ _ _ h
  · exact Memory.wf_write _ _ _ h

theorem Memory.wf_poisonCopy {m : Memory} (a : Nat) (h : m.wf = true) : (m.poisonCopy a).wf = true := by
  rw [Memory.wf_iff] at *
  have := Sparse.canon_set (a / 64) true h.2.2.2
  exact ⟨h.1, h.2.1, h.2.2.1, this⟩

theorem Memory.wf_discardLine {m : Memory} (line : Nat) (h : m.wf = true) : (m.discardLine line).wf = true := by
  rw [Memory.wf_iff] at *
  exact ⟨h.1, Sparse.rising_filter _ h.2.1, h.2.2.1, Sparse.canon_drop _ h.2.2.2⟩

theorem Memory.wf_cleanLine {m : Memory} (line : Nat) (h : m.wf = true) : (m.cleanLine line).wf = true := by
  rw [Memory.wf_iff] at *
  refine ⟨?_, Sparse.rising_filter _ h.2.1, ?_, Sparse.canon_drop _ h.2.2.2⟩
  · have : ∀ (l : List (Nat × Byte)) (cs : List Host.Cell), Sparse.canon 0 cs = true →
        Sparse.canon 0 (l.foldl (fun cs c => Sparse.set 0 cs c.1 c.2) cs) = true := by
      intro l
      induction l with
      | nil => intro cs h; exact h
      | cons c l ih => intro cs h; exact ih _ (Sparse.canon_set _ _ h)
    exact this _ _ h.1
  · show Sparse.canon false (if _ then _ else _) = true
    split
    · exact Sparse.canon_set _ _ h.2.2.1
    · exact h.2.2.1

/-! ## Writes performed at a home -/

@[simp] theorem clearLinks_mem (s : State) (line : Loc) (keep : Option Nat) : (clearLinks s line keep).mem = s.mem := rfl

@[simp] theorem wakeIdle_mem (s : State) (line : Loc) : (wakeIdle s line).mem = s.mem := rfl

@[simp] theorem breakClaims_mem (s : State) (line : Loc) : (breakClaims s line).mem = s.mem := rfl

@[simp] theorem sendWrite_mem (s : State) (o : Owner) (ord : PageOrd) (l : Loc) (bit bits data : Nat) :
    (sendWrite s o ord l bit bits data).mem = s.mem := by
  unfold sendWrite; cases l <;> rfl

theorem breakBarrier_wf {s : State} (line : Loc) (h : s.mem.wf = true) : (breakBarrier s line).mem.wf = true := by
  cases line with
  | home a => exact Memory.wf_setByte _ _ h
  | _ => exact (congrArg Memory.wf (sendWrite_mem _ _ _ _ _ _ _)).trans h

theorem breakIfWaited_wf {s : State} (line : Loc) (h : s.mem.wf = true) : (breakIfWaited s line).mem.wf = true := by
  unfold breakIfWaited
  split
  · exact breakBarrier_wf _ h
  · exact h

theorem touchLines_wf {s : State} (keep : Option Nat) (line : Loc) (n : Nat) (h : s.mem.wf = true) :
    (touchLines s keep line n).mem.wf = true := by
  induction n generalizing s line with
  | zero => exact h
  | succ n ih => exact ih _ (breakIfWaited_wf _ h)

theorem writeHome_wf {s : State} (keep : Option Nat) (a v n : Nat) (h : s.mem.wf = true) : (s.writeHome keep a v n).mem.wf = true :=
  touchLines_wf _ _ _ (Memory.wf_write _ _ _ h)

theorem mergeHome_wf {s : State} (keep : Option Nat) (a bit bits data : Nat) (h : s.mem.wf = true) :
    (s.mergeHome keep a bit bits data).mem.wf = true := touchLines_wf _ _ _ (Memory.wf_merge _ _ _ _ h)

theorem writeOut_wf {s : State} (o : Owner) (keep : Option Nat) (ord : PageOrd) (l : Loc) (bit bits data : Nat) (h : s.mem.wf = true) :
    (s.writeOut o keep ord l bit bits data).mem.wf = true :=
  touchLines_wf _ _ _ (by simpa using h)

theorem poke_wf {s : State} (o : Owner) (ord : PageOrd) (l : Loc) (v n : Nat) (h : s.mem.wf = true) :
    (s.poke o ord l v n).mem.wf = true := by
  cases l with
  | home a => exact writeHome_wf _ _ _ _ h
  | scratch => exact h
  | _ => exact writeOut_wf _ _ _ _ _ _ _ h

theorem writeBarrier_wf {s : State} (o : Owner) (l : Loc) (v n : Nat) (h : s.mem.wf = true) : (s.writeBarrier o l v n).mem.wf = true := by
  cases l with
  | home a => exact Memory.wf_write _ _ _ h
  | _ => exact (congrArg Memory.wf (sendWrite_mem _ _ _ _ _ _ _)).trans h

/-- Where no hart waits at a barrier on the lines written, a write at a home changes the written bytes and no others. -/
theorem breakIfWaited_quiet {s : State} (line : Loc) (h : s.harts.any (fun c => c.2.waitsOn line) = false) :
    breakIfWaited s line = s := by
  unfold breakIfWaited; rw [h]; rfl

/-! ## Scratchpads -/

theorem canon_writeScratch {sp : Sparse Byte} (o v n : Nat) (h : Sparse.canon 0 sp = true) :
    Sparse.canon 0 (writeScratch sp o v n) = true := by
  induction n generalizing sp o v with
  | zero => exact h
  | succ n ih => exact ih _ _ (Sparse.canon_set _ _ h)

theorem canon_mergeScratch {sp : Sparse Byte} (o bit bits data : Nat) (h : Sparse.canon 0 sp = true) :
    Sparse.canon 0 (mergeScratch sp o bit bits data) = true := canon_writeScratch _ _ _ h

end Sys2Proof.Machine
end

