-- ==== Sys2Proof/Laws/Ops.lean ====
section
/-! SUPPORT. What the shared operations of a hart do: completing, writing a register, taking an exception and returning. -/

namespace Sys2Proof.Machine

/-! ## Registers (R56) -/

@[simp] theorem Hart.rx_zero (h : Hart) : h.rx 0 = 0 := by simp [Hart.rx]

/-- A register after a write of a register. -/
theorem Hart.rx_wx (h : Hart) (d : BitVec 5) (v : Word) (r : BitVec 5) :
    (h.wx d v).rx r = if r = d ∧ d ≠ 0 then v else h.rx r := by
  unfold Hart.rx Hart.wx
  by_cases hd : d = 0#5
  · subst hd
    simp only [BitVec.ofNat_eq_ofNat, if_true, ne_eq, not_true_eq_false, and_false, if_false]
  · by_cases hr : r = 0#5
    · subst hr
      simp [Ne.symm hd]
    · by_cases e : r = d
      · subst e
        simp [hr]
      · have : r.toNat ≠ d.toNat := fun h => e (BitVec.eq_of_toNat_eq h)
        simp [hr, hd, e, Sparse.get_set_ne _ _ _ this]

theorem Hart.wx_eq (h : Hart) (d : BitVec 5) (v : Word) : { h.wx d v with x := h.x } = h := by
  unfold Hart.wx; split <;> rfl

@[simp] theorem Hart.wx_pc (h : Hart) (d : BitVec 5) (v : Word) : (h.wx d v).pc = h.pc := by unfold Hart.wx; split <;> rfl
@[simp] theorem Hart.wx_instret (h : Hart) (d : BitVec 5) (v : Word) : (h.wx d v).instret = h.instret := by
  unfold Hart.wx; split <;> rfl
@[simp] theorem Hart.wx_trap (h : Hart) (d : BitVec 5) (v : Word) : (h.wx d v).trap = h.trap := by unfold Hart.wx; split <;> rfl
@[simp] theorem Hart.wx_strip (h : Hart) (d : BitVec 5) (v : Word) : (h.wx d v).strip = h.strip := by unfold Hart.wx; split <;> rfl
@[simp] theorem Hart.wx_vstart (h : Hart) (d : BitVec 5) (v : Word) : (h.wx d v).vstart = h.vstart := by
  unfold Hart.wx; split <;> rfl
@[simp] theorem Hart.wx_files (h : Hart) (d : BitVec 5) (v : Word) : (h.wx d v).files = h.files := by unfold Hart.wx; split <;> rfl
@[simp] theorem Hart.wx_task (h : Hart) (d : BitVec 5) (v : Word) : (h.wx d v).task = h.task := by unfold Hart.wx; split <;> rfl

/-! ## Only the running hart -/

theorem onlyHart_setH (s : State) (h : Hart) : OnlyHart s (s.setH h) :=
  ⟨rfl, fun _ e => State.hart_setH_ne s h e⟩

theorem OnlyHart.refl (s : State) : OnlyHart s s := ⟨rfl, fun _ _ => rfl⟩

theorem OnlyHart.cur {s t : State} (h : OnlyHart s t) : t.cur = s.cur := by
  have := congrArg State.cur h.rest; exact this

theorem OnlyHart.mem {s t : State} (h : OnlyHart s t) : t.mem = s.mem := by
  have := congrArg State.mem h.rest; exact this

theorem OnlyHart.trans {s t u : State} (h : OnlyHart s t) (g : OnlyHart t u) : OnlyHart s u := by
  constructor
  · have e : { u with harts := s.harts } = { t with harts := s.harts } := by
      have := congrArg (fun x : State => { x with harts := s.harts }) g.rest
      exact this
    rw [e, h.rest]
  · intro n hn
    rw [g.others n (by rw [h.cur]; exact hn), h.others n hn]

theorem onlyHart_setH_setH (s : State) (g h : Hart) : OnlyHart s ((s.setH g).setH h) :=
  (onlyHart_setH s g).trans (onlyHart_setH _ h)

/-! ## Completing -/

@[simp] theorem retireTo_h (s : State) (pc : Word) :
    (retireTo s pc).h = { s.h with pc, instret := s.h.instret + 1, answers := [], placing := false, issued := false } := by
  simp [retireTo]

theorem onlyHart_retireTo (s : State) (pc : Word) : OnlyHart s (retireTo s pc) := onlyHart_setH s _

/-- A write of x[d] that goes on at `pc` (R56). -/
theorem wrote_retireTo (s : State) (d : BitVec 5) (v pc : Word) : Wrote s (retireTo (s.setH (s.h.wx d v)) pc) d v pc where
  only := onlyHart_setH_setH s _ _
  regs := fun r => by simpa [Hart.rx] using Hart.rx_wx s.h d v r
  pc := by simp
  counted := by simp
  hart := by
    rw [retireTo_h, State.h_setH]
    unfold Hart.wx
    split <;> rfl

/-- `writeX` writes x[d] and goes on at the next word. -/
theorem wrote_writeX (s : State) (d : BitVec 5) (v : Word) : Wrote s (writeX s d v) d v (s.h.pc + 4) := by
  have := wrote_retireTo s d v (s.h.pc + 4)
  simpa [writeX, retire] using this

/-- Completing alone writes nothing. -/
theorem wrote_nothing (s : State) (pc : Word) : Wrote s (retireTo s pc) 0 0 pc where
  only := onlyHart_setH s _
  regs := fun r => by simp [Hart.rx]
  pc := by simp
  counted := by simp
  hart := by rw [retireTo_h]

/-! ## Exceptions -/

theorem traceRecord_off {s : State} {n : Nat} (h : (s.hart n).dbg.trace = false) (kind : Nat) (code : BitVec 8) (value pc : Word)
    (hk : kind ≠ 7) : traceRecord s n kind code value pc = s := by
  unfold traceRecord
  simp [h, hk]

/-- What clearing tags of a hart does (R258): its tags that satisfy `p` are gone, the packages that hold one are told, and nothing
else of the machine changes. -/
theorem dropTags_eq (s : State) (n : Nat) (p : Link → Bool) : ∃ l k,
    dropTags s n p = { s with links := s.links.filter (fun l => !(l.agent == n && p l)), out := s.out ++ l, nextReq := k }
      ∧ ∀ r ∈ l, r.kind = 5 ∧ r.value = n := by
  have key : ∀ (ks : List (Nat × Bool)) (u : State), ∃ l k,
      ks.foldl (fun s k => sendRequest s (.device (s.hart n).task.vi) 5 (.peer k.1 0) 0 n k.2.toNat) u
          = { u with out := u.out ++ l, nextReq := k }
        ∧ ∀ r ∈ l, r.kind = 5 ∧ r.value = n := by
    intro ks
    induction ks with
    | nil => intro u; exact ⟨[], u.nextReq, by simp, by simp⟩
    | cons c ks ih =>
      intro u
      obtain ⟨l, k, e, hl⟩ := ih (sendRequest u (.device (u.hart n).task.vi) 5 (.peer c.1 0) 0 n c.2.toNat)
      let r₀ : ExtReq :=
        { id := u.nextReq, owner := .device (u.hart n).task.vi, kind := 5, loc := .peer c.1 0, bytes := 0, value := n, op := c.2.toNat }
      refine ⟨r₀ :: l, k, ?_, ?_⟩
      · rw [List.foldl_cons, e]; simp [sendRequest, r₀]
      · intro r hr
        rcases List.mem_cons.mp hr with rfl | hr
        · exact ⟨rfl, rfl⟩
        · exact hl r hr
  exact key (tagHolders s n p) { s with links := s.links.filter (fun l => !(l.agent == n && p l)) }

@[simp] theorem dropTags_harts (s : State) (n : Nat) (p : Link → Bool) : (dropTags s n p).harts = s.harts := by
  obtain ⟨l, k, e, -⟩ := dropTags_eq s n p; rw [e]

@[simp] theorem dropTags_cur (s : State) (n : Nat) (p : Link → Bool) : (dropTags s n p).cur = s.cur := by
  obtain ⟨l, k, e, -⟩ := dropTags_eq s n p; rw [e]

@[simp] theorem dropTags_hart (s : State) (n : Nat) (p : Link → Bool) (m : Nat) : (dropTags s n p).hart m = s.hart m := by
  simp [State.hart]

@[simp] theorem dropLinks_h (s : State) (n : Nat) : (dropLinks s n).h = s.h := by simp [dropLinks, State.h]

/-- Taking an exception where the hart has a handler to go to (R292). -/
theorem trapEntry_trapped (s : State) (h : CanTrap s) (cause : BitVec 8) (tpc tvstart tval : Word) :
    Trapped s (trapEntry s cause tpc tvstart tval) cause tpc tvstart tval := by
  obtain ⟨h1, h2, h3, h4⟩ := h
  have e : traceRecord s s.cur 4 cause 0 s.h.pc = s := traceRecord_off h3 _ _ _ _ (by decide)
  have ea : s.h.array.isEmpty = true := by rw [h4]; rfl
  simp only [trapEntry, ea, if_true, trapNow, e, dropLinks, h1, h2, Bool.false_eq_true, if_false]
  obtain ⟨l, k, ed, hl⟩ := dropTags_eq (s.setH { s.h with
    answers := [], placing := false, issued := false
    trap := { s.h.trap with tcause := cause, tpc, tvstart, tval, handler := false } }) s.cur
    fun _ => true
  dsimp only at ed
  rw [ed]
  have hs : ∀ (u : State) a b c, ({ u with links := a, out := b, nextReq := c } : State).h = u.h := fun _ _ _ _ => rfl
  exact {
    cause := by simp only [State.h_setH, hs]
    tpc := by simp only [State.h_setH, hs]
    tvstart := by simp only [State.h_setH, hs]
    tval := by simp only [State.h_setH, hs]
    handler := by simp only [State.h_setH, hs]
    pc := by simp only [State.h_setH, hs]
    links := by
      intro l hl
      simp only [State.setH_links] at hl
      have := List.mem_filter.mp hl
      simpa using this.2
    others := by
      intro n hn
      rw [State.hart_setH_ne _ _ (by exact hn)]
      exact State.hart_setH_ne s _ hn
    hart := by simp only [State.h_setH, hs]
    kept := by simp only [State.h_setH, hs, and_self]
    sent := ⟨l, rfl, hl⟩
    rest := rfl }

/-- A trap that the word or a register's value decides (R28). -/
theorem wordTrap_trapped (s : State) (h : CanTrap s) (cause : BitVec 8) :
    Trapped s (wordTrap s cause) cause s.h.pc s.h.vstart (s.ir.setWidth 64) := trapEntry_trapped s h _ _ _ _

/-- A trap of a memory cause at its address (R58). -/
theorem memTrap_trapped (s : State) (h : CanTrap s) (cause : BitVec 8) (ea : Nat) :
    Trapped s (memTrap s cause ea) cause s.h.pc s.h.vstart (BitVec.ofNat 64 ea) := trapEntry_trapped s h _ _ _ _

theorem taskMode_off {s : State} (h : s.h.trap.handler = false) (k : State) : taskMode s k = k := by simp [taskMode, h]

/-- In handler mode the functions that R294 names trap. -/
theorem taskMode_on {s : State} (h : s.h.trap.handler = true) (k : State) : taskMode s k = wordTrap s Cause.handlerIllegal := by
  simp [taskMode, h]

theorem get_map_vacant (n : Nat) (p : Nat → Prop) [DecidablePred p] (hp : p n) (l : Sparse Hart) :
    (Sparse.get ({} : Hart) (l.map fun c => if p c.1 then (c.1, c.2.vacant) else c) n).live = false := by
  induction l with
  | nil => rfl
  | cons c l ih =>
    obtain ⟨k, h⟩ := c
    rw [List.map_cons]
    by_cases e : n = k
    · subst e
      rw [if_pos hp]
      show (if n = n then h.vacant else _).live = false
      rw [if_pos rfl]; rfl
    · by_cases g : p k
      · rw [if_pos g]
        show (if n = k then h.vacant else _).live = false
        rw [if_neg e]; exact ih
      · rw [if_neg g]
        show (if n = k then h else _).live = false
        rw [if_neg e]; exact ih

/-- A hart slot that was freed holds no task. -/
theorem freeSlot_dead (s : State) (n : Nat) : ((freeSlot s n).hart n).live = false :=
  get_map_vacant n
    (fun k => k = n ∨ k ∈ ((forgetHart (giveUpWords (dropLinks (chargeSlot (endPanels s n) n) n) n fun _ => true) n).hart n).slots)
    (.inl rfl) _

theorem freeArea_hart (s : State) (vi : Nat) (area : Option Nat) (n : Nat) : (freeArea s vi area).hart n = s.hart n := by
  cases area <;> rfl

/-- A killed task's hart slot is free (R296). -/
theorem kill_dead (s : State) (n : Nat) (cause : BitVec 8) (tpc tval : Word) (inHandler : Bool) :
    ((kill s n cause tpc tval inHandler).hart n).live = false := by
  unfold kill
  rw [freeArea_hart]
  exact freeSlot_dead _ _

/-- A second exception in the handler, or one with no handler set, kills the task (R292). -/
theorem trapEntry_kills (s : State) (h : s.h.trap.handler = true ∨ s.h.trap.tvec = 0) (t : s.h.dbg.trace = false)
    (r : s.h.array = []) (cause : BitVec 8) (tpc tvstart tval : Word) : ((trapEntry s cause tpc tvstart tval).hart s.cur).live = false := by
  have e : traceRecord s s.cur 4 cause 0 s.h.pc = s := traceRecord_off t _ _ _ _ (by decide)
  simp only [trapEntry, r, List.isEmpty_nil, if_true, trapNow, e]
  by_cases h1 : s.h.trap.handler = true
  · simp only [h1, if_true]; exact kill_dead ..
  · rcases h with h | h
    · exact absurd h h1
    · have h1' : s.h.trap.handler = false := by simpa using h1
      simp only [h1', h, if_true, Bool.false_eq_true, if_false]; exact kill_dead ..

/-- The return from a handler (R74). -/
theorem trapReturn_h (s : State) : (trapReturn s).h =
    { s.h with
      pc := s.h.trap.tpc, vstart := s.h.trap.tvstart, instret := s.h.instret + 1, trap := { s.h.trap with handler := false }
      answers := [], placing := false, issued := false } := by
  simp [trapReturn]

theorem onlyHart_trapReturn (s : State) : OnlyHart s (trapReturn s) := onlyHart_setH s _

end Sys2Proof.Machine
end

