-- ==== Sys2Proof/Laws/Commit.lean ====
section
/-! SUPPORT. What a commit of a calm hart does, and what a commit point leaves (R93, R98, R102). -/

namespace Sys2Proof.Machine

/-- The state in which a calm hart's commit leaves the machine: a new interval is open. -/
def opened (s : State) : State := takeCheckpoint (performStores s s.cur) s.cur

/-- An empty buffer has no store to a device-class page. -/
theorem Hart.touching_nil {h : Hart} (e : h.sb = []) : h.touching = h := by
  have : h.sb.any (·.device) = false := by rw [e]; rfl
  simp only [Hart.touching, this, Bool.or_false]

/-- What step 3 of a commit does to an empty buffer. -/
theorem performStores_nil {s : State} (h : s.h.sb = []) (c : s.h.committing = false) :
    OnlyHart s (performStores s s.cur) ∧ (performStores s s.cur).h = { s.h with sb := [], sbused := 0 } := by
  have e : (s.hart s.cur).sb = [] := h
  have g : (s.hart s.cur).committing = false := c
  have hc : ∀ g : Hart, (s.setHart s.cur g).hart s.cur = g := fun g => State.hart_setHart_self s s.cur g
  have hp : performScratch s s.cur = (s.setH s.h).setH { s.h with sb := [] } := by
    simp only [performScratch, Hart.touching_nil e, e, List.filter_nil, List.foldl_nil, hc]
    rfl
  have hq : (performScratch s s.cur).hart s.cur = { s.h with sb := [] } := by
    rw [hp]; exact State.h_setH (s.setH s.h) _
  have hr : performStores s s.cur = ((s.setH s.h).setH { s.h with sb := [] }).setH { s.h with sb := [], sbused := 0 } := by
    simp only [performStores, g, Bool.false_eq_true, if_false, hq, performInOrder, List.isEmpty_nil, if_true, Bool.not_true]
    rw [hp]
    have : ({ s.h with sb := [], sbused := 0 } : Hart) = { s.h with sb := [], sbused := 0, committing := false } := by
      have : s.h.committing = false := c
      rw [← this]
    rw [this]; rfl
  rw [hr]
  exact ⟨(onlyHart_setH_setH s _ _).trans (onlyHart_setH _ _), State.h_setH _ _⟩

/-- A commit of a calm hart succeeds. -/
theorem committed_calm {s : State} (c : Calm s) (k : State → State) : committed s k = k (opened s) := by
  have h1 : (s.hart s.cur).array = [] := c.array
  have h2 : (s.hart s.cur).gathers = [] := c.gathers
  have h3 : (s.hart s.cur).marks.failed = none := c.checked.1
  have h5 : (s.hart s.cur).marks.checks = [] := c.checked.2
  have h6 : (s.hart s.cur).committing = false := c.closed
  obtain ⟨o, e⟩ := performStores_nil c.buffer.1 c.closed
  have h4 : ((performStores s s.cur).hart s.cur).sb = [] := by
    have := congrArg Hart.sb e
    simpa only [State.h, o.cur] using this
  simp only [committed, commitHart, beforeStores, h1, h2, h3, h4, h5, h6, List.isEmpty_nil, Bool.not_true, Bool.false_eq_true,
    if_false, if_true, opened]

/-- The checkpointed registers are those that CKMASK names (R96, R98). -/
theorem get_maskedX (mask : BitVec 32) (x : Sparse Word) (r : Nat) (h : mask.getLsbD r = true) :
    Sparse.get 0 (maskedX mask x) r = Sparse.get 0 x r := by
  induction x with
  | nil => rfl
  | cons c x ih =>
    obtain ⟨k, v⟩ := c
    unfold maskedX at *
    by_cases hk : mask.getLsbD k = true
    · simp only [List.filter, hk, Sparse.get]
      split <;> simp_all
    · have hk' : mask.getLsbD k = false := by simpa using hk
      have hr : r ≠ k := by rintro rfl; exact hk h
      simp only [List.filter, hk', Sparse.get, hr, if_false]
      exact ih

theorem bare_settled (t : Stream) : t.settled.bare = t.bare := rfl

theorem streams_bare_settled (l : List Stream) : (l.map Stream.settled).map Stream.bare = l.map Stream.bare := by
  simp [Function.comp_def, bare_settled]

@[simp] theorem Hart.checkpointed_x (h : Hart) : h.checkpointed.x = h.x := rfl

@[simp] theorem Hart.checkpointed_pc (h : Hart) : h.checkpointed.pc = h.pc := rfl

@[simp] theorem Hart.checkpointed_instret (h : Hart) : h.checkpointed.instret = h.instret := rfl

@[simp] theorem Hart.checkpointed_ckmask (h : Hart) : h.checkpointed.ckmask = h.ckmask := rfl

@[simp] theorem Hart.checkpointed_strip (h : Hart) : h.checkpointed.strip = h.strip := rfl

@[simp] theorem Hart.checkpointed_llLine (h : Hart) : h.checkpointed.llLine = h.llLine := rfl

@[simp] theorem Hart.checkpointed_ckpt (h : Hart) : h.checkpointed.ckpt = h.checkpoint := rfl

/-- A checkpoint leaves the hart as it was. -/
@[simp] theorem Hart.checkpointed_view (h : Hart) : h.checkpointed.view = h.view := by
  simp only [Hart.checkpointed, Hart.view, streams_bare_settled]

/-- The hart after a checkpoint. -/
theorem takeCheckpoint_view (s : State) (n : Nat) : ((takeCheckpoint s n).hart n).view = (s.hart n).view := by
  simp only [takeCheckpoint, State.hart_setHart_self, Hart.checkpointed_view]

theorem opened_h {s : State} (c : Calm s) : (opened s).h = ({ s.h with sb := [], sbused := 0 } : Hart).checkpointed := by
  obtain ⟨o, e⟩ := performStores_nil c.buffer.1 c.closed
  have e' : (performStores s s.cur).hart s.cur = { s.h with sb := [], sbused := 0 } := by simpa only [State.h, o.cur] using e
  have k : (opened s).cur = s.cur := by simp only [opened, takeCheckpoint, State.setHart_cur, o.cur]
  simp only [State.h, k]
  simp only [opened, takeCheckpoint, State.hart_setHart_self, e']
  rfl

theorem opened_only {s : State} (c : Calm s) : OnlyHart s (opened s) := by
  have o := (performStores_nil c.buffer.1 c.closed).1
  have := onlyHart_setH (performStores s s.cur) ((performStores s s.cur).hart s.cur).checkpointed
  exact o.trans (by simpa only [opened, takeCheckpoint, State.setH, o.cur] using this)

/-- After its commit the hart is as calm as before. -/
theorem opened_calm {s : State} (c : Calm s) : Calm (opened s) := by
  have e := opened_h c
  constructor <;> rw [e]
  · exact c.live
  · exact c.runs
  · exact c.halted
  · exact c.task
  · exact c.trace
  · exact c.array
  · exact c.gathers
  · exact ⟨rfl, rfl⟩
  · rfl
  · exact c.asked
  · exact ⟨rfl, rfl⟩

theorem opened_view {s : State} (c : Calm s) : (opened s).h.view = s.h.view := by
  rw [opened_h c, Hart.checkpointed_view]
  have h1 := c.buffer.1
  have h2 := c.buffer.2
  simp only [Hart.view, h1, h2]

/-- The end of a commit-point instruction on a hart that nobody asked to leave (R98, R102). -/
theorem finishCommit_at {s : State} (h : s.h.preempt = none) (g : s.h.dbg.haltReq = false) :
    (finishCommit s).h = ({ s.h with
        pc := s.h.pc + 4, instret := s.h.instret + 1, answers := [], placing := false, issued := false } : Hart).checkpointed
      ∧ OnlyHart s (finishCommit s) := by
  have e : finishCommit s = takeCheckpoint (retire s) s.cur := by
    have h1 : ((takeCheckpoint (retire s) s.cur).hart s.cur).preempt = none := by
      simp [takeCheckpoint, Hart.checkpointed, retire, retireTo, State.setH, State.hart_setHart_self, h]
    have h2 : ((takeCheckpoint (retire s) s.cur).hart s.cur).dbg.haltReq = false := by
      simp [takeCheckpoint, Hart.checkpointed, retire, retireTo, State.setH, State.hart_setHart_self, g]
    simp [finishCommit, switchIfAsked, h1, h2]
  rw [e]
  refine ⟨?_, onlyHart_setH_setH s _ _⟩
  simp only [takeCheckpoint, retire, retireTo, State.h, State.setH, State.setHart_cur, State.hart_setHart_self]

/-- A commit point of a calm hart whose action is `finishCommit` after writing x[d]. -/
theorem committedAt_finish {s u : State} (c : Calm s) (cur : u.cur = s.cur) (d : BitVec 5) (v : Word)
    (hu : { u.h with x := s.h.x, llLine := s.h.llLine } = { (opened s).h with x := s.h.x, llLine := s.h.llLine })
    (hl : u.h.llLine = s.h.llLine) (others : ∀ n, n ≠ s.cur → u.hart n = s.hart n)
    (regs : ∀ r, u.h.rx r = if r = d ∧ d ≠ 0 then v else s.h.rx r) : CommittedAt s (finishCommit u) d v := by
  have o := opened_h c
  have key : ∀ {β : Type} (f : Hart → β), f { u.h with x := s.h.x, llLine := s.h.llLine } = f { (opened s).h with x := s.h.x, llLine := s.h.llLine } :=
    fun f => congrArg f hu
  have hp : u.h.preempt = none := by have := key (·.preempt); rw [o] at this; exact this.trans c.asked.1
  have hr : u.h.dbg.haltReq = false := by have := key (·.dbg.haltReq); rw [o] at this; exact this.trans c.asked.2
  obtain ⟨e, only⟩ := finishCommit_at hp hr
  have upc : u.h.pc = s.h.pc := by have := key (·.pc); rw [o] at this; exact this
  have uin : u.h.instret = s.h.instret := by have := key (·.instret); rw [o] at this; exact this
  have ucm : u.h.ckmask = s.h.ckmask := by have := key (·.ckmask); rw [o] at this; exact this
  have ust : u.h.strip = s.h.strip := by have := key (·.strip); rw [o] at this; exact this
  constructor
  · intro n hn
    rw [only.others n (by rw [cur]; exact hn)]
    exact others n hn
  · rw [e]
    have h1 : u.h.view = (opened s).h.view := by
      have := key Hart.view
      have a : ({ u.h with x := s.h.x, llLine := s.h.llLine } : Hart).view = u.h.view := by
        simp only [Hart.view, ← hl]
      have b : ({ (opened s).h with x := s.h.x, llLine := s.h.llLine } : Hart).view = (opened s).h.view := by
        rw [o]; rfl
      rw [← a, ← b]; exact this
    rw [Hart.checkpointed_view, ← opened_view c, ← h1]
    rfl
  · intro r; rw [e]; exact regs r
  · rw [e]; simp [upc]
  · rw [e]; simp [uin]
  · rw [e]; exact ⟨by simp [Hart.checkpoint, upc], rfl, by simp [Hart.checkpoint, ucm], by simp [Hart.checkpoint, ust]⟩
  · intro r hr
    rw [e]
    exact get_maskedX _ _ _ (by rw [← ucm] at hr; exact hr)

/-- `sys.scommit` on a calm hart (R100). -/
theorem committedAt_scommit {s : State} (c : Calm s) :
    CommittedAt s (committed s finishCommit) 0 0 ∧ OnlyHart s (committed s finishCommit) := by
  rw [committed_calm c]
  have oc := opened_calm c
  refine ⟨committedAt_finish c (opened_only c).cur 0 0 ?_ (by rw [opened_h c]; rfl) (opened_only c).others ?_, ?_⟩
  · rfl
  · intro r; rw [opened_h c]; simp [Hart.rx]
  · exact (opened_only c).trans (finishCommit_at oc.asked.1 oc.asked.2).2

end Sys2Proof.Machine
end

