-- ==== Sys2Proof/Laws/Vector.lean ====
section
/-! SUPPORT. Vector registers and elements: what a write of one leaves of the others. -/

namespace Sys2Proof.Machine

/-! ## Bits of a number -/

/-- A bit of a number with `w` bits replaced. -/
theorem testBit_patch (old bit w v k : Nat) :
    (patch old bit w v).testBit k = if bit ≤ k ∧ k < bit + w then v.testBit (k - bit) else old.testBit k := by
  have e : patch old bit w v = 2 ^ bit * (2 ^ w * (old / 2 ^ (bit + w)) + v % 2 ^ w) + old % 2 ^ bit := by
    unfold patch
    rw [Nat.mul_add, ← Nat.mul_assoc, ← Nat.pow_add, Nat.mul_comm (2 ^ (bit + w)), Nat.mul_comm (2 ^ bit) (v % 2 ^ w)]
    omega
  rw [e, Nat.testBit_two_pow_mul_add _ (Nat.mod_lt _ (Nat.two_pow_pos bit)),
    Nat.testBit_two_pow_mul_add _ (Nat.mod_lt _ (Nat.two_pow_pos w))]
  by_cases h1 : k < bit
  · simp [h1, Nat.not_le.mpr h1, Nat.testBit_mod_two_pow]
  · have h1' : bit ≤ k := Nat.not_lt.mp h1
    by_cases h2 : k - bit < w
    · have : k < bit + w := by omega
      simp [h1, h2, h1', this, Nat.testBit_mod_two_pow]
    · have h3 : ¬k < bit + w := by omega
      rw [if_neg h1, if_neg h2, if_neg (fun h => h3 h.2), Nat.testBit_div_two_pow]
      congr 1; omega

/-- The replaced bits read as what replaced them. -/
theorem patch_self (old bit w v : Nat) : patch old bit w v / 2 ^ bit % 2 ^ w = v % 2 ^ w := by
  apply Nat.eq_of_testBit_eq
  intro k
  rw [Nat.testBit_mod_two_pow, Nat.testBit_mod_two_pow, Nat.testBit_div_two_pow, testBit_patch]
  by_cases h : k < w
  · rw [if_pos (by omega)]; simp [h]
  · simp [h]

/-- Bits apart from the replaced ones read as before. -/
theorem patch_apart (old bit w v b n : Nat) (h : b + n ≤ bit ∨ bit + w ≤ b) :
    patch old bit w v / 2 ^ b % 2 ^ n = old / 2 ^ b % 2 ^ n := by
  apply Nat.eq_of_testBit_eq
  intro k
  rw [Nat.testBit_mod_two_pow, Nat.testBit_mod_two_pow, Nat.testBit_div_two_pow, Nat.testBit_div_two_pow, testBit_patch]
  by_cases hk : k < n
  · rw [if_neg (by omega)]
  · simp [hk]

/-! ## Registers -/

theorem Files.vslot_lt (f : Files) {k : Nat} (h : k < 32) : f.vslot k < 32 := by
  unfold Files.vslot; split <;> omega

theorem Files.vslot_inj (f : Files) {j k : Nat} (hj : j < 32) (hk : k < 32) (h : f.vslot j = f.vslot k) : j = k := by
  unfold Files.vslot at h
  have := f.vrot.isLt
  split at h <;> split at h <;> omega

@[simp] theorem Hart.putReg_vslot (h : Hart) (q k v top j : Nat) : (h.putReg q k v top).files.vslot j = h.files.vslot j := rfl
@[simp] theorem Hart.putReg_pslot (h : Hart) (q k v top j : Nat) : (h.putReg q k v top).files.pslot j = h.files.pslot j := rfl

/-- A register after a write of a register. -/
theorem Hart.vreg_putReg (h : Hart) {q k p j : Nat} (v top : Nat) (hk : k < 32) (hj : j < 32) :
    (h.putReg q k v top).vreg p j = if p = q ∧ j = k then v else h.vreg p j := by
  unfold Hart.vreg
  rw [Hart.putReg_vslot]
  show Sparse.get 0 (Sparse.set 0 h.files.v (q * 32 + h.files.vslot k) v) _ = _
  rw [Sparse.get_set]
  have a := h.files.vslot_lt hk
  have b := h.files.vslot_lt hj
  by_cases e : p = q ∧ j = k
  · obtain ⟨rfl, rfl⟩ := e
    simp
  · rw [if_neg e, if_neg]
    intro c
    have e1 : p = q := by omega
    exact e ⟨e1, h.files.vslot_inj hj hk (by omega)⟩

variable {c : Vc} {base w regs : Nat}

theorem Vc.Group.room (g : c.Group base w regs) (hs : 0 < c.share) : 0 < c.vlenb * 8 := by
  have h := Nat.lt_of_lt_of_le (Nat.mul_pos hs g.whole.1) g.holds
  exact Nat.pos_of_ne_zero fun e => by rw [e] at h; simp at h

theorem Vc.Group.place_lt (g : c.Group base w regs) (hs : 0 < c.share) (i : Nat) :
    base ≤ (c.place base w i).2.1 ∧ (c.place base w i).2.1 < base + regs := by
  have h1 : i % c.share * w < regs * (c.vlenb * 8) :=
    Nat.lt_of_lt_of_le (Nat.mul_lt_mul_of_pos_right (Nat.mod_lt i hs) g.whole.1) g.holds
  have : i % c.share * w / (c.vlenb * 8) < regs := (Nat.div_lt_iff_lt_mul (g.room hs)).mpr h1
  constructor
  · exact Nat.le_add_right _ _
  · exact Nat.add_lt_add_left this base

/-- Two elements of one register lie apart in it. -/
theorem Vc.place_apart {i j : Nat} (hij : i ≠ j)
    (hq : (c.place base w i).1 = (c.place base w j).1) (hr : (c.place base w i).2.1 = (c.place base w j).2.1) :
    (c.place base w i).2.2 + w ≤ (c.place base w j).2.2 ∨ (c.place base w j).2.2 + w ≤ (c.place base w i).2.2 := by
  simp only [Vc.place] at hq hr ⊢
  have hr' : i % c.share * w / (c.vlenb * 8) = j % c.share * w / (c.vlenb * 8) := by omega
  have hne : i % c.share ≠ j % c.share := by
    intro h
    apply hij
    rw [← Nat.div_add_mod i c.share, ← Nat.div_add_mod j c.share, hq, h]
  have di := Nat.div_add_mod (i % c.share * w) (c.vlenb * 8)
  have dj := Nat.div_add_mod (j % c.share * w) (c.vlenb * 8)
  rw [hr'] at di
  rcases Nat.lt_or_gt_of_ne hne with h | h
  · have : (i % c.share + 1) * w ≤ j % c.share * w := Nat.mul_le_mul_right w h
    rw [Nat.add_mul] at this
    left; omega
  · have : (j % c.share + 1) * w ≤ i % c.share * w := Nat.mul_le_mul_right w h
    rw [Nat.add_mul] at this
    right; omega

theorem Hart.element_eq (h : Hart) (c : Vc) (base w i : Nat) : h.element c base w i =
    h.vreg (c.place base w i).1 (c.place base w i).2.1 / 2 ^ (c.place base w i).2.2 % 2 ^ w := rfl

theorem Hart.putElement_eq (h : Hart) (c : Vc) (base w i v : Nat) : h.putElement c base w i v =
    h.putReg (c.place base w i).1 (c.place base w i).2.1
      (patch (h.vreg (c.place base w i).1 (c.place base w i).2.1) (c.place base w i).2.2 w v)
      (ceilDiv ((c.place base w i).2.2 + w) 8) := rfl

/-- An element after a write of an element of its group. -/
theorem Hart.element_putElement (h : Hart) (g : c.Group base w regs) (hs : 0 < c.share) (i v j : Nat) :
    (h.putElement c base w i v).element c base w j = if j = i then v % 2 ^ w else h.element c base w j := by
  have li := (g.place_lt hs i).2
  have lj := (g.place_lt hs j).2
  have b := g.last
  rw [Hart.element_eq, Hart.element_eq, Hart.putElement_eq, Hart.vreg_putReg _ _ _ (by omega) (by omega)]
  by_cases e : j = i
  · subst e
    simp only [and_self, if_true]
    exact patch_self _ _ _ _
  · rw [if_neg e]
    by_cases p : (c.place base w j).1 = (c.place base w i).1 ∧ (c.place base w j).2.1 = (c.place base w i).2.1
    · rw [if_pos p, ← p.1, ← p.2]
      exact patch_apart _ _ _ _ _ _ (Vc.place_apart e p.1 p.2)
    · rw [if_neg p]

/-- A register outside the group keeps its value. -/
theorem Hart.vreg_putElement (h : Hart) (g : c.Group base w regs) (hs : 0 < c.share) (i v q : Nat) {r : Nat} (hr : r < 32)
    (ho : r < base ∨ base + regs ≤ r) : (h.putElement c base w i v).vreg q r = h.vreg q r := by
  have li := g.place_lt hs i
  have b := g.last
  rw [Hart.putElement_eq, Hart.vreg_putReg _ _ _ (by omega) hr, if_neg]
  omega

/-- Two harts that differ in the group of `w`-bit elements at `base` and in what of it counts as written, at most. -/
structure Hart.Within (h t : Hart) (c : Vc) (base w regs : Nat) : Prop where
  others : ∀ q r, r < 32 → (r < base ∨ base + regs ≤ r) → t.vreg q r = h.vreg q r
  above : ∀ q, t.vreg q base / 2 ^ (c.share * w) = h.vreg q base / 2 ^ (c.share * w)
  preds : ∀ q k, t.preg q k = h.preg q k
  rotated : t.files.vrot = h.files.vrot ∧ t.files.prot = h.files.prot
  hart : { t with files := h.files, dirty := h.dirty } = h

theorem Hart.Within.refl (h : Hart) : Hart.Within h h c base w regs := ⟨fun _ _ _ _ => rfl, fun _ => rfl, fun _ _ => rfl, ⟨rfl, rfl⟩, rfl⟩

theorem Hart.Within.trans {h t u : Hart} (a : Hart.Within h t c base w regs) (b : Hart.Within t u c base w regs) :
    Hart.Within h u c base w regs where
  others := fun q r hr ho => (b.others q r hr ho).trans (a.others q r hr ho)
  above := fun q => (b.above q).trans (a.above q)
  preds := fun q k => (b.preds q k).trans (a.preds q k)
  rotated := ⟨b.rotated.1.trans a.rotated.1, b.rotated.2.trans a.rotated.2⟩
  hart := by
    have e : { u with files := h.files, dirty := h.dirty } = { t with files := h.files, dirty := h.dirty } :=
      congrArg (fun x : Hart => { x with files := h.files, dirty := h.dirty }) b.hart
    rw [e, a.hart]

theorem Vc.share_mul (hs : 0 < c.share) (i : Nat) :
    (c.place base w i).2.1 = base → (c.place base w i).2.2 + w ≤ c.share * w := by
  intro h
  have h : base + i % c.share * w / (c.vlenb * 8) = base := h
  have d := Nat.div_add_mod (i % c.share * w) (c.vlenb * 8)
  have z : i % c.share * w / (c.vlenb * 8) = 0 := by omega
  rw [z] at d
  have : (i % c.share + 1) * w ≤ c.share * w := Nat.mul_le_mul_right w (Nat.mod_lt i hs)
  rw [Nat.add_mul] at this
  show i % c.share * w % (c.vlenb * 8) + w ≤ _
  omega

/-- Bits above the replaced ones read as before. -/
theorem patch_above (old bit w v b : Nat) (h : bit + w ≤ b) : patch old bit w v / 2 ^ b = old / 2 ^ b := by
  apply Nat.eq_of_testBit_eq
  intro k
  rw [Nat.testBit_div_two_pow, Nat.testBit_div_two_pow, testBit_patch, if_neg (by omega)]

theorem Hart.within_putElement (h : Hart) (g : c.Group base w regs) (hs : 0 < c.share) (i v : Nat) :
    Hart.Within h (h.putElement c base w i v) c base w regs where
  others := fun q r hr ho => Hart.vreg_putElement h g hs i v q hr ho
  above := by
    intro q
    have li := g.place_lt hs i
    have b := g.last
    rw [Hart.putElement_eq, Hart.vreg_putReg _ _ _ (by omega) (by omega)]
    split
    · rename_i e
      rw [patch_above _ _ _ _ _ (Vc.share_mul hs i e.2.symm), e.1, ← e.2]
    · rfl
  preds := fun q k => by cases k <;> rfl
  rotated := ⟨rfl, rfl⟩
  hart := rfl

/-- Writing a list of elements, each by the value that `val` gives it. -/
theorem Hart.foldl_putElement (g : c.Group base w regs) (val : Nat → Nat) (l : List (Nat × Nat)) :
    ∀ h : Hart, (l ≠ [] → 0 < c.share) → (∀ p ∈ l, p.2 = val p.1) →
      Hart.Within h (l.foldl (fun h p => h.putElement c base w p.1 p.2) h) c base w regs
      ∧ ∀ j, (l.foldl (fun h p => h.putElement c base w p.1 p.2) h).element c base w j
          = if j ∈ l.map (·.1) then val j % 2 ^ w else h.element c base w j := by
  induction l with
  | nil => intro h _ _; exact ⟨.refl h, fun j => by simp⟩
  | cons p l ih =>
    intro h hs hv
    have hs := hs (by simp)
    have a := ih (h.putElement c base w p.1 p.2) (fun _ => hs) fun q hq => hv q (List.mem_cons_of_mem _ hq)
    refine ⟨(h.within_putElement g hs p.1 p.2).trans a.1, fun j => ?_⟩
    rw [List.foldl_cons, a.2 j, Hart.element_putElement h g hs]
    by_cases e : j ∈ l.map (·.1)
    · simp [e]
    · by_cases e' : j = p.1
      · subst e'
        simp only [e, if_false, if_true, List.map_cons, List.mem_cons, true_or]
        rw [hv p (by simp)]
      · simp [e, e']

/-- Writing zeros to the elements `i0`, `i0 + 1`, … for which `skip` is not set. -/
theorem Hart.foldl_zeros (g : c.Group base w regs) (skip : Nat → Bool) (i0 : Nat) (l : List Nat) :
    ∀ h : Hart, (l ≠ [] → 0 < c.share) →
      Hart.Within h (l.foldl (fun h k => if skip (i0 + k) then h else h.putElement c base w (i0 + k) 0) h) c base w regs
      ∧ ∀ j, (l.foldl (fun h k => if skip (i0 + k) then h else h.putElement c base w (i0 + k) 0) h).element c base w j
          = if (∃ k ∈ l, j = i0 + k) ∧ skip j = false then 0 else h.element c base w j := by
  induction l with
  | nil => intro h _; exact ⟨.refl h, fun j => by simp⟩
  | cons k l ih =>
    intro h hs
    have hs := hs (by simp)
    by_cases sk : skip (i0 + k) = true
    · have a := ih h fun _ => hs
      simp only [List.foldl_cons, sk, if_true]
      refine ⟨a.1, fun j => ?_⟩
      rw [a.2 j]
      by_cases e : j = i0 + k
      · subst e; simp [sk]
      · simp [e]
    · have sk' : skip (i0 + k) = false := by simpa using sk
      have a := ih (h.putElement c base w (i0 + k) 0) fun _ => hs
      simp only [List.foldl_cons, sk', Bool.false_eq_true, if_false]
      refine ⟨(h.within_putElement g hs _ _).trans a.1, fun j => ?_⟩
      rw [a.2 j, Hart.element_putElement h g hs]
      by_cases e : j = i0 + k
      · subst e; simp [sk']
      · simp [e]

/-- A group after a vector instruction wrote it (R113). -/
theorem Hart.writeGroup_spec (h : Hart) (g : c.Group base w regs) (active : Nat → Bool) (e : Nat) (val : Nat → Nat)
    (he : e ≤ c.share * c.cores) (vals : List (Nat × Nat)) (hv : ∀ p ∈ vals, p.2 = val p.1)
    (hm : ∀ j, j ∈ vals.map (·.1) ↔ c.start ≤ j ∧ j < e ∧ active j = true) :
    Hart.Within h (h.writeGroup c active base w e vals) c base w regs
    ∧ ∀ j, j < c.share * c.cores → (h.writeGroup c active base w e vals).element c base w j
        = c.classed active e j (h.element c base w j) 0 (val j % 2 ^ w) := by
  have pos : ∀ {j}, j < c.share * c.cores → 0 < c.share := fun {j} hj => Nat.pos_of_ne_zero fun z => by simp [z] at hj
  have p1 := Hart.foldl_putElement g val vals h (fun hne => by
    obtain ⟨p, hp⟩ := List.exists_mem_of_ne_nil _ hne
    have := (hm p.1).mp (List.mem_map.mpr ⟨p, hp, rfl⟩)
    exact pos (j := p.1) (by omega)) hv
  have p2 : ∀ h1 : Hart, Hart.Within h1 (if c.ip then
      (List.range (e - c.start)).foldl (fun h k => if active (c.start + k) then h else h.putElement c base w (c.start + k) 0) h1
      else h1) c base w regs ∧ ∀ j, (if c.ip then
      (List.range (e - c.start)).foldl (fun h k => if active (c.start + k) then h else h.putElement c base w (c.start + k) 0) h1
      else h1).element c base w j
        = if c.ip = true ∧ c.start ≤ j ∧ j < e ∧ active j = false then 0 else h1.element c base w j := by
    intro h1
    by_cases ip : c.ip = true
    · have a := Hart.foldl_zeros g active c.start (List.range (e - c.start)) h1 (fun hne => by
        have : e - c.start ≠ 0 := fun z => hne (by simp [z])
        exact pos (j := 0) (by omega))
      rw [if_pos ip]
      refine ⟨a.1, fun j => ?_⟩
      rw [a.2 j]
      have : (∃ k ∈ List.range (e - c.start), j = c.start + k) ↔ c.start ≤ j ∧ j < e := by
        constructor
        · rintro ⟨k, hk, rfl⟩; have := List.mem_range.mp hk; omega
        · rintro ⟨h1, h2⟩; exact ⟨j - c.start, List.mem_range.mpr (by omega), by omega⟩
      simp only [this, ip, true_and, and_assoc]
    · rw [if_neg ip]
      exact ⟨.refl h1, fun j => by simp [ip]⟩
  have p3 : ∀ h1 : Hart, Hart.Within h1 (h1.zeroTail c base w (max e c.start)) c base w regs ∧
      ∀ j, j < c.share * c.cores → (h1.zeroTail c base w (max e c.start)).element c base w j
        = if c.tp = true ∧ e ≤ j ∧ c.start ≤ j then 0 else h1.element c base w j := by
    intro h1
    unfold Hart.zeroTail
    by_cases tp : c.tp = true
    · have a := Hart.foldl_zeros g (fun _ => false) (max e c.start) (List.range (c.share * c.cores - max e c.start)) h1 (fun hne => by
        have : c.share * c.cores - max e c.start ≠ 0 := fun z => hne (by simp [z])
        exact pos (j := 0) (by omega))
      simp only [Bool.false_eq_true, if_false] at a
      rw [if_pos tp]
      refine ⟨a.1, fun j hj => ?_⟩
      rw [a.2 j]
      have : (∃ k ∈ List.range (c.share * c.cores - max e c.start), j = max e c.start + k) ↔ e ≤ j ∧ c.start ≤ j := by
        constructor
        · rintro ⟨k, hk, rfl⟩; omega
        · rintro ⟨h1, h2⟩; exact ⟨j - max e c.start, List.mem_range.mpr (by omega), by omega⟩
      simp only [this, tp, true_and, and_true]
    · rw [if_neg tp]
      exact ⟨.refl h1, fun j _ => by simp [tp]⟩
  refine ⟨(p1.1.trans (p2 _).1).trans (p3 _).1, fun j hj => ?_⟩
  refine ((p3 _).2 j hj).trans ?_
  rw [(p2 _).2 j, p1.2 j]
  simp only [hm, Vc.classed]
  by_cases a1 : j < c.start
  · simp [a1, Nat.not_le.mpr a1]
  · have a1' : c.start ≤ j := Nat.not_lt.mp a1
    by_cases a2 : j < e
    · have a2' : ¬e ≤ j := Nat.not_le.mpr a2
      by_cases a3 : active j = true
      · simp [a1, a1', a2, a2', a3]
      · simp [a1, a1', a2, a2', a3]
    · have a2' : e ≤ j := Nat.not_lt.mp a2
      simp [a1, a1', a2, a2']

end Sys2Proof.Machine
end

