-- ==== Sys2Proof/Laws/Predicates.lean ====
section
/-! SUPPORT. Predicate registers: what a write of one leaves of the others. -/

namespace Sys2Proof.Machine

theorem Files.pslot_lt (f : Files) {k : Nat} (h : k < 16) : f.pslot k < 16 := by
  unfold Files.pslot; split <;> omega

theorem Files.pslot_inj (f : Files) {j k : Nat} (hj : j < 16) (hk : k < 16) (h : f.pslot j = f.pslot k) : j = k := by
  unfold Files.pslot at h
  have := f.prot.isLt
  split at h <;> split at h <;> omega

theorem Hart.preg_of_files {h t : Hart} (e : t.files.p = h.files.p) (r : t.files.prot = h.files.prot) (v : t.vlenb = h.vlenb)
    (q k : Nat) : t.preg q k = h.preg q k := by
  unfold Hart.preg Files.pslot
  rw [e, r, v]

/-- A predicate after a write of one of p1 to p15. -/
theorem Hart.preg_putPred (h : Hart) {q k p j : Nat} (v : Nat) (hk : k < 16) (hj : j < 16) (k0 : k ≠ 0) :
    (h.putPred q (h.files.pslot k) v).preg p j = if p = q ∧ j = k then v else h.preg p j := by
  by_cases j0 : j = 0
  · subst j0
    rw [if_neg (by omega)]
    rfl
  · show (if j = 0 then _ else Sparse.get 0 (Sparse.set 0 h.files.p (q * 16 + h.files.pslot k) v) (p * 16 + h.files.pslot j)) = _
    rw [if_neg j0, Sparse.get_set]
    have a := h.files.pslot_lt hk
    have b := h.files.pslot_lt hj
    by_cases e : p = q ∧ j = k
    · obtain ⟨rfl, rfl⟩ := e
      simp
    · rw [if_neg e, if_neg]
      · unfold Hart.preg; rw [if_neg j0]
      · intro c
        exact e ⟨by omega, h.files.pslot_inj hj hk (by omega)⟩

/-- Two harts that differ in predicate `k` and in what of it counts as written, at most. -/
structure Hart.WithinPred (h t : Hart) (k : Nat) : Prop where
  others : ∀ q j, j < 16 → (j ≠ k ∨ k = 0) → t.preg q j = h.preg q j
  vectors : ∀ q r, t.vreg q r = h.vreg q r
  rotated : t.files.vrot = h.files.vrot ∧ t.files.prot = h.files.prot
  hart : { t with files := h.files, dirty := h.dirty } = h

theorem Hart.WithinPred.refl (h : Hart) (k : Nat) : Hart.WithinPred h h k := ⟨fun _ _ _ _ => rfl, fun _ _ => rfl, ⟨rfl, rfl⟩, rfl⟩

theorem Hart.WithinPred.trans {h t u : Hart} {k : Nat} (a : Hart.WithinPred h t k) (b : Hart.WithinPred t u k) :
    Hart.WithinPred h u k where
  others := fun q j hj ho => (b.others q j hj ho).trans (a.others q j hj ho)
  vectors := fun q r => (b.vectors q r).trans (a.vectors q r)
  rotated := ⟨b.rotated.1.trans a.rotated.1, b.rotated.2.trans a.rotated.2⟩
  hart := by
    have e : { u with files := h.files, dirty := h.dirty } = { t with files := h.files, dirty := h.dirty } :=
      congrArg (fun x : Hart => { x with files := h.files, dirty := h.dirty }) b.hart
    rw [e, a.hart]

theorem Hart.within_putPred (h : Hart) {k : Nat} (hk : k < 16) (k0 : k ≠ 0) (q v : Nat) :
    Hart.WithinPred h (h.putPred q (h.files.pslot k) v) k where
  others := fun p j hj ho => by
    rw [Hart.preg_putPred h v hk hj k0, if_neg]
    rintro ⟨-, rfl⟩
    exact ho.elim (fun f => f rfl) k0
  vectors := fun _ _ => rfl
  rotated := ⟨rfl, rfl⟩
  hart := rfl

theorem Hart.within_putBit (h : Hart) (c : Vc) {k : Nat} (hk : k < 16) (i : Nat) (b : Bool) :
    Hart.WithinPred h (h.putBit c k i b) k := by
  unfold Hart.putBit
  by_cases k0 : k = 0
  · rw [if_pos k0]; exact .refl h k
  · rw [if_neg k0]; exact h.within_putPred hk k0 _ _

/-- A bit after a write of a bit of one of p1 to p15 (R111). -/
theorem Hart.pbit_putBit (h : Hart) (c : Vc) {k : Nat} (hk : k < 16) (k0 : k ≠ 0) (i : Nat) (b : Bool) (j : Nat) :
    (h.putBit c k i b).pbit c k j = if j = i then b else h.pbit c k j := by
  unfold Hart.putBit Hart.pbit
  rw [if_neg k0, Hart.preg_putPred h _ hk hk k0]
  by_cases e : j / c.share = i / c.share
  · rw [if_pos ⟨e, rfl⟩, testBit_patch, e]
    by_cases f : j = i
    · subst f; cases b <;> simp
    · have : j % c.share ≠ i % c.share := fun g => f (by rw [← Nat.div_add_mod j c.share, ← Nat.div_add_mod i c.share, e, g])
      rw [if_neg (by omega), if_neg f]
  · rw [if_neg (fun g => e g.1), if_neg (fun f => e (by rw [f]))]

/-- Writing a list of bits, each by the value that `val` gives it. -/
theorem Hart.foldl_putBit (c : Vc) {k : Nat} (hk : k < 16) (val : Nat → Bool) (l : List (Nat × Bool)) :
    ∀ h : Hart, (∀ p ∈ l, p.2 = val p.1) →
      Hart.WithinPred h (l.foldl (fun h p => h.putBit c k p.1 p.2) h) k
      ∧ (k ≠ 0 → ∀ j, (l.foldl (fun h p => h.putBit c k p.1 p.2) h).pbit c k j
          = if j ∈ l.map (·.1) then val j else h.pbit c k j) := by
  induction l with
  | nil => intro h _; exact ⟨.refl h k, fun _ j => by simp⟩
  | cons p l ih =>
    intro h hv
    have a := ih (h.putBit c k p.1 p.2) fun q hq => hv q (List.mem_cons_of_mem _ hq)
    refine ⟨(h.within_putBit c hk p.1 p.2).trans a.1, fun k0 j => ?_⟩
    rw [List.foldl_cons, a.2 k0 j, Hart.pbit_putBit h c hk k0]
    by_cases e : j ∈ l.map (·.1)
    · simp [e]
    · by_cases e' : j = p.1
      · subst e'
        simp only [e, if_false, if_true, List.map_cons, List.mem_cons, true_or]
        rw [hv p (by simp)]
      · simp [e, e']

/-- Clearing the bits `i0`, `i0 + 1`, … for which `skip` is not set. -/
theorem Hart.foldl_clearBits (c : Vc) {k : Nat} (hk : k < 16) (skip : Nat → Bool) (i0 : Nat) (l : List Nat) :
    ∀ h : Hart,
      Hart.WithinPred h (l.foldl (fun h j => if skip (i0 + j) then h else h.putBit c k (i0 + j) false) h) k
      ∧ (k ≠ 0 → ∀ j, (l.foldl (fun h j => if skip (i0 + j) then h else h.putBit c k (i0 + j) false) h).pbit c k j
          = if (∃ n ∈ l, j = i0 + n) ∧ skip j = false then false else h.pbit c k j) := by
  induction l with
  | nil => intro h; exact ⟨.refl h k, fun _ j => by simp⟩
  | cons n l ih =>
    intro h
    by_cases sk : skip (i0 + n) = true
    · have a := ih h
      simp only [List.foldl_cons, sk, if_true]
      refine ⟨a.1, fun k0 j => ?_⟩
      rw [a.2 k0 j]
      by_cases e : j = i0 + n
      · subst e; simp [sk]
      · simp [e]
    · have sk' : skip (i0 + n) = false := by simpa using sk
      have a := ih (h.putBit c k (i0 + n) false)
      simp only [List.foldl_cons, sk', Bool.false_eq_true, if_false]
      refine ⟨(h.within_putBit c hk _ _).trans a.1, fun k0 j => ?_⟩
      rw [a.2 k0 j, Hart.pbit_putBit h c hk k0]
      by_cases e : j = i0 + n
      · subst e; simp [sk']
      · simp [e]

/-- Trimming a predicate to `n q` bits on each span position below `m`. -/
theorem Hart.foldl_trim {k : Nat} (hk : k < 16) (k0 : k ≠ 0) (n : Nat → Nat) (m : Nat) :
    ∀ h : Hart,
      Hart.WithinPred h ((List.range m).foldl (fun h q => h.putPred q (h.files.pslot k) (h.preg q k % 2 ^ n q)) h) k
      ∧ ∀ p, ((List.range m).foldl (fun h q => h.putPred q (h.files.pslot k) (h.preg q k % 2 ^ n q)) h).preg p k
          = if p < m then h.preg p k % 2 ^ n p else h.preg p k := by
  induction m with
  | zero => intro h; exact ⟨.refl h k, fun p => by simp⟩
  | succ m ih =>
    intro h
    rw [List.range_succ, List.foldl_append]
    have a := ih h
    refine ⟨a.1.trans ?_, fun p => ?_⟩
    · exact Hart.within_putPred _ hk k0 _ _
    · simp only [List.foldl_cons, List.foldl_nil]
      rw [Hart.preg_putPred _ _ hk hk k0, a.2 p, a.2 m]
      by_cases e : p = m
      · subst e; simp
      · by_cases f : p < m
        · simp [e, f, Nat.lt_succ_of_lt f]
        · simp [e, f, show ¬p < m + 1 by omega]

/-- A predicate after a vector instruction wrote it (R111, R113). -/
theorem Hart.writePred_spec (h : Hart) (c : Vc) {k : Nat} (hk : k < 16) (active : Nat → Bool) (e : Nat) (val : Nat → Bool)
    (vals : List (Nat × Bool)) (hv : ∀ p ∈ vals, p.2 = val p.1)
    (hm : ∀ j, j ∈ vals.map (·.1) ↔ c.start ≤ j ∧ j < e ∧ active j = true) :
    Hart.WithinPred h (h.writePred c active k e vals) k
    ∧ (k ≠ 0 → ∀ j, j < c.share * c.cores → (h.writePred c active k e vals).pbit c k j
        = c.classed active e j (h.pbit c k j) false (val j)) := by
  have p1 := Hart.foldl_putBit c hk val vals h hv
  have p2 : ∀ h1 : Hart, Hart.WithinPred h1 (if c.ip then
      (List.range (e - c.start)).foldl (fun h j => if active (c.start + j) then h else h.putBit c k (c.start + j) false) h1
      else h1) k ∧ (k ≠ 0 → ∀ j, (if c.ip then
      (List.range (e - c.start)).foldl (fun h j => if active (c.start + j) then h else h.putBit c k (c.start + j) false) h1
      else h1).pbit c k j
        = if c.ip = true ∧ c.start ≤ j ∧ j < e ∧ active j = false then false else h1.pbit c k j) := by
    intro h1
    by_cases ip : c.ip = true
    · have a := Hart.foldl_clearBits c hk active c.start (List.range (e - c.start)) h1
      rw [if_pos ip]
      refine ⟨a.1, fun k0 j => ?_⟩
      rw [a.2 k0 j]
      have : (∃ n ∈ List.range (e - c.start), j = c.start + n) ↔ c.start ≤ j ∧ j < e := by
        constructor
        · rintro ⟨n, hn, rfl⟩; have := List.mem_range.mp hn; omega
        · rintro ⟨h1, h2⟩; exact ⟨j - c.start, List.mem_range.mpr (by omega), by omega⟩
      simp only [this, ip, true_and, and_assoc]
    · rw [if_neg ip]
      exact ⟨.refl h1 k, fun _ j => by simp [ip]⟩
  have p3 : ∀ h1 : Hart, Hart.WithinPred h1 (h1.zeroPredTail c k (max e c.start)) k ∧
      (k ≠ 0 → ∀ j, j < c.share * c.cores → (h1.zeroPredTail c k (max e c.start)).pbit c k j
        = if c.tp = true ∧ e ≤ j ∧ c.start ≤ j then false else h1.pbit c k j) := by
    intro h1
    unfold Hart.zeroPredTail
    by_cases tp : (c.tp && k != 0) = true
    · have k0 : k ≠ 0 := by
        simp at tp; exact tp.2
      have tp' : c.tp = true := by simp at tp; exact tp.1
      have a := Hart.foldl_trim hk k0 (fun q => min c.share (max e c.start - q * c.share)) c.cores h1
      rw [if_pos tp]
      refine ⟨a.1, fun _ j hj => ?_⟩
      have hs : 0 < c.share := Nat.pos_of_ne_zero fun z => by simp [z] at hj
      have hq : j / c.share < c.cores := Nat.div_lt_of_lt_mul hj
      unfold Hart.pbit
      rw [a.2, if_pos hq, Nat.testBit_mod_two_pow]
      have d := Nat.div_add_mod j c.share
      have m := Nat.mod_lt j hs
      rw [Nat.mul_comm] at d
      by_cases f : e ≤ j ∧ c.start ≤ j
      · have : ¬(j % c.share < min c.share (max e c.start - j / c.share * c.share)) := by omega
        simp [this, tp', f]
      · have : j % c.share < min c.share (max e c.start - j / c.share * c.share) := by omega
        rw [if_neg (fun g => f g.2)]
        simp only [this, decide_true, Bool.true_and]
    · rw [if_neg tp]
      refine ⟨.refl h1 k, fun k0 j _ => ?_⟩
      have : c.tp = false := by
        simp only [Bool.and_eq_true, bne_iff_ne, ne_eq, k0, not_false_eq_true, and_true] at tp
        simpa using tp
      simp [this]
  refine ⟨(p1.1.trans (p2 _).1).trans (p3 _).1, fun k0 j hj => ?_⟩
  refine ((p3 _).2 k0 j hj).trans ?_
  rw [(p2 _).2 k0 j, p1.2 k0 j]
  simp only [hm, Vc.classed]
  by_cases a1 : j < c.start
  · simp [a1, Nat.not_le.mpr a1]
  · have a1' : c.start ≤ j := Nat.not_lt.mp a1
    by_cases a2 : j < e
    · have a2' : ¬e ≤ j := Nat.not_le.mpr a2
      by_cases a3 : active j = true
      · simp [a1, a1', a2, a2', a3]
      · simp [a1, a1', a2, a2', a3]
    · have a2' : e ≤ j := Nat.not_lt.mp a2
      simp [a1, a1', a2, a2']

end Sys2Proof.Machine
end

