-- ==== Sys2Proof/Laws/Lanes.lean ====
section
/-! SUPPORT. How a vector instruction that meets no cause runs: its element loop, its charge, its end, and what a lane
instruction and a compare leave. -/

namespace Sys2Proof.Machine

/-! ## The element loop -/

/-- What the loop holds after `n` elements from `start` on, none of which ends it. -/
def Run.upTo {α : Type} (start : Nat) (active : Nat → Bool) (val : Nat → α) (fl : Nat → Flags) : Nat → Run α
  | 0 => { vals := [], flags := 0, stop := none, hold := none }
  | n + 1 =>
    let r := Run.upTo start active val fl n
    if active (start + n) then { r with vals := (start + n, val (start + n)) :: r.vals, flags := r.flags ||| fl (start + n) } else r

/-- The indices of [start, start + n) that are active. -/
def activeFrom (start : Nat) (active : Nat → Bool) (n : Nat) : List Nat := ((List.range n).map fun j => start + j).filter active

theorem activeFrom_succ (start : Nat) (active : Nat → Bool) (n : Nat) :
    activeFrom start active (n + 1) = activeFrom start active n ++ if active (start + n) then [start + n] else [] := by
  simp only [activeFrom, List.range_succ, List.map_append, List.filter_append, List.map_cons, List.map_nil]
  congr 1
  by_cases h : active (start + n) = true
  · simp [h]
  · simp [h]

theorem Run.upTo_ends {α : Type} (start : Nat) (active : Nat → Bool) (val : Nat → α) (fl : Nat → Flags) (n : Nat) :
    (Run.upTo start active val fl n).stop = none ∧ (Run.upTo start active val fl n).hold = none := by
  induction n with
  | zero => exact ⟨rfl, rfl⟩
  | succ n ih => unfold Run.upTo; split <;> exact ih

theorem Run.upTo_vals {α : Type} (start : Nat) (active : Nat → Bool) (val : Nat → α) (fl : Nat → Flags) (n : Nat) :
    (Run.upTo start active val fl n).vals = ((activeFrom start active n).map fun i => (i, val i)).reverse := by
  induction n with
  | zero => rfl
  | succ n ih =>
    rw [activeFrom_succ]
    unfold Run.upTo
    by_cases h : active (start + n) = true
    · simp [h, ih]
    · simp [h, ih]

theorem Run.upTo_count {α : Type} (start : Nat) (active : Nat → Bool) (val : Nat → α) (fl : Nat → Flags) (n : Nat) :
    (Run.upTo start active val fl n).count = (activeFrom start active n).length := by
  unfold Run.count; rw [Run.upTo_vals]; simp

theorem Run.upTo_flags {α : Type} (start : Nat) (active : Nat → Bool) (val : Nat → α) (fl : Nat → Flags) (n : Nat) :
    (Run.upTo start active val fl n).flags = (activeFrom start active n).foldl (fun f i => f ||| fl i) 0 := by
  induction n with
  | zero => rfl
  | succ n ih =>
    rw [activeFrom_succ]
    unfold Run.upTo
    by_cases h : active (start + n) = true
    · simp [h, ih]
    · simp [h, ih]

theorem mem_activeFrom (start : Nat) (active : Nat → Bool) (n i : Nat) :
    i ∈ activeFrom start active n ↔ start ≤ i ∧ i < start + n ∧ active i = true := by
  simp only [activeFrom, List.mem_filter, List.mem_map, List.mem_range]
  constructor
  · rintro ⟨⟨j, hj, rfl⟩, h⟩; exact ⟨by omega, by omega, h⟩
  · rintro ⟨h1, h2, h3⟩; exact ⟨⟨i - start, by omega, by omega⟩, h3⟩

/-- The loop over elements that all give a value whose flags no trim is enabled for (R87, R88). -/
theorem elements_ok {α : Type} (active : Nat → Bool) (elt : Run α → Nat → Elt α) (ftrim : Flags) (start : Nat) (val : Nat → α)
    (fl : Nat → Flags) (n : Nat) : ∀ k,
      (∀ j, k ≤ j → j < k + n → active (start + j) = true →
        elt (Run.upTo start active val fl j) (start + j) = .ok (val (start + j)) (fl (start + j))
        ∧ flagCause (fl (start + j)) ftrim = none) →
      elements active elt ftrim none n (start + k) (Run.upTo start active val fl k) = Run.upTo start active val fl (k + n) := by
  induction n with
  | zero => intro k _; rfl
  | succ n ih =>
    intro k h
    unfold elements
    have step := ih (k + 1) fun j h1 h2 h3 => h j (by omega) (by omega) h3
    rw [show start + (k + 1) = start + k + 1 from by omega, show k + 1 + n = k + (n + 1) by omega] at step
    by_cases a : active (start + k) = true
    · have e := h k (Nat.le_refl k) (by omega) a
      simp only [a, if_true, e.1, e.2]
      rw [← step]
      congr 1
      simp only [Run.upTo, a, if_true]
    · simp only [a]
      rw [← step]
      simp only [Run.upTo, a]
      rfl

/-- Where no cause meets an instruction, its strip lies within the span. -/
theorem Hart.shrunkAt_of_cut {h : Hart} {c : Vc} (e : h.cut c = none) : h.shrunkAt c = none := by
  unfold Hart.cut at e
  dsimp only at e
  split at e
  · simpa using e
  · split at e
    · split at e <;> simp at e
    · simp at e

/-- The loop of an instruction that no request meets. -/
theorem runElements_ok {α : Type} (s : State) (c : Vc) (active : Nat → Bool) (trims : Bool) (elt : Run α → Nat → Elt α)
    (val : Nat → α) (fl : Nat → Flags) (hc : s.h.cut c = none)
    (h : ∀ i, c.start ≤ i → i < c.vl → active i = true →
      elt (Run.upTo c.start active val fl (i - c.start)) i = .ok (val i) (fl i) ∧ flagCause (fl i) s.h.ftrim = none) :
    runElements s c active trims elt = Run.upTo c.start active val fl (c.vl - c.start) := by
  have e : elements active elt s.h.ftrim none (c.vl - c.start) c.start { vals := [], flags := 0, stop := none, hold := none }
      = Run.upTo c.start active val fl (c.vl - c.start) := by
    have := elements_ok active elt s.h.ftrim c.start val fl (c.vl - c.start) 0 fun j _ hj ha => by
      have := h (c.start + j) (by omega) (by omega) ha
      rwa [show c.start + j - c.start = j by omega] at this
    rwa [Nat.zero_add] at this
  unfold runElements
  simp only [hc, ite_self]
  rw [e]
  split
  · rfl
  · rw [show withinSpan s c = none by rw [withinSpan, Hart.shrunkAt_of_cut hc]; rfl]
    have := (Run.upTo_ends c.start active val fl (c.vl - c.start)).2
    generalize Run.upTo c.start active val fl (c.vl - c.start) = r at this ⊢
    cases r
    simp only at this
    subst this
    rfl

theorem VectorReady.cut {s : State} {c : Vc} (r : VectorReady s c) (k : Vc) : s.h.cut k = none := by
  obtain ⟨h1, h2, h3⟩ := r.calm
  simp [Hart.cut, Hart.meetElement, Hart.shrunkAt, h1, h2, h3]

theorem Vc.activeList_eq (c : Vc) (active : Nat → Bool) (e : Nat) : c.activeList active e = activeFrom c.start active (e - c.start) := rfl

/-- Sources that have every active element give its value. -/
theorem fromSources_ok {α : Type} (srcs : List Source) (f : Run α → Nat → α × Flags) (r : Run α) (i : Nat)
    (h : ∀ t ∈ srcs, t.cause i = none ∧ t.missing i = false ∧ t.lost i = none) : fromSources srcs f r i = .ok (f r i).1 (f r i).2 := by
  have e1 : (srcs.findSome? fun t => t.cause i) = none := by
    rw [List.findSome?_eq_none_iff]; exact fun t ht => (h t ht).1
  have e2 : heldBack srcs i = none := by
    have e3 : (srcs.findSome? fun t => t.lost i) = none := by
      rw [List.findSome?_eq_none_iff]; exact fun t ht => (h t ht).2.2
    have e4 : (srcs.any fun t => t.missing i) = false := by
      rw [List.any_eq_false]; exact fun t ht => by simp [(h t ht).2.1]
    unfold heldBack
    rw [e3, e4]
    rfl
  unfold fromSources
  rw [e1, e2]

/-! ## Charges -/

/-- Two states that differ in what a vector instruction charges, at most: the pipes, counters and lane selectors of cores, the
counters of the hart and its started checks. -/
structure Charged (s t : State) : Prop where
  rest : { t with harts := s.harts, cores := s.cores } = s
  others : ∀ m, m ≠ s.cur → t.hart m = s.hart m
  cores : ∀ m, { t.core m with
    vh := (s.core m).vh, used := (s.core m).used, laneSel := (s.core m).laneSel, ccnt := (s.core m).ccnt } = s.core m
  hart : { t.h with counters := s.h.counters, marks := { t.h.marks with checks := s.h.marks.checks } } = s.h

theorem Charged.refl (s : State) : Charged s s := ⟨rfl, fun _ _ => rfl, fun _ => rfl, rfl⟩

theorem Charged.cur {s t : State} (h : Charged s t) : t.cur = s.cur := by
  have := congrArg State.cur h.rest; exact this

theorem Charged.trans {s t u : State} (a : Charged s t) (b : Charged t u) : Charged s u where
  rest := by
    have e : { u with harts := s.harts, cores := s.cores } = { t with harts := s.harts, cores := s.cores } :=
      congrArg (fun x : State => { x with harts := s.harts, cores := s.cores }) b.rest
    rw [e, a.rest]
  others := fun m hm => (b.others m (by rw [a.cur]; exact hm)).trans (a.others m hm)
  cores := fun m => by
    have e := congrArg (fun k : Core =>
      { k with vh := (s.core m).vh, used := (s.core m).used, laneSel := (s.core m).laneSel, ccnt := (s.core m).ccnt }) (b.cores m)
    exact e.trans (a.cores m)
  hart := by
    have e := congrArg (fun h : Hart =>
      { h with counters := s.h.counters, marks := { h.marks with checks := s.h.marks.checks } }) b.hart
    exact e.trans a.hart

/-- A core changed in what an instruction charges. -/
theorem charged_setCore (s : State) (n : Nat) (k : Core)
    (h : { k with vh := (s.core n).vh, used := (s.core n).used, laneSel := (s.core n).laneSel, ccnt := (s.core n).ccnt } = s.core n) :
    Charged s (s.setCore n k) where
  rest := rfl
  others := fun _ _ => rfl
  cores := fun m => by
    rw [State.core_setCore]
    by_cases e : m = n
    · subst e; rw [if_pos rfl]; exact h
    · rw [if_neg e]
  hart := rfl

theorem charged_setH (s : State) (h : Hart)
    (e : { h with counters := s.h.counters, marks := { h.marks with checks := s.h.marks.checks } } = s.h) : Charged s (s.setH h) where
  rest := rfl
  others := fun _ e => State.hart_setH_ne s h e
  cores := fun _ => rfl
  hart := by rw [State.h_setH]; exact e

theorem charged_countEvent (s : State) (core code k : Nat) : Charged s (countEvent s core code k) :=
  charged_setCore s core _ rfl

theorem charged_foldl {β : Type} (f : State → β → State) (h : ∀ s b, Charged s (f s b)) (l : List β) :
    ∀ s, Charged s (l.foldl f s) := by
  induction l with
  | nil => exact Charged.refl
  | cons b l ih => exact fun s => (h s b).trans (ih _)

theorem charged_chargeBeats (s : State) (beats skipped : Nat → Nat) : Charged s (chargeBeats s beats skipped) := by
  unfold chargeBeats
  refine (charged_foldl _ ?_ _ s).trans (charged_setH _ _ rfl)
  intro s qc
  exact ((charged_countEvent s _ _ _).trans (charged_countEvent _ _ _ _)).trans (charged_setCore _ _ _ rfl)

theorem charged_startChecks (s : State) (c : Vc) (active : Nat → Bool) (w e : Nat) : Charged s (startChecks s c active w e) := by
  unfold startChecks
  refine charged_foldl _ ?_ _ s
  intro s qc
  dsimp only
  split
  · exact .refl s
  · rename_i l _
    exact (charged_setCore s qc.1 { s.core qc.1 with laneSel := (l + 1) % 32 } rfl).trans (charged_setH _ _ rfl)

theorem charged_laneEnd (s : State) (c : Vc) (active : Nat → Bool) (w k more least e : Nat) :
    Charged s (laneEnd s c active w k more least e) := by
  unfold laneEnd charge
  exact (charged_chargeBeats s _ _).trans (charged_startChecks _ _ _ _ _)

/-! ## The end of an instruction -/

/-- What a hart may have changed when its vector instruction is written: the rest is `VectorDone`'s. -/
structure Written (h h1 : Hart) (d : BitVec 5) (v : Word) (k : Strip) (rs : List Nat) (n : Nat) : Prop where
  regs : ∀ r, h1.rx r = if r = d ∧ d ≠ 0 then v else h.rx r
  strip : h1.strip = k
  streams : h1.streams = (h.pop rs n false).streams
  rotated : h1.files.vrot = h.files.vrot ∧ h1.files.prot = h.files.prot
  hart : { h1 with
    x := h.x, strip := h.strip, files := h.files, streams := h.streams, marks := h.marks, dirty := h.dirty, lost := h.lost } = h

/-- The end of an instruction: `VectorDone`, with the registers of what was written. -/
theorem vectorDone_retire {s u : State} {h1 : Hart} {c : Vc} {d : BitVec 5} {v : Word} {k : Strip} {rs : List Nat} {n : Nat}
    (r : VectorReady s c) (w : Written s.h h1 d v k rs n) (g : Charged (s.setH h1) u) :
    VectorDone s (vectorRetire u) d v k rs n ∧ (vectorRetire u).h.files = h1.files ∧ (vectorRetire u).h.task = s.h.task := by
  have t : (vectorRetire u).h = { ({ u.h with vstart := 0 } : Hart).metRequest with
      pc := u.h.pc + 4, instret := u.h.instret + 1, answers := [], placing := false, issued := false } := by
    simp [vectorRetire, retire, retireTo, Hart.metRequest]
  have gh := g.hart
  rw [State.h_setH] at gh
  have pick {β : Type} (f : Hart → β) : f { u.h with
      counters := h1.counters, marks := { u.h.marks with checks := h1.marks.checks } } = f h1 := congrArg f gh
  have wick {β : Type} (f : Hart → β) : f { h1 with
      x := s.h.x, strip := s.h.strip, files := s.h.files, streams := s.h.streams, marks := s.h.marks, dirty := s.h.dirty, lost := s.h.lost }
      = f s.h := congrArg f w.hart
  obtain ⟨r1, r2, r3⟩ := r.calm
  refine ⟨{ rest := ?_, others := ?_, cores := ?_, regs := ?_, pc := ?_, counted := ?_, vstart := ?_, strip := ?_, streams := ?_
            rotated := ?_, hart := ?_ }, ?_, ?_⟩
  · have := congrArg (fun x : State => { x with harts := s.harts }) g.rest
    exact this
  · intro m hm
    have e : u.cur = s.cur := g.cur
    have : (vectorRetire u).hart m = u.hart m := by
      unfold vectorRetire retire retireTo
      rw [State.hart_setH_ne _ _ (by simpa [e] using hm), State.hart_setH_ne _ _ (by simpa [e] using hm)]
    rw [this, g.others m (by simpa using hm), State.hart_setH_ne _ _ hm]
  · exact fun m => g.cores m
  · intro q
    rw [← w.regs q, t]
    have : u.h.x = h1.x := pick Hart.x
    simp [Hart.rx, Hart.metRequest, this]
  · rw [t]
    show u.h.pc + 4 = _
    rw [show u.h.pc = h1.pc from pick Hart.pc, show h1.pc = s.h.pc from wick Hart.pc]
  · rw [t]
    show u.h.instret + 1 = _
    rw [show u.h.instret = h1.instret from pick Hart.instret, show h1.instret = s.h.instret from wick Hart.instret]
  · rw [t]; rfl
  · rw [t]
    show u.h.strip = _
    rw [show u.h.strip = h1.strip from pick Hart.strip, w.strip]
  · rw [t]
    show u.h.streams = _
    rw [show u.h.streams = h1.streams from pick Hart.streams, w.streams]
  · rw [t]
    show u.h.files.vrot = _ ∧ u.h.files.prot = _
    rw [show u.h.files = h1.files from pick Hart.files]
    exact w.rotated
  · have e1 : u.h.preempt = none := (pick Hart.preempt).trans ((wick Hart.preempt).trans r1)
    have e2 : u.h.dbg.haltElement = none := (pick fun h => h.dbg.haltElement).trans ((wick fun h => h.dbg.haltElement).trans r2)
    rw [t]
    have m : ({ u.h with vstart := 0 } : Hart).metRequest = { u.h with vstart := 0 } := by
      unfold Hart.metRequest
      simp only [e1, Option.map_none]
      have : ({ u.h.dbg with haltElement := none } : Debug) = u.h.dbg := by
        have := e2
        cases hd : u.h.dbg with
        | mk a b c d e f g h i j k l m n => simp_all
      rw [this, ← e1]
    rw [m]
    have a := congrArg (fun h : Hart => { h with
      x := s.h.x, pc := s.h.pc, vstart := s.h.vstart, strip := s.h.strip, files := s.h.files, streams := s.h.streams
      instret := s.h.instret, counters := s.h.counters, marks := s.h.marks, dirty := s.h.dirty, lost := s.h.lost, answers := s.h.answers
      placing := s.h.placing, issued := s.h.issued }) gh
    have b := congrArg (fun h : Hart => { h with
      pc := s.h.pc, vstart := s.h.vstart, instret := s.h.instret, counters := s.h.counters, answers := s.h.answers
      placing := s.h.placing, issued := s.h.issued }) w.hart
    exact a.trans b
  · rw [t]
    exact pick Hart.files
  · rw [t]
    exact (pick Hart.task).trans (wick Hart.task)

/-! ## Lane instructions -/

theorem Sparse.put_put {α : Type} (m : Sparse α) (k : Nat) (v w : α) : Sparse.put (Sparse.put m k v) k w = Sparse.put m k w := by
  induction m with
  | nil => simp [Sparse.put]
  | cons p m ih =>
    obtain ⟨j, u⟩ := p
    simp only [Sparse.put]
    by_cases h1 : k < j
    · simp [h1, Sparse.put]
    · by_cases h2 : k = j
      · simp [h2, Sparse.put]
      · simp [h1, h2, Sparse.put, ih]

/-- Replacing the running hart twice is replacing it once. -/
theorem State.setH_twice (s : State) (g h : Hart) : (s.setH g).setH h = s.setH h := by
  show { s with harts := Sparse.put (Sparse.put s.harts s.cur g) s.cur h } = _
  rw [Sparse.put_put]; rfl

theorem Hart.marked_eq (h : Hart) (c : Vc) (vs ps : List Nat) :
    { h.marked c vs ps with marks := h.marks, dirty := h.dirty, lost := h.lost } = h ∧ (h.marked c vs ps).files = h.files ∧ (h.marked c vs ps).task = h.task := by
  unfold Hart.marked
  split <;> exact ⟨rfl, rfl, rfl⟩

/-- The checks before the first element, all passed (R27). -/
theorem vectorGuard_ok {s : State} {c : Vc} (r : VectorReady s c) {typeOk : Bool} (h : typeOk = true) (k : State) :
    vectorGuard s c typeOk k = k := by
  unfold vectorGuard
  rw [taskMode_off r.task, if_neg (Nat.not_le.mpr r.mode), if_pos h]

/-- The destination has its physical registers (R110). -/
theorem claimed_ok (s : State) (c : Vc) (vs ps : List Nat) (k : State) (h : c.writes = true → (s.h.marks.claim vs ps).isSome = true) :
    claimed s c vs ps k = k := by
  unfold claimed
  rw [if_neg]
  intro e
  simp only [Bool.and_eq_true] at e
  have := h e.1
  cases hc : s.h.marks.claim vs ps <;> simp_all

/-- The end of a loop that no cause ended. -/
theorem endRun_ok {α : Type} (s : State) (c : Vc) (rs : List Nat) (active : Nat → Bool) (val : Nat → α) (fl : Nat → Flags)
    (put : State → Nat → State) :
    endRun s c rs (Run.upTo c.start active val fl (c.vl - c.start)) put =
      vectorRetire (put (s.setH ((s.h.pop rs c.vl false).raise (c.raised active fl))) c.vl) := by
  have e := Run.upTo_ends c.start active val fl (c.vl - c.start)
  unfold endRun endRunBy
  rw [e.1, e.2, Run.upTo_flags]
  rfl

/-- Elements written by a loop. -/
theorem upTo_vals_spec {α : Type} (c : Vc) (active : Nat → Bool) (val : Nat → α) (fl : Nat → Flags) :
    (∀ p ∈ (Run.upTo c.start active val fl (c.vl - c.start)).vals, p.2 = val p.1)
    ∧ ∀ j, j ∈ (Run.upTo c.start active val fl (c.vl - c.start)).vals.map (·.1) ↔ c.start ≤ j ∧ j < c.vl ∧ active j = true := by
  rw [Run.upTo_vals]
  constructor
  · intro p hp
    rw [List.mem_reverse, List.mem_map] at hp
    obtain ⟨i, -, rfl⟩ := hp
    rfl
  · intro j
    rw [List.map_reverse, List.mem_reverse, List.map_map]
    have : ((fun p : Nat × α => p.1) ∘ fun i => (i, val i)) = id := rfl
    rw [this, List.map_id, mem_activeFrom]
    constructor
    · rintro ⟨h1, h2, h3⟩; exact ⟨h1, by omega, h3⟩
    · rintro ⟨h1, h2, h3⟩; exact ⟨h1, by omega, h3⟩

/-- The strip registers after `n` draws (R136) and flags (R132). -/
def Strip.after (k : Strip) (fl : Flags) (n : Nat) : Strip :=
  { k with fflags := k.fflags ||| fl, rngs := k.rngs + BitVec.ofNat 64 n * gamma }

theorem Strip.after_zero (k : Strip) (fl : Flags) : k.after fl 0 = { k with fflags := k.fflags ||| fl } := by
  simp [Strip.after]

/-- What a write of a group leaves of a hart that has popped, raised and claimed. -/
theorem written_group {s : State} {c : Vc} {base w regs : Nat} (rs : List Nat) (n : Nat) (fl : Flags) (vs ps : List Nat)
    {h1 : Hart} (hw : Hart.Within (((s.h.pop rs n false).raise fl).marked c vs ps) h1 c base w regs) :
    Written s.h h1 0 0 { s.h.strip with fflags := s.h.strip.fflags ||| fl } rs n := by
  have m := Hart.marked_eq ((s.h.pop rs n false).raise fl) c vs ps
  have pick {β : Type} (f : Hart → β) :
      f { h1 with files := (((s.h.pop rs n false).raise fl).marked c vs ps).files
                  dirty := (((s.h.pop rs n false).raise fl).marked c vs ps).dirty } = f (((s.h.pop rs n false).raise fl).marked c vs ps) :=
    congrArg f hw.hart
  have mick {β : Type} (f : Hart → β) :
      f { ((s.h.pop rs n false).raise fl).marked c vs ps with marks := s.h.marks, dirty := s.h.dirty, lost := s.h.lost } = f ((s.h.pop rs n false).raise fl) :=
    congrArg f m.1
  exact {
    regs := fun r => by
      have : h1.x = s.h.x := (pick Hart.x).trans (mick Hart.x)
      simp [Hart.rx, this]
    strip := (pick Hart.strip).trans (mick Hart.strip)
    streams := (pick Hart.streams).trans (mick Hart.streams)
    rotated := by
      rw [hw.rotated.1, hw.rotated.2, m.2.1]
      exact ⟨rfl, rfl⟩
    hart := by
      have a := congrArg (fun h : Hart => { h with
        x := s.h.x, strip := s.h.strip, files := s.h.files, streams := s.h.streams, marks := s.h.marks, dirty := s.h.dirty, lost := s.h.lost }) hw.hart
      have b := congrArg (fun h : Hart => { h with
        x := s.h.x, strip := s.h.strip, files := s.h.files, streams := s.h.streams, marks := s.h.marks, dirty := s.h.dirty, lost := s.h.lost }) m.1
      exact a.trans b }

theorem Hart.vreg_of_files {h t : Hart} (e : t.files = h.files) (q r : Nat) : t.vreg q r = h.vreg q r := by
  unfold Hart.vreg; rw [e]

theorem Hart.element_of_files {h t : Hart} (e : t.files = h.files) (c : Vc) (base w i : Nat) :
    t.element c base w i = h.element c base w i := by
  rw [Hart.element_eq, Hart.element_eq, Hart.vreg_of_files e]

theorem Hart.pbit_of_files {h t : Hart} (e : t.files = h.files) (v : t.task = h.task) (c : Vc) (k i : Nat) :
    t.pbit c k i = h.pbit c k i := by
  unfold Hart.pbit
  rw [Hart.preg_of_files (h := h) (t := t) (by rw [e]) (by rw [e]) (by unfold Hart.vlenb; rw [v])]

/-- A group written by an instruction, in the state that it leaves. -/
theorem groupWritten_of {s t : State} {h0 h1 : Hart} {c : Vc} {base w regs : Nat} {active : Nat → Bool} {e : Nat} {val : Nat → Nat}
    (f0 : h0.files = s.h.files) (k0 : h0.task = s.h.task) (ft : t.h.files = h1.files) (kt : t.h.task = s.h.task)
    (hw : Hart.Within h0 h1 c base w regs)
    (he : ∀ j, j < c.share * c.cores → h1.element c base w j = c.classed active e j (h0.element c base w j) 0 (val j % 2 ^ w)) :
    GroupWritten s t c base w regs active e val where
  elements := fun i hi => by
    rw [Hart.element_of_files ft, he i hi, Hart.element_of_files f0]
  others := fun q r hr ho => by
    rw [Hart.vreg_of_files ft, hw.others q r hr ho, Hart.vreg_of_files f0]
  above := fun q => by
    rw [Hart.vreg_of_files ft, hw.above q, Hart.vreg_of_files f0]
  preds := fun q k _ => by
    have a : t.h.preg q k = h1.preg q k := by
      have : h1.task = h0.task := by
        have := congrArg Hart.task hw.hart; exact this
      exact Hart.preg_of_files (by rw [ft]) (by rw [ft]) (by unfold Hart.vlenb; rw [kt, this, k0]) q k
    have b : h0.preg q k = s.h.preg q k := Hart.preg_of_files (by rw [f0]) (by rw [f0]) (by unfold Hart.vlenb; rw [k0]) q k
    rw [a, hw.preds q k, b]

/-- RNGS written besides. -/
theorem Written.rngs {h h1 : Hart} {d : BitVec 5} {v : Word} {k : Strip} {rs : List Nat} {n : Nat} (w : Written h h1 d v k rs n)
    (r : Word) : Written h { h1 with strip := { h1.strip with rngs := r } } d v { k with rngs := r } rs n where
  regs := fun q => by
    have := w.regs q
    unfold Hart.rx at this ⊢
    exact this
  strip := by simp only [w.strip]
  streams := w.streams
  rotated := w.rotated
  hart := w.hart

theorem Hart.rngs_files (h : Hart) (r : Word) : ({ h with strip := { h.strip with rngs := r } } : Hart).files = h.files := rfl

theorem Hart.drawn_eq (h : Hart) (m : Nat) :
    h.drawn m = { h with strip := { h.strip with rngs := h.strip.rngs + BitVec.ofNat 64 m * gamma } } := rfl

/-- Draws after a write (R136). -/
theorem Written.drawn {h h1 : Hart} {d : BitVec 5} {v : Word} {fl : Flags} {rs : List Nat} {n : Nat}
    (w : Written h h1 d v { h.strip with fflags := h.strip.fflags ||| fl } rs n) (m : Nat) :
    Written h (h1.drawn m) d v (h.strip.after fl m) rs n := by
  have e : h1.strip.rngs = h.strip.rngs := by rw [w.strip]
  have := w.rngs (h1.strip.rngs + BitVec.ofNat 64 m * gamma)
  rw [← Hart.drawn_eq, e] at this
  exact this

/-- A group written and charged, at the end of an instruction. -/
theorem group_done {s : State} {c : Vc} {base w regs : Nat} {active : Nat → Bool} {val : Nat → Nat} {fl : Nat → Flags}
    (rs : List Nat) (vs ps : List Nat) (ready : VectorReady s c) (g : c.Group base w regs) (vals : List (Nat × Nat))
    (h1 : ∀ p ∈ vals, p.2 = val p.1) (h2 : ∀ j, j ∈ vals.map (·.1) ↔ c.start ≤ j ∧ j < c.vl ∧ active j = true)
    (draws : Bool) (n : Nat) {u : State}
    (gu : Charged (s.setH (if draws then
        (Hart.writeGroup (((s.h.pop rs c.vl false).raise (c.raised active fl)).marked c vs ps) c active base w c.vl vals).drawn n
      else Hart.writeGroup (((s.h.pop rs c.vl false).raise (c.raised active fl)).marked c vs ps) c active base w c.vl vals)) u) :
    VectorDone s (vectorRetire u) 0 0 (s.h.strip.after (c.raised active fl) (if draws then n else 0)) rs c.vl
    ∧ GroupWritten s (vectorRetire u) c base w regs active c.vl val := by
  have m := Hart.marked_eq ((s.h.pop rs c.vl false).raise (c.raised active fl)) c vs ps
  have sp := Hart.writeGroup_spec (((s.h.pop rs c.vl false).raise (c.raised active fl)).marked c vs ps) g active c.vl val
    ready.strip vals h1 h2
  have wr := written_group (s := s) rs c.vl (c.raised active fl) vs ps sp.1
  cases draws with
  | true =>
    have d := vectorDone_retire ready (wr.drawn n) gu
    have f : (vectorRetire u).h.files =
        (Hart.writeGroup (((s.h.pop rs c.vl false).raise (c.raised active fl)).marked c vs ps) c active base w c.vl vals).files := by
      rw [d.2.1, Hart.drawn_eq, Hart.rngs_files]
    exact ⟨d.1, groupWritten_of m.2.1 m.2.2 f d.2.2 sp.1 sp.2⟩
  | false =>
    have e : s.h.strip.after (c.raised active fl) 0 = { s.h.strip with fflags := s.h.strip.fflags ||| c.raised active fl } :=
      Strip.after_zero _ _
    have d := vectorDone_retire ready wr gu
    refine ⟨?_, groupWritten_of m.2.1 m.2.2 d.2.1 d.2.2 sp.1 sp.2⟩
    rw [← e] at d
    exact d.1

/-- A lane instruction into a group, where nothing stops it. -/
theorem laneGroup_done (s : State) (ms : BitVec 2) (typeOk : Vc → Bool) (lane : Vc → Lane) (all : Bool)
    (f : Vc → (Nat → Nat) → Nat → Nat → Nat × Flags) {c : Vc} (hc : s.h.vc ms = c) {l : Lane} (hl : lane c = l)
    {active : Nat → Bool} (ha : (if all then fun _ => true else s.h.active c) = active)
    {srcs : List Source} (hs : (l.srcs.map fun t => s.h.source c t.1 t.2.1) = srcs)
    (val : Nat → Nat) (fl : Nat → Flags)
    (ready : VectorReady s c) (ty : typeOk c = true) (regs : l.regsOk s.h c = true) (pred : c.predOk false = true)
    (claim : c.writes = true → (s.h.marks.claim (s.h.slotsOf l.dest l.regs) []).isSome = true)
    (there : c.readable active srcs) (g : c.Group l.dest l.width l.regs)
    (gives : ∀ i, c.start ≤ i → i < c.vl → active i = true →
      f c (fun k => elementOf srcs k i) (if l.draws then drawFraction s.h.strip.rngs (c.before active i) else 0) i = (val i, fl i)
      ∧ flagCause (fl i) s.h.ftrim = none) :
    ∃ t, laneGroup s ms typeOk lane all f = .next t
      ∧ VectorDone s t 0 0 (s.h.strip.after (c.raised active fl) (if l.draws then c.before active c.vl else 0)) (l.srcs.map (·.1)) c.vl
      ∧ GroupWritten s t c l.dest l.width l.regs active c.vl val := by
  have run := runElements_ok s c active true (fromSources srcs fun r i =>
        f c (fun k => elementOf srcs k i) (if l.draws then drawFraction s.h.strip.rngs r.count else 0) i)
      val fl (ready.cut _) (fun i h1 h2 h3 => by
        have := gives i h1 h2 h3
        refine ⟨?_, this.2⟩
        rw [fromSources_ok _ _ _ _ (there i h1 h2 h3), Run.upTo_count, ← Vc.activeList_eq,
          show (Vc.activeList c active i).length = c.before active i from rfl, this.1])
  have vs := upTo_vals_spec c active val fl
  have cnt : (Run.upTo c.start active val fl (c.vl - c.start)).count = c.before active c.vl := by rw [Run.upTo_count]; rfl
  unfold laneGroup
  simp only [hc, hl, ha, hs]
  refine ⟨_, rfl, ?_⟩
  rw [vectorGuard_ok ready (by simp [ty, regs, pred]), claimed_ok _ _ _ _ _ claim, run, endRun_ok, cnt]
  simp only [State.h_setH, State.setH_twice]
  refine group_done (val := val) (fl := fl) (l.srcs.map (·.1)) (s.h.slotsOf l.dest l.regs) [] ready g _ vs.1 vs.2 l.draws (c.before active c.vl) ?_
  exact charged_laneEnd _ _ _ _ _ _ _ _

/-! ## Compares and other writes of predicates -/

/-- What a write of a predicate leaves of a hart that has popped, raised and claimed. -/
theorem written_pred {s : State} {c : Vc} {k : Nat} (rs : List Nat) (n : Nat) (fl : Flags) (vs ps : List Nat)
    {h1 : Hart} (hw : Hart.WithinPred (((s.h.pop rs n false).raise fl).marked c vs ps) h1 k) :
    Written s.h h1 0 0 { s.h.strip with fflags := s.h.strip.fflags ||| fl } rs n := by
  have m := Hart.marked_eq ((s.h.pop rs n false).raise fl) c vs ps
  have pick {β : Type} (f : Hart → β) :
      f { h1 with files := (((s.h.pop rs n false).raise fl).marked c vs ps).files
                  dirty := (((s.h.pop rs n false).raise fl).marked c vs ps).dirty } = f (((s.h.pop rs n false).raise fl).marked c vs ps) :=
    congrArg f hw.hart
  have mick {β : Type} (f : Hart → β) :
      f { ((s.h.pop rs n false).raise fl).marked c vs ps with marks := s.h.marks, dirty := s.h.dirty, lost := s.h.lost } = f ((s.h.pop rs n false).raise fl) :=
    congrArg f m.1
  exact {
    regs := fun r => by
      have : h1.x = s.h.x := (pick Hart.x).trans (mick Hart.x)
      simp [Hart.rx, this]
    strip := (pick Hart.strip).trans (mick Hart.strip)
    streams := (pick Hart.streams).trans (mick Hart.streams)
    rotated := by
      rw [hw.rotated.1, hw.rotated.2, m.2.1]
      exact ⟨rfl, rfl⟩
    hart := by
      have a := congrArg (fun h : Hart => { h with
        x := s.h.x, strip := s.h.strip, files := s.h.files, streams := s.h.streams, marks := s.h.marks, dirty := s.h.dirty, lost := s.h.lost }) hw.hart
      have b := congrArg (fun h : Hart => { h with
        x := s.h.x, strip := s.h.strip, files := s.h.files, streams := s.h.streams, marks := s.h.marks, dirty := s.h.dirty, lost := s.h.lost }) m.1
      exact a.trans b }

/-- A predicate written by an instruction, in the state that it leaves. -/
theorem predWritten_of {s t : State} {h0 h1 : Hart} {c : Vc} {k : Nat} {active : Nat → Bool} {e : Nat} {val : Nat → Bool}
    (f0 : h0.files = s.h.files) (k0 : h0.task = s.h.task) (ft : t.h.files = h1.files) (kt : t.h.task = s.h.task)
    (hw : Hart.WithinPred h0 h1 k)
    (he : k ≠ 0 → ∀ j, j < c.share * c.cores → h1.pbit c k j = c.classed active e j (h0.pbit c k j) false (val j)) :
    PredWritten s t c k active e val := by
  have tk : h1.task = h0.task := by
    have := congrArg Hart.task hw.hart; exact this
  have a : ∀ q j, t.h.preg q j = h1.preg q j := fun q j =>
    Hart.preg_of_files (by rw [ft]) (by rw [ft]) (by unfold Hart.vlenb; rw [kt, tk, k0]) q j
  have b : ∀ q j, h0.preg q j = s.h.preg q j := fun q j =>
    Hart.preg_of_files (by rw [f0]) (by rw [f0]) (by unfold Hart.vlenb; rw [k0]) q j
  exact {
    bits := fun kz i hi => by
      have e1 : t.h.pbit c k i = h1.pbit c k i := by unfold Hart.pbit; rw [a]
      have e2 : h0.pbit c k i = s.h.pbit c k i := by unfold Hart.pbit; rw [b]
      rw [e1, he kz i hi, e2]
    others := fun q j hj ho => by rw [a, hw.others q j hj ho, b]
    vectors := fun q r _ => by
      rw [Hart.vreg_of_files ft, hw.vectors q r, Hart.vreg_of_files f0] }

/-- A predicate written and charged, at the end of an instruction. -/
theorem pred_done {s : State} {c : Vc} {k : Nat} (hk : k < 16) {active : Nat → Bool} {val : Nat → Bool} {fl : Nat → Flags}
    (rs : List Nat) (vs ps : List Nat) (ready : VectorReady s c) (vals : List (Nat × Bool))
    (h1 : ∀ p ∈ vals, p.2 = val p.1) (h2 : ∀ j, j ∈ vals.map (·.1) ↔ c.start ≤ j ∧ j < c.vl ∧ active j = true) {u : State}
    (gu : Charged (s.setH (Hart.writePred (((s.h.pop rs c.vl false).raise (c.raised active fl)).marked c vs ps) c active k c.vl vals)) u) :
    VectorDone s (vectorRetire u) 0 0 (s.h.strip.after (c.raised active fl) 0) rs c.vl
    ∧ PredWritten s (vectorRetire u) c k active c.vl val := by
  have m := Hart.marked_eq ((s.h.pop rs c.vl false).raise (c.raised active fl)) c vs ps
  have sp := Hart.writePred_spec (((s.h.pop rs c.vl false).raise (c.raised active fl)).marked c vs ps) c hk active c.vl val
    vals h1 h2
  have wr := written_pred (s := s) rs c.vl (c.raised active fl) vs ps sp.1
  have d := vectorDone_retire ready wr gu
  rw [← Strip.after_zero] at d
  exact ⟨d.1, predWritten_of m.2.1 m.2.2 d.2.1 d.2.2 sp.1 sp.2⟩

/-- A compare, where nothing stops it. -/
theorem lanePred_done (s : State) (ms : BitVec 2) (typeOk : Vc → Bool) (sl : Vc → List (Nat × Nat × Nat)) (dest : BitVec 4)
    (f : Vc → (Nat → Nat) → Bool × Flags) {c : Vc} (hc : s.h.vc ms = c) {l : List (Nat × Nat × Nat)} (hl : sl c = l)
    {srcs : List Source} (hs : (l.map fun t => s.h.source c t.1 t.2.1) = srcs) (val : Nat → Bool) (fl : Nat → Flags)
    (ready : VectorReady s c) (ty : typeOk c = true) (regs : (l.all fun t => t.1 % t.2.2 == 0 && s.h.readOk c t.1 t.2.2 t.2.1) = true)
    (pred : c.predOk true = true) (claim : c.writes = true → (s.h.marks.claim [] (s.h.predSlots dest.toNat)).isSome = true)
    (there : c.readable (s.h.active c) srcs)
    (gives : ∀ i, c.start ≤ i → i < c.vl → s.h.active c i = true →
      f c (fun k => elementOf srcs k i) = (val i, fl i) ∧ flagCause (fl i) s.h.ftrim = none) :
    ∃ t, lanePred s ms typeOk sl dest f = .next t
      ∧ VectorDone s t 0 0 (s.h.strip.after (c.raised (s.h.active c) fl) 0) (l.map (·.1)) c.vl
      ∧ PredWritten s t c dest.toNat (s.h.active c) c.vl val := by
  have run := runElements_ok s c (s.h.active c) true (fromSources srcs fun _ i => f c fun k => elementOf srcs k i)
      val fl (ready.cut _) (fun i h1 h2 h3 => by
        have := gives i h1 h2 h3
        refine ⟨?_, this.2⟩
        rw [fromSources_ok _ _ _ _ (there i h1 h2 h3), this.1])
  have vs := upTo_vals_spec c (s.h.active c) val fl
  unfold lanePred
  simp only [hc, hl, hs]
  refine ⟨_, rfl, ?_⟩
  rw [vectorGuard_ok ready (by simp only [ty, regs, pred, Bool.and_self]), claimed_ok _ _ _ _ _ claim, run, endRun_ok]
  simp only [State.h_setH, State.setH_twice]
  refine pred_done dest.isLt (val := val) (fl := fl) (l.map (·.1)) [] (s.h.predSlots dest.toNat) ready _ vs.1 vs.2 ?_
  exact charged_laneEnd _ _ _ _ _ _ _ _

end Sys2Proof.Machine
end

