-- ==== Sys2Proof/Laws/Probes.lean ====
section
/-! SUPPORT. What a hash probe reads follows what its instruction had read before, and does not depend on it (R211). -/

namespace Sys2Proof.Machine

theorem eltOf_ok {α : Type} {lead : Bool} {ea : Nat} {r : Res α} {a : α} {fl : Flags} (h : eltOf lead ea r = .ok a fl) : r = .ok a := by
  unfold eltOf at h
  split at h
  · cases h
    rfl
  · split at h <;> cases h
  · split at h <;> cases h
  · cases h

theorem probeRead_seen {s : State} {lead : Bool} {i k ea w : Nat} {acc : Seen} {v : Nat} {r : Seen} {fl : Flags}
    (h : probeRead s lead i k ea w acc = .ok (v, r) fl) :
    ∃ l, r = acc ++ l ∧ ∀ seen, probeRead s lead i k ea w seen = .ok (v, seen ++ l) fl := by
  cases hc : eltOf lead (ea % 2 ^ 64) (checkSpots s (ea % 2 ^ 64) w (served (loads false))) with
  | ok l f =>
    have hl := eltOf_ok hc
    cases hg : probeGate s l with
    | none =>
      cases hr : eltOf lead (ea % 2 ^ 64) (readAccess s (accessTag i k) l) with
      | ok x g =>
        have hx := eltOf_ok hr
        simp only [probeRead, hl, hg, hx, eltOf, Elt.andThen] at h
        cases h
        exact ⟨_, rfl, fun seen => by simp only [probeRead, hl, hg, hx, eltOf, Elt.andThen]⟩
      | _ => simp only [probeRead, hc, hg, hr, Elt.andThen, reduceCtorEq] at h
    | some f => simp only [probeRead, hc, hg, Elt.andThen, reduceCtorEq] at h
  | _ => simp only [probeRead, hc, Elt.andThen, reduceCtorEq] at h

theorem probeFrom_seen {s : State} {p : Probe} {w key hash : Nat} {lead : Bool} {i : Nat} :
    ∀ {fuel t : Nat} {acc : Seen} {v : Nat} {r : Seen} {fl : Flags}, probeFrom s p w key hash lead i fuel t acc = .ok (v, r) fl →
      ∃ l, r = acc ++ l ∧ ∀ seen, probeFrom s p w key hash lead i fuel t seen = .ok (v, seen ++ l) fl
  | 0, _, acc, _, _, _, h => by
    cases h
    exact ⟨[], by simp, fun seen => by simp [probeFrom]⟩
  | fuel + 1, t, acc, v, r, fl, h => by
    unfold probeFrom at h
    cases hr : probeRead s lead i (2 * t) (p.tbase + (hash + t) % 2 ^ p.log2n * 2 ^ p.log2s) w acc with
    | ok a f =>
      obtain ⟨k, r1⟩ := a
      obtain ⟨l1, rfl, h1⟩ := probeRead_seen hr
      simp only [hr, Elt.andThen] at h
      split at h
      · rename_i hk
        obtain ⟨l2, rfl, h2⟩ := probeRead_seen h
        exact ⟨l1 ++ l2, by simp, fun seen => by simp only [probeFrom, h1, Elt.andThen, hk, if_true, h2, List.append_assoc]⟩
      · rename_i hk
        split at h
        · rename_i hf
          cases h
          exact ⟨l1, rfl, fun seen => by simp only [probeFrom, h1, Elt.andThen, if_neg hk, if_pos hf]⟩
        · rename_i hf
          obtain ⟨l2, rfl, h2⟩ := probeFrom_seen h
          exact ⟨l1 ++ l2, by simp, fun seen => by
            simp only [probeFrom, h1, Elt.andThen, if_neg hk, if_neg hf, h2, List.append_assoc]⟩
    | stop c x => simp [hr, Elt.andThen] at h
    | hold f => simp [hr, Elt.andThen] at h

/-- A probe that ends gives its value whatever was read before it, and adds what it read. -/
theorem probeKey_seen {s : State} {p : Probe} {w key : Nat} {lead : Bool} {i : Nat} {acc : Seen} {v : Nat} {r : Seen} {fl : Flags}
    (h : probeKey s p w key lead i acc = .ok (v, r) fl) :
    ∃ l, r = acc ++ l ∧ ∀ seen, probeKey s p w key lead i seen = .ok (v, seen ++ l) fl := by
  by_cases hk : key = 2 ^ (8 * w) - 1
  · rw [probeKey, if_pos hk] at h
    cases h
    exact ⟨[], (List.append_nil _).symm, fun seen => by rw [probeKey, if_pos hk, List.append_nil]⟩
  · rw [probeKey, if_neg hk] at h
    obtain ⟨l, e, g⟩ := probeFrom_seen h
    exact ⟨l, e, fun seen => by rw [probeKey, if_neg hk, g]⟩

end Sys2Proof.Machine
end

