-- ==== Sys2Proof/Tests/Slice0.lean ====
section
/-! SUPPORT. Tests of the model and witnesses of the statements. Every expected value is the manual's or counted by hand from its
text; a witness shows a state and operands that meet all the hypotheses of a statement, or of one of its clauses, together. -/

open Sys2Proof Sys2Proof.Machine Sys2Proof.Claims

set_option Elab.async false

namespace Sys2Proof.Tests

/-! ## Instructions that are not well formed: one for each check, which refuses it -/

theorem test_scope_codes_above_five_are_refused : (∀ p ∈ [(6 : BitVec 3), 7],
    (Instr.ldAcq 1 2 p).wellFormed = false ∧ (Instr.stRel 1 2 p).wellFormed = false ∧ (Instr.sysFence 1 p).wellFormed = false
    ∧ (Instr.samoLl 1 2 p false false).wellFormed = false ∧ (Instr.samoSc 1 2 3 p false false).wellFormed = false
    ∧ (Instr.samoSwap 1 2 3 p false false).wellFormed = false ∧ (Instr.samoFadd 1 2 3 p false false).wellFormed = false
    ∧ (Instr.samoFmin 1 2 3 p false false).wellFormed = false ∧ (Instr.samoFmax 1 2 3 p false false).wellFormed = false
    ∧ (Instr.samoFand 1 2 3 p false false).wellFormed = false ∧ (Instr.samoFor 1 2 3 p false false).wellFormed = false)
    ∧ (Instr.ldAcq 1 2 5).wellFormed = true := by decide

theorem test_fence_of_no_kind_is_refused : (Instr.sysFence 0 5).wellFormed = false ∧ (Instr.sysFence 1 0).wellFormed = true := by decide

theorem test_scope_without_order_is_refused : (Instr.cpeCwait 1 2 false 3).wellFormed = false ∧ (Instr.cpeCdrain 1 false 1).wellFormed = false
    ∧ (Instr.taskSpawn 1 2 3 4 false 2).wellFormed = false ∧ (Instr.taskJoin 1 2 false 1).wellFormed = false
    ∧ (Instr.cpeCwait 1 2 true 3).wellFormed = true := by decide

theorem test_hart_numbers_above_4095_are_refused : (∀ i ∈ [Instr.setvlStreamGrant 4096, .idxLineArrival 4096, .cinchLaneCheck 4096 true,
    .sliceEnd 4096, .viSliceEnd 4096, .preWinExpiry 4096, .saveComplete 4096, .streamRefill 4096 0 1, .cpeWaitReturn 4096,
    .barrierWake 4096, .lockWordTake 4096, .idleWake 4096, .idleTimeout 4096, .pageRequestResponse 4096 true, .pageRequestTimeout 4096,
    .traceSample 4096 0, .debugStop 0 4096, .step 0 4096, .resume 0 4096, .debugMemoryViewRead 0 4096 .memory 0,
    .debugMemoryViewWrite 0 4096 0 0], i.wellFormed = false) ∧ (Instr.sliceEnd 4095).wellFormed = true := by decide

theorem test_vi_numbers_above_255_are_refused : (∀ i ∈ [Instr.atsTranslationCompletion 256 0 12 0 true true, .atsInvalidateRequest 256 0 12,
    .loadObject 256 [] [], .unloadObject 256 0, .lrec 256 0, .killt 256 0, .tlbInvalidate 256 0 0 false, .tlbInvalidate 0 256 0 false,
    .tlbInvalidateVi 256 0 false, .tlbInvalidateVi 0 256 false, .debugStop 256 0, .step 256 0, .resume 256 0,
    .debugMemoryViewRead 256 0 .memory 0, .debugMemoryViewWrite 256 0 0 0, .interfaceTableWrite 256 0 0, .functionLevelReset 256],
    i.wellFormed = false) ∧ (Instr.lrec 255 0).wellFormed = true := by decide

theorem test_event_operands_out_of_range_are_refused : (∀ i ∈ [Instr.arrayAccept 1024, .arrayRetire 1024 false, .vectorSequencerChoice 1024 [],
    .copyBurst 32 64, .copyBurst 0 4097, .atsTranslationCompletion 0 0 11 0 true true, .atsTranslationCompletion 0 0 31 0 true true,
    .atsInvalidateRequest 0 0 11, .atsInvalidateRequest 0 0 31, .peerAccess 256 0 (.link 0 false) 0], i.wellFormed = false)
    ∧ (Instr.copyBurst 31 4096).wellFormed = true := by decide

/-! ## Decoding: words written out from the encodings of the manual, at least one for each major -/

theorem test_decode_sop : decode 0x04A63800 = .sopAdd 5 6 7 := by decide +kernel
theorem test_decode_sopi : decode 0x08AA0FFC = .sopiAddi 5 10 0xFFC ∧ decode 0x08A50678 = .sopiAddi 5 5 0x678 := by decide +kernel
theorem test_decode_lui : decode 0x0CA2468A = .lui 5 0x2468A := by decide +kernel
theorem test_decode_ld : decode 0x10CA6010 = .ldD 6 10 0x010 := by decide +kernel
theorem test_decode_st : decode 0x14CA4004 = .stRel 6 10 4 := by decide +kernel
theorem test_decode_br : decode 0x18A01FFD = .brNe 5 0 0xFFD := by decide +kernel
theorem test_decode_jal : decode 0x1C3FFFFE = .jal 1 0x1FFFFE ∧ decode 0x20010000 = .jalr 0 1 0 := by decide +kernel
theorem test_decode_ctl : decode 0x24E00007 = .ctlCrr 7 0x007 := by decide +kernel
theorem test_decode_sys : decode 0x280A5809 = .sysDflush 10 11 ∧ decode 0x280A5805 = .sysIpf 10 11 ∧ decode 0x28000006 = .sysScommit
    ∧ decode 0x281C0003 = .sysFence 3 4 := by decide +kernel
theorem test_decode_brot : decode 0x2D4B0FFB = .brot 10 11 0xFFB := by decide +kernel
theorem test_decode_setvl : decode 0x30AA0A00 = .setvl 5 10 false 0xA0 ∧ decode 0x30AA1A00 = .setvl 5 10 true 0xA0 := by decide +kernel
theorem test_decode_mdset : decode 0x353584C0 = .mdset 1 0x1AC26 := by decide +kernel
theorem test_decode_samo : decode 0x38AA5CC3 = .samoFadd 5 10 11 4 true true := by decide +kernel
theorem test_decode_valu : decode 0x41011581 = .valuSub 8 1 2 true false 3 := by decide +kernel
theorem test_decode_valux : decode 0x45011000 = .valuxAdd 8 1 2 false 0 := by decide +kernel
theorem test_decode_vfp : decode 0x49011280 = .vfpAdd 8 1 2 false true 1 ∧ decode 0x4CC66002 = .vfpxMul 6 6 12 false 0 := by decide +kernel
theorem test_decode_vfma : decode 0x510110D4 = .vfmaMadd 8 1 2 3 false true false 2
    ∧ decode 0x550110C1 = .vfmsNmsub 8 1 2 3 false false false 0 ∧ decode 0x590110CD = .vimacNmsac 8 1 2 3 false false true 2 := by
  decide +kernel
theorem test_decode_vcvt : decode 0x5C480085 = .vcvtFnar 2 8 false 1 := by decide +kernel
theorem test_decode_vpred : decode 0x60611003 = .vpredAndn 3 1 2 0 := by decide +kernel
theorem test_decode_vperm : decode 0x64885001 = .vpermSlup 4 8 10 false 0 := by decide +kernel
theorem test_decode_vred : decode 0x69885881 = .vredFsum 12 8 11 false 1 := by decide +kernel
theorem test_decode_vscan : decode 0x6C885840 = .vscanSum 4 8 11 false 0 true ∧ decode 0x6C220040 = .vscanSum 1 2 0 false 0 true := by
  decide +kernel
theorem test_decode_vsel : decode 0x70C86102 = .vselTopk 6 8 12 false 2 := by decide +kernel
theorem test_decode_vrng : decode 0x74800081 = .vrngUnif 4 1 := by decide +kernel
theorem test_decode_vld : decode 0x810A2002 = .vldIdx 8 10 4 false 0 ∧ decode 0x80CC2008 = .vldPrb 6 12 4 false 0
    ∧ decode 0x81020007 = .vldFill 8 2 := by decide +kernel
theorem test_decode_vst : decode 0x85020007 = .vstSpill 8 2 false := by decide +kernel
theorem test_decode_vstr : decode 0x888E0000 = .vstrSbind 1 14 0 ∧ decode 0x8A8E0000 = .notAnInstruction 0x8A8E0000 .reservedField := by
  decide +kernel
theorem test_decode_vatom : decode 0x8C0A2002 = .vatomLock 10 4 false := by decide +kernel
theorem test_decode_mop : decode 0xA1221FF8 = .mopMop 2 8 16 31 31 false false ∧ decode 0xA0B21FF9 = .mopMopu 1 12 16 31 31 false := by
  decide +kernel
theorem test_decode_mctl : decode 0xA4001000 = .mctlMzero 2 ∧ decode 0xA60B1081 = .mctlMdrain 16 11 2 1 ∧ decode 0xA40A0004 = .mctlMset 10
    ∧ decode 0xA40A1005 = .mctlZwset 10 2 := by decide +kernel
theorem test_decode_eng : decode 0xC06429A9 = .engSadd 3 4 5 6 2 1 := by decide +kernel
theorem test_decode_cpe : decode 0xC58A5B8A = .cpeCpy 12 10 11 7 2 2 := by decide +kernel
theorem test_decode_bar : decode 0xC8642990 = .barInit 3 4 5 6 false 0 := by decide +kernel
theorem test_decode_wl : decode 0xCC642990 = .wlPopb 3 4 5 6 false 0 := by decide +kernel
theorem test_decode_task : decode 0xD0642820 = .taskDep 3 4 5 := by decide +kernel
theorem test_decode_trc : decode 0xD4642820 = .trcCtrr 3 4 5 := by decide +kernel
theorem test_words_that_are_no_instruction : decode 0 = .notAnInstruction 0 .illegalMajor
    ∧ decode 0xFFFFFFFF = .notAnInstruction 0xFFFFFFFF .illegalMajor ∧ decode 0x44811200 = .notAnInstruction 0x44811200 .reservedField
    ∧ decode 0x6C220006 = .notAnInstruction 0x6C220006 .reservedFn ∧ decode 0xC58A5BCA = .notAnInstruction 0xC58A5BCA .reservedField := by
  decide +kernel

/-! ## States for tests -/

/-- A running hart 0 on core 0, in task mode, with a handler at 0x2000 and translation that is not set up (addresses are their
own homes). -/
def small : State :=
  let h : Hart := { live := true, pc := 0x1000, trap := { tvec := 0x2000 }, span := [0], slots := [0],
                    task := { id := 7, vi := 0, start := { poolpart := 0x02010203, tiles := 2 } } }
  { State.reset with power := { State.reset.power with state := .ready }, harts := [(0, h)], cores := [(0, { poolpart := 0x02010203 })] }

def upd (s : State) (f : Hart → Hart) : State := s.setH (f s.h)

/-- `s` with the listed x registers. -/
def withX (s : State) (l : Sparse Word) : State := upd s fun h => { h with x := l }

/-- `s` with the doublewords of `l` in its home memory. -/
def withMem (s : State) (l : List (Nat × Nat)) : State := { s with mem := l.foldl (fun m p => m.write p.1 p.2 8) s.mem }

/-- `s` in handler mode. -/
def inHandler (s : State) : State := upd s fun h => { h with trap := { h.trap with handler := true, tpc := 0x1010, tvstart := 3 } }

/-- What an instruction gives: the next state, or a state with no power where there is none. -/
def after (i : Instr) (s : State) : State := match exec i s with
  | .next t => t
  | _ => State.reset

theorem below {n : Nat} {f : Nat → Bool} (h : (List.range n).all f = true) : ∀ i, i < n → f i = true :=
  fun i hi => List.all_eq_true.mp h i (List.mem_range.mpr hi)

theorem canTrap_of {s : State} (h : decide (s.h.trap.handler = false ∧ s.h.trap.tvec ≠ 0 ∧ s.h.dbg.trace = false ∧ s.h.array = []) = true) : CanTrap s := by
  simpa [CanTrap] using h

theorem unasked_of {h : Hart} (c : decide (h.trap.handler = false ∧ h.preempt = none ∧ h.dbg.haltElement = none) = true) : Unasked h := by
  simpa [Unasked] using c

theorem next_of {o : Host.Outcome State Fault Refusal} (h : (match o with
    | .next _ => true
    | _ => false) = true) : ∃ t, o = .next t := by
  split at h
  · exact ⟨_, rfl⟩
  · cases h

def calm (s : State) : Bool :=
  s.h.live && decide (s.h.wait = .run) && !s.h.dbg.halted && !s.h.trap.handler && !s.h.dbg.trace && decide (s.h.array = [])
    && decide (s.h.gathers = []) && decide (s.h.marks.failed = none ∧ s.h.marks.checks = []) && !s.h.committing && decide (s.h.preempt = none) && !s.h.dbg.haltReq && decide (s.h.sb = []) && s.h.sbused == 0

theorem calm_of {s : State} (h : calm s = true) : Calm s := by
  simp only [calm, Bool.and_eq_true, decide_eq_true_eq, Bool.not_eq_true', beq_iff_eq] at h
  obtain ⟨⟨⟨⟨⟨⟨⟨⟨⟨⟨⟨⟨a, b⟩, c⟩, d⟩, e⟩, f⟩, m⟩, g⟩, n⟩, i⟩, j⟩, k⟩, l⟩ := h
  exact ⟨a, b, c, d, e, f, m, g, n, ⟨i, j⟩, ⟨k, l⟩⟩

theorem quiet_of {s : State} (h : (s.harts.all fun c => decide (c.2.wait = .run)) = true) :
    ∀ c ∈ s.harts, ∀ line, c.2.waitsOn line = false := by
  intro c hc line
  have hw := of_decide_eq_true (List.all_eq_true.mp h c hc)
  simp [Hart.waitsOn, hw]

/-- The page that `r` gives is ordinary home memory at `la`. -/
def homeAt (r : Res Page) (la : Nat) : Bool := match r with
  | .ok p => decide (p.loc = .home la) && !p.device
  | _ => false

theorem homeAt_of {r : Res Page} {la : Nat} (h : homeAt r la = true) : ∃ p, r = .ok p ∧ p.loc = .home la ∧ p.device = false := by
  unfold homeAt at h
  split at h
  · simp only [Bool.and_eq_true, decide_eq_true_eq, Bool.not_eq_true'] at h
    exact ⟨_, rfl, h.1, h.2⟩
  · cases h

theorem atHome_of {s : State} {r : Res Page} {la : Nat} (h : homeAt r la = true)
    (hq : (s.harts.all fun c => decide (c.2.wait = .run)) = true) (ho : decide (s.posted = [] ∧ s.out = []) = true) : AtHome s r la :=
  ⟨homeAt_of h, quiet_of hq, of_decide_eq_true ho⟩

def readsHome (s : State) (ea n : Nat) (ordering : Bool) (la : Nat) : Bool := match scalarPage s s.cur ea n true false ordering with
  | .ok p => decide (p.loc = .home la) && !p.device && !(s.h.sb.any fun e => e.ord == .strong) && !strongPending s s.h.owner
      && !s.mem.poisoned la n
  | _ => false

theorem readsHome_of {s : State} {ea n la : Nat} {ordering : Bool} (h : readsHome s ea n ordering la = true) :
    ∃ v, ReadsHome s ea n ordering la v := by
  unfold readsHome at h
  split at h
  · rename_i p hp
    simp only [Bool.and_eq_true, decide_eq_true_eq, Bool.not_eq_true'] at h
    exact ⟨_, p, hp, h.1.1.1.1, h.1.1.1.2, fun _ => ⟨h.1.1.2, h.1.2⟩, h.2, rfl⟩
  · cases h

/-! ## Words, steps and reset -/

/-- `small` with code at 0x1000: page 0 holds `sopi.addi x5, x5, 0x678` in its first word, page 1 is not filled. -/
def coded : State :=
  { small with objects := [{ id := 1, vi := 0, state := .loaded, codebase := 0x1000, npage := 2, hashes := [], filled := [0], filling := []
                             words := [(0, 0x08A50678)], sections := [], scratches := [], kernels := [], errata := 0 }] }

theorem witness_DecodeOfEncode : (Instr.ctlCrs 31 31 0xFFF).isWord = true ∧ (Instr.ctlCrs 31 31 0xFFF).wellFormed = true := by decide

/-- The state in which hart `n` takes its turn in the step of `s`. -/
def turnOf (s : State) (n : Nat) : State := beginTurn { dueLatches (tick { s with agenda := s.agenda.tail }) with cur := n } n

/-- The hypotheses of StepRunsDecoded about state `s` in which hart `n` takes its turn, whose PC lies in page `page` of an object. -/
def stepHyps (s : State) (n page : Nat) (there : Bool) : Bool :=
  let b := turnOf s n
  decide (s.power.state = .ready) && b.h.ready && !b.h.committing && b.h.pc.toNat % 4 == 0 && b.h.task.start.errata == 0
    && (match codeObject b b.h.task.vi b.h.pc.toNat with
      | some o => (b.h.pc.toNat - o.codebase) / 65536 == page && decide (page ∈ o.filled) == there
      | none => false)
    && b.harts.all fun c => !c.2.dbg.stepping && c.2.dbg.stop.isNone

theorem witness_StepRunsDecoded_filled_page : coded.agenda = [] ∧ coded.cur = 0 ∧ stepHyps coded 0 0 true = true
    ∧ usesSequencer (decode 0x08A50678) 0x08A50678 = false := by decide +kernel
theorem witness_StepRunsDecoded_last_word_of_the_page :
    stepHyps (upd coded fun h => { h with pc := 0x10FFC }) 0 0 true = true := by decide +kernel
theorem witness_StepRunsDecoded_page_not_filled : stepHyps (upd coded fun h => { h with pc := 0x11000 }) 0 1 false = true := by
  decide +kernel
theorem witness_StepRunsDecoded_no_code :
    let s := upd coded fun h => { h with pc := 0x21000 }
    s.power.state = .ready ∧ s.agenda = [] ∧ s.cur = 0 ∧ (turnOf s 0).h.ready = true ∧ (turnOf s 0).h.pc.toNat % 4 = 0
      ∧ codeObject (turnOf s 0) (turnOf s 0).h.task.vi (turnOf s 0).h.pc.toNat = none := by
  decide +kernel

/-- `coded` with a second hart on core 0, in the same code. -/
def twoHarts : State := { coded with harts := [(0, coded.h), (1, { coded.h with slots := [1], task := { coded.h.task with id := 8 } })] }

/-- A turn that names its hart, and one for the ready hart that issued least recently: hart 1, after hart 0 has issued (R57). -/
theorem witness_StepRunsDecoded_turns_of_the_agenda :
    stepHyps { twoHarts with agenda := [.hart 1] } 1 0 true = true
    ∧ stepHyps { twoHarts with agenda := [.issue [0, 1]], cores := [(0, { poolpart := 0x02010203, issued := [0] })] } 1 0 true = true
    ∧ leastRecent (dueLatches (tick { twoHarts with cores := [(0, { poolpart := 0x02010203, issued := [0] })] })) [0, 1] = some 1 := by
  decide +kernel

/-- `twoHarts` at a vector instruction, while the sequencer of core 0 serves `chosen`. -/
def sequencing (chosen : Option Nat) : State :=
  { twoHarts with objects := twoHarts.objects.map (fun o => { o with words := [(0, 0x41011581)] })
                  cores := [(0, { poolpart := 0x02010203, ready := chosen.toList, chosen })] }

/-- The sequencer is free for the hart of the turn, or it serves the other one (R285). -/
theorem witness_StepRunsDecoded_sequencer : usesSequencer (decode 0x41011581) 0x41011581 = true
    ∧ stepHyps (sequencing none) 0 0 true = true ∧ sequenced (askSequencers (turnOf (sequencing none) 0) 0) 0 = true
    ∧ stepHyps (sequencing (some 1)) 0 0 true = true ∧ sequenced (askSequencers (turnOf (sequencing (some 1)) 0) 0) 0 = false := by
  decide +kernel

/-- An instruction that completes with no hart being stepped. -/
theorem witness_StepRunsDecoded_completes : ∃ t, exec (decode 0x08A50678) { turnOf coded 0 with ir := 0x08A50678 } = .next t
    ∧ (∀ k, (t.hart k).dbg.stepping = false ∧ (t.hart k).dbg.stop = none) ∧ ((turnOf coded 0).hart 0).issued = false
    ∧ movedOn ((turnOf coded 0).hart 0) (t.hart 0) = true := by
  refine ⟨_, rfl, fun k => ?_, by decide +kernel, by decide +kernel⟩
  match k with
  | 0 => decide +kernel
  | n + 1 => exact ⟨rfl, rfl⟩

/-- A commit that is under way goes on first, and an unaligned PC traps (R93). -/
theorem witness_StepRunsDecoded_committing_and_misaligned :
    (turnOf (upd coded fun h => { h with committing := true }) 0).h.ready = true
    ∧ (turnOf (upd coded fun h => { h with pc := 0x1002 }) 0).h.ready = true
    ∧ (turnOf (upd coded fun h => { h with pc := 0x1002 }) 0).h.pc.toNat % 4 ≠ 0 := by decide +kernel

/-- The core remembers that hart 0 has issued (R57). -/
theorem test_a_core_remembers_who_issued :
    (match step coded with
      | .next t => (t.core 0).issued == [0] && !(t.hart 0).issued
      | _ => false) = true := by decide +kernel

theorem witness_MemoryStaysCanonical : coded.mem.wf = true ∧ ∃ t, step coded = .next t :=
  ⟨by decide +kernel, next_of (by decide +kernel)⟩

theorem test_step_runs_the_word_at_pc :
    (match step coded with
      | .next t => t.h.rx 5 == 0x678 && t.h.pc == 0x1004 && t.h.instret == 1
      | _ => false) = true := by decide +kernel

theorem test_fetch_word_runs_next :
    (match step (coded.withFetchWord 32 0x08A50678) with
      | .next t => t.h.rx 5 == 0x678
      | _ => false) = true := by decide +kernel

/-! ## Scalar instructions -/

theorem test_lui_then_addi_builds_a_constant :
    (after (.sopiAddi 5 5 0x678) (after (.lui 5 0x2468A) small)).h.rx 5 = 0x12345678 := by decide +kernel

theorem test_x0_discards_writes : (after (.sopiAddi 0 0 5) small).h.rx 0 = 0 ∧ (after (.sopiAddi 0 0 5) small).h.pc = 0x1004 := by
  decide +kernel

theorem test_add_wraps : (after (.sopAdd 3 1 2) (withX small [(1, -1), (2, 2)])).h.rx 3 = 1 := by decide +kernel

theorem test_sra_keeps_the_sign_and_takes_six_bits :
    (after (.sopSra 3 1 2) (withX small [(1, 1 <<< 63), (2, 67)])).h.rx 3 = 0xF000000000000000 := by decide +kernel

theorem test_mulh_is_signed : (after (.sopMulh 3 1 2) (withX small [(1, -1), (2, 2)])).h.rx 3 = -1
    ∧ (after (.sopMulhu 3 1 2) (withX small [(1, -1), (2, 2)])).h.rx 3 = 1 := by decide +kernel

theorem test_division_truncates_and_keeps_the_sign :
    let s := withX small [(1, -7), (2, 2)]
    (after (.sopDiv 3 1 2) s).h.rx 3 = -3 ∧ (after (.sopRem 3 1 2) s).h.rx 3 = -1 := by decide +kernel

theorem test_division_by_zero_and_overflow :
    (after (.sopDiv 3 1 0) (withX small [(1, 9)])).h.rx 3 = -1 ∧ (after (.sopRem 3 1 0) (withX small [(1, 9)])).h.rx 3 = 9
    ∧ (after (.sopDiv 3 1 2) (withX small [(1, 1 <<< 63), (2, -1)])).h.rx 3 = 1 <<< 63
    ∧ (after (.sopRem 3 1 2) (withX small [(1, 1 <<< 63), (2, -1)])).h.rx 3 = 0 := by decide +kernel

theorem test_counts_of_zero : (after (.sopClz 3 0) small).h.rx 3 = 64 ∧ (after (.sopCtz 3 0) small).h.rx 3 = 64
    ∧ (after (.sopPop 3 1) (withX small [(1, 0xF0F)])).h.rx 3 = 8 := by decide +kernel

theorem test_branch_back : (after (.brNe 5 0 0xFFD) (withX small [(5, 1)])).h.pc = 0xFF4 ∧ (after (.brNe 5 0 0xFFD) small).h.pc = 0x1004 := by
  decide +kernel

theorem test_jalr_reads_its_base_before_the_link : (after (.jalr 1 1 4) (withX small [(1, 0x3000)])).h.pc = 0x3004
    ∧ (after (.jalr 1 1 4) (withX small [(1, 0x3000)])).h.rx 1 = 0x1004 := by decide +kernel

theorem test_crw_swaps : (after (.ctlCrw 1 1 0x086) (withX small [(1, 5)])).h.trap.tscratch = 5
    ∧ (after (.ctlCrw 1 1 0x086) (withX small [(1, 5)])).h.rx 1 = 0 := by decide +kernel

theorem witness_ControlTransfer_misaligned : ((withX small [(1, 2)]).h.rx 1 + BitVec.ofInt 64 (0 : BitVec 12).toInt).toNat % 4 ≠ 0
    ∧ CanTrap (withX small [(1, 2)]) := ⟨by decide +kernel, canTrap_of (by decide +kernel)⟩

theorem witness_ControlTransfer_aligned : ((withX small [(1, 2)]).h.rx 1 + BitVec.ofInt 64 (2 : BitVec 12).toInt).toNat % 4 = 0 := by
  decide +kernel

theorem witness_ControlReads : (0x072, fun s : State => s.h.instret) ∈ readable := by simp [readable]

/-- The counter space and the numbers at its ends; a register that nothing in flight can change, and three that it can (R72). -/
theorem settled_of {s : State} {n : Nat} (h : decide ((n = 0x011 → s.h.array = []) ∧ (0x030 ≤ n → n ≤ 0x037 → ∀ e ∈ s.h.array,
    e.tile % 8 ≠ n - 0x030) ∧ (0x0B0 ≤ n → n ≤ 0x0B2 → s.h.gathers = [])) = true) : Settled s n := by
  have e := of_decide_eq_true h
  exact e

theorem witness_ControlReads_counters : (readable.map (·.1)).contains 0x1AF = true ∧ (counters.map (·.1)).contains 0x106 = false
    ∧ (counters.map (·.1)).contains 0x1FF = false ∧ Settled small 0x011 :=
  ⟨by decide +kernel, by decide +kernel, by decide +kernel, settled_of (by decide +kernel)⟩

/-- `small` with a gather and an array operation on tile 1 in flight. -/
def inFlight : State := upd small fun h => { h with
  gathers := [{ pc := 0x1000, sord := 0, probe := false, slots := [8] }]
  array := [{ pc := 0x1000, sord := 0, tile := 1, slices := 1, unfold := none, a := [], b := [], scaleA := none, scaleB := none, rm := 0
              buffered := 0, accepted := false, zw := 0, mvl := 0, padding := [] }] }

theorem witness_ControlReads_in_flight : ¬Settled inFlight 0x011 ∧ ¬Settled inFlight 0x031 ∧ Settled inFlight 0x030 ∧ ¬Settled inFlight 0x0B2 :=
  ⟨fun h => absurd (h.1 rfl) (by decide +kernel), fun h => absurd (h.2.1 (by decide) (by decide)) (by decide +kernel),
    settled_of (by decide +kernel), fun h => absurd (h.2.2 (by decide) (by decide)) (by decide +kernel)⟩

theorem test_slip_counts_wait_for_gathers : (after (.ctlCrr 5 0x0B2) inFlight).h.pc = 0x1000 ∧ (after (.ctlCrr 5 0x0B2) small).h.pc = 0x1004 := by
  decide +kernel

theorem test_counter_that_does_not_exist_reads_zero : (after (.ctlCrr 5 0x106) (withX small [(5, 9)])).h.rx 5 = 0
    ∧ (after (.ctlCrr 5 0x106) (withX small [(5, 9)])).h.pc = 0x1004 := by decide +kernel

theorem witness_ControlAndModeWrites_flags_and_trap_registers : (writable.map (·.number)).contains 0x011 = true ∧ Settled small 0x011
    ∧ (handlerWritable.map (·.number)).contains 0x083 = true ∧ (inHandler small).h.trap.handler = true :=
  ⟨by decide +kernel, settled_of (by decide +kernel), by decide +kernel, by decide +kernel⟩

theorem test_unfolding_descriptor_keeps_its_bits : Sparse.get 0 (after (.ctlCrw 0 1 0x041) (withX small [(1, -1)])).h.matrix.ufd 1 = 0xFFFFFFFFFFF
    ∧ Sparse.get 0 (after (.ctlCrw 0 1 0x046) (withX small [(1, -1)])).h.matrix.ufd 6 = -1 := by decide +kernel

theorem test_counter_select_has_eight_bits : Sparse.get 0 ((after (.ctlCrw 0 1 0x11F) (withX small [(1, -1)])).core 0).csel 7 = 0xFF := by
  decide +kernel

theorem test_handler_writes_the_trap_registers : (after (.ctlCrw 0 1 0x081) (withX (inHandler small) [(1, 0x55)])).h.trap.tpc = 0x55
    ∧ (after (.ctlCrw 0 1 0x085) (withX (inHandler small) [(1, 0)])).h.trap.handler = true := by decide +kernel

theorem witness_ControlAndModeWrites : (1 : BitVec 5) ≠ 0 ∧ (⟨0x002, BitVec.allOnes 64, fun h => h.vstart,
    fun t s => { t with vstart := s.vstart }⟩ : Writable) ∈ writable := ⟨by decide, by simp [writable]⟩

theorem witness_ControlPrivilege : CanTrap small ∧ (inHandler small).h.trap.handler = true
    ∧ (0x085, fun s : State => if s.h.trap.handler then (1 : Word) else 0) ∈ handlerRegisters :=
  ⟨canTrap_of (by decide +kernel), by decide +kernel, by simp [handlerRegisters]⟩

/-- Unassigned numbers at the ends of their ranges, and read-only ones. -/
theorem witness_ControlPrivilege_numbers : assigned 0x009 = false ∧ assigned 0x00F = false ∧ assigned 0x220 = false ∧ assigned 0xFFF = false
    ∧ assigned 0x100 = true ∧ assigned 0x21F = true ∧ (∀ k ∈ [0x000, 0x072, 0x117, 0x120, 0x1FF], assigned k = true ∧ writableNumber k = false)
    ∧ (inHandler small).h.dbg.trace = false ∧ (inHandler small).h.array = [] := by decide +kernel

theorem test_privileged_registers : (after (.ctlCrr 5 0x081) small).h.trap.tcause = Cause.privileged
    ∧ (after (.ctlCrr 5 0x081) (inHandler small)).h.rx 5 = 0x1010 := by decide +kernel

/-! ## Exceptions, commit points and system functions -/

theorem witness_ServiceBreakAndReturn : CanTrap small ∧ small.h.dbg.claim = false := ⟨canTrap_of (by decide +kernel), by decide +kernel⟩

/-- `s` under a debugger that claims breaks. -/
def claimed (s : State) : State := upd s fun h => { h with dbg := { h.dbg with claim := true } }

/-- A claimed break with nothing in flight, and one while a lane check runs (R348). -/
theorem witness_ServiceBreakAndReturn_claimed : ∀ checks ∈ [[], [(0, 3)]],
    let s := claimed (upd small fun h => { h with marks := { h.marks with checks } })
    CanTrap s ∧ s.h.dbg.claim = true ∧ s.h.live = true ∧ s.h.dbg.halted = false ∧ s.h.marks.failed = none ∧ s.h.gathers = []
    ∧ s.h.marks.checks = checks := by
  intro l hl
  rcases List.mem_cons.mp hl with rfl | hl
  · exact ⟨canTrap_of (by decide +kernel), by decide +kernel⟩
  · rcases List.mem_singleton.mp hl with rfl
    exact ⟨canTrap_of (by decide +kernel), by decide +kernel⟩

theorem test_claimed_break_halts_when_nothing_is_in_flight : (after .sysBrk (claimed small)).h.dbg.halted = true
    ∧ (after .sysBrk (claimed (upd small fun h => { h with marks := { h.marks with checks := [(0, 3)] } }))).h.dbg.halted = false := by
  decide +kernel

theorem witness_ServiceBreakAndReturn_tret : (inHandler small).h.trap.handler = true ∧ (inHandler small).h.trap.tpc.toNat % 4 = 0 := by
  decide +kernel

theorem witness_ServiceBreakAndReturn_tret_misaligned :
    let s := upd (inHandler small) fun h => { h with trap := { h.trap with tpc := 0x1011 } }
    s.h.trap.handler = true ∧ s.h.trap.tpc.toNat % 4 ≠ 0 ∧ s.h.dbg.trace = false ∧ s.h.array = [] := by decide +kernel

theorem test_svc_saves_the_next_pc : (after .sysSvc small).h.trap.tpc = 0x1004 ∧ (after .sysSvc small).h.pc = 0x2000
    ∧ (after .sysSvc small).h.trap.handler = true := by decide +kernel

theorem test_tret_returns : (after .sysTret (inHandler small)).h.pc = 0x1010 ∧ (after .sysTret (inHandler small)).h.vstart = 3
    ∧ (after .sysTret (inHandler small)).h.trap.handler = false := by decide +kernel

theorem test_svc_in_handler_mode_kills : ((after .sysSvc (inHandler small)).hart 0).live = false := by decide +kernel

theorem witness_IllegalWordsAndKills_word : CanTrap { small with ir := 0xFFFFFFFF } ∧ ({ small with ir := 0xFFFFFFFF } : State).ir = 0xFFFFFFFF :=
  ⟨canTrap_of (by decide +kernel), rfl⟩

theorem witness_IllegalWordsAndKills_setvl : (inHandler small).h.trap.handler = true ∧ (inHandler small).h.dbg.trace = false
    ∧ (inHandler small).h.array = [] ∧ (0x30AA0A00 : BitVec 32).toNat / 2 ^ 26 = 0x0C ∧ ∀ why, decode 0x30AA0A00 ≠ .notAnInstruction 0x30AA0A00 why := by
  refine ⟨by decide +kernel, by decide +kernel, by decide +kernel, by decide, fun why => ?_⟩
  rw [test_decode_setvl.1]
  exact fun h => nomatch h

theorem witness_IllegalWordsAndKills_last_major : 0x10 ≤ (0xD0642820 : BitVec 32).toNat / 2 ^ 26 ∧ (0xD0642820 : BitVec 32).toNat / 2 ^ 26 ≤ 0x34
    ∧ ∀ why, decode 0xD0642820 ≠ .notAnInstruction 0xD0642820 why := by
  refine ⟨by decide, by decide, fun why => ?_⟩
  rw [test_decode_task]
  exact fun h => nomatch h

theorem witness_IllegalWordsAndKills_no_handler :
    let s := upd small fun h => { h with trap := { h.trap with tvec := 0 } }
    s.h.dbg.trace = false ∧ s.h.array = [] ∧ s.h.trap.tvec = 0 := by decide +kernel

theorem witness_CommitPointsAndStores : Calm small ∧ small.posted = [] ∧ small.out = [] := ⟨calm_of (by decide +kernel), by decide +kernel⟩

/-- `small` with two buffered stores to home memory, the later one laid over the earlier. -/
def stored : State := upd small fun h => { h with
  sbused := 16,
  sb := [{ loc := .home 0x4000, bit := 0, bits := 64, data := 0x1122334455667788, ord := .releaseConsistent, device := false, va := 0x4000 },
    { loc := .home 0x4001, bit := 0, bits := 8, data := 0xFF, ord := .releaseConsistent, device := false, va := 0x4001 }] }

theorem witness_CommitPointsAndStores_buffer : stored.h.array = [] ∧ stored.h.gathers = [] ∧ stored.posted = [] ∧ stored.out = []
    ∧ stored.h.marks.failed = none ∧ stored.h.marks.checks = [] ∧ stored.h.preempt = none
    ∧ stored.h.dbg.haltReq = false ∧ (∀ e ∈ stored.h.sb, e.served = true → stored.commands = []) ∧ (∀ e ∈ stored.h.sb, ∃ a, e.loc = .home a)
    ∧ (∀ c ∈ stored.harts, ∀ line, c.2.waitsOn line = false) := by
  refine ⟨by decide +kernel, by decide +kernel, by decide +kernel, by decide +kernel, by decide +kernel, by decide +kernel,
    by decide +kernel, by decide +kernel, fun _ _ _ => rfl, ?_, quiet_of (by decide +kernel)⟩
  intro e he
  simp only [stored, upd] at he
  rcases List.mem_cons.mp he with rfl | he
  · exact ⟨_, rfl⟩
  · rcases List.mem_cons.mp he with rfl | he
    · exact ⟨_, rfl⟩
    · cases he

theorem test_commit_performs_stores_in_order : (after .sysScommit stored).mem.read 0x4000 8 = 0x112233445566FF88
    ∧ (after .sysScommit stored).h.sb = [] ∧ stored.mem.read 0x4000 8 = 0 := by decide +kernel

theorem witness_CacheMaintenance_nothing : (1 : BitVec 5) ≠ 0 ∧ small.h.rx 2 = 0 := by decide +kernel

theorem witness_CacheMaintenance_line : ∃ p q : Page,
    let s := withX small [(1, 0x403F), (2, 1)]
    s.h.meetElement = none ∧ s.h.rx 2 = 1 ∧ canonical ((s.h.rx 1).toNat / 64 * 64) = true
    ∧ translateFor s s.cur ((s.h.rx 1).toNat / 64 * 64) false true = .ok p ∧ p.loc = .home 0x4000 ∧ isHbm 0x4000 = true
    ∧ translateFor s s.cur ((s.h.rx 1).toNat / 64 * 64) true false = .ok q ∧ q.loc = .home 0x4000 := by
  refine ⟨_, _, by decide +kernel, by decide +kernel, by decide +kernel, rfl, ?_, by decide +kernel, rfl, ?_⟩ <;> decide +kernel

/-- Nothing to fetch, and bytes 0x10FFF and 0x11000, the last of page 0 and the first of page 1 (R205). -/
theorem witness_CacheMaintenance_fetch : small.h.rx 2 = 0 ∧ (withX coded [(1, 0x10FFF), (2, 2)]).h.rx 2 ≠ 0 := by decide +kernel

theorem test_code_prefetch_fills_what_is_not_filled :
    (after (.sysIpf 1 2) (withX coded [(1, 0x10FFF), (2, 2)])).objects.map (·.filling) = [[1]]
    ∧ (after (.sysIpf 1 2) (withX coded [(1, 0x10FC0), (2, 0x40)])).objects.map (·.filling) = [[]] := by decide +kernel

theorem test_discarded_line_loses_its_written_data :
    let s := withMem (withX small [(1, 0x4000), (2, 1)]) [(0x4000, 5)]
    (after (.sysDinv 1 2) s).mem.read 0x4000 8 = 0 ∧ (after (.sysDinv 1 2) (after (.sysDclean 1 2) s)).mem.read 0x4000 8 = 5 := by
  decide +kernel

/-- A line that core 0 holds leaves its L1 data cache at a discard, and a clean leaves it there (R77). -/
theorem test_discard_takes_the_core_copy :
    let s := { withX small [(1, 0x4000), (2, 1)] with l1 := [(0x4003, 9), (0x4040, 8), (2 ^ 52 + 0x4003, 7)] }
    (after (.sysDinv 1 2) s).l1 = [(0x4040, 8), (2 ^ 52 + 0x4003, 7)] ∧ (after (.sysDclean 1 2) s).l1 = s.l1 := by decide +kernel

/-! ## Scalar memory -/

/-- `small` with x1 = 0x4000 and a doubleword at 0x4000. -/
def loaded : State := withMem (withX small [(1, 0x4000), (2, 0x1122334455667788)]) [(0x4000, 0x8899AABBCCDDEEFF)]

theorem witness_LoadResults : ∀ n ∈ [1, 2, 4, 8], ∃ v, ReadsHome loaded (addressOf loaded 1 0) n false 0x4000 v :=
  fun n hn => readsHome_of ((by decide +kernel : ∀ n ∈ [1, 2, 4, 8], readsHome loaded (addressOf loaded 1 0) n false 0x4000 = true) n hn)

theorem witness_LoadResults_acquire : ∃ v, ReadsHome loaded (loaded.h.rx 1).toNat 8 true 0x4000 v := readsHome_of (by decide +kernel)

/-- A byte that the core's L1 data cache holds is read there; a linked load reads the home (R200). -/
theorem test_loads_read_the_core_copy :
    let s := { loaded with l1 := [(0x4000, 1)] }
    (after (.ldD 3 1 0) s).h.rx 3 = 0x8899AABBCCDDEE01 ∧ (after (.ldLl 3 1 0) s).h.rx 3 = 0x8899AABBCCDDEEFF := by decide +kernel

theorem test_loads_extend : (after (.ldB 3 1 0) loaded).h.rx 3 = -1 ∧ (after (.ldBu 3 1 0) loaded).h.rx 3 = 0xFF
    ∧ (after (.ldH 3 1 6) loaded).h.rx 3 = 0xFFFFFFFFFFFF8899 ∧ (after (.ldWu 3 1 4) loaded).h.rx 3 = 0x8899AABB := by decide +kernel

theorem test_load_sees_the_buffered_store :
    (after (.ldD 3 1 0) (after (.stH 2 1 2) loaded)).h.rx 3 = 0x8899AABB7788EEFF
    ∧ (after (.stH 2 1 2) loaded).mem.read 0x4000 8 = 0x8899AABBCCDDEEFF := by decide +kernel

theorem witness_ScalarAccessChecks_noncanonical :
    let s := withX small [(1, 1 <<< 60)]
    CanTrap s ∧ canonical (addressOf s 1 0) = false := ⟨canTrap_of (by decide +kernel), by decide +kernel⟩

theorem witness_ScalarAccessChecks_misaligned : CanTrap loaded ∧ canonical (addressOf loaded 1 4) = true ∧ addressOf loaded 1 4 % 8 ≠ 0 :=
  ⟨canTrap_of (by decide +kernel), by decide +kernel⟩

theorem witness_ScalarAccessChecks_translation :
    let s := withX coded [(1, 0x1000)]
    CanTrap s ∧ canonical (addressOf s 1 0) = true ∧ addressOf s 1 0 % 8 = 0
    ∧ translateFor s s.cur (addressOf s 1 0) true false = .cause Cause.pagePerm :=
  ⟨canTrap_of (by decide +kernel), by decide +kernel⟩

/-- `s` with a page of class `ord` at 0x4000. -/
def pageOfClass (s : State) (ord : PageOrd) : State := { s with
  tlb := [{ unit := 0, vi := 0, base := 0x4000, size := 65536
            page := { loc := .home 0x4000, ord, device := false, sysat := false, canRead := true, canWrite := true } }] }

/-- `loaded` with an unordered page at 0x4000. -/
def poorPage : State := pageOfClass loaded .unordered

theorem witness_ScalarAccessChecks_illegal_mode : CanTrap poorPage ∧ canonical (poorPage.h.rx 1).toNat = true ∧ (poorPage.h.rx 1).toNat % 8 = 0
    ∧ (∀ r : Bool, ∃ q, translateFor poorPage poorPage.cur (poorPage.h.rx 1).toNat r (!r) = .ok q ∧ q.ord = .unordered) := by
  refine ⟨canTrap_of (by decide +kernel), by decide +kernel, by decide +kernel, fun r => ?_⟩
  cases r <;> exact ⟨_, rfl, rfl⟩

theorem witness_ScalarAccessChecks_poison :
    let s := { loaded with mem := { loaded.mem with poison := [(0x100, true)] } }
    CanTrap s ∧ ∃ q, scalarPage s s.cur (addressOf s 1 0) 8 true false false = .ok q ∧ q.device = false ∧ q.ord ≠ .strong
      ∧ placePoisoned s q.loc 8 = true := by
  refine ⟨canTrap_of (by decide +kernel), _, rfl, ?_⟩
  decide +kernel

theorem test_release_needs_an_ordered_page : (after (.stRel 2 1 0) poorPage).h.trap.tcause = Cause.illegalMode
    ∧ (after (.ldAcq 3 1 0) poorPage).h.trap.tval = 0x4000 ∧ (after (.ldD 3 1 0) poorPage).h.trap.handler = false := by decide +kernel

theorem test_misaligned_load_traps_with_its_address : (after (.ldD 3 1 4) loaded).h.trap.tval = 0x4004
    ∧ (after (.ldD 3 1 4) loaded).h.trap.tcause = Cause.misaligned ∧ (after (.ldD 3 1 4) loaded).h.rx 3 = 0 := by decide +kernel

theorem witness_StoresAreBuffered : ∃ p, small.h.sbused + 8 ≤ small.h.sbCap
    ∧ scalarPage loaded loaded.cur (addressOf loaded 1 0) 8 false true false = .ok p := by
  refine ⟨_, by decide +kernel, rfl⟩

theorem witness_StoresAreBuffered_last_room : ∃ p,
    let s := upd loaded fun h => { h with sbused := h.sbCap - 8 }
    s.h.sbused + 8 ≤ s.h.sbCap ∧ scalarPage s s.cur (addressOf s 1 7) 1 false true false = .ok p := by
  refine ⟨_, by decide +kernel, rfl⟩

theorem witness_AtomicAndReleaseResults : Calm loaded ∧ AtHome loaded (samoPage loaded (loaded.h.rx 1).toNat true true (true || false)) 0x4000
    ∧ AtHome loaded (scalarPage loaded loaded.cur (loaded.h.rx 1).toNat 8 false true true) 0x4000 :=
  ⟨calm_of (by decide +kernel), atHome_of (by decide +kernel) (by decide +kernel) (by decide +kernel),
    atHome_of (by decide +kernel) (by decide +kernel) (by decide +kernel)⟩

theorem test_fetch_and_add_gives_the_old_value : (after (.samoFadd 3 1 2 5 true true) loaded).h.rx 3 = 0x8899AABBCCDDEEFF
    ∧ (after (.samoFadd 3 1 2 5 true true) loaded).mem.read 0x4000 8 = 0x99BBDE0022446687 := by decide +kernel

theorem test_fmin_is_signed : (after (.samoFmin 3 1 2 5 false false) loaded).mem.read 0x4000 8 = 0x8899AABBCCDDEEFF
    ∧ (after (.samoFmax 3 1 2 5 false false) loaded).mem.read 0x4000 8 = 0x1122334455667788 := by decide +kernel

theorem witness_LinkedResults : Calm loaded ∧ AtHome loaded (samoPage loaded (loaded.h.rx 1).toNat true false (false || false)) 0x4000
    ∧ AtHome loaded (samoPage loaded (loaded.h.rx 1).toNat false true (false || false)) 0x4000 :=
  ⟨calm_of (by decide +kernel), atHome_of (by decide +kernel) (by decide +kernel) (by decide +kernel),
    atHome_of (by decide +kernel) (by decide +kernel) (by decide +kernel)⟩

theorem test_store_conditional :
    let s := after (.samoLl 3 1 5 false false) loaded
    (after (.samoSc 4 1 2 5 false false) s).h.rx 4 = 0 ∧ (after (.samoSc 4 1 2 5 false false) s).mem.read 0x4000 8 = 0x1122334455667788
    ∧ (after (.samoSc 4 1 2 5 false false) (withX loaded [(1, 0x4000), (4, 9)])).h.rx 4 = 1
    ∧ (after (.samoSc 4 1 2 5 false false) (after (.samoSc 4 1 2 5 false false) s)).h.rx 4 = 1 := by decide +kernel

/-! ## Strips and lanes -/

/-- The register that holds the `w`-bit elements of `l`. -/
def lanes (w : Nat) (l : List Nat) : Nat := l.foldr (fun x a => x + a * 2 ^ w) 0

/-- `small` in a strip of `vl` elements: VTYPE with SEW 2 ^ `sew` and BL code `bl`, the mode image `img` in m0, p1 with bits 0 and 2,
and the vector registers of `v`. -/
def strip (sew bl img vl : Nat) (v : Sparse Nat) : State := upd small fun h => { h with
  strip := { h.strip with vl := BitVec.ofNat 64 vl, gvl := BitVec.ofNat 64 vl, vtype := BitVec.ofNat 12 (sew * 2 ^ 9 + bl * 2 ^ 5) }
  modes := [(0, BitVec.ofNat 24 img)], files := { h.files with v, p := [(1, 5)] } }

/-- The fields of a mode image (R116): guard p1, FAM, RM, FX and SAT. -/
def image (guarded : Bool) (fam rm fx : Nat) (sat : Bool) : Nat :=
  guarded.toNat * 2 ^ 20 + fam * 2 ^ 14 + rm * 2 ^ 11 + fx * 2 ^ 6 + sat.toNat * 2 ^ 5

def vectorReady (s : State) (c : Vc) : Bool := !s.h.trap.handler && decide (c.rm < 6) && decide (0 < c.vlenb)
  && decide (c.vl ≤ c.share * c.cores) && decide (s.h.preempt = none ∧ s.h.dbg.haltElement = none ∧ s.h.shrunk = none)

theorem vectorReady_of {s : State} {c : Vc} (h : vectorReady s c = true) : VectorReady s c := by
  simp only [vectorReady, Bool.and_eq_true, decide_eq_true_eq, Bool.not_eq_true'] at h
  obtain ⟨⟨⟨⟨a, b⟩, d⟩, e⟩, f⟩ := h
  exact ⟨a, b, d, e, f⟩

def group (c : Vc) (base w regs : Nat) : Bool := decide (0 < w) && c.vlenb * 8 % w == 0
  && decide (c.share * w ≤ regs * (c.vlenb * 8)) && decide (base + regs ≤ 32)

theorem group_of {c : Vc} {base w regs : Nat} (h : group c base w regs = true) : c.Group base w regs := by
  simp only [group, Bool.and_eq_true, decide_eq_true_eq, beq_iff_eq] at h
  obtain ⟨⟨⟨a, b⟩, d⟩, e⟩ := h
  exact ⟨⟨a, Nat.dvd_of_mod_eq_zero b⟩, d, e⟩

def readsAll (c : Vc) (srcs : List Source) : Bool :=
  (List.range c.vl).all fun i => srcs.all fun t => decide (t.cause i = none ∧ t.missing i = false ∧ t.lost i = none)

theorem readsAll_of {c : Vc} {srcs : List Source} (active : Nat → Bool) (h : readsAll c srcs = true) : c.readable active srcs := by
  intro i _ hi _ t ht
  have := List.all_eq_true.mp (below h i hi) t ht
  simpa using this

def sourcesOk (s : State) (c : Vc) (srcs : List (Nat × Nat × Nat)) : Bool :=
  srcs.all fun x => x.1 % x.2.2 == 0 && s.h.readOk c x.1 x.2.2 x.2.1

theorem sourcesOk_of {s : State} {c : Vc} {srcs : List (Nat × Nat × Nat)} (h : sourcesOk s c srcs = true) :
    ∀ x ∈ srcs, x.1 % x.2.2 = 0 ∧ s.h.readOk c x.1 x.2.2 x.2.1 = true := by
  intro x hx
  have := List.all_eq_true.mp h x hx
  simpa using this

def operands (s : State) (c : Vc) (srcs : List (Nat × Nat × Nat)) (d w regs : Nat) : Bool :=
  vectorReady s c && sourcesOk s c srcs && readsAll c (srcs.map fun x => s.h.source c x.1 x.2.1) && d % regs == 0
    && s.h.writeOk d regs && group c d w regs && (s.h.marks.claim (s.h.slotsOf d regs) []).isSome

theorem operands_of {s : State} {c : Vc} (active : Nat → Bool) {srcs : List (Nat × Nat × Nat)} {d w regs : Nat}
    (h : operands s c srcs d w regs = true) : Operands s c active srcs d w regs := by
  simp only [operands, Bool.and_eq_true, beq_iff_eq] at h
  obtain ⟨⟨⟨⟨⟨⟨a, b⟩, e⟩, f⟩, g⟩, i⟩, j⟩ := h
  exact ⟨vectorReady_of a, sourcesOk_of b, readsAll_of active e, ⟨f, g⟩, group_of i, fun _ => j⟩

theorem laneReady_of {s : State} {c : Vc} (active : Nat → Bool) {srcs : List (Nat × Nat × Nat)} {d w regs : Nat}
    (h : (operands s c srcs d w regs && c.predOk false) = true) : LaneReady s c active srcs d w regs := by
  rw [Bool.and_eq_true] at h
  exact ⟨operands_of active h.1, h.2⟩

theorem compareReady_of {s : State} {c : Vc} {srcs : List (Nat × Nat × Nat)} {k : Nat}
    (h : (vectorReady s c && sourcesOk s c srcs && readsAll c (srcs.map fun x => s.h.source c x.1 x.2.1) && c.predOk true
      && (s.h.marks.claim [] (s.h.predSlots k)).isSome) = true) : CompareReady s c srcs k := by
  simp only [Bool.and_eq_true] at h
  obtain ⟨⟨⟨⟨a, b⟩, e⟩, f⟩, g⟩ := h
  exact ⟨vectorReady_of a, sourcesOk_of b, readsAll_of _ e, f, fun _ => g⟩

theorem storeReady_of {s : State} {c : Vc} (active : Nat → Bool) {srcs : List (Nat × Nat × Nat)}
    (h : (vectorReady s c && sourcesOk s c srcs && readsAll c (srcs.map fun x => s.h.source c x.1 x.2.1) && c.predOk false) = true) :
    StoreReady s c active srcs := by
  simp only [Bool.and_eq_true] at h
  obtain ⟨⟨⟨a, b⟩, e⟩, f⟩ := h
  exact ⟨vectorReady_of a, sourcesOk_of b, readsAll_of active e, f⟩

theorem noTrim_of {s : State} {c : Vc} (active : Nat → Bool) {fl : Nat → Flags}
    (h : ((List.range c.vl).all fun i => decide (flagCause (fl i) s.h.ftrim = none)) = true) : NoTrim s c active fl :=
  fun i _ hi _ => of_decide_eq_true (below h i hi)

def allThere (s : State) (c : Vc) (rs : List (BitVec 5)) : Bool := (List.range c.vl).all fun i => rs.all fun r =>
  decide ((s.h.source c r.toNat c.sew).missing i = false ∧ (s.h.source c r.toNat c.sew).lost i = none)

theorem allThere_of {s : State} {c : Vc} {rs : List (BitVec 5)} (h : allThere s c rs = true) : AllThere s c rs := by
  intro i hi r hr
  have := List.all_eq_true.mp (below h i hi) r hr
  simpa using this

/-- A strip of 32-bit elements with one pass left, and with every physical predicate register taken. -/
def lastPass (full : Bool) : State := upd (withX (strip 5 0 0 3 []) [(1, 1)]) fun h => { h with
  marks := { h.marks with pFirst := if full then List.range 8 else [] } }

theorem witness_LoopRotation : small.h.rx 1 = 0 ∧ (lastPass false).h.rx 1 ≠ 0 ∧ ((lastPass false).h.vc 0).share ≤ (lastPass false).h.vlenb
    ∧ ((lastPass false).h.marks.claim [] [8 + (lastPass false).h.files.prot.toNat]).isSome = true := by decide +kernel

/-- SEW 1 holds more elements than a predicate has bits (R111), and a ninth predicate has no physical register (R110). -/
theorem witness_LoopRotation_traps : (withX small [(1, 1)]).h.rx 1 ≠ 0 ∧ (withX small [(1, 1)]).h.vlenb < ((withX small [(1, 1)]).h.vc 0).share
    ∧ CanTrap (withX small [(1, 1)]) ∧ (lastPass true).h.rx 1 ≠ 0 ∧ ((lastPass true).h.vc 0).share ≤ (lastPass true).h.vlenb
    ∧ (lastPass true).h.marks.claim [] [8 + (lastPass true).h.files.prot.toNat] = none ∧ CanTrap (lastPass true) :=
  ⟨by decide +kernel, by decide +kernel, canTrap_of (by decide +kernel), by decide +kernel, by decide +kernel, by decide +kernel,
    canTrap_of (by decide +kernel)⟩

/-- The conditions of StripGrants on VTYPE byte `i` at a span of VLENB `vlenb`. -/
def legal (vlenb : Nat) (i : BitVec 8) : Bool :=
  let t := BitVec.ofNat 12 (i.toNat * 16)
  let share := vlenb * 8 / vtypeSew t * vtypeGrp t
  decide (i.toNat / 32 ≠ 7) && (vtypeBl t == 0 || (decide (vtypeBl t ≤ share) && share % vtypeBl t == 0))

theorem witness_StripGrants : legal small.h.vlenb 0xA0 = true ∧ legal small.h.vlenb 0xA4 = true ∧ Calm small ∧ small.h.stripBreak true = false
    ∧ small.h.streams = [] := ⟨by decide +kernel, by decide +kernel, calm_of (by decide +kernel), by decide +kernel, by decide +kernel⟩

theorem witness_StripGrants_illegal : legal small.h.vlenb 0xE0 = false ∧ legal small.h.vlenb 0xC6 = false ∧ CanTrap small := ⟨by decide +kernel, by decide +kernel, canTrap_of (by decide +kernel)⟩

/-- `small` with one bound stream of 8 elements of 32 bits, of which 4 are filled, at position `pos`. -/
def streaming (pos : Nat) : State := upd small fun h => { h with streams :=
  [{ group := 4, desc := 0x4000, base := 0x8000, count := 8, ext0 := 8, ext1 := 1, str0 := 4, str1 := 0, str2 := 0, ewc := 5, pos
     first := 0, filled := [10, 11, 12, 13], faults := [] }] }

/-- A setvl that counts streams, of VTYPE SEW 32: what its one stream has filled is enough, or not. -/
theorem witness_StripGrants_enough :
    let s := withX (streaming 0) [(1, 8)]
    legal s.h.vlenb 0xA1 = true ∧ Calm s ∧ s.h.stripBreak true = false
    ∧ ∀ x ∈ s.h.streams, min 8 1 ≤ min x.count (x.first + x.filled.length) - x.pos :=
  ⟨by decide +kernel, calm_of (by decide +kernel), by decide +kernel, by decide +kernel⟩

theorem witness_StripGrants_not_enough :
    let s := withX (streaming 4) [(1, 8)]
    legal s.h.vlenb 0xA1 = true ∧ Calm s ∧ s.h.stripBreak true = false
    ∧ ¬∀ x ∈ s.h.streams, min 8 1 ≤ min x.count (x.first + x.filled.length) - x.pos :=
  ⟨by decide +kernel, calm_of (by decide +kernel), by decide +kernel, by decide +kernel⟩

theorem witness_StripGrants_event :
    let s := upd (withX (streaming 3) [(1, 8)]) fun h => { h with wait := .streams 2 1 true 0xA1 }
    s.power.state = .ready ∧ s.h.wait = .streams 2 1 true 0xA1 ∧ s.h.waits = true ∧ s.h.dbg.trace = false
    ∧ ∀ x ∈ s.h.streams, min 5 1 ≤ min x.count (x.first + x.filled.length) - x.pos := by decide +kernel

theorem test_setvl_grants_the_smaller :
    (after (.setvl 5 1 true 0xA0) (withX small [(1, 5)])).h.rx 5 = 5 ∧ (after (.setvl 5 1 true 0xA0) (withX small [(1, 1000)])).h.rx 5 = 64
    ∧ (after (.setvl 5 1 true 0xA0) (withX small [(1, 1000)])).h.strip.vl = 64 := by decide +kernel

theorem test_setvl_waits_for_its_stream : (after (.setvl 2 1 true 0xA1) (withX (streaming 4) [(1, 8)])).h.wait = .streams 2 1 true 0xA1
    ∧ (after (.setvl 2 1 true 0xA1) (withX (streaming 1) [(1, 8)])).h.rx 2 = 3 := by decide +kernel

theorem test_brot_rotates_by_one :
    let t := after (.brot 1 2 0xFFF) (withX (strip 5 0 0 3 [(16, 7), (17, 8)]) [(1, 3)])
    t.h.vreg 0 16 = 8 ∧ t.h.vreg 0 31 = 7 ∧ t.h.rx 1 = 2 ∧ t.h.pc = 0xFFC ∧ t.h.preg 0 15 = 2 ^ 256 - 1 := by decide +kernel

/-- Two binary32 elements: 1.0 and 0.0; and their mode, FAM 2 with RM 0. -/
def floats (rm : Nat) : State := strip 5 0 (image false 2 rm 0 false) 2 [(1, lanes 32 [0x3F800000, 0x3F800000]), (2, lanes 32 [0x3F800000, 0])]

theorem witness_VectorCauses_mode : ∀ rm ∈ [6, 7], (floats rm).h.streams = [] ∧ CanTrap (floats rm) ∧ 6 ≤ ((floats rm).h.vc 0).rm :=
  fun rm h => ⟨(by decide +kernel : ∀ rm ∈ [6, 7], (floats rm).h.streams = []) rm h,
    canTrap_of ((by decide +kernel : ∀ rm ∈ [6, 7], decide ((floats rm).h.trap.handler = false ∧ (floats rm).h.trap.tvec ≠ 0
      ∧ (floats rm).h.dbg.trace = false) = true) rm h), (by decide +kernel : ∀ rm ∈ [6, 7], 6 ≤ ((floats rm).h.vc 0).rm) rm h⟩

theorem witness_VectorCauses_type :
    let s := strip 5 0 (image false 0 5 0 false) 2 []
    s.h.streams = [] ∧ CanTrap s ∧ (s.h.vc 0).rm < 6 ∧ (s.h.vc 0).fam ≠ 2 :=
  ⟨by decide +kernel, canTrap_of (by decide +kernel), by decide +kernel⟩

/-- Element 0 of 1 ÷ 1 raises nothing and element 1, 1 ÷ 0, raises DZ, which FTRIM enables: a trim; with the operands the other way
round the leading element traps. -/
theorem witness_VectorCauses_trim :
    let s := upd (floats 0) fun h => { h with ftrim := 0x1F }
    let c := s.h.vc 0
    let q (i : Nat) := divVal c.fmt c.rm (c.fmt.value ((s.h.source c 1 c.sew).get i)) (c.fmt.value ((s.h.source c 2 c.sew).get i)) 0
    s.h.streams = [] ∧ c.floatType = true ∧ c.rm < 5 ∧ s.h.dbg.trace = false
    ∧ LaneReady s c (s.h.active c) [(1, c.sew, c.grp), (2, c.sew, c.grp)] 8 c.sew c.grp
    ∧ c.start < 1 ∧ 1 < c.vl ∧ s.h.active c 1 = true ∧ (flagCause (q 1).2 s.h.ftrim).isSome = true ∧ flagCause (q 0).2 s.h.ftrim = none :=
  ⟨by decide +kernel, by decide +kernel, by decide +kernel, by decide +kernel, laneReady_of _ (by decide +kernel), by decide +kernel⟩

theorem witness_VectorCauses_leading :
    let s := upd (strip 5 0 (image false 2 4 0 false) 1 [(1, 0x3F800000)]) fun h => { h with ftrim := 0x1F }
    let c := s.h.vc 0
    let q := divVal c.fmt c.rm (c.fmt.value ((s.h.source c 1 c.sew).get 0)) (c.fmt.value ((s.h.source c 2 c.sew).get 0)) 0
    s.h.streams = [] ∧ c.floatType = true ∧ c.rm < 5 ∧ s.h.dbg.trace = false ∧ CanTrap s
    ∧ LaneReady s c (s.h.active c) [(1, c.sew, c.grp), (2, c.sew, c.grp)] 8 c.sew c.grp
    ∧ c.start = 0 ∧ 0 < c.vl ∧ s.h.active c 0 = true ∧ (flagCause q.2 s.h.ftrim).isSome = true :=
  ⟨by decide +kernel, by decide +kernel, by decide +kernel, by decide +kernel, canTrap_of (by decide +kernel),
    laneReady_of _ (by decide +kernel), by decide +kernel⟩

/-- What each family refuses before its first element: a float type for integers, an integer type for floats, a narrow element that is not
narrow, a tile of no columns, and a seventeenth vector register (R110). -/
theorem witness_VectorCauses_families :
    ((floats 0).h.vc 0).rm < 6 ∧ ¬(8 ≤ ((floats 0).h.vc 0).sew ∧ ((floats 0).h.vc 0).fam < 2)
    ∧ (let c := (strip 4 0 (image false 2 0 17 false) 3 []).h.vc 0; c.rm < 6 ∧ c.sew = 16 ∧ ¬c.n < c.sew)
    ∧ small.h.rx 2 = 0
    ∧ (let s := upd (floats 0) fun h => { h with marks := { h.marks with vFirst := List.range 16 } }
      CanTrap s ∧ (s.h.vc 0).rm < 6 ∧ (s.h.vc 0).writes = true ∧ s.h.marks.claim (s.h.slotsOf 20 1) [] = none) :=
  ⟨by decide +kernel, by decide +kernel, by decide +kernel, by decide +kernel, canTrap_of (by decide +kernel), by decide +kernel⟩

/-- What stops an access is cause `k`. -/
def stops {α : Type} (r : Res α) (k : BitVec 8) : Bool := match r with
  | .cause c => c == k
  | _ => false

theorem stops_of {α : Type} {r : Res α} {k : BitVec 8} (h : stops r k = true) : r = .cause k := by
  unfold stops at h
  split at h
  · rw [beq_iff_eq.mp h]
  · cases h

/-- Checks of an element in their order: the first half of a crossing access, a natural alignment, a translation. -/
theorem witness_VectorCauses_checks :
    (pageParts 0xFFFFFF 4 = [(0xFFFFFF, 1), (0x1000000, 3)])
    ∧ (∃ q ∈ pageParts (2 ^ 55) 8, canonical q.1 = false) ∧ (∀ q ∈ pageParts 0x4002 4, canonical q.1 = true) ∧ 0x4002 % 4 ≠ 0
    ∧ translateParts coded 0 (reading true) (pageParts 0x1000 4) = .cause Cause.pagePerm :=
  ⟨by decide +kernel, ⟨_, List.mem_singleton.mpr rfl, by decide +kernel⟩, by decide +kernel, by decide, stops_of (by decide +kernel)⟩

theorem test_family_causes :
    (after (.valuAdd 8 1 2 false false 0) (floats 0)).h.trap.tcause = Cause.illegalType
    ∧ (after (.vcvtFnar 8 1 false 0) (strip 4 0 (image false 2 0 17 false) 3 [])).h.trap.tcause = Cause.illegalType
    ∧ (after (.vldTile 8 1 2 0) (strip 5 0 0 3 [])).h.trap.tcause = Cause.illegalType
    ∧ (after (.vfpAdd 20 1 2 false false 0) (upd (floats 0) fun h => { h with marks := { h.marks with vFirst := List.range 16 } })).h.trap.tcause
      = Cause.renameLimit := by decide +kernel

/-- `small` in a strip of three 32-bit elements, with x1 = `base` and a poisoned block at 0x4040. -/
def besidePoison (base : Word) : State :=
  let s := withX (strip 5 0 0 3 []) [(1, base), (2, 4)]
  { s with mem := { s.mem with poison := [(0x101, true)] } }

/-- A leading element in the poisoned block, and a third one; strided, unit and in the scratchpad the same way. -/
theorem witness_VectorCauses_memory :
    (∀ p ∈ [(0x4040, 0), (0x4038, 2)], let s := besidePoison (BitVec.ofNat 64 p.1)
      let c := s.h.vc 0
      s.h.dbg.trace = false ∧ c.start ≤ p.2 ∧ p.2 < c.vl ∧ s.h.active c p.2 = true ∧ (c.fam = 3 → c.fx < 20 ∧ c.n < c.sew)
      ∧ (unitAt s p.1 (dataWidth c) p.2 (reading true)).spots = .cause Cause.poison
      ∧ (stridedAt s p.1 4 4 p.2 (reading true)).spots = .cause Cause.poison)
    ∧ LaneReady (besidePoison 0x4038) ((besidePoison 0x4038).h.vc 0) ((besidePoison 0x4038).h.active ((besidePoison 0x4038).h.vc 0)) [] 8 32 1
    ∧ CanTrap (besidePoison 0x4040) := by
  refine ⟨fun p hp => ?_, laneReady_of _ (by decide +kernel), canTrap_of (by decide +kernel)⟩
  have check : ∀ p ∈ [(0x4040, 0), (0x4038, 2)], let s := besidePoison (BitVec.ofNat 64 p.1)
      let c := s.h.vc 0
      s.h.dbg.trace = false ∧ c.start ≤ p.2 ∧ p.2 < c.vl ∧ s.h.active c p.2 = true ∧ c.fam ≠ 3
      ∧ stops (unitAt s p.1 (dataWidth c) p.2 (reading true)).spots Cause.poison = true
      ∧ stops (stridedAt s p.1 4 4 p.2 (reading true)).spots Cause.poison = true := by decide +kernel
  obtain ⟨a, b, c, d, e, f, g⟩ := check p hp
  exact ⟨a, b, c, d, fun h => absurd h e, stops_of f, stops_of g⟩

/-- The elements below the one that trims are read; a store meets a cause where its address is not canonical. -/
theorem witness_VectorCauses_memory_below :
    (∀ i < 2, ∃ l, (unitAt (besidePoison 0x4038) 0x4038 32 i (reading true)).spots = .ok l ∧ (∀ p ∈ l, p.device = false ∧ p.ord ≠ .strong))
    ∧ (let s := besidePoison 0x80000000000000
      (unitAt s 0x80000000000000 32 0 (writing true)).spots = .cause Cause.noncanonical)
    ∧ StoreReady (besidePoison 0) ((besidePoison 0).h.vc 0) ((besidePoison 0).h.active ((besidePoison 0).h.vc 0)) [(8, 32, 1)]
    ∧ (besidePoison 0).h.sbused + (2 * 32 + 7) / 8 ≤ (besidePoison 0).h.sbCap := by
  refine ⟨fun i hi => ?_, stops_of (by decide +kernel), storeReady_of _ (by decide +kernel), by decide +kernel⟩
  match i, hi with
  | 0, _ => exact ⟨_, rfl, by decide +kernel⟩
  | 1, _ => exact ⟨_, rfl, by decide +kernel⟩

theorem test_poison_trims_or_traps :
    (after (.vldUnit 8 1 0) (besidePoison 0x4038)).h.strip.vl = 2 ∧ (after (.vldUnit 8 1 0) (besidePoison 0x4038)).h.strip.trimc = Cause.poison
    ∧ (after (.vldStrd 8 1 2 0) (besidePoison 0x4040)).h.trap.tval = 0x4040 := by decide +kernel

/-- The whole-instruction causes of the matrix unit: tile 2 of a task with 2, an image with a reserved bit, a row count of 65, a drain
that is not of 32 bits, and a scale that its format does not take. -/
theorem witness_VectorCauses_matrix :
    (¬legalImage (2 ^ 40) ∧ legalImage 0x4 ∧ ¬legalImage 20) ∧ CanTrap small ∧ ¬(2 : BitVec 3).toNat < small.h.task.start.tiles ∧ (1 : BitVec 3).toNat < small.h.task.start.tiles
    ∧ small.h.rx 1 = 0 ∧ 64 < (65 : Nat)
    ∧ ((strip 4 0 0 3 []).h.vc 0).sew ≠ 32 ∧ (small.h.vc 0).rm < 6 ∧ small.h.streams = []
    ∧ (Sparse.get 0 small.h.matrix.zw 1).toNat % 32 ∉ [4, 5, 6, 7, 9, 14, 15] := by
  refine ⟨⟨fun h => absurd h.2.2.1 (by decide), ?_, fun h => absurd h.1 (by decide)⟩, canTrap_of (by decide +kernel), by decide +kernel⟩
  refine ⟨by decide, by decide, by decide, by decide, by decide, by decide, by decide, fun _ => by decide, by decide, by decide, by decide,
    by decide, by decide⟩

theorem test_matrix_causes :
    (after (.mctlMzero 2) small).h.trap.tcause = Cause.tileUnallocated ∧ (after (.mctlMset 1) small).h.trap.tcause = Cause.illegalType
    ∧ (after (.mctlZwset 1 1) (withX small [(1, 2 ^ 40)])).h.trap.tcause = Cause.illegalType
    ∧ (after (.mopMop 1 2 8 16 31 false false) small).h.trap.tcause = Cause.reservedField := by decide +kernel

theorem test_division_by_zero_trims :
    let t := after (.vfpDiv 8 1 2 false false 0) (upd (floats 0) fun h => { h with ftrim := 0x1F })
    t.h.strip.vl = 1 ∧ t.h.strip.trimi = 1 ∧ t.h.vreg 0 8 = 0x3F800000 ∧ t.h.pc = 0x1004 := by decide +kernel

/-- Integer strips: SEW 8 and 64, FAM 0 and 1, with a guard and without. -/
def integers (sew fam : Nat) (guarded sat : Bool) : State := strip sew 0 (image guarded fam 0 0 sat) 3
  [(1, lanes (2 ^ sew) [0x7F, 0x80, 5]), (2, lanes (2 ^ sew) [1, 0xFF, 9]), (3, lanes (2 ^ sew) [2, 3, 4])]

theorem witness_LaneIntegers : ∀ p ∈ [(3, 0, true), (3, 1, false), (6, 0, false), (6, 1, true)],
    let s := integers p.1 p.2.1 p.2.2 true
    let c := s.h.vc 0
    let grp (r : Nat) := (r, c.sew, c.grp)
    8 ≤ c.sew ∧ c.fam < 2 ∧ LaneReady s c (s.h.active c) [grp 1, grp 2] 8 c.sew c.grp ∧ LaneReady s c (s.h.active c) [grp 1] 8 c.sew c.grp
    ∧ LaneReady s c (fun _ => true) [grp 1, grp 2] 8 c.sew c.grp ∧ LaneReady s c (s.h.active c) [grp 1, grp 2, grp 3] 31 c.sew c.grp
    ∧ LaneReady s c (s.h.active c) [] 8 c.sew c.grp ∧ LaneReady s c (fun _ => true) [grp 1] 8 c.sew c.grp
    ∧ CompareReady s c [grp 1, grp 2] 15 ∧ CompareReady s c [grp 1] 0 ∧ CompareReady s c [] 1 := by
  intro p hp
  have check : ∀ p ∈ [(3, 0, true), (3, 1, false), (6, 0, false), (6, 1, true)],
      let s := integers p.1 p.2.1 p.2.2 true
      let c := s.h.vc 0
      let grp (r : Nat) := (r, c.sew, c.grp)
      let lane (l : List (Nat × Nat × Nat)) (d : Nat) : Bool := operands s c l d c.sew c.grp && c.predOk false
      let comp (l : List (Nat × Nat × Nat)) (k : Nat) : Bool := vectorReady s c && sourcesOk s c l
        && readsAll c (l.map fun x => s.h.source c x.1 x.2.1) && c.predOk true && (s.h.marks.claim [] (s.h.predSlots k)).isSome
      8 ≤ c.sew ∧ c.fam < 2 ∧ lane [grp 1, grp 2] 8 = true ∧ lane [grp 1] 8 = true ∧ lane [grp 1, grp 2, grp 3] 31 = true
        ∧ lane [] 8 = true ∧ comp [grp 1, grp 2] 15 = true ∧ comp [grp 1] 0 = true ∧ comp [] 1 = true := by decide +kernel
  obtain ⟨a, b, c, d, e, f, g, i, j⟩ := check p hp
  exact ⟨a, b, laneReady_of _ c, laneReady_of _ d, laneReady_of _ c, laneReady_of _ e, laneReady_of _ f, laneReady_of _ d,
    compareReady_of g, compareReady_of i, compareReady_of j⟩

/-- The same states meet the hypotheses of LaneIntegersScalar, LaneCompares and PredicateLogic. -/
theorem witness_LaneIntegersScalar_LaneCompares_PredicateLogic :
    let s := integers 3 0 true true
    let c := s.h.vc 0
    LaneReady s c (s.h.active c) [] 8 c.sew c.grp ∧ CompareReady s c [] 1 :=
  ⟨laneReady_of _ (by decide +kernel), compareReady_of (by decide +kernel)⟩

theorem test_saturation_is_by_family :
    (after (.valuAdd 8 1 2 false false 0) (integers 3 0 false true)).h.vreg 0 8 = lanes 8 [0x7F, 0x80, 14]
    ∧ (after (.valuAdd 8 1 2 false false 0) (integers 3 1 false true)).h.vreg 0 8 = lanes 8 [0x80, 0xFF, 14]
    ∧ (after (.valuAdd 8 1 2 false false 0) (integers 3 1 false false)).h.vreg 0 8 = lanes 8 [0x80, 0x7F, 14] := by decide +kernel

theorem test_guarded_elements_keep : (after (.valuSub 8 1 2 false false 0) (integers 3 0 true false)).h.vreg 0 8 = lanes 8 [0x7E, 0, 0xFC] := by
  decide +kernel

theorem test_macc_adds_the_third_source :
    (after (.vimacMacc 8 1 2 3 false false false 0) (integers 3 0 false false)).h.vreg 0 8 = lanes 8 [0x81, 0x83, 49]
    ∧ (after (.vimacNmsac 8 1 2 3 false false false 0) (integers 3 0 false false)).h.vreg 0 8 = lanes 8 [0x83, 0x83, 0xD7] := by decide +kernel

theorem test_compare_writes_a_predicate : (after (.valuLt 2 1 2 false false 0) (integers 3 0 false false)).h.preg 0 2 = 6
    ∧ (after (.valuLtu 2 1 2 false false 0) (integers 3 0 false false)).h.preg 0 2 = 6
    ∧ (after (.valuxEq 2 1 0 false 0) (integers 3 0 false false)).h.preg 0 2 = 0 := by decide +kernel

theorem test_mulh_by_lane : (after (.valuMulh 8 1 2 false false 0) (integers 3 0 false false)).h.vreg 0 8 = 0
    ∧ (after (.valuMulhu 8 1 2 false false 0) (integers 3 0 false false)).h.vreg 0 8 = lanes 8 [0, 0x7F, 0] := by decide +kernel

theorem witness_LaneFloats : ∀ p ∈ [(4, 0, 16), (5, 5, 0), (6, 4, 0)],
    let s := strip p.1 0 (image true 2 p.2.1 p.2.2 false) 3 []
    let c := s.h.vc 0
    let grp (r : Nat) := (r, c.sew, c.grp)
    c.floatType = true ∧ LaneReady s c (s.h.active c) [grp 1, grp 2] 8 c.sew c.grp ∧ LaneReady s c (s.h.active c) [grp 1] 8 c.sew c.grp
    ∧ LaneReady s c (s.h.active c) [grp 1, grp 2, grp 3] 8 c.sew c.grp ∧ LaneReady s c (s.h.active c) [] 8 c.sew c.grp
    ∧ CompareReady s c [grp 1, grp 2] 1 ∧ CompareReady s c [grp 1] 1 := by
  intro p hp
  have check : ∀ p ∈ [(4, 0, 16), (5, 5, 0), (6, 4, 0)],
      let s := strip p.1 0 (image true 2 p.2.1 p.2.2 false) 3 []
      let c := s.h.vc 0
      let grp (r : Nat) := (r, c.sew, c.grp)
      let lane (l : List (Nat × Nat × Nat)) (d : Nat) : Bool := operands s c l d c.sew c.grp && c.predOk false
      let comp (l : List (Nat × Nat × Nat)) (k : Nat) : Bool := vectorReady s c && sourcesOk s c l
        && readsAll c (l.map fun x => s.h.source c x.1 x.2.1) && c.predOk true && (s.h.marks.claim [] (s.h.predSlots k)).isSome
      c.floatType = true ∧ lane [grp 1, grp 2] 8 = true ∧ lane [grp 1] 8 = true ∧ lane [grp 1, grp 2, grp 3] 8 = true
        ∧ lane [] 8 = true ∧ comp [grp 1, grp 2] 1 = true ∧ comp [grp 1] 1 = true := by decide +kernel
  obtain ⟨a, b, c, d, e, f, g⟩ := check p hp
  exact ⟨a, laneReady_of _ b, laneReady_of _ c, laneReady_of _ d, laneReady_of _ e, compareReady_of f, compareReady_of g⟩

/-- No flag trims where FTRIM is 0 (LaneFloats, LaneConversions, Scans and the others under NoTrim). -/
theorem witness_NoTrim : NoTrim (floats 0) ((floats 0).h.vc 0) (fun _ => true) fun _ => 0x1F := noTrim_of _ (by decide +kernel)

theorem test_float_add_and_divide :
    (after (.vfpAdd 8 1 2 false false 0) (floats 0)).h.vreg 0 8 = lanes 32 [0x40000000, 0x3F800000]
    ∧ (after (.vfpDiv 8 1 2 false false 0) (floats 0)).h.vreg 0 8 = lanes 32 [0x3F800000, 0x7F800000]
    ∧ (after (.vfpDiv 8 1 2 false false 0) (floats 0)).h.strip.fflags = Flags.dz := by decide +kernel

theorem test_fused_negations :
    (after (.vfmaNmadd 8 1 1 1 false false false 0) (floats 0)).h.vreg 0 8 = lanes 32 [0xC0000000, 0xC0000000]
    ∧ (after (.vfmsMsub 8 1 1 2 false false false 0) (floats 0)).h.vreg 0 8 = lanes 32 [0, 0x3F800000] := by decide +kernel

/-- Conversions: named lane formats, a narrow float, a narrow integer and a block with its scales. -/
theorem witness_LaneConversions : ∀ p ∈ [(5, 0, 2, 0), (4, 0, 2, 17), (5, 0, 2, 16), (5, 0, 0, 4), (5, 0, 1, 0), (5, 1, 0, 4), (3, 0, 0, 4)],
    let s := strip p.1 p.2.1 (image true p.2.2.1 5 p.2.2.2 true) 3 []
    let c := s.h.vc 0
    let narrow := max 1 (c.grp * c.n / c.sew)
    8 ≤ c.sew ∧ s.h.writeOk 3 1 = true ∧ LaneReady s c (s.h.active c) [(1, c.sew, c.grp)] 8 c.sew c.grp
    ∧ (c.fx < 20 ∧ c.n < c.sew → LaneReady s c (s.h.active c) [(1, c.n, narrow)] 8 c.sew c.grp
      ∧ LaneReady s c (s.h.active c) [(1, c.sew, c.grp)] 8 c.n narrow) := by
  intro p hp
  have check : ∀ p ∈ [(5, 0, 2, 0), (4, 0, 2, 17), (5, 0, 2, 16), (5, 0, 0, 4), (5, 0, 1, 0), (5, 1, 0, 4), (3, 0, 0, 4)],
      let s := strip p.1 p.2.1 (image true p.2.2.1 5 p.2.2.2 true) 3 []
      let c := s.h.vc 0
      let narrow := max 1 (c.grp * c.n / c.sew)
      8 ≤ c.sew ∧ s.h.writeOk 3 1 = true ∧ (operands s c [(1, c.sew, c.grp)] 8 c.sew c.grp && c.predOk false) = true
      ∧ (c.fx < 20 ∧ c.n < c.sew → (operands s c [(1, c.n, narrow)] 8 c.sew c.grp && c.predOk false) = true
        ∧ (operands s c [(1, c.sew, c.grp)] 8 c.n narrow && c.predOk false) = true) := by decide +kernel
  obtain ⟨a, b, c, d⟩ := check p hp
  exact ⟨a, b, laneReady_of _ c, fun h => ⟨laneReady_of _ (d h).1, laneReady_of _ (d h).2⟩⟩

/-- Each case of LaneConversions: the formats, block lengths and widths that it asks for. -/
theorem witness_LaneConversions_cases :
    let c (sew bl fam fx : Nat) : Vc := (strip sew bl (image true fam 5 fx true) 3 []).h.vc 0
    ((c 5 0 2 0).sew = 32) ∧ ((c 4 0 2 17).sew = 16 ∧ (c 4 0 2 17).fx = 17)
    ∧ ((c 5 0 2 16).n < (c 5 0 2 16).sew ∧ 8 ≤ (c 5 0 2 16).fx ∧ (c 5 0 2 16).fx ≤ 19)
    ∧ ((c 5 0 0 4).n < (c 5 0 0 4).sew ∧ (c 5 0 0 4).fx ≤ 7 ∧ (c 5 0 0 4).fam < 2)
    ∧ ((c 5 1 0 4).bl ≠ 0 ∧ (c 5 1 0 4).fx ∈ [4, 5, 6, 7, 9, 14, 15] ∧ 16 ≤ (c 5 1 0 4).sew) := by decide +kernel

theorem test_integer_to_float_and_back :
    let s := strip 5 0 (image false 2 0 0 false) 2 [(1, lanes 32 [3, 0xFFFFFFFF])]
    (after (.vcvtI2f 8 1 false 0) s).h.vreg 0 8 = lanes 32 [0x40400000, 0xBF800000]
    ∧ (after (.vcvtF2i 9 8 false 0) (after (.vcvtI2f 8 1 false 0) s)).h.vreg 0 9 = lanes 32 [3, 0xFFFFFFFF]
    ∧ (after (.vcvtU2f 8 1 false 0) s).h.vreg 0 8 = lanes 32 [0x40400000, 0x4F800000] := by decide +kernel

theorem test_narrow_integers_saturate :
    let s := strip 5 0 (image false 0 0 7 true) 2 [(1, lanes 32 [300, 0xFFFFFF00])]
    (s.h.vc 0).n = 8 ∧ (after (.vcvtInar 8 1 false 0) s).h.vreg 0 8 = lanes 8 [0x7F, 0x80] := by decide +kernel

theorem witness_RandomElements : ∃ s : State, let c := s.h.vc 0
    LaneReady s c (s.h.active c) [] 8 c.sew c.grp ∧ 8 ≤ c.sew ∧ c.floatType = true :=
  ⟨floats 0, laneReady_of _ (by decide +kernel), by decide +kernel, by decide +kernel⟩

theorem test_random_bits_advance_the_state : (after (.vrngBits 8 0) (strip 6 0 0 2 [])).h.strip.rngs = 2 * 0x9E3779B97F4A7C15
    ∧ (after (.vrngBits 8 0) (strip 6 0 0 2 [])).h.vreg 0 8 % 2 ^ 64 = 0 := by decide +kernel

theorem test_predicate_functions : (after (.vpredNot 2 1 0) (strip 5 0 0 4 [])).h.preg 0 2 = 10
    ∧ (after (.vpredFirst 2 1 0) (strip 5 0 0 4 [])).h.preg 0 2 = 1 ∧ (after (.vpredCnt 2 1 0) (strip 5 0 0 4 [])).h.preg 0 2 = 3
    ∧ (after (.vpredAndn 2 0 1 0) (strip 5 0 0 4 [])).h.preg 0 2 = 10 := by decide +kernel

/-! ## Rearrangement, reductions, scans and selection -/

/-- A strip of four 32-bit integers. -/
def four : State := strip 5 0 (image false 0 0 0 false) 4 [(1, lanes 32 [5, 0xFFFFFFFF, 7, 5]), (2, lanes 32 [3, 0, 9, 1])]

theorem witness_Permutations :
    let c := four.h.vc 0
    LaneReady four c (fun _ => true) [(1, c.sew, c.grp), (2, c.sew, c.grp)] 8 c.sew c.grp ∧ AllThere four c [1, 2]
    ∧ LaneReady four c (fun _ => true) [(1, c.sew, c.grp)] 8 c.sew c.grp ∧ LaneReady four c (fun _ => true) [] 31 c.sew c.grp :=
  ⟨laneReady_of _ (by decide +kernel), allThere_of (by decide +kernel), laneReady_of _ (by decide +kernel), laneReady_of _ (by decide +kernel)⟩

/-- Extraction inside the strip and beyond it, and insertion. -/
theorem witness_Permutations_ext_ins : ∀ k ∈ [3, 4],
    let s := withX four [(3, BitVec.ofNat 64 k)]
    let c := s.h.vc 0
    VectorReady s c ∧ 1 % c.grp = 0 ∧ s.h.readOk c 1 c.grp c.sew = true ∧ AllThere s c [1]
    ∧ (k < c.vl → (s.h.source c 1 c.sew).cause k = none)
    ∧ Operands s { c with start := 0, tp := false } (fun _ => false) [] 8 c.sew c.grp := by
  intro k hk
  have check : ∀ k ∈ [3, 4], let s := withX four [(3, BitVec.ofNat 64 k)]
      let c := s.h.vc 0
      vectorReady s c = true ∧ 1 % c.grp = 0 ∧ s.h.readOk c 1 c.grp c.sew = true
      ∧ allThere s c [1] = true
      ∧ (k < c.vl → (s.h.source c 1 c.sew).cause k = none)
      ∧ operands s { c with start := 0, tp := false } [] 8 c.sew c.grp = true := by decide +kernel
  obtain ⟨a, b, d, e, f, g⟩ := check k hk
  exact ⟨vectorReady_of a, b, d, allThere_of e, f, operands_of _ g⟩

theorem test_permutation_and_slides :
    (after (.vpermPerm 8 1 2 false false 0) four).h.vreg 0 8 = lanes 32 [5, 5, 0, 0xFFFFFFFF]
    ∧ (after (.vpermSl1up 8 1 3 false 0) (withX four [(3, 77)])).h.vreg 0 8 = lanes 32 [77, 5, 0xFFFFFFFF, 7]
    ∧ (after (.vpermSl1dn 8 1 3 false 0) (withX four [(3, 77)])).h.vreg 0 8 = lanes 32 [0xFFFFFFFF, 7, 5, 77]
    ∧ (after (.vpermSldn 8 1 3 false 0) (withX four [(3, 2)])).h.vreg 0 8 = lanes 32 [7, 5, 0, 0]
    ∧ (after (.vpermSlup 1 2 3 false 0) (withX four [(3, 2)])).h.vreg 0 1 = lanes 32 [5, 0xFFFFFFFF, 3, 0] := by decide +kernel

theorem test_extract_sign_extends : (after (.vpermExt 4 1 3 false 0) (withX four [(3, 1)])).h.rx 4 = -1
    ∧ (after (.vpermExt 4 1 3 false 0) (withX four [(3, 4)])).h.rx 4 = 0 := by decide +kernel

theorem witness_Reductions : ∀ s ∈ [four, floats 0], let c := s.h.vc 0
    VectorReady s c ∧ 1 % c.grp = 0 ∧ s.h.readOk c 1 c.grp c.sew = true ∧ c.predOk false = true ∧ AllThere s c [1]
    ∧ c.readable (s.h.active c) [s.h.source c 1 c.sew] ∧ 8 ≤ c.sew ∧ (c.fam < 2 ∨ c.floatType = true) := by
  intro s hs
  have check : ∀ s ∈ [four, floats 0], let c := s.h.vc 0
      vectorReady s c = true ∧ 1 % c.grp = 0 ∧ s.h.readOk c 1 c.grp c.sew = true ∧ c.predOk false = true
      ∧ allThere s c [1] = true
      ∧ readsAll c [s.h.source c 1 c.sew] = true ∧ 8 ≤ c.sew ∧ (c.fam < 2 ∨ c.floatType = true) := by decide +kernel
  obtain ⟨a, b, c, d, e, f, g⟩ := check s hs
  exact ⟨vectorReady_of a, b, c, d, allThere_of e, readsAll_of _ f, g⟩

theorem test_reductions_carry_x_b :
    (after (.vredSum 4 1 3 false 0) (withX four [(3, 100)])).h.rx 4 = 116 ∧ (after (.vredMin 4 1 3 false 0) (withX four [(3, 100)])).h.rx 4 = -1
    ∧ (after (.vredMinu 4 1 3 false 0) (withX four [(3, 100)])).h.rx 4 = 5 ∧ (after (.vredMaxu 4 1 3 false 0) (withX four [(3, 100)])).h.rx 4 = -1
    ∧ (after (.vredFsum 4 1 3 false 0) (withX (floats 0) [(3, 0x40000000)])).h.rx 4 = 0x40800000 := by decide +kernel

theorem witness_Scans : ∀ s ∈ [four, floats 5], let c := s.h.vc 0
    LaneReady s c (s.h.active c) [(1, c.sew, c.grp)] 8 c.sew c.grp ∧ 8 ≤ c.sew ∧ (c.fam < 2 ∨ c.floatType = true) := by
  intro s hs
  have check : ∀ s ∈ [four, floats 5], let c := s.h.vc 0
      (operands s c [(1, c.sew, c.grp)] 8 c.sew c.grp && c.predOk false) = true ∧ 8 ≤ c.sew ∧ (c.fam < 2 ∨ c.floatType = true) := by
    decide +kernel
  exact ⟨laneReady_of _ (check s hs).1, (check s hs).2⟩

theorem test_scans : (after (.vscanSum 8 1 3 false 0 true) (withX four [(3, 10)])).h.vreg 0 8 = lanes 32 [10, 15, 14, 21]
    ∧ (after (.vscanSum 8 1 3 false 0 false) (withX four [(3, 10)])).h.vreg 0 8 = lanes 32 [15, 14, 21, 26]
    ∧ (after (.vscanSum 8 1 3 false 0 true) (withX four [(3, 10)])).h.rx 3 = 26
    ∧ (after (.vscanMin 8 1 3 false 0 false) (withX four [(3, 10)])).h.vreg 0 8 = lanes 32 [5, 0xFFFFFFFF, 0xFFFFFFFF, 0xFFFFFFFF] := by
  decide +kernel

theorem witness_Selections : ∀ s ∈ [four, floats 0, strip 6 0 (image true 1 0 0 false) 1 []], let c := s.h.vc 0
    let g (r : Nat) := (r, c.sew, c.grp)
    8 ≤ c.sew ∧ (c.fam < 2 ∨ c.floatType = true) ∧ s.h.oneDie = true ∧ (c.sew = 32 ∨ c.sew = 64) ∧ AllThere s c [1]
    ∧ LaneReady s c (fun _ => true) [] 8 c.sew c.grp ∧ LaneReady s c (fun _ => true) [g 1] 8 c.sew c.grp
    ∧ LaneReady s c (s.h.active c) [g 1] 8 c.sew c.grp ∧ CompareReady s c [g 1] 2
    ∧ Operands s { c with start := 0 } (fun _ => true) [g 1, g 2] 8 c.sew c.grp := by
  intro s hs
  have check : ∀ s ∈ [four, floats 0, strip 6 0 (image true 1 0 0 false) 1 []], let c := s.h.vc 0
      let g (r : Nat) := (r, c.sew, c.grp)
      8 ≤ c.sew ∧ (c.fam < 2 ∨ c.floatType = true) ∧ s.h.oneDie = true ∧ (c.sew = 32 ∨ c.sew = 64)
      ∧ allThere s c [1] = true
      ∧ (operands s c [] 8 c.sew c.grp && c.predOk false) = true ∧ (operands s c [g 1] 8 c.sew c.grp && c.predOk false) = true
      ∧ (vectorReady s c && sourcesOk s c [g 1] && readsAll c ([g 1].map fun x => s.h.source c x.1 x.2.1) && c.predOk true
        && (s.h.marks.claim [] (s.h.predSlots 2)).isSome) = true
      ∧ operands s { c with start := 0 } [g 1, g 2] 8 c.sew c.grp = true := by decide +kernel
  obtain ⟨a, b, c, d, e, f, g, i, j⟩ := check s hs
  exact ⟨a, b, c, d, allThere_of e, laneReady_of _ f, laneReady_of _ g, laneReady_of _ g, compareReady_of i, operands_of _ j⟩

theorem test_pack_and_rank :
    let s := upd four fun h => { h with modes := [(0, BitVec.ofNat 24 (image true 0 0 0 false))] }
    (after (.vselCmpr 8 1 false 0) s).h.vreg 0 8 = lanes 32 [5, 7] ∧ (after (.vselCmpr 8 1 false 0) s).h.strip.vl = 2
    ∧ (after (.vselTopk 8 1 3 false 0) (withX four [(3, 2)])).h.vreg 0 8 = lanes 32 [7, 5]
    ∧ (after (.vselTopkm 2 1 3 false 0) (withX four [(3, 2)])).h.preg 0 2 = 5
    ∧ (after (.vselIota 8 0) four).h.vreg 0 8 = lanes 32 [0, 1, 2, 3] := by decide +kernel

/-! ## Vector memory -/

def fetch (s : State) (a : Access) : Option Nat := match a.spots with
  | .ok l => if l.all fun p => !p.device && decide (p.ord ≠ .strong) then
      (match readSpots s s.h.sb s.h.answers l true with
      | .ok v => some v
      | _ => none) else none
  | _ => none

theorem fetches_of {s : State} {a : Access} {v : Nat} (h : fetch s a = some v) : Fetches s a v := by
  unfold fetch at h
  split at h
  · rename_i l hl
    split at h
    · rename_i hall
      split at h
      · rename_i w hw
        cases h
        have plain (p : Spot) (hp : p ∈ l) : p.device = false ∧ p.ord ≠ .strong := by simpa using List.all_eq_true.mp hall p hp
        exact ⟨l, hl, fun p hp => (plain p hp).1, hw, fun ⟨p, hp, ho⟩ => absurd ho (plain p hp).2⟩
      · cases h
    · cases h
  · cases h

/-- Every active element of the strip reads something: the values are `fun i => (fetch s (at_ i)).getD 0`. -/
def fetchesAll (s : State) (n : Nat) (at_ : Nat → Access) : Bool := (List.range n).all fun i => (fetch s (at_ i)).isSome

theorem fetchesAll_of {s : State} {n lo : Nat} {at_ : Nat → Access} (active : Nat → Bool) (h : fetchesAll s n at_ = true) :
    ∀ i, lo ≤ i → i < n → active i = true → Fetches s (at_ i) ((fetch s (at_ i)).getD 0) := by
  intro i _ hi _
  obtain ⟨v, hv⟩ := Option.isSome_iff_exists.mp (below h i hi)
  rw [hv]
  exact fetches_of hv

/-- Every access of the strip passes its checks: its places are `places (at_ i)`. -/
def places (a : Access) : List Spot := match a.spots with
  | .ok l => l
  | _ => []

def spotsAll (n : Nat) (at_ : Nat → Access) : Bool := (List.range n).all fun i => match (at_ i).spots with
  | .ok _ => true
  | _ => false

theorem spotsAll_of {n lo : Nat} {at_ : Nat → Access} (active : Nat → Bool) (h : spotsAll n at_ = true) :
    ∀ i, lo ≤ i → i < n → active i = true → (at_ i).spots = .ok (places (at_ i)) := by
  intro i _ hi _
  have := below h i hi
  unfold places
  split at this
  · rename_i l hl
    rw [hl]
  · cases this

/-- A strip of two 32-bit elements with x1 = 0x4000, x2 a stride of 8, x3 a tile of one column and pitch 64, x4 no swizzle and indexes
0 and 3 in v2. -/
def vmem : State := withMem (withX (strip 5 0 (image true 0 0 0 false) 2 [(1, lanes 32 [0x11, 0x22]), (2, lanes 32 [0, 3])])
  [(1, 0x4000), (2, 8), (3, 0x1000000000040), (4, 0)]) [(0x4000, 0xBBBBBBBBAAAAAAAA), (0x4008, 0xDDDDDDDDCCCCCCCC)]

/-- Where no command is issued, no share of Stirrup is spent (VectorLoads, FramesAndProbes). -/
theorem witness_VectorLoads_unshared : Unshared vmem ∧ Unshared small := ⟨fun _ => rfl, fun _ => rfl⟩

/-- A load of a strongly ordered page, with no store to one before it. -/
theorem witness_VectorLoads_strong : let s := pageOfClass vmem .strong
    ∃ l, (memAccess s 0x4000 0 4 (reading false)).spots = .ok l ∧ (∀ p ∈ l, p.ord = .strong ∧ p.device = false)
      ∧ readSpots s s.h.sb s.h.answers l true = .ok 0xAAAAAAAA ∧ StrongFree s ∧ s.h.answers = [] :=
  ⟨_, rfl, by decide +kernel, rfl, ⟨by decide +kernel, by decide +kernel⟩, rfl⟩

theorem witness_VectorLoads : let s := vmem
    let c := s.h.vc 0
    accessType c ∧ 8 ≤ dataWidth c ∧ (s.h.rx 1).toNat < 2 ^ 24 ∧ swizzleOk (s.h.rx 4).toNat = true ∧ (s.h.rx 3).toNat / 2 ^ 48 ≠ 0
    ∧ LaneReady s c (s.h.active c) [] 8 (dataWidth c) (dataRegs c) ∧ LaneReady s c (s.h.active c) [(2, c.sew, c.grp)] 8 (dataWidth c) (dataRegs c)
    ∧ (∀ at_ ∈ [fun i => unitAt s 0x4000 32 i (reading true), fun i => scratchAt s 0x4000 0 32 i,
        fun i => stridedAt s 0x4000 8 4 i (reading true),
        fun i => memAccess s (0x4000 + (s.h.source c 2 c.sew).get i * 4) 0 4 { reading false with served := true },
        fun i => tileAt s 0x4000 (s.h.rx 3) 4 i (reading false)],
      ∀ i, c.start ≤ i → i < c.vl → s.h.active c i = true → Fetches s (at_ i) ((fetch s (at_ i)).getD 0)) := by
  refine ⟨by intro h; revert h; decide +kernel, by decide +kernel, by decide +kernel, by decide +kernel, by decide +kernel,
    laneReady_of _ (by decide +kernel), laneReady_of _ (by decide +kernel), ?_⟩
  intro at_ h
  simp only [List.mem_cons, List.not_mem_nil, or_false] at h
  rcases h with rfl | rfl | rfl | rfl | rfl <;> exact fetchesAll_of _ (by decide +kernel)

/-- Segments of one field and of eight (D must leave room for eight registers), and a load in the narrow type of FAM 3. -/
theorem witness_VectorLoads_segments : ∀ nf ∈ [1, 8], let s := vmem
    let c := s.h.vc 0
    VectorReady s c ∧ c.predOk false = true ∧ (nf = 1 ∨ 16 ≤ 8 ∨ 8 + nf * 1 ≤ 16) ∧ s.h.writeOk 8 (1 * nf) = true
    ∧ (∀ k < nf, c.Group (8 + k * 1) 32 1) ∧ (s.h.marks.claim (s.h.slotsOf 8 (1 * nf)) []).isSome = true
    ∧ ∀ k < nf, ∀ i < c.vl, Fetches s (memAccess s (0x4000 + (i * nf + k) * 4) 0 4 (reading false))
      ((fetch s (memAccess s (0x4000 + (i * nf + k) * 4) 0 4 (reading false))).getD 0) := by
  intro nf hn
  have check : ∀ nf ∈ [1, 8], let s := vmem
      let c := s.h.vc 0
      vectorReady s c = true ∧ c.predOk false = true ∧ (nf = 1 ∨ 16 ≤ 8 ∨ 8 + nf * 1 ≤ 16) ∧ s.h.writeOk 8 (1 * nf) = true
      ∧ (∀ k < nf, group c (8 + k * 1) 32 1 = true) ∧ (s.h.marks.claim (s.h.slotsOf 8 (1 * nf)) []).isSome = true
      ∧ (∀ k < nf, fetchesAll s c.vl (fun i => memAccess s (0x4000 + (i * nf + k) * 4) 0 4 (reading false)) = true) := by decide +kernel
  obtain ⟨a, b, c, d, e, f, g⟩ := check nf hn
  exact ⟨vectorReady_of a, b, c, d, fun k hk => group_of (e k hk), f, fun k hk i hi =>
    fetchesAll_of (fun _ => true) (g k hk) i (Nat.zero_le i) hi rfl⟩

theorem witness_VectorLoads_narrow : let s := withX (strip 5 0 (image false 3 0 4 false) 2 []) [(1, 0x4000)]
    let c := s.h.vc 0
    accessType c ∧ LaneReady s c (s.h.active c) [] 8 (dataWidth c) (dataRegs c)
    ∧ ∀ i, c.start ≤ i → i < c.vl → s.h.active c i = true → Fetches s (unitAt s 0x4000 (dataWidth c) i (reading true))
      ((fetch s (unitAt s 0x4000 (dataWidth c) i (reading true))).getD 0) :=
  ⟨by intro _; decide +kernel, laneReady_of _ (by decide +kernel), fetchesAll_of _ (by decide +kernel)⟩

/-- A page that the core's L1 data cache holds is read there, and the gather's elements at the home (R200). -/
theorem test_vector_loads_read_the_core_copy :
    let s := { vmem with l1 := [(0x4000, 1)] }
    (after (.vldUnit 8 1 1) s).h.vreg 0 8 = lanes 32 [0xAAAAAA01, 0xBBBBBBBB]
    ∧ (after (.vldIdx 8 1 2 false 1) s).h.vreg 0 8 = lanes 32 [0xAAAAAAAA, 0xDDDDDDDD] := by decide +kernel

theorem test_vector_loads : (after (.vldUnit 8 1 0) vmem).h.vreg 0 8 = 0xAAAAAAAA
    ∧ (after (.vldStrd 8 1 2 1) vmem).h.vreg 0 8 = lanes 32 [0xAAAAAAAA, 0xCCCCCCCC]
    ∧ (after (.vldIdx 8 1 2 false 1) vmem).h.vreg 0 8 = lanes 32 [0xAAAAAAAA, 0xDDDDDDDD]
    ∧ (after (.vldSeg 8 1 1 1) vmem).h.vreg 0 9 = lanes 32 [0xBBBBBBBB, 0xDDDDDDDD] := by decide +kernel

theorem witness_VectorStores : let s := vmem
    let c := s.h.vc 0
    accessType c ∧ 8 ≤ dataWidth c ∧ (s.h.rx 1).toNat < 2 ^ 24 ∧ swizzleOk (s.h.rx 4).toNat = true ∧ (s.h.rx 3).toNat / 2 ^ 48 ≠ 0
    ∧ StoreReady s c (s.h.active c) [(1, c.sew, c.grp)] ∧ StoreReady s c (s.h.active c) [(1, c.sew, c.grp), (2, c.sew, c.grp)]
    ∧ s.h.sbused + 512 ≤ s.h.sbCap
    ∧ (∀ at_ ∈ [fun i => unitAt s 0x4000 32 i (writing true), fun i => scratchAt s 0x4000 0 32 i,
        fun i => stridedAt s 0x4000 8 4 i (writing true),
        fun i => memAccess s (0x4000 + (s.h.source c 2 c.sew).get i * 4) 0 4 { writing false with served := true },
        fun i => tileAt s 0x4000 (s.h.rx 3) 4 i (writing false), fun i => memAccess s (0x4000 + (i * 8 + 7) * 4) 0 4 (writing false)],
      ∀ i, c.start ≤ i → i < c.vl → s.h.active c i = true → (at_ i).spots = .ok (places (at_ i))) := by
  refine ⟨by intro h; revert h; decide +kernel, by decide +kernel, by decide +kernel, by decide +kernel, by decide +kernel,
    storeReady_of _ (by decide +kernel), storeReady_of _ (by decide +kernel), by decide +kernel, ?_⟩
  intro at_ h
  simp only [List.mem_cons, List.not_mem_nil, or_false] at h
  rcases h with rfl | rfl | rfl | rfl | rfl | rfl <;> exact spotsAll_of _ (by decide +kernel)

theorem witness_VectorStores_segments : let s := vmem
    let c := s.h.vc 0
    StoreReady s c (s.h.active c) (((List.range 8).map fun k => (8 + k * 1, 32, 1)) ++ []) ∧ 8 % 1 = 0 ∧ 8 + 8 * 1 ≤ 32
    ∧ (8 = 1 ∨ 16 ≤ 8 ∨ 8 + 8 * 1 ≤ 16) := ⟨storeReady_of _ (by decide +kernel), by decide, by decide, by decide⟩

/-- A gather is in the in-flight table until its lines have arrived, and its two elements have been served (R206, R208, R222). -/
theorem test_gather_is_in_flight : (after (.vldIdx 8 1 2 false 1) vmem).h.gathers.map (fun g => (g.pc, g.slots)) = [(0x1000, [8])]
    ∧ (after (.vldIdx 8 1 2 false 1) vmem).moved.map (·.2) = [2] ∧ (after (.vldUnit 8 1 0) vmem).h.gathers = [] := by decide +kernel

theorem test_vector_store_commits_in_element_order :
    (after .sysScommit (after (.vstIdx 1 1 2 false false 1) vmem)).mem.read 0x4000 8 = 0xBBBBBBBB00000011
    ∧ (after .sysScommit (after (.vstIdx 1 1 2 false false 1) vmem)).mem.read 0x4008 8 = 0x22CCCCCCCC
    ∧ (after (.vstIdx 1 1 2 false false 1) vmem).mem.read 0x4000 8 = 0xBBBBBBBBAAAAAAAA := by decide +kernel

theorem witness_FramesAndProbes_spill : let s := vmem
    let c := s.h.plainVc
    c.start < c.vl ∧ StoreReady s c (fun _ => true) [(1, c.sew, c.grp)] ∧ s.h.sbused + 24 ≤ s.h.sbCap
    ∧ (memAccess s 0x4000 0 16 { writing false with align := 16 }).spots = .ok (places (memAccess s 0x4000 0 16 { writing false with align := 16 }))
    ∧ ∀ i, c.start ≤ i → i < c.vl → (memAccess s (0x4000 + 16 + i * c.sew / 8) (i * c.sew % 8) (max 1 (c.sew / 8)) (writing false)).spots
      = .ok (places (memAccess s (0x4000 + 16 + i * c.sew / 8) (i * c.sew % 8) (max 1 (c.sew / 8)) (writing false))) :=
  ⟨by decide +kernel, storeReady_of _ (by decide +kernel), by decide +kernel,
    spotsAll_of (n := 1) (lo := 0) (at_ := fun _ => memAccess vmem 0x4000 0 16 { writing false with align := 16 }) (fun _ => true) (by decide +kernel) 0
      (by decide) (by decide) rfl,
    fun i h g => spotsAll_of (at_ := fun i => memAccess vmem (0x4000 + 16 + i * vmem.h.plainVc.sew / 8) (i * vmem.h.plainVc.sew % 8)
      (max 1 (vmem.h.plainVc.sew / 8)) (writing false)) (fun _ => true) (by decide +kernel) i h g rfl⟩

/-- A frame of one element with the register's type. -/
def framed : State := withMem vmem [(0x4000, 1), (0x4008, vmem.h.strip.vtype.toNat), (0x4010, 0x77)]

theorem witness_FramesAndProbes_fill : let s := framed
    let c := s.h.plainVc
    c.start < c.vl ∧ Fetches s (memAccess s 0x4000 0 16 { reading false with align := 16 }) (1 + s.h.strip.vtype.toNat * 2 ^ 64)
    ∧ Operands s { c with vl := min 1 c.vl } (fun _ => true) [] 8 c.sew c.grp
    ∧ ∀ i, c.start ≤ i → i < min 1 c.vl → Fetches s (memAccess s (0x4000 + 16 + i * c.sew / 8) (i * c.sew % 8) (max 1 (c.sew / 8)) (reading false))
      ((fetch s (memAccess s (0x4000 + 16 + i * c.sew / 8) (i * c.sew % 8) (max 1 (c.sew / 8)) (reading false))).getD 0) :=
  ⟨by decide +kernel, fetches_of (by decide +kernel), operands_of _ (by decide +kernel),
    fun i h g => fetchesAll_of (at_ := fun i => memAccess framed (0x4000 + 16 + i * framed.h.plainVc.sew / 8) (i * framed.h.plainVc.sew % 8)
      (max 1 (framed.h.plainVc.sew / 8)) (reading false)) (fun _ => true) (by decide +kernel) i h g rfl⟩

theorem test_spill_then_fill :
    let t := after .sysScommit (after (.vstSpill 1 1 false) vmem)
    t.mem.read 0x4000 8 = 2 ∧ t.mem.read 0x4008 8 = 0xA00 ∧ t.mem.read 0x4010 8 = 0x2200000011
    ∧ (after (.vldFill 8 1) t).h.vreg 0 8 = lanes 32 [0x11, 0x22] := by decide +kernel

/-- A header of another type: SEW 64. -/
theorem witness_FramesAndProbes_fill_of_another_type : let s := withMem framed [(0x4008, 0xC00)]
    let c := s.h.plainVc
    c.start < c.vl ∧ Fetches s (memAccess s 0x4000 0 16 { reading false with align := 16 }) (1 + 0xC00 * 2 ^ 64)
    ∧ Operands s c (fun _ => true) [] 8 c.sew c.grp ∧ CanTrap s
    ∧ (1 + 0xC00 * 2 ^ 64) / 2 ^ 71 % 2 ^ 5 ≠ s.h.strip.vtype.toNat / 2 ^ 7 :=
  ⟨by decide +kernel, fetches_of (by decide +kernel), operands_of _ (by decide +kernel), canTrap_of (by decide +kernel), by decide +kernel⟩

theorem test_fill_of_another_type_traps : (after (.vldFill 8 1) (withMem framed [(0x4008, 0xC00)])).h.trap.tcause = Cause.illegalType := by
  decide +kernel

/-- A hash table of 4 slots of 16 bytes at 0x5000, whose descriptor lies at 0x4000, with key 5 everywhere and value 9, and the keys 5
and 6 in v2. -/
def probed : State :=
  let s := upd vmem fun h => { h with files := { h.files with v := [(2, lanes 32 [5, 6])], p := [(1, 7)] } }
  let slots := [0, 1, 2, 3].foldl (fun (m : Memory) k => (m.write (0x5000 + 16 * k) 5 8).write (0x5008 + 16 * k) 9 8) s.mem
  { s with mem := slots.write 0x4000 (0x5000 + 2 * 2 ^ 64 + 4 * 2 ^ 72 + 2 * 2 ^ 80 + 8 * 2 ^ 96) 32 }

/-- The table of `probed`. -/
def table : Probe := { tbase := 0x5000, log2n := 2, log2s := 4, maxp := 2, voff := 8 }

/-- What the probe of element `i` gives where it ends. -/
def probes (i : Nat) : Nat × Seen :=
  let c := probed.h.vc 0
  match probeKey probed table (c.sew / 8) ((probed.h.source c 2 c.sew).get i) (i == c.start) i [] with
  | .ok r _ => r
  | _ => (0, [])

/-- The probe of element `i` ends, and every access of it has its number. -/
def probesOk (i : Nat) : Bool :=
  let c := probed.h.vc 0
  match probeKey probed table (c.sew / 8) ((probed.h.source c 2 c.sew).get i) (i == c.start) i [] with
  | .ok r fl => fl == 0 && r.2.all fun q => q.1 != 0
  | _ => false

theorem probes_of {i : Nat} (h : probesOk i = true) :
    (∀ seen, probeKey probed table ((probed.h.vc 0).sew / 8) ((probed.h.source (probed.h.vc 0) 2 (probed.h.vc 0).sew).get i)
      (i == (probed.h.vc 0).start) i seen = .ok ((probes i).1, seen ++ (probes i).2) 0) ∧ ∀ q ∈ (probes i).2, q.1 ≠ 0 := by
  unfold probes
  simp only [probesOk] at h
  split at h
  · rename_i r fl hr
    simp only [Bool.and_eq_true, beq_iff_eq] at h
    obtain ⟨l, e, g⟩ := probeKey_seen (v := r.1) (r := r.2) hr
    simp only [hr]
    rw [List.nil_append] at e
    exact ⟨fun seen => by rw [g, e, h.1], fun q hq => by simpa using List.all_eq_true.mp h.2 q hq⟩
  · cases h

/-- The key 5 is found in the first slot that is tried; the key 6 in neither of the two. -/
theorem witness_FramesAndProbes_probe : let s := probed
    let c := s.h.vc 0
    let key := (s.h.source c 2 c.sew).get
    c.sew = 32 ∧ LaneReady s c (s.h.active c) [(2, c.sew, c.grp)] 8 c.sew c.grp ∧ (∃ i, c.start ≤ i ∧ i < c.vl ∧ s.h.active c i = true)
    ∧ Fetches s (memAccess s 0x4000 0 32 { reading false with align := 8 }) (0x5000 + 2 * 2 ^ 64 + 4 * 2 ^ 72 + 2 * 2 ^ 80 + 8 * 2 ^ 96)
    ∧ probeOf (0x5000 + 2 * 2 ^ 64 + 4 * 2 ^ 72 + 2 * 2 ^ 80 + 8 * 2 ^ 96) 4 = some table
    ∧ ∃ (V : Nat → Nat) (L : Nat → Seen), ∀ i, i < c.vl →
      (∀ seen, probeKey s table (c.sew / 8) (key i) (i == c.start) i seen = .ok (V i, seen ++ L i) 0) ∧ ∀ q ∈ L i, q.1 ≠ 0 := by
  refine ⟨by decide +kernel, laneReady_of _ (by decide +kernel), ⟨1, by decide +kernel, by decide +kernel, by decide +kernel⟩,
    fetches_of (by decide +kernel), rfl, fun i => (probes i).1, fun i => (probes i).2, fun i hi => ?_⟩
  obtain ⟨a, b⟩ := probes_of (below (n := (probed.h.vc 0).vl) (f := probesOk) (by decide +kernel) i hi)
  exact ⟨a, b⟩

theorem test_probe_finds_its_key_or_gives_ones : (after (.vldPrb 8 1 2 false 0) probed).h.vreg 0 8 = lanes 32 [9, 0xFFFFFFFF] := by
  decide +kernel

/-- A stream descriptor at 0x4000, of four 32-bit elements. -/
def described : State := { withX small [(1, 0x4000)] with
  mem := small.mem.write 0x4000 (0x8000 + 4 * 2 ^ 64 + (4 + 1 * 2 ^ 32) * 2 ^ 128 + 4 * 2 ^ 192 + 5 * 2 ^ 384) 64 }

theorem witness_BoundStreams_bind : Unasked described.h ∧ described.h.streams.length < 4 ∧ (∀ x ∈ described.h.streams, x.group ≠ 4)
    ∧ Fetches described (memAccess described (described.h.rx 1).toNat 0 64 { reading false with align := 8 })
      ((0x8000 : Word).toNat + 4 * 2 ^ 64 + (4 + 1 * 2 ^ 32) * 2 ^ 128 + (4 : Word).toNat * 2 ^ 192 + (0 : Word).toNat * 2 ^ 256
        + (0 : Word).toNat * 2 ^ 320 + 5 * 2 ^ 384) :=
  ⟨unasked_of (by decide +kernel), by decide +kernel, by decide +kernel, fetches_of (by decide +kernel)⟩

theorem witness_BoundStreams_bound : Unasked (streaming 0).h ∧ (∃ x ∈ (streaming 0).h.streams, x.group = (4 : BitVec 5).toNat)
    ∧ ((streaming 0).h.marks.claim ((streaming 0).h.slotsOf 4 4) []).isSome = true :=
  ⟨unasked_of (by decide +kernel), ⟨_, List.mem_singleton.mpr rfl, rfl⟩, by decide +kernel⟩

/-- An interval that has renamed all the vector registers that one may: the next ones cannot be claimed (R110). -/
theorem witness_BoundStreams_rename_limit :
    let s := upd (streaming 0) fun h => { h with marks := { h.marks with vFirst := (List.range 16).map (· + 8) } }
    s.h.marks.claim (s.h.slotsOf 4 4) [] = none ∧ CanTrap s ∧ ∃ x ∈ s.h.streams, x.group = (4 : BitVec 5).toNat :=
  ⟨by decide +kernel, canTrap_of (by decide +kernel), _, List.mem_singleton.mpr rfl, rfl⟩

theorem test_stream_is_read_and_moved :
    let s := upd (strip 5 0 (image false 0 0 0 false) 2 []) fun h => { h with streams := (streaming 0).h.streams }
    (after (.valuxAdd 8 4 0 false 0) s).h.vreg 0 8 = lanes 32 [10, 11] ∧ (after (.valuxAdd 8 4 0 false 0) s).h.streams.map (·.pos) = [2]
    ∧ (after (.vstrSadv 4 1 0) (withX (streaming 0) [(1, 100)])).h.streams.map (·.pos) = [8]
    ∧ (after (.vstrSunbind 4 0) (streaming 0)).h.streams = [] := by decide +kernel

/-- One page of ordinary home memory, aligned. -/
def homeElement (s : State) (ea w : Nat) (r wr : Bool) (la : Nat) : Bool :=
  match checkSpots s (ea % 2 ^ 64) w { r, w := wr, align := w, device := false } with
  | .ok [p] => decide (p.loc = .home la) && p.va == ea % 2 ^ 64 && !p.device && decide (p.ord ≠ .strong) && la % w == 0
  | _ => false

theorem homeElement_of {s : State} {ea w la : Nat} {r wr : Bool} (h : homeElement s ea w r wr la = true) : HomeElement s ea w r wr la := by
  unfold homeElement at h
  split at h
  · rename_i p hp
    simp only [Bool.and_eq_true, decide_eq_true_eq, beq_iff_eq, Bool.not_eq_true'] at h
    obtain ⟨⟨⟨⟨a, b⟩, c⟩, d⟩, e⟩ := h
    exact ⟨p, hp, a, b, c, d, e⟩
  · cases h

/-- Indexes 0 and 16 in v2: elements on two lines. -/
def twoLines : State := upd vmem fun h => { h with files := { h.files with v := [(1, lanes 32 [0x11, 0x22]), (2, lanes 32 [0, 16])], p := [(1, 7)] } }

theorem witness_LinkedVectors_gld : let s := twoLines
    let c := s.h.vc 0
    (c.sew = 32 ∨ c.sew = 64) ∧ c.fam < 2 ∧ LaneReady s c (s.h.active c) [(2, c.sew, c.grp)] 8 c.sew c.grp
    ∧ (∀ i ∈ c.activeList (s.h.active c) c.vl, HomeElement s ((s.h.rx 1).toNat + (s.h.source c 2 c.sew).get i * 4) 4 true false (0x4000 + 64 * i)
        ∧ s.mem.poisoned (0x4000 + 64 * i) 4 = false) ∧ s.links.length + c.vl ≤ 65536 := by
  have check : ∀ i ∈ (twoLines.h.vc 0).activeList (twoLines.h.active (twoLines.h.vc 0)) (twoLines.h.vc 0).vl,
      homeElement twoLines ((twoLines.h.rx 1).toNat + (twoLines.h.source (twoLines.h.vc 0) 2 (twoLines.h.vc 0).sew).get i * 4) 4 true false
        (0x4000 + 64 * i) = true ∧ twoLines.mem.poisoned (0x4000 + 64 * i) 4 = false := by decide +kernel
  exact ⟨by decide +kernel, by decide +kernel, laneReady_of _ (by decide +kernel), fun i hi => ⟨homeElement_of (check i hi).1, (check i hi).2⟩,
    by decide +kernel⟩

/-- Where translation is not set up, no table is read: what home memory holds does not matter. -/
theorem translate_any_memory {s : State} {vi : Nat} (q : Memory) (h1 : (s.vi vi).s1en = false) (h2 : (s.vi vi).s2en = false)
    (unit va : Nat) (r w : Bool) (failed : Option Nat) :
    Machine.translate { s with mem := q } unit vi va r w failed = Machine.translate s unit vi va r w failed := by
  have hv : ({ s with mem := q } : State).vi vi = s.vi vi := rfl
  have hc : codeObject { s with mem := q } vi va = codeObject s vi va := rfl
  have hl : loadedSection { s with mem := q } vi va = loadedSection s vi va := rfl
  have ht : cached { s with mem := q } unit vi va = cached s unit vi va := rfl
  have ha : atcHit { s with mem := q } vi va = atcHit s vi va := rfl
  simp [Machine.translate, pageOf, walkBoth, walkSized, stage2, hv, hc, hl, ht, ha, h1, h2]

theorem homeElement_any_memory {s : State} (q : Memory) (h1 : (s.vi s.h.task.vi).s1en = false) (h2 : (s.vi s.h.task.vi).s2en = false)
    {ea w la : Nat} (h : HomeElement s ea w false true la) : HomeElement { s with mem := q } ea w false true la := by
  obtain ⟨p, hp, rest⟩ := h
  refine ⟨p, ?_, rest⟩
  have ht (l : List (Nat × Nat)) : translateParts { s with mem := q } s.cur { r := false, w := true, align := w, device := false } l
      = translateParts s s.cur { r := false, w := true, align := w, device := false } l := by
    induction l with
    | nil => rfl
    | cons x l ih =>
      have hx (va : Nat) : translateFor { s with mem := q } s.cur va false true = translateFor s s.cur va false true :=
        translate_any_memory q h1 h2 _ _ _ _ _
      simp only [translateParts, pageFor, ih, hx, Bool.false_eq_true, if_false]
  rw [← hp]
  have hr (l : Loc) : State.refusesStore { s with mem := q } false true l = s.refusesStore false true l := rfl
  simp only [checkSpots, ht, hr, Bool.false_and]

theorem witness_LinkedVectors_scc : let s := twoLines
    let c := s.h.vc 0
    let list := c.activeList (s.h.active c) c.vl
    Calm s ∧ Quiet s ∧ s.h.answers = []
    ∧ (∀ q, Apart s list (fun i => 0x4000 + 64 * i) 4 q → ∀ i ∈ list,
      HomeElement { s with mem := q } ((s.h.rx 1).toNat + (s.h.source c 2 c.sew).get i * 4) 4 false true (0x4000 + 64 * i))
    ∧ ∀ i ∈ list, ∀ j ∈ list, i ≠ j → (0x4000 + 64 * i) / 64 ≠ (0x4000 + 64 * j) / 64 := by
  have check : ∀ i ∈ (twoLines.h.vc 0).activeList (twoLines.h.active (twoLines.h.vc 0)) (twoLines.h.vc 0).vl,
      homeElement twoLines ((twoLines.h.rx 1).toNat + (twoLines.h.source (twoLines.h.vc 0) 2 (twoLines.h.vc 0).sew).get i * 4) 4 false true
        (0x4000 + 64 * i) = true := by decide +kernel
  exact ⟨calm_of (by decide +kernel), quiet_of (by decide +kernel), by decide +kernel,
    fun q _ i hi => homeElement_any_memory q (by decide +kernel) (by decide +kernel) (homeElement_of (check i hi)), by decide +kernel⟩

theorem test_linked_store : let s := after (.vatomGld 8 1 2 false 0) twoLines
    let t := after (.vatomScc 1 1 2 false false 0) (upd s fun h => { h with vstart := 0 })
    t.mem.read 0x4000 4 = 0x11 ∧ t.mem.read 0x4040 4 = 0x22 ∧ t.h.vreg 0 1 = 0
    ∧ (after (.vatomScc 1 1 2 false false 0) twoLines).h.vreg 0 1 = lanes 32 [1, 1]
    ∧ (after (.vatomScc 1 1 2 false false 0) twoLines).mem = twoLines.mem := by decide +kernel

/-- Free lock words at 0x6000 and 0x6080. -/
def lockable : State := withX twoLines [(1, 0x6000)]

theorem witness_LockSets_lock : let s := lockable
    let c := s.h.vc 0
    let list := c.activeList (s.h.active c) c.vl
    let ea (i : Nat) : Nat := ((s.h.rx 1).toNat + (s.h.source c 2 c.sew).get i * 8) % 2 ^ 64
    (c.sew = 32 ∨ c.sew = 64) ∧ c.fam < 2 ∧ Calm s ∧ Quiet s ∧ s.h.answers = [] ∧ StoreReady s c (s.h.active c) [(2, c.sew, c.grp)]
    ∧ (∀ i ∈ list, ∀ j ∈ list, ea i ≠ ea j → ea i + 8 ≤ ea j ∨ ea j + 8 ≤ ea i)
    ∧ (∀ i ∈ list, HomeElement s (ea i) 8 true true (ea i) ∧ s.mem.read (ea i) 8 = 0 ∧ s.mem.poisoned (ea i) 8 = false)
    ∧ s.h.task.locks = [] ∧ (list.map ea).eraseDups.length ≤ 64 := by
  have check : let s := lockable
      let c := s.h.vc 0
      let list := c.activeList (s.h.active c) c.vl
      let ea (i : Nat) : Nat := ((s.h.rx 1).toNat + (s.h.source c 2 c.sew).get i * 8) % 2 ^ 64
      ∀ i ∈ list, homeElement s (ea i) 8 true true (ea i) = true ∧ s.mem.read (ea i) 8 = 0 ∧ s.mem.poisoned (ea i) 8 = false := by decide +kernel
  exact ⟨by decide +kernel, by decide +kernel, calm_of (by decide +kernel), quiet_of (by decide +kernel), by decide +kernel,
    storeReady_of _ (by decide +kernel), by decide +kernel, fun i hi => ⟨homeElement_of (check i hi).1, (check i hi).2⟩, by decide +kernel,
    by decide +kernel⟩

theorem witness_LockSets_unlock : let s := lockable
    let c := s.h.vc 0
    let list := c.activeList (s.h.active c) c.vl
    let ea (i : Nat) : Nat := ((s.h.rx 1).toNat + (s.h.source c 2 c.sew).get i * 8) % 2 ^ 64
    (∀ i ∈ list, HomeElement s (ea i) 8 false true (ea i)) ∧ s.posted = [] ∧ s.out = []
    ∧ ∀ q, Apart s list ea 8 q → ∀ i ∈ list,
      ∃ p, Machine.translate { s with mem := q } deviceUnit s.h.task.vi (ea i) false true none = .ok p ∧ p.loc = .home (ea i) := by
  have check : let s := lockable
      let c := s.h.vc 0
      let list := c.activeList (s.h.active c) c.vl
      let ea (i : Nat) : Nat := ((s.h.rx 1).toNat + (s.h.source c 2 c.sew).get i * 8) % 2 ^ 64
      ∀ i ∈ list, homeElement s (ea i) 8 false true (ea i) = true
        ∧ homeAt (Machine.translate s deviceUnit s.h.task.vi (ea i) false true none) (ea i) = true := by decide +kernel
  refine ⟨fun i hi => homeElement_of (check i hi).1, by decide +kernel, by decide +kernel, fun q _ i hi => ?_⟩
  obtain ⟨p, hp, hl, _⟩ := homeAt_of (check i hi).2
  exact ⟨p, (translate_any_memory q (by decide +kernel) (by decide +kernel) _ _ _ _ _).trans hp, hl⟩

theorem test_locks_are_taken_and_given_back :
    let t := after (.vatomLock 1 2 false) lockable
    t.h.task.locks = [0x6000, 0x6080] ∧ t.mem.read 0x6080 8 = 2 ^ 63 ∧ (after (.vatomUnlock 1 2 false) t).h.task.locks = []
    ∧ (after (.vatomUnlock 1 2 false) t).mem.read 0x6080 8 = 0 := by decide +kernel

/-! ## The matrix array -/

/-- A strip of SINT8 operands for tile 0 with ZW 0 but for its formats, and one tensor descriptor. -/
def matrix : State := upd (withX (strip 3 0 (image false 0 0 0 false) 2 [(1, 0x0102), (2, 0x0304)]) [(1, 0)]) fun h =>
  { h with matrix := { h.matrix with zw := [(0, 0x0E07)], ufd := [(0, 0x0010010001000000), (1, 0x0000000100000000)] } }

theorem witness_MatrixEntries : let s := matrix
    let c := s.h.vc 0
    Unasked s.h ∧ c.rm < 6 ∧ 0 < s.h.task.start.tiles ∧ s.h.streams = [] ∧ s.h.gathers = [] ∧ s.h.lost = [] ∧ s.h.array.length < 4 ∧ c.vl ≠ 0 ∧ 2 % c.grp = 0 ∧ 1 % c.grp = 0
    ∧ (Sparse.get 0 s.h.matrix.zw 0).toNat % 32 ∈ [4, 5, 6, 7, 9, 14, 15] ∧ (Sparse.get 0 s.h.matrix.zw 0).toNat / 2 ^ 9 % 32 ∈ [4, 5, 6, 7, 9, 14, 15]
    ∧ ufdOk (Sparse.get 0 s.h.matrix.ufd 0) (Sparse.get 0 s.h.matrix.ufd 1) = true
    ∧ ufdEnd (Sparse.get 0 s.h.matrix.ufd 0) (storageWidth ((Sparse.get 0 s.h.matrix.zw 0).toNat % 32)
      ((Sparse.get 0 s.h.matrix.zw 0).toNat / 2 ^ 5 % 16 + 1)) ≤ s.h.spBytes * 8 :=
  ⟨unasked_of (by decide +kernel), by decide +kernel⟩

theorem witness_MatrixEntries_no_scale : (31 : BitVec 5) = 31 ∧ (1 : BitVec 3).toNat < matrix.h.task.start.tiles := by decide +kernel

/-- `s` with `n` entries of hart 0 in its array queue. -/
def queueing (s : State) (n : Nat) (accepted : Bool) : State := upd s fun h => { h with
  array := List.replicate n { pc := 0x1000, sord := 0, tile := 0, slices := 1, unfold := none, a := [], b := [], scaleA := none, scaleB := none
                              rm := 0, buffered := 0, accepted, zw := 0, mvl := 0, padding := [] } }

/-- `matrix` in a strip of no elements. -/
def noElements : State := upd matrix fun h => { h with strip := { h.strip with vl := 0 } }

/-- A strip of no elements, and a full queue. -/
theorem witness_MatrixEntries_empty_and_full :
    (Unasked noElements.h ∧ (noElements.h.vc 0).rm < 6 ∧ (noElements.h.vc 0).vl = 0 ∧ noElements.h.streams = [] ∧ noElements.h.gathers = []
      ∧ noElements.h.lost = [])
    ∧ (let s := queueing matrix 4 false
      Unasked s.h ∧ (s.h.vc 0).rm < 6 ∧ (s.h.vc 0).vl ≠ 0 ∧ 4 ≤ s.h.array.length ∧ s.h.streams = [] ∧ s.h.gathers = [] ∧ s.h.lost = []) :=
  ⟨⟨unasked_of (by decide +kernel), by decide +kernel⟩, unasked_of (by decide +kernel), by decide +kernel⟩

theorem test_empty_strips_and_full_queues :
    (after (.mopMop 0 1 2 31 31 false false) noElements).h.array = []
    ∧ (after (.mopMop 0 1 2 31 31 false false) (queueing matrix 4 false)).h.pc = 0x1000
    ∧ (after (.mopMop 0 1 2 31 31 false false) (queueing matrix 3 false)).h.array.length = 4 := by decide +kernel

theorem test_mop_waits_in_the_queue : (after (.mopMop 0 1 2 31 31 false false) matrix).h.array.length = 1
    ∧ (after (.mopMop 0 1 2 31 31 false false) matrix).h.matrix.tiles = matrix.h.matrix.tiles := by decide +kernel

/-- R170, by hand: QZ = 0, QA = QB = 0; 2^31 - 1 plus 1 wraps, or clamps where ACCT says so. -/
theorem test_integer_update : intUpdate 0 0x7FFFFFFF 1 = (0x80000000, true, false)
    ∧ intUpdate (1 <<< 18) 0x7FFFFFFF 1 = (0x7FFFFFFF, true, false) ∧ intUpdate (1 <<< 20) 0 3 = (1, false, true) := by decide +kernel

/-- A window of 2 × 2 at 0x4000 and a tile with one element. -/
def windowed : State := upd vmem fun h => { h with matrix := { h.matrix with mvl := 2, tiles := [(1, 7)] } }

theorem witness_MatrixControl : let s := windowed
    Unasked s.h ∧ s.h.shrunk = none ∧ s.h.array = [] ∧ 0 < s.h.task.start.tiles ∧ s.h.strip.vl ≠ 0 ∧ s.h.vstart.toNat < 2 * 2
    ∧ s.h.matrix.mvl.toNat = 2 ∧ zwOk (s.h.rx 4) = true ∧ zwOk 0x000000020000C261 = true ∧ s.h.sbused + 4 * 4 ≤ s.h.sbCap
    ∧ (∀ i, s.h.vstart.toNat ≤ i → i < 4 → Fetches s (memAccess s (0x4000 + 4 * i) 0 4 { reading false with align := 4 })
      ((fetch s (memAccess s (0x4000 + 4 * i) 0 4 { reading false with align := 4 })).getD 0))
    ∧ ∀ i, s.h.vstart.toNat ≤ i → i < 4 → (memAccess s (0x4000 + 4 * i) 0 4 { writing false with align := 4 }).spots
      = .ok (places (memAccess s (0x4000 + 4 * i) 0 4 { writing false with align := 4 })) :=
  ⟨unasked_of (by decide +kernel), by decide +kernel, by decide +kernel, by decide +kernel, by decide +kernel, by decide +kernel,
    by decide +kernel, by decide +kernel, by decide +kernel, by decide +kernel,
    fun i h g => fetchesAll_of (at_ := fun i => memAccess windowed (0x4000 + 4 * i) 0 4 { reading false with align := 4 }) (fun _ => true)
      (by decide +kernel) i h g rfl,
    fun i h g => spotsAll_of (at_ := fun i => memAccess windowed (0x4000 + 4 * i) 0 4 { writing false with align := 4 }) (fun _ => true)
      (by decide +kernel) i h g rfl⟩

/-- `windowed` with a second hart on core 0, whose entry holds the array or waits for it (R183). -/
def besideArray (accepted : Bool) : State := { windowed with harts := [(0, windowed.h), (1, (queueing windowed 1 accepted).h)] }

theorem witness_MatrixControl_free : (∀ core ∈ (besideArray false).h.span, arrayFree (besideArray false) core = true)
    ∧ ¬(∀ core ∈ (besideArray true).h.span, arrayFree (besideArray true) core = true) ∧ (∀ core ∈ windowed.h.span, arrayFree windowed core = true)
    ∧ Unasked (besideArray true).h ∧ (besideArray true).h.shrunk = none ∧ (besideArray true).h.array = [] :=
  ⟨by decide +kernel, by decide +kernel, by decide +kernel, unasked_of (by decide +kernel), by decide +kernel, by decide +kernel⟩

theorem test_tile_functions_wait_for_the_array : (after (.mctlMzero 0) (besideArray true)).h.pc = 0x1000
    ∧ (after (.mctlMzero 0) (besideArray false)).h.pc = 0x1004 ∧ (after (.mctlMst 1 0) (besideArray true)).h.sb = [] := by decide +kernel

/-- The least and the greatest MVL, and a drain of integers and of floats. -/
theorem witness_MatrixControl_mset : ∀ n ∈ [1, 64], 1 ≤ ((withX windowed [(1, BitVec.ofNat 64 n)]).h.rx 1).toNat
    ∧ ((withX windowed [(1, BitVec.ofNat 64 n)]).h.rx 1).toNat ≤ 64 := by decide +kernel

theorem witness_MatrixControl_drain : ∀ s ∈ [windowed, floats 5], let c := s.h.vc 0
    c.sew = 32 ∧ c.fam < 3 ∧ s.h.array = [] ∧ LaneReady s c (s.h.active c) [] 8 32 c.grp ∧ NoTrim s c (s.h.active c) fun _ => 0x1F := by
  intro s hs
  have check : ∀ s ∈ [windowed, floats 5], let c := s.h.vc 0
      c.sew = 32 ∧ c.fam < 3 ∧ s.h.array = [] ∧ (operands s c [] 8 32 c.grp && c.predOk false) = true
      ∧ ((List.range c.vl).all fun _ => decide (flagCause 0x1F s.h.ftrim = none)) = true := by decide +kernel
  obtain ⟨a, b, c, d, e⟩ := check s hs
  exact ⟨a, b, c, laneReady_of _ d, noTrim_of _ e⟩

theorem test_tile_is_loaded_and_drained :
    let t := after (.mctlMld 1 0) windowed
    Sparse.get 0 t.h.matrix.tiles 1 = 0xBBBBBBBB ∧ Sparse.get 0 t.h.matrix.tiles 64 = 0xCCCCCCCC
    ∧ (after (.mctlMdrain 8 0 0 1) t).h.vreg 0 8 = lanes 32 [0xAAAAAAAA, 0xBBBBBBBB]
    ∧ (after (.mctlMzero 0) t).h.matrix.tiles = [] := by decide +kernel

/-- R173, by hand: the sum has 80 bits from the leading bit of its largest term down, and what lies below is LOSS. -/
theorem test_float_accumulation : let one (e : Int) : FVal := .fin false 1 e
    floatUpdate 0 [one 0, one (-24), one (-24)] false false = (0x3F800001, false, false, false)
    ∧ floatUpdate 0 [one 40, one (-39)] false false = (0x53800000, false, false, false)
    ∧ floatUpdate 0 [one 40, one (-40)] false false = (0x53800000, false, true, false)
    ∧ floatUpdate 0 [one 127, one 127] false false = (0x7F800000, true, false, false)
    ∧ floatUpdate 2 [one 3, .fin true 1 3] false false = (0x80000000, false, false, false) := by decide +kernel

/-- Terms of every kind that FloatAccumulation tells apart. -/
theorem witness_FloatAccumulation : let one (e : Int) : FVal := .fin false 1 e
    (∃ b, FVal.nan b ∈ [one 0, .nan true]) ∧ (FVal.inf true ∈ [FVal.inf true, .inf false] ∧ FVal.inf false ∈ [FVal.inf true, .inf false])
    ∧ ((∀ b, FVal.nan b ∉ [one 0, FVal.inf true]) ∧ FVal.inf true ∈ [one 0, FVal.inf true])
    ∧ (∀ t ∈ [FVal.fin true 0 0, .fin false 0 3], t.isZero = true)
    ∧ ((1 : Nat).log2 + (40 : Int) = 40 ∧ (1 : Nat).log2 + (-40 : Int) ≤ 40) := by
  refine ⟨⟨true, by simp⟩, by simp, by simp, by decide, by decide⟩

/-- One slice of BF16 operands, 2 × 3 on the accumulator 1, at position (0, 0) of a tile of 2 × 2. -/
def dots : ArrayEntry :=
  { pc := 0, sord := 0, tile := 0, slices := 1, unfold := none, a := [0x4000], b := [0x4040], scaleA := none, scaleB := none, rm := 0
    buffered := 0, accepted := true, zw := 16 + 16 * 2 ^ 9 + 2 * 2 ^ 18, mvl := 2, padding := [] }

theorem witness_FloatAccumulation_positions : dots.zw.toNat / 2 ^ 18 % 4 = 2 ∧ dots.zw.toNat % 32 = 16 ∧ dots.zw.toNat / 2 ^ 9 % 32 = 16
    ∧ dots.padding = [] ∧ dots.tile < 8 ∧ dots.mvl ≤ 64 := by decide

theorem test_products_are_accumulated : positionUpdate dots 0x3F800000 0 0 0 = (0x40E00000, false, false, false)
    ∧ Sparse.get 0 (arrayEffect dots 1 [(0, 0x3F800000)]).tiles 0 = 0x40E00000
    ∧ Sparse.get 0 (arrayEffect dots 1 [(0, 0x3F800000)]).tiles 2 = 0 := by decide +kernel

/-! ## Engines, barriers, work-lists and tasks -/

def isOk {α : Type} (r : Res α) : Bool := match r with
  | .ok _ => true
  | _ => false

theorem ok_of {α : Type} {r : Res α} (h : isOk r = true) : ∃ p, r = .ok p := by
  unfold isOk at h
  split at h
  · exact ⟨_, rfl⟩
  · cases h

def describes (s : State) (va : Word) (n v : Nat) : Bool := match checkSpots s va.toNat n { reading false with align := 8 } with
  | .ok l => decide (readSpots s s.h.sb s.h.answers l true = .ok v) && l.all fun p => decide (p.ord ≠ .strong)
  | _ => false

theorem describes_of {s : State} {va : Word} {n v : Nat} (h : describes s va n v = true) : Describes s va n v := by
  unfold describes at h
  split at h
  · rename_i l hl
    rw [Bool.and_eq_true] at h
    exact ⟨l, hl, of_decide_eq_true h.1, fun ⟨p, hp, ho⟩ => absurd ho (of_decide_eq_true (List.all_eq_true.mp h.2 p hp))⟩
  · cases h

theorem counterOk_of {s : State} {jp : Nat} (h : (jp % 64 == 0 && (jp == 0 || isOk (scalarPage s s.cur jp 8 true true false))) = true) :
    CounterOk s jp := by
  simp only [Bool.and_eq_true, Bool.or_eq_true, beq_iff_eq] at h
  exact ⟨h.1, h.2.imp id ok_of⟩

/-- A row table of 5 rows of 16 bytes at 0x4000 and a command block at 0x4040 with join counter `jp`; a bin region at 0x4080 and its
command block at 0x40C0. -/
def rowTable : Nat := 0x8000 + 16 * 2 ^ 64 + 5 * 2 ^ 96
def rowBlock (jp : Nat) : Nat := 0x9000 + 64 * 2 ^ 64 + 16 * 2 ^ 96 + jp * 2 ^ 192
def region : Nat := 0x8000 + 10 * 2 ^ 64 + 64 * 2 ^ 96 + 0 * 2 ^ 112 + 2 * 2 ^ 120 + 0xA000 * 2 ^ 128 + 16 * 2 ^ 192
def addBlock : Nat := 0x9000 + 0xB000 * 2 ^ 64 + 8 * 2 ^ 128

def commanding (jp : Nat) : State := { withX small [(1, 0x4000), (2, 0x4040), (3, 4), (4, 0x4080), (5, 0x40C0), (6, 100), (7, 0)] with
  mem := ((((small.mem.write 0x4000 rowTable 16).write 0x4040 (rowBlock jp) 32).write 0x4080 region 48).write 0x40C0 addBlock 32) }

theorem witness_CommandIssue_rows : ∀ jp ∈ [0, 0x4100], let s := commanding jp
    Calm s ∧ s.h.task.entryBusy (s.h.task.seq + 1) = false ∧ Describes s (s.h.rx 1) 16 rowTable ∧ Describes s (s.h.rx 2) 32 (rowBlock jp)
    ∧ rowsOk rowTable (rowBlock jp) = true ∧ (s.h.rx 3).toNat ≤ 2 ^ 24 ∧ descField (rowBlock jp) 0x18 8 = jp ∧ CounterOk s jp := by
  intro jp hj
  have check : ∀ jp ∈ [0, 0x4100], let s := commanding jp
      calm s = true ∧ s.h.task.entryBusy (s.h.task.seq + 1) = false ∧ describes s (s.h.rx 1) 16 rowTable = true
      ∧ describes s (s.h.rx 2) 32 (rowBlock jp) = true ∧ rowsOk rowTable (rowBlock jp) = true ∧ (s.h.rx 3).toNat ≤ 2 ^ 24
      ∧ descField (rowBlock jp) 0x18 8 = jp ∧ (jp % 64 == 0 && (jp == 0 || isOk (scalarPage s s.cur jp 8 true true false))) = true := by
    decide +kernel
  obtain ⟨a, b, c, d, e, f, g, h⟩ := check jp hj
  exact ⟨calm_of a, b, describes_of c, describes_of d, e, f, g, counterOk_of h⟩

/-- A refused command: no row in the table, too many elements, or a join counter that is not aligned. -/
theorem witness_CommandIssue_refused : Describes (commanding 1) ((commanding 1).h.rx 2) 32 (rowBlock 1) ∧ rowsOk 0 (rowBlock 0) = false
    ∧ 2 ^ 24 < (2 ^ 24 + 1 : Word).toNat ∧ descField (rowBlock 1) 0x18 8 % 64 ≠ 0 ∧ (commanding 1).h.trap.tvec ≠ 0 :=
  ⟨describes_of (by decide +kernel), by decide +kernel, by decide +kernel, by decide +kernel, by decide +kernel⟩

theorem witness_CommandIssue_regions : let s := commanding 0
    Describes s (s.h.rx 4) 48 region ∧ regionOk region = true ∧ Describes s (s.h.rx 5) 32 addBlock
    ∧ addBlockOk addBlock ((addSize (descField region 0x0E 1)).getD 1) = true ∧ (s.h.rx 3).toNat ≤ 2 ^ 24 ∧ CounterOk s (descField addBlock 0x18 8)
    ∧ (2 : Nat) < ceilDiv (descField region 8 4) (2 ^ descField region 0x0F 1) :=
  ⟨describes_of (by decide +kernel), by decide +kernel, describes_of (by decide +kernel), by decide +kernel, by decide +kernel,
    counterOk_of (by decide +kernel), by decide +kernel⟩

/-- A copy whose ranges only touch, and the three that are refused. -/
theorem witness_CommandIssue_copy : rangesOverlap 0x4000 0x4064 100 = false ∧ (100 : Nat) ≤ 2 ^ 40 ∧ CounterOk (commanding 0) 0
    ∧ rangesOverlap 0x4000 0x4063 100 = true ∧ 2 ^ 40 < 2 ^ 40 + 1 ∧ 1 % 64 ≠ 0 :=
  ⟨by decide +kernel, by decide, counterOk_of (by decide +kernel), by decide +kernel, by decide, by decide⟩

theorem test_gather_is_issued : (after (.engGsp 8 1 2 3 0 0) (commanding 0)).h.rx 8 = 1
    ∧ (after (.engGsp 8 1 2 3 0 0) (commanding 0)).commands.map (·.kind) = [.gsp 0x8000 16 5 0x9000 64 16 0]
    ∧ (after (.engGsp 8 1 2 3 0 0) (commanding 1)).h.trap.tcause = Cause.illegalType
    ∧ (after (.cpeCpy 8 1 2 3 0 0) (commanding 0)).h.trap.tcause = Cause.illegalType
    ∧ ((after (.cpeCpy 8 1 4 3 0 0) (commanding 0)).copies.map fun c => (c.dst, c.src, c.len)) = [(0x4000, 0x4080, 100)] := by decide +kernel

/-- Command 5 of the task is complete with 12 elements, command 6 is not. -/
def recorded : State := upd (withX small [(1, 5), (2, 6)]) fun h => { h with task := { h.task with
  seq := 6, ctab := [(5, { seq := 5, copy := false, n := 12, cause := 0, complete := true })] } }

def unsettled : State := upd recorded fun h => { h with task := { h.task with
  ctab := [(5, { seq := 5, copy := false, n := 12, cause := 0, complete := true }), (6, { seq := 6, copy := true, n := 3, cause := 0, complete := false })] } }

theorem witness_CommandResults : Calm recorded ∧ recorded.h.task.settledCommand (recorded.h.rx 1).toNat = true
    ∧ (∀ k ∈ recorded.h.task.ctab, k.2.complete = true) ∧ Calm unsettled ∧ unsettled.h.task.settledCommand (unsettled.h.rx 2).toNat = false
    ∧ ¬∀ k ∈ unsettled.h.task.ctab, k.2.complete = true :=
  ⟨calm_of (by decide +kernel), by decide +kernel, by decide +kernel, calm_of (by decide +kernel), by decide +kernel, by decide +kernel⟩

theorem witness_CommandResults_return : ∀ w ∈ [Wait.cwait 3 5 true, .cdrain 3 true], let s := upd recorded fun h => { h with wait := w }
    s.power.state = .ready ∧ s.h.waits = true ∧ s.h.preempt = none ∧ s.h.dbg.haltReq = false ∧ s.h.wait = w
    ∧ s.h.task.settledCommand (5 : Word).toNat = true ∧ ∀ k ∈ s.h.task.ctab, k.2.complete = true := by decide +kernel

def finishedCommand : Command :=
  { id := 9, by_ := issuer recorded, pc := 0, seq := 6, kind := .gsp 0x8000 16 5 0x9000 64 16 0, count := 4, acquire := false, release := false
    scope := 0, joinp := 0, done := 4, cause := none, started := true, order := [], answers := [] }

def finishedCopy : Copy :=
  { id := 9, by_ := issuer recorded, pc := 0, seq := 6, dst := 0x8000, src := 0x9000, len := 8, acquire := false, release := false
    scope := 0, joinp := 0, wptr := 8, cause := none, engine := none, answers := [] }

theorem witness_CommandResults_records : let s := { unsettled with commands := [finishedCommand], copies := [finishedCopy] }
    s.power.state = .ready ∧ s.commands.find? (fun y => y.id == 9) = some finishedCommand ∧ finishedCommand.finished = true
    ∧ s.copies.find? (fun y => y.id == 9) = some finishedCopy ∧ finishedCopy.finished = true
    ∧ hartOfTask s finishedCommand.by_.vi finishedCommand.by_.task = some 0
    ∧ Sparse.find (s.hart 0).task.ctab (finishedCommand.seq % 256) = some { seq := 6, copy := true, n := 3, cause := 0, complete := false } := by
  decide +kernel

theorem test_pointer_and_wait : (after (.cpeCptr 3 1) recorded).h.rx 3 = 12 ∧ (after (.cpeCptr 3 2) unsettled).h.rx 3 = 3
    ∧ (after (.cpeCwait 3 2 false 0) unsettled).h.wait = .cwait 3 6 false ∧ (after (.cpeCdrain 3 false 0) recorded).h.rx 3 = 6 := by
  decide +kernel

/-- A gather of rows 1 and 7 of a table of 5 rows: it serves element `done` next. -/
def gathering_ (done : Nat) : State :=
  let c := { finishedCommand with done, started := false, order := [] }
  { withMem small [(0x9000, 1 + 7 * 2 ^ 32), (0x8010, 0x77)] with commands := [c] }

/-- The first Stirrup instance serves the gather next. -/
theorem witness_EngineService_order : ∀ done ∈ [0, 1], let s := gathering_ done
    let c := s.commands.headD finishedCommand
    s.power.state = .ready ∧ serviceOrder s 0 (s.commands.filter fun y => !y.finished && y.servedAt s 0) = [c] := by decide +kernel

theorem witness_EngineService_gather : let s := gathering_ 0
    let c := s.commands.headD finishedCommand
    c.kind = .gsp 0x8000 16 5 0x9000 64 16 0 ∧ c.load s (0x9000 + 4 * c.done) 4 = .ok 1 ∧ (1 : Nat) < 5
    ∧ (∀ p ∈ (List.range 16).map fun k => swizzle 0 (64 + c.done * 16 + k), p < c.by_.spBytes) ∧ isOk (c.load s (0x8000 + 1 * 16) 16) = true := by
  decide +kernel

theorem witness_EngineService_bound : let s := gathering_ 1
    let c := s.commands.headD finishedCommand
    c.kind = .gsp 0x8000 16 5 0x9000 64 16 0 ∧ c.load s (0x9000 + 4 * c.done) 4 = .ok 7 ∧ 5 ≤ (7 : Nat) := by decide +kernel

/-- The `n` bytes of `r` are one run of home memory from `a` on. -/
def oneHome (r : Res (List Spot)) (a n : Nat) : Bool := match r with
  | .ok [p] => decide (p.loc = .home a) && p.bytes == n
  | _ => false

theorem oneHome_of {r : Res (List Spot)} {a n : Nat} (h : oneHome r a n = true) : OneHome r a n := by
  unfold oneHome at h
  split at h
  · rename_i p
    simp only [Bool.and_eq_true, decide_eq_true_eq, beq_iff_eq] at h
    exact ⟨p, rfl, h.1, h.2⟩
  · cases h

/-- One command of kind `k`, begun or not, over indexes 1 and 7 at 0x9000, values at 0xB000 and a bin at 0xA000 with the header `head`. -/
def engineAt (k : EngKind) (done : Nat) (started : Bool) (head : Nat) : State :=
  let c := { finishedCommand with kind := k, done, started, order := if started then [0] else [] }
  { withMem small [(0x9000, 1 + 7 * 2 ^ 32), (0xB000, 0x55), (0xA000, head), (0xA040, 2), (0xA080, 3), (0x8080, 4)] with commands := [c] }

def scattering : EngKind := .ssp 0x8000 16 5 0x9000 64 16 0
def appending : EngKind := .sadd 0x8000 5 16 0 2 0xA000 16 0x9000 0xB000 64 false
def applying : EngKind := .bapply 0x8000 5 16 0 2 0xA000 16 0

theorem witness_EngineService_others : ∀ k ∈ [scattering, appending, applying], ∀ started : Bool, let s := engineAt k 0 started 0
    s.power.state = .ready ∧ (s.harts.all fun c => decide (c.2.wait = .run)) = true
    ∧ serviceOrder s 0 (s.commands.filter fun y => !y.finished && y.servedAt s 0) = [s.commands.headD finishedCommand] := by decide +kernel

/-- A row that is stored, and one beyond the table. -/
theorem witness_EngineService_scatter : let s := engineAt scattering 0 false 0
    let c := s.commands.headD finishedCommand
    c.kind = scattering ∧ c.load s (0x9000 + 4 * 0) 4 = .ok 1 ∧ c.load s (0x9000 + 4 * 1) 4 = .ok 7
    ∧ (∀ p ∈ (List.range 16).map fun k => swizzle 0 (64 + 0 * 16 + k), p < c.by_.spBytes ∧ scratchLost s c.by_.core p 1 = false)
    ∧ OneHome (c.spots s (0x8000 + 1 * 16) 16 false true) 0x8010 16 :=
  ⟨by decide +kernel, by decide +kernel, by decide +kernel, by decide +kernel, oneHome_of (by decide +kernel)⟩

/-- Headers of sadd: room for a record, a full bin, a locked one and a malformed one. -/
theorem witness_EngineService_append : let s := engineAt appending 0 false 3
    let c := s.commands.headD finishedCommand
    c.kind = appending ∧ c.load s (0x9000 + 4 * 0) 4 = .ok 1 ∧ c.load s (0x9000 + 4 * 1) 4 = .ok 7 ∧ isOk (c.load s (0xB000 + 0 * 64) 64) = true
    ∧ OneHome (c.spots s 0xA000 64 true true) 0xA000 64 ∧ (s.mem.read 0xA000 64) % 2 ^ 32 < 16 ∧ s.mem.read 0xA000 64 / 2 ^ 64 = 0
    ∧ OneHome (c.spots s (0xA000 + 64 + 3 * 128) 128 false true) 0xA1C0 128
    ∧ ((engineAt appending 0 false 16).mem.read 0xA000 64) % 2 ^ 32 = 16 ∧ 16 < ((engineAt appending 0 false 17).mem.read 0xA000 64) % 2 ^ 32
    ∧ (engineAt appending 0 false (2 ^ 32)).mem.read 0xA000 64 / 2 ^ 32 % 2 ^ 32 ≠ 0 :=
  ⟨by decide +kernel, by decide +kernel, by decide +kernel, by decide +kernel, oneHome_of (by decide +kernel), by decide +kernel,
    by decide +kernel, oneHome_of (by decide +kernel), by decide +kernel, by decide +kernel, by decide +kernel⟩

/-- Values from the scratchpad: the last that fit and the first that do not. -/
theorem witness_EngineService_append_scratch : let c := finishedCommand
    64 ≤ c.by_.spBytes ∧ (c.by_.spBytes - 64) + 64 ≤ c.by_.spBytes ∧ c.by_.spBytes < (c.by_.spBytes - 63) + 64
    ∧ scratchLost (engineAt appending 0 false 0) c.by_.core (c.by_.spBytes - 64) 64 = false := by decide +kernel

/-- The start of bapply over two records, and over none. -/
theorem witness_EngineService_apply_start : ∀ count ∈ [0, 2], let s := engineAt applying 0 false count
    let c := s.commands.headD finishedCommand
    c.started = false ∧ OneHome (c.spots s 0xA000 64 true true) 0xA000 64 ∧ s.mem.read 0xA000 64 % 2 ^ 32 = count
    ∧ s.mem.read 0xA000 64 / 2 ^ 32 = 0 ∧ ∀ k < 2, OneHome (c.spots s (0xA000 + 64 + k * 128) 64 true true) (0xA040 + 128 * k) 64 := by
  intro count hc
  have check : ∀ count ∈ [0, 2], let s := engineAt applying 0 false count
      let c := s.commands.headD finishedCommand
      c.started = false ∧ oneHome (c.spots s 0xA000 64 true true) 0xA000 64 = true ∧ s.mem.read 0xA000 64 % 2 ^ 32 = count
      ∧ s.mem.read 0xA000 64 / 2 ^ 32 = 0 ∧ ∀ k < 2, oneHome (c.spots s (0xA000 + 64 + k * 128) 64 true true) (0xA040 + 128 * k) 64 = true := by
    decide +kernel
  obtain ⟨a, b, c, d, e⟩ := check count hc
  exact ⟨a, oneHome_of b, c, d, fun k hk => oneHome_of (e k hk)⟩

theorem enginePlaces_any_memory {s : State} {vi : Nat} (q : Memory) (h1 : (s.vi vi).s1en = false) (h2 : (s.vi vi).s2en = false)
    (unit : Nat → Nat) (as : List Answer) (o : Bool) (va n : Nat) (r w : Bool) :
    enginePlaces { s with mem := q } unit vi as o va n r w = enginePlaces s unit vi as o va n r w := by
  have hp (l : List (Nat × Nat)) : engineParts { s with mem := q } unit vi as r w l = engineParts s unit vi as r w l := by
    induction l with
    | nil => rfl
    | cons x l ih => simp only [engineParts, ih, translate_any_memory q h1 h2]
  simp only [enginePlaces, hp]

/-- The one record of a bin is applied: row 2, whose values lie at 0x8080. -/
theorem witness_EngineService_apply : let s := engineAt applying 0 true (2 ^ 32 + 1)
    let c := s.commands.headD finishedCommand
    c.started = true ∧ c.order.length ≤ c.done + 1 ∧ OneHome (c.spots s (0xA000 + 64 + c.order.getD 0 0 * 128) 128 true true) 0xA040 128
    ∧ s.mem.read 0xA040 4 = 2 ∧ OneHome (c.spots s (0x8000 + 2 * 64) 64 true true) 0x8080 64
    ∧ ∀ m, Differs s (inside 0x8080 64) m →
      OneHome (enginePlaces { s with mem := m } (stirrupUnitFor s c.by_.vi) c.by_.vi c.answers c.ordered 0xA000 8 true true) 0xA000 8 := by
  refine ⟨by decide +kernel, by decide +kernel, oneHome_of (by decide +kernel), by decide +kernel, oneHome_of (by decide +kernel), fun m _ => ?_⟩
  rw [enginePlaces_any_memory m (by decide +kernel) (by decide +kernel)]
  exact oneHome_of (by decide +kernel)

theorem test_other_engine_elements :
    (let s := engineAt scattering 0 false 0
      let s := s.setCore 0 { s.core 0 with scratch := writeScratch (s.core 0).scratch 64 0x99 1 }
      (after (.stirrupElementService 0 1) s).mem.read 0x8010 8 = 0x99)
    ∧ (let t := after (.stirrupElementService 0 1) (engineAt appending 0 false 3)
      t.mem.read 0xA000 8 = 4 ∧ t.mem.read 0xA1C0 4 = 1 ∧ t.mem.read 0xA1D0 8 = 6 ∧ t.mem.read 0xA200 8 = 0x55)
    ∧ (after (.stirrupElementService 0 1) (engineAt applying 0 false 1)).mem.read 0xA000 8 = 2 ^ 32 + 1
    ∧ (let t := after (.stirrupElementService 0 1) (engineAt applying 0 true (2 ^ 32 + 1))
      t.mem.read 0x8080 4 = 7 ∧ t.mem.read 0xA000 8 = 0) := by decide +kernel

/-- A copy of 8 bytes that an engine may carry on, to the end of a 64-byte line; its first and its last source byte lie in two
doublewords. -/
def copying : State :=
  let c := { finishedCopy with dst := 0x8038, src := 0x9001, wptr := 0 }
  { withMem small [(0x9000, 0x1234), (0x9008, 0x56)] with copies := [c] }

theorem witness_EngineService_copy : let s := copying
    let c := s.copies.headD finishedCopy
    let e := (c.engines s).headD 0
    let n := c.len - c.wptr
    let a := (c.src + c.wptr) % 2 ^ 64
    let places (va n : Nat) (r : Bool) := enginePlaces s (fun _ => deviceUnit) c.by_.vi c.answers c.ordered va n r (!r)
    s.power.state = .ready ∧ s.copies = [c] ∧ c.unit = none ∧ c.line = none ∧ (c.dst + c.wptr) % 64 + n ≤ 64 ∧ a % 64 + n ≤ 64
    ∧ (match nextItem s e with
      | some (.copy x) => decide (x = c)
      | _ => false) = true
    ∧ (match places a n true, places (8 * (a / 8)) (8 * ((a + n - 1) / 8 - a / 8 + 1)) true, places (c.dst + c.wptr) n false with
      | .ok l, .ok l8, .ok d => !spotsPoisoned s l && isOk (readSpots s [] c.answers l8) && d.all fun p => !p.loc.isPeer
      | _, _, _ => false) = true := by decide +kernel

theorem witness_EngineService_stream : let s := streaming 2
    s.power.state = .ready ∧ (s.hart 0).live = true ∧ (refillEngine s 0 0).isSome = true
    ∧ (match (s.hart 0).streams[0]? with
      | some t => decide (t.first + t.filled.length < t.count)
          && decide (t.first + t.filled.length < t.pos + 4 * (s.hart 0).vlenb * 8 / 2 ^ t.ewc * (s.hart 0).span.length)
          && (match checkSpots ({ s with cur := 0 }.setHart 0 { s.hart 0 with answers := (s.hart 0).streamAnswers })
              (t.address (t.first + t.filled.length)) (2 ^ t.ewc / 8) (reading false) with
            | .ok l => isOk (readSpots s (s.hart 0).sb (s.hart 0).streamAnswers l)
            | _ => false)
      | none => false) = true := by decide +kernel

theorem test_row_is_scattered_into_the_scratchpad :
    (readScratch ((after (.stirrupElementService 0 1) (gathering_ 0)).core 0).scratch 64 1) = 0x77
    ∧ ((after (.stirrupElementService 0 1) (gathering_ 1)).commands.map (·.cause)) = [some Cause.bound]
    ∧ ((after (.stirrupElementService 5 1) (gathering_ 0)).commands.map (·.done)) = [0]
    ∧ (after (.copyBurst ((finishedCopy.engines copying).headD 0) 64) copying).mem.read 0x8038 8 = 0x5600000000000012 := by decide +kernel

theorem deviceHome_any_memory {s : State} {vi : Nat} {q : Memory} (h1 : (s.vi vi).s1en = false) (h2 : (s.vi vi).s2en = false)
    (hp : q.poison = s.mem.poison) (hc : q.cachePoison = s.mem.cachePoison) (va : Nat) (r w check : Bool) :
    deviceHome { s with mem := q } vi va r w check = deviceHome s vi va r w check := by
  have ht (va : Nat) : Machine.translate { s with mem := q } deviceUnit vi va r w none = Machine.translate s deviceUnit vi va r w none :=
    translate_any_memory q h1 h2 _ _ _ _ _
  have hpp (l : Loc) : placePoisoned { s with mem := q } l 1 = placePoisoned s l 1 := by
    cases l <;> simp [placePoisoned, Memory.poisoned, hp, hc]
  have hr (l : Loc) : State.refuses { s with mem := q } l = State.refuses s l := by cases l <;> rfl
  simp only [deviceHome, translateNow, ht, hpp, hr]
  rfl

/-- A unit of the device reaches the `n` bytes at `va`, wherever no table is read. -/
theorem reached_of {s : State} {vi va n a : Nat} {r : Bool} {may : Nat → Prop} (h1 : (s.vi vi).s1en = false) (h2 : (s.vi vi).s2en = false)
    (h : ((List.range n).all fun k => decide (deviceHome s vi (va + k) r (!r) r = .ok (.home (a + k)))) = true) : Reached s vi va n r may a :=
  fun _ hm k hk => (deviceHome_any_memory h1 h2 hm.2.1 hm.2.2 _ _ _ _).trans (of_decide_eq_true (below h k hk))

/-- A barrier object at 0x4000 of COUNT `count`, DIST `dist`, STATUS `status` and PHASE 5. -/
def barred (count dist status : Nat) : State := { withX small [(1, 0x4000), (2, 5), (3, 6), (4, 4), (6, 9), (7, 2)] with
  mem := small.mem.write 0x4000 (count + dist * 2 ^ 32 + status * 2 ^ 40 + 5 * 2 ^ 64) 64 }

theorem witness_Barriers : ∀ p ∈ [(1, 0, 0), (2, 0, 0), (65535, 3, 0), (1, 0, 0xA0)], let s := barred p.1 p.2.1 p.2.2
    Calm s ∧ NothingOut s ∧ s.h.task.pending = none ∧ s.h.task.broke = false ∧ (∀ o : Bool, objectHome s (s.h.rx 1).toNat 64 64 o = .ok (.home 0x4000))
    ∧ (∀ c ∈ s.harts, c.2.waitsOn (.home 0x4000) = false) ∧ (barrierOf (s.mem.read 0x4000 64)).malformed = false
    ∧ (barrierOf (s.mem.read 0x4000 64)).status = p.2.2 ∧ (barrierOf (s.mem.read 0x4000 64)).phase = 5 := by
  intro p hp
  have check : ∀ p ∈ [(1, 0, 0), (2, 0, 0), (65535, 3, 0), (1, 0, 0xA0)], let s := barred p.1 p.2.1 p.2.2
      calm s = true ∧ (s.posted = [] ∧ s.out = []) ∧ s.h.task.pending = none ∧ s.h.task.broke = false ∧ (∀ o : Bool, objectHome s (s.h.rx 1).toNat 64 64 o = .ok (.home 0x4000))
      ∧ (∀ c ∈ s.harts, c.2.waitsOn (.home 0x4000) = false) ∧ (barrierOf (s.mem.read 0x4000 64)).malformed = false
      ∧ (barrierOf (s.mem.read 0x4000 64)).status = p.2.2 ∧ (barrierOf (s.mem.read 0x4000 64)).phase = 5 := by decide +kernel
  obtain ⟨a, b, c⟩ := check p hp
  exact ⟨calm_of a, b, c⟩

/-- The cases of bar.wait on phase 5: late (4), far (9), the last phase that is not far (8), an arrival that ends the phase and one
that waits; and the words that bar.init takes. -/
theorem witness_Barriers_cases : (4 : Nat) < 5 ∧ 5 + 4 ≤ (9 : Nat) ∧ ((5 : Nat) ≤ 8 ∧ 8 < 5 + 4)
    ∧ 5 < ((barrierOf ((barred 1 0 0).mem.read 0x4000 64)).arrive 5).phase + 0
    ∧ ((barrierOf ((barred 2 0 0).mem.read 0x4000 64)).arrive 5).phase + 0 ≤ 5
    ∧ (∀ v ∈ [1, 65535, 65535 + 3 * 2 ^ 32], v / 2 ^ 34 = 0 ∧ 1 ≤ v % 2 ^ 32 ∧ v % 2 ^ 32 ≤ 65535) := by decide +kernel

theorem witness_Barriers_wake : ∀ broken : Bool, let s := upd (barred 1 0 0) fun h => { h with wait := .barrier 8 0x4000 (.home 0x4000) 4 true broken }
    s.power.state = .ready ∧ s.h.wait = .barrier 8 0x4000 (.home 0x4000) 4 true broken ∧ s.h.waits = true ∧ s.h.preempt = none
    ∧ s.h.dbg.haltReq = false ∧ (4 : Word).toNat < (barrierOf (s.mem.read 0x4000 64)).phase + (barrierOf (s.mem.read 0x4000 64)).dist := by
  decide +kernel

theorem test_barrier_of_one_passes_at_once : (after (.barWait 8 1 2 0 0) (barred 1 0 0)).h.rx 8 = 6
    ∧ (after (.barWait 8 1 4 0 0) (barred 1 0 0)).h.rx 8 = 5 ∧ (after (.barWait 8 1 6 0 0) (barred 1 0 0)).h.rx 8 = -1
    ∧ (after (.barWait 8 1 2 0 0) (barred 2 0 0)).h.wait = .barrier 8 0x4000 (.home 0x4000) 5 false false
    ∧ (after (.barInit 8 1 7 6 false 0) (barred 1 0 0)).h.rx 8 = 1
    ∧ (after (.barInit 8 1 7 6 false 0) (barred 1 0 0)).mem.read 0x4008 8 = 9 := by decide +kernel

/-- A work-list at 0x4040 of 64 ring slots at 0x5000 and `scap` spill slots at 0x6000, with `len` entries; values at 0x7000. -/
def listed (len scap : Nat) : State := { withX small [(1, 0x4040), (2, 0x7000), (3, 2)] with
  mem := ((((small.mem.write 0x4040 (0x5000 + 64 * 2 ^ 64 + scap * 2 ^ 96 + 0x6000 * 2 ^ 128 + 3 * 2 ^ 192 + (3 + len) * 2 ^ 256) 64).write 0x5018 11 8)
    ).write 0x7000 21 8).write 0x7008 22 8 }

theorem witness_WorkLists : ∀ p ∈ [(1, 0), (64, 0), (64, 2), (66, 2)], let s := listed p.1 p.2
    let x := workListOf (s.mem.read 0x4040 64)
    Calm s ∧ NothingOut s ∧ (∀ r : Bool, objectHome s (s.h.rx 1).toNat 64 64 r = .ok (.home 0x4040)) ∧ s.mem.poisoned 0x4040 64 = false
    ∧ x.malformed = false ∧ (s.h.rx 3).toNat ≤ 4096 ∧ missingValue (atCommit s) (s.h.rx 2).toNat (s.h.rx 3).toNat 0 = none
    ∧ x.tail - x.head = p.1 := by
  intro p hp
  have check : ∀ p ∈ [(1, 0), (64, 0), (64, 2), (66, 2)], let s := listed p.1 p.2
      let x := workListOf (s.mem.read 0x4040 64)
      calm s = true ∧ (s.posted = [] ∧ s.out = []) ∧ (∀ r : Bool, objectHome s (s.h.rx 1).toNat 64 64 r = .ok (.home 0x4040))
      ∧ s.mem.poisoned 0x4040 64 = false ∧ x.malformed = false ∧ (s.h.rx 3).toNat ≤ 4096
      ∧ missingValue (atCommit s) (s.h.rx 2).toNat (s.h.rx 3).toNat 0 = none ∧ x.tail - x.head = p.1 := by decide +kernel
  obtain ⟨a, b, c⟩ := check p hp
  exact ⟨calm_of a, b, c⟩

theorem witness_WorkLists_pop : let s := listed 1 0
    let x := workListOf (s.mem.read 0x4040 64)
    let k := min 2 (x.tail - x.head)
    let r := popSpots (atCommit s) 0x7000 2 0 []
    r.2 = none ∧ (match popTo x s.h.task.vi x.head (r.1.take k) (atCommit s) with
      | .ok v => isOk (refillRing x s.h.task.vi (min x.tail (x.head + k + x.rcap) - (x.head + max x.rcap k)) (x.head + max x.rcap k) v)
      | _ => false) = true := by decide +kernel

/-- Two entries are popped from a list of 66, and the two of the spill move into the ring. -/
theorem witness_WorkLists_pop_refills : let s := listed 66 2
    let u := atCommit s
    let x := workListOf (s.mem.read 0x4040 64)
    let first := x.head + max x.rcap 2
    Quiet s ∧ min 2 (x.tail - x.head) = 2 ∧ min x.tail (x.head + 2 + x.rcap) - first = 2
    ∧ (∀ i < 2, OneHome (checkSpots u ((0x7000 + 8 * i) % 2 ^ 64) 8 (writing false)) (0x7000 + 8 * i) 8)
    ∧ (∀ may : Nat → Prop, (∀ i < 2, Reached u 0 (x.entry (x.head + i)) 8 true may (0x5018 + 8 * i))
      ∧ ∀ j < 2, Reached u 0 (x.sbase + 8 * ((first + j) % x.scap)) 8 true may (0x6008 - 8 * j)
        ∧ Reached u 0 (x.base + 8 * ((first + j) % x.rcap)) 8 false may (0x5018 + 8 * j)) := by
  have one : ∀ i < 2, oneHome (checkSpots (atCommit (listed 66 2)) ((0x7000 + 8 * i) % 2 ^ 64) 8 (writing false)) (0x7000 + 8 * i) 8 = true := by
    decide +kernel
  refine ⟨quiet_of (by decide +kernel), by decide +kernel, by decide +kernel, fun i hi => oneHome_of (one i hi), fun may => ⟨fun i hi => ?_,
    fun j hj => ⟨?_, ?_⟩⟩⟩
  · match i, hi with
    | 0, _ => exact reached_of (by decide +kernel) (by decide +kernel) (by decide +kernel)
    | 1, _ => exact reached_of (by decide +kernel) (by decide +kernel) (by decide +kernel)
  all_goals
    match j, hj with
    | 0, _ => exact reached_of (by decide +kernel) (by decide +kernel) (by decide +kernel)
    | 1, _ => exact reached_of (by decide +kernel) (by decide +kernel) (by decide +kernel)

theorem test_pop_refills_the_ring :
    let s := withMem (listed 66 2) [(0x5018, 11), (0x5020, 12), (0x6008, 77), (0x6000, 78)]
    let t := after (.wlPopb 8 1 2 3 false 0) s
    t.mem.read 0x7000 8 = 11 ∧ t.mem.read 0x7008 8 = 12 ∧ t.mem.read 0x5018 8 = 77 ∧ t.mem.read 0x5020 8 = 78 ∧ t.mem.read 0x4058 8 = 5 := by
  decide +kernel

/-- A list with a bitmap of 64 values at 0x8000, and one value `v` at 0x7000 to append. -/
def bitmapped (len v : Nat) : State :=
  let s := listed len 2
  withMem (withX s [(1, 0x4040), (2, 0x7000), (3, 1)]) [(0x4068, 0x8000), (0x4070, 64), (0x7000, v), (0x8000, 2)]

theorem witness_WorkLists_one_value : ∀ p ∈ [(1, 9), (66, 9), (1, 64)], let s := bitmapped p.1 p.2
    let x := workListOf (s.mem.read 0x4040 64)
    Calm s ∧ Quiet s ∧ (s.h.rx 3).toNat = 1 ∧ arrayValue (atCommit s) (s.h.rx 2).toNat 0 = .ok p.2 ∧ x.malformed = false
    ∧ decide (x.rcap + x.scap ≤ x.tail - x.head) = (p.1 == 66) ∧ decide (x.dbase = 0 ∨ x.drange ≤ p.2) = (p.2 == 64) := by
  intro p hp
  have check : ∀ p ∈ [(1, 9), (66, 9), (1, 64)], let s := bitmapped p.1 p.2
      let x := workListOf (s.mem.read 0x4040 64)
      calm s = true ∧ (s.harts.all fun c => decide (c.2.wait = .run)) = true ∧ (s.h.rx 3).toNat = 1
      ∧ arrayValue (atCommit s) (s.h.rx 2).toNat 0 = .ok p.2 ∧ x.malformed = false
      ∧ decide (x.rcap + x.scap ≤ x.tail - x.head) = (p.1 == 66) ∧ decide (x.dbase = 0 ∨ x.drange ≤ p.2) = (p.2 == 64) := by decide +kernel
  obtain ⟨a, b, c⟩ := check p hp
  exact ⟨calm_of a, quiet_of b, c⟩

theorem witness_WorkLists_one_value_places : let s := bitmapped 1 9
    let u := atCommit s
    let x := workListOf (s.mem.read 0x4040 64)
    ∀ may : Nat → Prop, Reached u 0 (x.entry x.tail) 8 false may 0x5020 ∧ (∀ r : Bool, Reached u 0 (x.dbase + 9 / 8) 1 r may 0x8001)
      ∧ (s.mem.byte 0x8001).toNat.testBit (9 % 8) = false ∧ (s.mem.byte 0x8000).toNat.testBit (1 % 8) = true := by
  refine fun may => ⟨reached_of (by decide +kernel) (by decide +kernel) (by decide +kernel), fun r => ?_, by decide +kernel, by decide +kernel⟩
  cases r <;> exact reached_of (by decide +kernel) (by decide +kernel) (by decide +kernel)

theorem test_a_value_enters_once :
    (after (.wlDins 8 1 2 3 false 0) (bitmapped 1 9)).h.rx 8 = 1 ∧ (after (.wlDins 8 1 2 3 false 0) (bitmapped 1 9)).mem.byte 0x8001 = 2
    ∧ (after (.wlDins 8 1 2 3 false 0) (bitmapped 1 9)).mem.read 0x5020 8 = 9 ∧ (after (.wlDins 8 1 2 3 false 0) (bitmapped 1 1)).h.rx 8 = 0
    ∧ (after (.wlDins 8 1 2 3 false 0) (bitmapped 1 64)).h.rx 8 = 0 - BitVec.ofNat 64 (Cause.bound.toNat * 2 ^ 48)
    ∧ (after (.wlPush 8 1 2 3 false 0) (bitmapped 66 9)).h.rx 8 = 0 - BitVec.ofNat 64 (Cause.wlSpillFull.toNat * 2 ^ 48) := by decide +kernel

/-- Appends to a list with one entry free, and to a full one. -/
theorem witness_WorkLists_append :
    let x (len scap : Nat) := workListOf ((listed len scap).mem.read 0x4040 64)
    ((x 65 2).tail - (x 65 2).head < (x 65 2).rcap + (x 65 2).scap)
    ∧ isOk (deviceStore (listed 65 2) (listed 65 2).h.owner 0 ((x 65 2).entry (x 65 2).tail) 77 8) = true
    ∧ (x 66 2).rcap + (x 66 2).scap ≤ (x 66 2).tail - (x 66 2).head := by decide +kernel

theorem test_work_list_pushes_and_pops : (after (.wlCnt 8 1 false 0) (listed 1 0)).h.rx 8 = 1
    ∧ (after (.wlPush 8 1 2 3 false 0) (listed 1 0)).h.rx 8 = 2 ∧ (after (.wlPush 8 1 2 3 false 0) (listed 1 0)).mem.read 0x5028 8 = 22
    ∧ (after (.wlPopb 8 1 2 3 false 0) (listed 1 0)).h.rx 8 = 1 ∧ (after (.wlPopb 8 1 2 3 false 0) (listed 1 0)).mem.read 0x7000 8 = 11
    ∧ (after (.wlPopb 8 1 2 3 false 0) (listed 1 0)).mem.read 0x4058 8 = 4 := by decide +kernel

/-- A task of a queue with one of its two slots taken (or both), and a join counter at 0x4400 of value `n` with no continuation. -/
def tasking (n taken : Nat) : State :=
  let s := withX small [(1, 0x4400), (2, 0x77), (3, 0x1000), (4, 0x4400), (5, 0x100)]
  let s := upd s fun h => { h with task := { h.task with area := some 0x60000, root := some 9, seq := 6 } }
  { s with
    vis := [(0, { table := [(16, 5)], descs := [(0, 0x4100), (1, 0x4200)], areas := [3, 0x60000] })]
    mem := { cells := [(0x4101, 0x80), (0x4108, 2), (0x410C, 5), (0x4110, 4), (0x4118, BitVec.ofNat 8 (4 + taken)), (0x4120, 1), (0x4201, 0x90),
                       (0x4208, 2), (0x4400, BitVec.ofNat 8 n)] } }

theorem witness_TaskFunctions : let s := tasking 1 1
    Calm s ∧ NothingOut s ∧ Quiet s ∧ objectHome (atCommit s) (s.h.rx 1).toNat 192 64 false = .ok (.home 0x4400) ∧ s.h.task.locks = []
    ∧ (∀ x ∈ s.h.task.ctab, x.2.complete = true)
    ∧ ((slotSpots (atCommit s) (s.h.rx 1).toNat).head?.map fun p => (atCommit s).peek p.loc 8).getD 0 = 0
    ∧ NothingOut (dropLocks (atCommit s) s.cur) := by
  refine ⟨calm_of (by decide +kernel), ?_, quiet_of (by decide +kernel), by decide +kernel, by decide +kernel, by decide +kernel,
    by decide +kernel, ?_⟩
  · exact (by decide +kernel : (tasking 1 1).posted = [] ∧ (tasking 1 1).out = [])
  · exact (by decide +kernel : (dropLocks (atCommit (tasking 1 1)) 0).posted = [] ∧ (dropLocks (atCommit (tasking 1 1)) 0).out = [])

/-- The least and the greatest N of task.dep: N is 1 where B is x0. -/
theorem witness_TaskFunctions_dep : ∀ n ∈ [1, 2 ^ 32], let s := withX small [(2, BitVec.ofNat 64 n)]
    1 ≤ (if (2 : BitVec 5) = 0 then 1 else (s.h.rx 2).toNat) ∧ (if (2 : BitVec 5) = 0 then 1 else (s.h.rx 2).toNat) ≤ 2 ^ 32 := by
  decide +kernel

/-- A spawn into queue 0 at level 1 with its counter, while a slot is free and while none is. -/
theorem witness_TaskFunctions_spawn : ∀ taken ∈ [1, 2], let s := tasking 1 taken
    let u := atCommit s
    let ql := (s.h.rx 5).toNat
    calm s = true ∧ ql < 2 ^ 11 ∧ s.h.task.level < ql / 256 % 8 ∧ (hwQueue s 0 (ql % 256)).isSome = true ∧ (s.h.rx 3).toNat % 4 = 0
    ∧ s.h.task.spawnk + 1 < 2 ^ 32 ∧ objectHome u (s.h.rx 4).toNat 192 64 false = .ok (.home 0x4400)
    ∧ (match queueDesc u 0 0 with
      | some d =>
        let slot := newSlot 0x1000 0x77 0x4400 0 1 0 (childPath s.h.task.lpath 1 1) s.h.task.start
        let x := pushSlot (u.writeHome none 0x4400 2 8) 0 0 slot 0 s.h.task.root
        (taken == 1 && decide (d.tail - d.head ≠ d.rcap) && x.isSome
          && isOk (objectHome u ((d.rbase + 128 * (d.tail % d.rcap)) % 2 ^ 64) 128 128 false))
        || (taken == 2 && decide (d.tail - d.head = d.rcap) && x.isNone)
      | none => false) = true := by decide +kernel

theorem test_dep_adds_one : (after (.taskDep 8 1 0) (tasking 1 1)).h.rx 8 = 2 ∧ (after (.taskDep 8 1 0) (tasking 1 1)).mem.read 0x4400 8 = 2 := by
  decide +kernel

theorem test_spawn_numbers_its_child : (after (.taskSpawn 8 3 2 2 false 0) (tasking 1 1)).h.rx 8 = 1 := by decide +kernel

theorem test_spawn_moves_tail : (after (.taskSpawn 8 3 2 2 false 0) (tasking 1 1)).mem.read 0x4118 8 = 6 := by decide +kernel

theorem test_full_queue : (after (.taskSpawn 8 3 2 2 false 0) (tasking 1 2)).h.rx 8 = 0 - BitVec.ofNat 64 (Cause.queueFull.toNat * 2 ^ 48) := by
  decide +kernel

theorem test_exit_frees_the_slot : ((after .taskExit (tasking 1 1)).hart 0).live = false := by decide +kernel

/-! ## Events -/

theorem witness_TraceFunctions : small.h.dbg.trace = false ∧ small.power.state = .ready ∧ (0x17F < 0x180 ∨ 0x1AF < 0x17F)
    ∧ (0x1B0 < 0x180 ∨ 0x1AF < 0x1B0) ∧ coreOfId small 0 4000 = none ∧ (coreOfId small 0 0).isSome = true ∧ small.latches = [] := by
  decide +kernel

/-- The first and the last number of each range of trc.ctrr. -/
theorem witness_TraceFunctions_ranges : (∀ n ∈ [0x180, 0x18F], 0x180 ≤ n ∧ n < 0x190) ∧ (∀ n ∈ [0x190, 0x19F], 0x190 ≤ n ∧ n < 0x1A0)
    ∧ (∀ n ∈ [0x1A0, 0x1A7, 0x1A8, 0x1AF], 0x1A0 ≤ n ∧ n < 0x1B0 ∧ small.h.task.vi = 0) := by decide +kernel

/-- A pending latch that covers core 0: trc.ctrr waits for it. -/
theorem witness_TraceFunctions_pending : let s := { small with latches := [{ time := 5120, vi := none }] }
    ∃ l ∈ s.latches, l.coversCore s 0 = true := ⟨_, List.mem_singleton.mpr rfl, by decide +kernel⟩

theorem witness_TraceFunctions_take : let s := { small with latches := [{ time := 1024, vi := none }], time := 1024 }
    s.power.state = .ready ∧ s.latches[0]? = some { time := 1024, vi := none } ∧ 1024 ≤ s.time.toNat := by decide +kernel

theorem witness_TraceFunctions_sample : ∀ p ∈ [(true, 2048), (false, 0)],
    let s := upd small fun h => { h with dbg := { h.dbg with trace := true, sample := true, sper := 1024 }, counters := { h.counters with
      slotcyc := BitVec.ofNat 64 p.2 } }
    s.power.state = .ready ∧ sampleDue (s.hart 0) = p.1 ∧ (s.hart 0).dbg.trcap = 0 := by decide +kernel

/-- `small` with a sample due and a ring of two records at `base`, of which `taken` are not yet read. -/
def sampling (base taken : Nat) : State := { upd small fun h => { h with
  dbg := { h.dbg with
    trace := true, sample := true, sper := 1024, trbase := BitVec.ofNat 64 base, trcap := 2, trtail := BitVec.ofNat 64 taken }
  counters := { h.counters with slotcyc := 2048 } } with time := 0x1234 }

/-- A ring with room, a full one, and one at an address that is not canonical. -/
theorem witness_TraceFunctions_rings : (∀ taken ∈ [0, 1, 2], let s := sampling 0x7000 taken
      sampleDue (s.hart 0) = true ∧ (s.hart 0).dbg.trcap ≠ 0
        ∧ ((s.hart 0).dbg.trtail - (s.hart 0).dbg.trhead = (s.hart 0).dbg.trcap ↔ taken = 2))
    ∧ isOk (deviceStore (sampling 0x7000 1) (.device 0) 0 0x7030 5 48) = true
    ∧ isOk (deviceStore (sampling (2 ^ 60) 0) (.device 0) 0 (2 ^ 60) 5 48) = false := by
  decide +kernel

theorem test_sample_record : let t := after (.traceSample 0 3) (sampling 0x7000 1)
    t.mem.read 0x7030 8 = 0x1234 ∧ t.mem.read 0x704E 1 = 7 ∧ t.mem.read 0x7058 8 = 0x1000 ∧ (t.hart 0).dbg.trtail = 2
    ∧ ((after (.traceSample 0 3) (sampling 0x7000 2)).hart 0).dbg.trlost = 1 := by decide +kernel

theorem test_latch_time_is_aligned_and_at_least_2048_away : (after (.trcLatch 8) { small with time := 1 }).h.rx 8 = 3072
    ∧ (after (.trcLatch 8) { small with time := 1024 }).h.rx 8 = 3072
    ∧ (after (.trcLatch 8) { small with latches := [{ time := 5120, vi := none }] }).h.rx 8 = 5120 := by decide +kernel

theorem witness_WaitEvents_idle : ∀ p ∈ [(true, 65536), (false, 65535)],
    let s := { upd small fun h => { h with wait := .idle none p.1 0 } with cycle := BitVec.ofNat 64 p.2 }
    s.power.state = .ready ∧ (s.hart 0).wait = .idle none p.1 0 ∧ (s.hart 0).waits = true
    ∧ (if p.1 then 65536 ≤ (s.cycle - 0).toNat else (s.cycle - 0).toNat < 65536) := by decide +kernel

theorem witness_WaitEvents_lock : ∀ v ∈ [0, 1], let s := withMem (upd small fun h => { h with wait := .lock [(0x6000, .home 0x6000)] none 0 2 }) [(0x6000, v)]
    s.h.wait = .lock [(0x6000, .home 0x6000)] none 0 2 ∧ s.h.waits = true ∧ s.mem.read 0x6000 8 = v ∧ s.h.preempt = none ∧ s.h.dbg.haltReq = false := by
  decide +kernel

/-- A scheduling request meets a hart that waits for a lock word, which another holds. -/
theorem witness_WaitEvents_lock_asked : let s := withMem (upd small fun h => { h with
      wait := .lock [(0x6000, .home 0x6000)] none 0 2, preempt := some { element := none, swc := 0xE1, since := 0 } }) [(0x6000, 1)]
    s.power.state = .ready ∧ s.h.wait = .lock [(0x6000, .home 0x6000)] none 0 2 ∧ s.h.waits = true ∧ s.mem.read 0x6000 8 ≠ 0
    ∧ s.h.preempt = some { element := none, swc := 0xE1, since := 0 } := by decide +kernel

/-- A gather of 96 elements of 32 bits: its first group of 64 arrives, then the rest. -/
theorem witness_WaitEvents_gather : let s := upd small fun h => { h with
      gathers := [{ pc := 0x1000, sord := 0, probe := false, slots := [8], to_ := 96, width := 32 }] }
    (s.hart 0).gathers ≠ [] ∧ (small.hart 0).gathers = []
    ∧ ((after (.idxLineArrival 0) s).hart 0).gathers.map (fun g => (g.from_, g.to_)) = [(64, 96)]
    ∧ ((after (.idxLineArrival 0) (after (.idxLineArrival 0) s)).hart 0).gathers = [] := by decide +kernel

theorem witness_WaitEvents_lock_quiet : Quiet (upd small fun h => { h with wait := .lock [(0x6000, .home 0x6000)] none 0 2 }) := by
  intro c hc line
  have hs : (upd small fun h => { h with wait := .lock [(0x6000, .home 0x6000)] none 0 2 }).harts
      = [(0, { small.h with wait := .lock [(0x6000, .home 0x6000)] none 0 2 })] := by decide +kernel
  rw [hs, List.mem_singleton] at hc
  subst hc
  rfl

/-- A continuation held for queue 0, which has a free slot or none. -/
theorem witness_WaitEvents_held : ∀ taken ∈ [1, 2], let s := { tasking 1 taken with held := [{ vi := 0, slot := [(0, 0x1000)], status := 3, root := none }] }
    s.held[0]? = some { vi := 0, slot := [(0, 0x1000)], status := 3, root := none }
    ∧ (pushSlot s 0 (slotField [(0, 0x1000)] 0x18 2) [(0, 0x1000)] 3 none).isSome = (taken == 1) := by decide +kernel

/-- An object whose page 0, of SHA-384 `v`, is being filled. -/
def holding (v : Nat) : Object :=
  { id := 1, vi := 0, state := .loaded, codebase := 0, npage := 1, hashes := [v], filled := [], filling := [0], words := [], sections := []
    scratches := [], kernels := [], errata := 0 }

theorem holding_found (v : Nat) : [holding v].find? (fun x => x.id == (holding v).id) = some (holding v) := rfl

theorem holding_names (v : Nat) : v = (holding v).hashes.getD 0 0 := rfl

/-- A page of zeros, and an object that names its SHA-384 for page 0. -/
theorem witness_WaitEvents_fill : ∃ (o : Object) (bytes : List (BitVec 8)), ({ small with objects := [o] } : State).objects = [o]
    ∧ [o].find? (fun x => x.id == o.id) = some o ∧ 0 ∈ o.filling ∧ bytes.length = 65536 ∧ digest bytes = o.hashes.getD 0 0 :=
  ⟨holding (digest (List.replicate 65536 0)), List.replicate 65536 0, rfl, holding_found _, List.mem_singleton.mpr rfl,
    List.length_replicate, holding_names _⟩

/-- `small` parked on a page of the host window since the start. -/
def parked : State := { upd small fun h => { h with wait := .parked 0x5000 true 0 0x5008 } with uptime := 10 ^ 8 }

theorem witness_WaitEvents_parked : parked.power.state = .ready ∧ parked.h.wait = .parked 0x5000 true 0 0x5008 ∧ parked.h.live = true
    ∧ (∀ c ∈ parked.harts, ∀ v w x, c.2.wait ≠ .parked v false w x) ∧ CanTrap parked ∧ 10 ^ 8 ≤ (BitVec.ofNat 64 parked.uptime - 0).toNat := by
  refine ⟨by decide +kernel, by decide +kernel, by decide +kernel, ?_, canTrap_of (by decide +kernel), by decide +kernel⟩
  intro c hc v w x
  have hs : parked.harts = [(0, { small.h with wait := .parked 0x5000 true 0 0x5008 })] := by decide +kernel
  rw [hs, List.mem_singleton] at hc
  subst hc
  exact fun h => by cases h

theorem test_idle_ends_after_65536_cycles :
    (after (.idleTimeout 0) { upd small fun h => { h with wait := .idle none false 0 } with cycle := 65536 }).h.wait = .run
    ∧ (after (.idleTimeout 0) { upd small fun h => { h with wait := .idle none false 0 } with cycle := 65535 }).h.wait = .idle none false 0
    ∧ (after (.pageRequestTimeout 0) parked).h.trap.tcause = Cause.pageRequestFailed
    ∧ (after (.pageRequestTimeout 0) parked).h.trap.tval = 0x5008 := by decide +kernel

/-- `matrix` with one entry in its queue, taken up or not. -/
noncomputable def queued (accepted : Bool) : State :=
  let s := after (.mopMop 0 1 2 31 31 false false) matrix
  s.setH { s.h with array := s.h.array.map fun e => { e with accepted, mvl := if accepted then 2 else 0 } }

theorem witness_ArrayAndChecks_entry :
    let s := queued false
    let t := queued true
    s.power.state = .ready ∧ arrayUsers s 0 = [0] ∧ (∀ c ∈ (s.hart 0).span, arrayFree s c = true)
    ∧ (match (s.hart 0).array with
      | e :: _ => !e.accepted && decide (e.unfold = none)
      | [] => false) = true
    ∧ arrayHolder t 0 = some 0
    ∧ (match (t.hart 0).array with
      | e :: _ => e.accepted && (t.hart 0).span.all fun c => c == 0 || e.reported.any (· == c)
      | [] => false) = true := by decide +kernel

/-- An operation of two cores, of which neither has done its share; and of which core 1 has. -/
theorem witness_ArrayAndChecks_shares : ∀ reported ∈ [[], [1]], let s := (queued true).setH { (queued true).h with
      span := [0, 1], array := (queued true).h.array.map fun e => { e with reported } }
    s.power.state = .ready ∧ arrayHolder s 0 = some 0 ∧ (s.hart 0).span = [0, 1]
    ∧ (match (s.hart 0).array with
      | e :: _ => e.reported == reported
      | [] => false) = true := by decide +kernel

theorem witness_ArrayAndChecks_checks :
    let s := upd small fun h => { h with marks := { h.marks with checks := [(0, 3)] } }
    s.power.state = .ready ∧ (s.hart 0).marks.checks = (0, 3) :: [] ∧ s.events = [] ∧ 2 ≤ s.relcfg.lasting ∧ (s.hart 0).marks.failed = none := by
  decide +kernel

/-- What Teasel finds: nothing, one word with a single bad bit, and two words with two columns. -/
theorem witness_ArrayAndChecks_findings : ∃ f g k : BlockFinding, f.words = [] ∧ f.cols = [] ∧ (∀ h, f.site ≠ .liveScalar h ∧ f.site ≠ .checkpointWord h)
    ∧ g.site = .scratch g.core 4 ∧ g.words = [2] ∧ g.cols.eraseDups.length = 1
    ∧ k.site = .dieCache 5 ∧ k.words = [2, 3] ∧ k.cols = [5, 6] ∧ (2 : Nat) ≠ 3 ∧ (5 : Nat) ≠ 6 ∧ small.events = [] ∧ 2 ≤ small.relcfg.lasting :=
  ⟨{ site := .tile 0 0, core := 0, macroUnit := 0, words := [], cols := [], block := 0 },
    { site := .scratch 1 4, core := 1, macroUnit := 0, words := [2], cols := [5], block := 9 },
    { site := .dieCache 5, core := 0, macroUnit := 0, words := [2, 3], cols := [5, 6], block := 0 },
    rfl, rfl, fun h => ⟨(fun e => nomatch e), (fun e => nomatch e)⟩, rfl, rfl, by decide, rfl, rfl, rfl, by decide, by decide,
    by decide +kernel, by decide +kernel⟩

/-- The word has been corrected just now, so that a single bit in it counts; where it has not, none does. -/
theorem witness_ArrayAndChecks_again : let s := { small with corrections := [(.ram 1 0, 9 * 64 + 2, 0)] }
    (∃ c ∈ s.corrections, c.1 = .ram 1 0 ∧ c.2.1 = 9 * 64 + 2 ∧ s.uptime ≤ c.2.2 + s.relcfg.span) ∧ s.events = [] ∧ small.corrections = [] :=
  ⟨⟨_, List.mem_singleton.mpr rfl, by decide +kernel, by decide +kernel, by decide +kernel⟩, by decide +kernel, by decide +kernel⟩

/-- The digest of the three bytes of "abc" (FIPS 180-4's own example), as the number that its bytes form, the first lowest. -/
theorem test_sha384_of_abc : (toBytes 48 (digest [0x61, 0x62, 0x63])).reverse = [0xCB, 0x00, 0x75, 0x3F, 0x45, 0xA3, 0x5E, 0x8B
    , 0xB5, 0xA0, 0x3D, 0x69, 0x9A, 0xC6, 0x50, 0x07, 0x27, 0x2C, 0x32, 0xAB, 0x0E, 0xDE, 0xD1, 0x63, 0x1A, 0x8B, 0x60, 0x5A, 0x43, 0xFF, 0x5B, 0xED
    , 0x80, 0x86, 0x07, 0x2B, 0xA1, 0xE7, 0xCC, 0x23, 0x58, 0xBA, 0xEC, 0xA1, 0x34, 0xC8, 0x25, 0xA7] := by decide +kernel

theorem test_failed_lane_check_is_counted :
    let s := upd small fun h => { h with marks := { h.marks with checks := [(0, 3)] } }
    (after (.cinchLaneCheck 0 true) s).events.length = 2 ∧ ((after (.cinchLaneCheck 0 true) s).hart 0).marks.failed = some .mismatch
    ∧ (after (.cinchLaneCheck 0 false) s).events = [] ∧ (after (.arrayRetire 0 false) (queued true)).h.array = [] := by decide +kernel

/-! ### The scheduler -/

/-- An interface without a hardware queue asks for no room. -/
theorem makeRoom_without_queues {s : State} {v : Nat} (h : (s.vi v).table = []) : makeRoom s v = s := by
  have hq (k : Nat) : (s.vi v).hasQueue k = false := by simp [Vi.hasQueue, Vi.dw, h, Sparse.get]
  have hw (q : Nat) : hwQueue s v q = none := by simp [hwQueue, hq]
  have he (q : Nat) : queueEntries s v q = [] := by simp [queueEntries, queueDesc, hw]
  have hs : starved s v = [] := by simp [starved, funext he]
  simp [makeRoom, hs]

/-- What the distributor works on once bindings and masks are settled. -/
def settled (s : State) : State := dropBindings (leaveMask (takeTables s))

/-- No core is in service: no slot is idle, and nothing is chosen. -/
theorem witness_SchedulerEvents_nothing : let s := { small with oos := BitVec.allOnes 1024 }
    let u := dropBindings (leaveMask (takeTables s))
    s.power.state = .ready ∧ (idleOrder u).findSome? (chooseFor u) = none ∧ ∀ v, makeRoom u v = u := by
  show _ ∧ (idleOrder (settled { small with oos := BitVec.allOnes 1024 })).findSome? (chooseFor (settled { small with oos := BitVec.allOnes 1024 })) = none
    ∧ ∀ v, makeRoom (settled { small with oos := BitVec.allOnes 1024 }) v = settled { small with oos := BitVec.allOnes 1024 }
  refine ⟨by decide +kernel, ?_, fun v => makeRoom_without_queues ?_⟩
  · have h : idleOrder (settled { small with oos := BitVec.allOnes 1024 }) = [] := by decide +kernel
    rw [h]
    rfl
  · have h : (settled { small with oos := BitVec.allOnes 1024 }).vis = [] := by decide +kernel
    rw [State.vi, h]
    rfl

/-- A waiting task of queue 0 while a task that must leave runs on the only core in service. -/
def choosing : State :=
  let s := upd (tasking 1 1) fun h => { h with preempt := some { element := none, swc := 0xE1, since := 0 } }
  let table : Sparse Word := [(0, 1), (16, 1), (20, 1)]
  { s with
    oos := BitVec.allOnes 1024 - 1
    vis := [(0, { s.vi 0 with table, staged := table })]
    mem := { s.mem with cells := s.mem.cells ++ [(0x8050, 3), (0x8051, 2), (0x8052, 1), (0x8053, 2)] } }

/-- Interface `v` has hardware queue 0 and no other. -/
def OneQueue (s : State) (v : Nat) : Prop := ∀ k < 256, (s.vi v).hasQueue k = (k == 0)

theorem queueEntries_of_one {s : State} {v q : Nat} (h : OneQueue s v) (hq : q ≠ 0) : queueEntries s v q = [] := by
  have hw : hwQueue s v q = none := by
    rw [hwQueue, List.find?_eq_none]
    intro k hk
    rw [h k (List.mem_range.mp hk)]
    cases k with
    | zero => simpa [countBelow] using Ne.symm hq
    | succ k => simp
  simp [queueEntries, queueDesc, hw]

theorem filterMap_first {α : Type} {f : Nat → Option α} {n : Nat} (h : ∀ k, k ≠ 0 → f k = none) :
    (List.range (n + 1)).filterMap f = (f 0).toList := by
  rw [List.range_succ_eq_map, List.filterMap_cons, List.filterMap_map]
  have : (List.range n).filterMap (f ∘ Nat.succ) = [] := List.filterMap_eq_nil_iff.mpr fun k _ => h (k + 1) (by omega)
  rw [this]
  cases f 0 <;> rfl

theorem viChoice_of_one {s : State} {h v : Nat} (hq : OneQueue s v) :
    viChoice s h v = if (s.vi v).tsw = 0 ∨ (s.vi v).hasCore (h / 4) = false then none else queueChoice s v h 0 := by
  have hf : (List.range 256).filterMap (queueChoice s v h) = (queueChoice s v h 0).toList :=
    filterMap_first fun k hk => by rw [queueChoice, queueEntries_of_one hq hk]; rfl
  rw [viChoice, hf]
  split
  · rfl
  · cases queueChoice s v h 0 <;> rfl

theorem starved_of_one {s : State} {v : Nat} (h : OneQueue s v) : starved s v = (queueEntries s v 0).filter fun x => (x.w.slots s v).isNone := by
  have : (List.range 256).flatMap (queueEntries s v) = queueEntries s v 0 := by
    rw [show (256 : Nat) = 255 + 1 from rfl, List.range_succ_eq_map, List.flatMap_cons, List.flatMap_map]
    rw [List.flatMap_eq_nil_iff.mpr fun k _ => queueEntries_of_one h (Nat.succ_ne_zero k), List.append_nil]
  rw [starved, this]

theorem singleton_of {α : Type} {l : List (Nat × α)} {k : Nat} (h : l.map (·.1) = [k]) : ∃ c, l = [c] ∧ c.1 = k := by
  match l, h with
  | [c], h => exact ⟨c, rfl, List.head_eq_of_cons_eq h⟩

/-- What queue 0 gives for hart slot 1 starts. -/
def chosen : Option State := (queueChoice (settled choosing) 0 1 0).map fun c => startEntry (catchUp (settled choosing) [0]) 0 c.1 c.2.1 c.2.2

theorem witness_SchedulerEvents_choice : let s := choosing
    let u := dropBindings (leaveMask (takeTables s))
    s.power.state = .ready ∧ ∃ w, (idleOrder u).findSome? (chooseFor u) = some w ∧ ∀ v, makeRoom w v = w := by
  show _ ∧ ∃ w, (idleOrder (settled choosing)).findSome? (chooseFor (settled choosing)) = some w ∧ ∀ v, makeRoom w v = w
  have one : OneQueue (settled choosing) 0 := by unfold OneQueue; decide +kernel
  have order : idleOrder (settled choosing) = [1, 2, 3] := by decide +kernel
  have ports : (settled choosing).vis.map (·.1) = [0] := by decide +kernel
  have on : ¬(((settled choosing).vi 0).tsw = 0 ∨ ((settled choosing).vi 0).hasCore (1 / 4) = false) := by decide +kernel
  have found : (chosen.map fun w => requestPending w 0 && decide (w.vis.map (·.1) = [0])) = some true := by decide +kernel
  have choose : chooseFor (settled choosing) 1 = chosen := by
    obtain ⟨c, hc, hv⟩ := singleton_of ports
    unfold chooseFor candidatesFor
    rw [hc, List.filterMap_cons, List.filterMap_nil, hv, viChoice_of_one one, if_neg on, chosen]
    cases queueChoice (settled choosing) 0 1 0 <;> rfl
  obtain ⟨w, hw, hp⟩ := Option.map_eq_some_iff.mp found
  simp only [Bool.and_eq_true, decide_eq_true_eq] at hp
  refine ⟨by decide +kernel, w, by rw [order, List.findSome?_cons, choose, hw], fun v => ?_⟩
  by_cases hv : v = 0
  · rw [hv, makeRoom, if_pos hp.1]
  · obtain ⟨c, hc, h0⟩ := singleton_of hp.2
    have : w.vi v = {} := by rw [State.vi, hc, Sparse.get, if_neg (fun e => hv (e.trans h0))]; rfl
    exact makeRoom_without_queues (by rw [this])

theorem witness_SchedulerEvents_start : let t : Task := { vi := 0, start := { poolpart := 0x02010203, ckmask := 0xFFFFFFFF } }
    refusedRoot small t.root = none ∧ codeObject small t.vi (0x1000 : Word).toNat = none := by decide +kernel

/-- The task of `choosing` at the end of its quantum of 5 slot cycles: the entry has core 0 for itself, or the task holds it. -/
def slicing (all : Bool) : State :=
  upd choosing fun h => { h with preempt := none, slots := if all then [0, 1, 2, 3] else [0], counters := { h.counters with slotcyc := 5 } }

/-- The quantum is over. -/
def quantumOver (s : State) : Bool := match queueDesc s (s.hart 0).task.vi (s.hart 0).task.queue with
  | some d => d.quantum != 0 && decide (d.quantum ≤ ((s.hart 0).counters.slotcyc - (s.hart 0).slice).toNat)
  | none => false

theorem witness_SchedulerEvents_slice_goes_on : let s := slicing false
    (s.hart 0).live = true ∧ quantumOver s = true ∧ waitsForSlot s (s.hart 0).task.vi (s.hart 0).task.prio 0 = false := by
  refine ⟨by decide +kernel, by decide +kernel, ?_⟩
  have one : OneQueue (slicing false) 0 := by unfold OneQueue; decide +kernel
  rw [show ((slicing false).hart 0).task.vi = 0 from by decide +kernel, waitsForSlot, starved_of_one one]
  decide +kernel

theorem witness_SchedulerEvents_slice_ends : let s := slicing true
    (s.hart 0).live = true ∧ quantumOver s = true ∧ waitsForSlot s (s.hart 0).task.vi (s.hart 0).task.prio 0 = true := by
  refine ⟨by decide +kernel, by decide +kernel, ?_⟩
  have one : OneQueue (slicing true) 0 := by unfold OneQueue; decide +kernel
  rw [show ((slicing true).hart 0).task.vi = 0 from by decide +kernel, waitsForSlot, starved_of_one one]
  decide +kernel

theorem witness_SchedulerEvents_requests : ∀ w ∈ [Wait.run, .command],
    let s := upd small fun h => { h with wait := w, task := { h.task with area := some 0x60000 } }
    (s.hart 0).live = true ∧ (s.hart 0).preempt = none ∧ (s.hart 0).task.area.isSome = true ∧ (s.hart 0).wait = w := by decide +kernel

/-- PRE_WIN is over, or one cycle is left. -/
theorem witness_SchedulerEvents_window : ∀ p ∈ [(12288, true), (12287, false)],
    let s := { upd small fun h => { h with preempt := some { element := none, swc := 0xE1, since := 0 } } with cycle := BitVec.ofNat 64 p.1 }
    (s.hart 0).live = true ∧ (s.hart 0).preempt = some { element := none, swc := 0xE1, since := 0 } ∧ (s.hart 0).wait = .run
    ∧ (s.hart 0).answers = [] ∧ decide ((s.vi (s.hart 0).task.vi).preWin ≤ (s.cycle - 0).toNat) = p.2 := by decide +kernel

/-- An instruction that has begun is not left before it completes: an answer is there, or a commit is under way (R147, R300). -/
theorem witness_SchedulerEvents_begun : (∀ w : Bool, let s := { upd small fun h => { h with
        preempt := some { element := none, swc := 0xE1, since := 0 }, whole := w, committing := !w } with cycle := 12288 }
      (s.hart 0).live = true ∧ (s.hart 0).preempt = some { element := none, swc := 0xE1, since := 0 } ∧ (s.hart 0).wait = .run
      ∧ ((s.hart 0).whole = true ∨ (s.hart 0).committing = true) ∧ (s.hart 0).dbg.stop = none)
    ∧ (after (.preWinExpiry 0) { upd small fun h => { h with
        preempt := some { element := none, swc := 0xE1, since := 0 }, committing := true } with cycle := 12288 }).h.wait = .run := by
  decide +kernel

/-- A save waits for what is in flight (R301). -/
theorem witness_SchedulerEvents_save_waits : let s := upd inFlight fun h => { h with wait := .save false 0xE0 0, task := { h.task with area := some 0x60000 } }
    (s.hart 0).live = true ∧ (s.hart 0).wait = .save false 0xE0 0 ∧ (s.hart 0).task.area = some 0x60000 ∧ (s.hart 0).gathers ≠ []
    ∧ (after (.saveComplete 0) s).h.wait = .save false 0xE0 0 := by decide +kernel

/-- Translation is not set up for the interface, no object is loaded and no block is poisoned: addresses are their own homes. -/
structure Flat (s : State) (vi : Nat) : Prop where
  build : s.build = {}
  objects : s.objects = []
  tlb : s.tlb = []
  table : (s.vi vi).s1en = false ∧ (s.vi vi).s2en = false ∧ (s.vi vi).hwSize = 0
  clean : s.mem.poison = [] ∧ s.mem.cachePoison = []

theorem deviceHome_flat {s : State} {vi va : Nat} (h : Flat s vi) (hv : va < 2 ^ 30) : deviceHome s vi va false true true = .ok (.home va) := by
  have hm : va % 2 ^ 64 = va := by omega
  have hm' : va % 18446744073709551616 = va := by omega
  have hp : va % 72057594037927936 = va := by omega
  have hc : canonical va = true := by rw [canonical, hm, show va / 2 ^ 55 = 0 by omega]; rfl
  have he : homeExists {} va = true := by
    have h0 : va / 2 ^ 36 = 0 := by omega
    have h1 : va % 2 ^ 36 = va := by omega
    rw [homeExists, if_pos (by omega : va < 2 ^ 48), h0, h1]
    simp; omega
  rw [← h.build] at he
  have hw : (s.vi vi).inWindow va = false := by simp only [Vi.inWindow, h.table.2.2, Nat.add_zero, Bool.and_eq_false_imp, decide_eq_true_eq, decide_eq_false_iff_not]; omega
  simp [deviceHome, translateNow, Machine.translate, pageOf, walkBoth, walkSized, stage2, codeObject, loadedSection, cached, hm', hp, hc, hw, he,
    h.objects, h.tlb, h.table.1, h.table.2.1, h.clean.1, h.clean.2, leafLoc, placePoisoned, Memory.poisoned, State.refuses, Res.bind, Res.map,
    show va < 281474976710656 by omega]

theorem write_poison (m : Memory) (a v n : Nat) : (m.write a v n).poison = m.poison ∧ (m.write a v n).cachePoison = m.cachePoison := by
  induction n generalizing m a v with
  | zero => exact ⟨rfl, rfl⟩
  | succ n ih =>
    obtain ⟨h, h'⟩ := ih (m.setByte a (BitVec.ofNat 8 v)) (a + 1) (v / 256)
    have hs : (m.setByte a (BitVec.ofNat 8 v)).poison = m.poison ∧ (m.setByte a (BitVec.ofNat 8 v)).cachePoison = m.cachePoison := by
      unfold Memory.setByte
      split <;> exact ⟨rfl, rfl⟩
    exact ⟨h.trans hs.1, h'.trans hs.2⟩

theorem flat_write {s : State} {vi : Nat} (h : Flat s vi) (a v n : Nat) : Flat (s.writeHome none a v n) vi := by
  have touched : ∀ n (s : State) b, Flat s vi → Flat (touchLines s none (.home b) n) vi := by
    intro n
    induction n with
    | zero => exact fun _ _ h => h
    | succ n ih =>
      intro s b h
      refine ih _ (b + 64) ?_
      unfold touchLine breakIfWaited
      split
      · have hw := write_poison s.mem (b + 5) Cause.barrierBroken.toNat 1
        simp only [Memory.write, BitVec.ofNat_toNat, BitVec.setWidth_eq] at hw
        exact ⟨h.build, h.objects, h.tlb, h.table, hw.1.trans h.clean.1, hw.2.trans h.clean.2⟩
      · exact ⟨h.build, h.objects, h.tlb, h.table, h.clean⟩
  exact touched _ _ _ ⟨h.build, h.objects, h.tlb, h.table, (write_poison ..).1.trans h.clean.1, (write_poison ..).2.trans h.clean.2⟩

theorem pokeAll_flat {s : State} {vi : Nat} (h : Flat s vi) (ls : List Loc) (hl : ∀ l ∈ ls, ∃ a, l = .home a) (v : Nat) (o : Owner) :
    Flat (pokeAll s o ls v) vi := by
  have all : ∀ (z : List (Loc × Nat)) (s : State), (∀ c ∈ z, ∃ a, c.1 = .home a) → Flat s vi →
      Flat (z.foldl (fun s c => s.poke o (s.ordAt c.1) c.1 (v / 256 ^ c.2 % 256) 1) s) vi := by
    intro z
    induction z with
    | nil => exact fun _ _ h => h
    | cons c z ih =>
      intro s hz h
      obtain ⟨a, ha⟩ := hz c (List.mem_cons_self ..)
      refine ih _ (fun c' h' => hz c' (List.mem_cons_of_mem _ h')) ?_
      simp only [ha]
      exact flat_write h _ _ _
  exact all _ _ (fun c hc => hl c.1 (List.fst_mem_of_mem_zipIdx hc)) h

theorem deviceWrite_flat {s : State} {vi va : Nat} (h : Flat s vi) (v n : Nat) (hv : va + n ≤ 2 ^ 30) :
    ∃ t, deviceWrite s vi va v n = .ok t ∧ Flat t vi := by
  have homes : ∀ n va, va + n ≤ 2 ^ 30 → ∃ l, deviceHomes s vi va true n = .ok l ∧ ∀ x ∈ l, ∃ a, x = .home a := by
    intro n
    induction n with
    | zero => exact fun _ _ => ⟨[], rfl, fun _ h => nomatch h⟩
    | succ n ih =>
      intro va hv
      obtain ⟨l, hl, hh⟩ := ih (va + 1) (by omega)
      refine ⟨.home va :: l, by simp only [deviceHomes, deviceHome_flat h (by omega : va < 2 ^ 30), hl, Res.bind, Res.map], ?_⟩
      intro x hx
      rcases List.mem_cons.mp hx with rfl | hx
      · exact ⟨_, rfl⟩
      · exact hh x hx
  obtain ⟨l, hl, hh⟩ := homes n va hv
  exact ⟨_, by rw [deviceWrite, hl]; rfl, pokeAll_flat h l hh v _⟩

theorem writePieces_flat {s : State} {vi : Nat} (h : Flat s vi) (l : List (Nat × Nat × Nat)) (hl : ∀ c ∈ l, c.1 + c.2.1 ≤ 2 ^ 30) :
    ∃ t, writePieces vi l s = .ok t ∧ Flat t vi := by
  induction l generalizing s with
  | nil => exact ⟨s, rfl, h⟩
  | cons c l ih =>
    obtain ⟨t, ht, hf⟩ := deviceWrite_flat h (c.2.2 % 2 ^ (8 * c.2.1)) c.2.1 (hl c (List.mem_cons_self ..))
    obtain ⟨w, hw, hf'⟩ := ih hf fun c' h' => hl c' (List.mem_cons_of_mem _ h')
    exact ⟨w, by simp only [writePieces, ht, Res.bind, hw], hf'⟩

theorem writeArea_flat {s : State} {h : Hart} (hf : Flat s h.task.vi) (hs : h.span = []) (swc : BitVec 8) (since : Word) :
    ∃ w, writeArea s h false swc since 0x60000 = .ok w := by
  have pieces (l : List (Nat × Nat × Nat)) (hl : ∀ c ∈ l, c.1 + c.2.1 ≤ 2 ^ 30) := writePieces_flat hf l hl
  simp only [writeArea, hs, List.length_nil, writeCores]
  obtain ⟨w, hw, _⟩ := pieces ([(0x60000, 0x100, headerImage h false swc (s.cycle - since).toNat), (0x60000 + 0x100, 0x200, scalarImage h)
    , (0x60000 + 0x300, 0xD00, taskImage h)] ++ (if false = true then [(0x60000 + 0x1000, 0x400, checkpointImage h)] else []) ++ [(0x60000 + 0x1400, 0xC00, 0)])
    (by intro c hc; simp at hc; rcases hc with rfl | rfl | rfl | rfl <;> simp)
  exact ⟨w, by rw [hw]; rfl⟩

/-- A task that is being switched out, on a span that has no core: the pieces of the task go to its area. -/
def leaving : State := upd small fun h => { h with wait := .save false 0xE0 0, span := [], task := { h.task with area := some 0x60000 } }

theorem witness_SchedulerEvents_save : let s := leaving
    let h := s.hart 0
    (s.hart 0).marks.checks = [] ∧ (s.hart 0).committing = false ∧ (s.hart 0).live = true ∧ (s.hart 0).wait = .save false 0xE0 0 ∧ (s.hart 0).task.area = some 0x60000 ∧ (s.hart 0).array = []
    ∧ (s.hart 0).gathers = [] ∧ (s.hart 0).marks.failed = none ∧ (s.hart 0).saveLoss false = none ∧ (s.hart 0).dbg.trace = false
    ∧ ∃ w, writeArea s h false 0xE0 0 0x60000 = .ok w := by
  refine ⟨by decide +kernel, by decide +kernel, by decide +kernel, by decide +kernel, by decide +kernel, by decide +kernel, by decide +kernel, by decide +kernel, by decide +kernel,
    by decide +kernel, ?_⟩
  exact writeArea_flat ⟨rfl, rfl, rfl, by decide +kernel, rfl, rfl⟩ (by decide +kernel) _ _

theorem witness_SchedulerEvents_sequencer : sequencerCandidates small 0 [0] ≠ [] ∧ (small.core 0).chosen = none := by decide +kernel

/-- Hart 0 of VI 0 has run VIQ slot cycles, and an entry of VI 1, whose virtual time is less, waits for its slot. -/
def sharing : State :=
  let s := slicing true
  { s with vis := [(0, { table := [(0, 1), (20, 1), (21, 5 * 2 ^ 32)], vtime := 1 }), (1, { table := [(0, 1), (16, 1), (20, 1)], descs := [(0, 0x4100)] })] }

theorem witness_SchedulerEvents_vi_slice : ∀ k, 0 / 4 * 4 ≤ k → k < 0 / 4 * 4 + 4 → (viSliceOver sharing k = true ↔ k = 0) := by
  have one : OneQueue sharing 1 := by unfold OneQueue; decide +kernel
  have waits : (!(starved sharing 1).isEmpty) = true := by
    rw [starved_of_one one]
    decide +kernel
  have ends : viSliceOver sharing 0 = true := by
    simp only [viSliceOver, Bool.and_eq_true, List.any_eq_true]
    exact ⟨by decide +kernel, (1, { table := [(0, 1), (16, 1), (20, 1)], descs := [(0, 0x4100)] }), List.mem_cons_of_mem _ (List.mem_singleton.mpr rfl),
      by decide +kernel, waits⟩
  intro k _ hk
  match k, hk with
  | 0, _ => simp [ends]
  | 1, _ => exact ⟨fun h => absurd h (by decide +kernel), fun h => by omega⟩
  | 2, _ => exact ⟨fun h => absurd h (by decide +kernel), fun h => by omega⟩
  | 3, _ => exact ⟨fun h => absurd h (by decide +kernel), fun h => by omega⟩

/-- A launch record of two tasks of pool 0x02010203 at 0x9000, whose ENTRY is 0x10000 in a loaded (or refused) object. -/
def launching (state : ObjState) (levels : Nat) : State :=
  let s := tasking 1 1
  { s with
    vis := [(0, { (s.vi 0) with table := [(0, 0xFFFF), (16, 1), (23, 0x1000000)] })]
    mem := { s.mem with cells := s.mem.cells ++ [(0x9000, 0x31), (0x9001, 0x4C), (0x9002, 0x58), (0x9003, 0x44), (0x9004, 1), (0x9006, BitVec.ofNat 8 levels)
                                                 , (0x900A, 1), (0x9020, 3), (0x9021, 2), (0x9022, 1), (0x9023, 2), (0x9024, 0xFF), (0x902A, 3), (0x902B, 5)
                                                 , (0x9040, 2), (0x9044, 2), (0x9045, 2)] }
    objects := [{ id := 1, vi := 0, state, codebase := 0x10000, npage := 1, hashes := [], filled := [0], filling := [], words := []
                  sections := [], scratches := [], kernels := [], errata := 0 }] }

/-- What LREC finds at 0x9000: a refused entry, a bad record, or a good one that its queue has room for. -/
def found (s : State) : Option (Bool × Bool × Bool) := match deviceRead s 0 0x9000 256 with
  | .ok img =>
    let r := recordOf img
    let room : Bool := match queueDesc s 0 (recQueue r) with
      | some d => d.tail - d.head != d.rcap && match deviceWrite s 0 (d.va + 0x20) (recField r 0x2A 2) 2 with
        | .ok v => (pushSlot v 0 (recQueue r) (launchSlot 0x9000 (recQueue r)) 0 (some s.nextLaunch)).isSome
        | _ => false
      | none => false
    some (entryRefused s 0 (recEntry r), launchOk s 0 r, room)
  | _ => none

/-- Two ready harts of core 0, of which the second has not issued yet; and none that is ready. -/
theorem witness_SchedulerEvents_issue : let s : State := { twoHarts with cores := [(0, { poolpart := 0x02010203, issued := [0] })] }
    (∀ m ∈ [0, 1], m / 4 = 0) ∧ leastRecent s [0, 1] = some 1 ∧ leastRecent s [2, 3] = none := by decide +kernel

theorem test_least_recent_issues : leastRecent { twoHarts with cores := [(0, { poolpart := 0x02010203, issued := [1, 0] })] } [0, 1] = some 1 := by
  decide +kernel

/-- A submission port that is free, one that the launch unit judges next, and its turn of the agenda. -/
theorem witness_SchedulerEvents_submission : (small.vi 0).lrec = none ∧ ((after (.lrec 0 0x9000) small).vi 0).lrec = some 0x9000
    ∧ ({ small with agenda := [.judge 0] } : State).agenda = .judge 0 :: [] := by decide +kernel

theorem witness_SchedulerEvents_lrec : (0x9008 : BitVec 64).toNat % 64 ≠ 0 ∧ found (launching .refused 1) = some (true, true, true)
    ∧ found (launching .loaded 0) = some (false, false, true) ∧ found (launching .loaded 1) = some (false, true, true) := by decide +kernel

/-- A launch of two tasks that have ended. -/
theorem witness_SchedulerEvents_launch_end :
    let l : Launch := { id := 4, vi := 0, record := recordOf (1 * 2 ^ 48 + 2 * 2 ^ 512), errata := 0, queue := 0, supplied := 2, ended := 2, poison := none
                        bindings := [] }
    let s := { small with launches := [l] }
    s.launches.find? (fun x => x.id == l.id) = some l ∧ l.closed = false ∧ recTasks l.record ≤ l.supplied ∧ l.supplied ≤ l.ended
    ∧ s.out = [] ∧ s.posted = [] ∧ recField l.record 0x18 8 = 0 := by decide +kernel

theorem witness_SchedulerEvents_killt : hartOfTask small 0 7 = some 0 := by decide +kernel

theorem test_lrec : let judge (a : BitVec 64) (state : ObjState) (levels : Nat) : State := judgeSubmission (after (.lrec 0 a) (launching state levels)) 0
    ((judge 0x9008 .loaded 1).vi 0).status = 14 ∧ ((judge 0x9000 .refused 1).vi 0).status = 11 ∧ ((judge 0x9000 .loaded 0).vi 0).status = 10
    ∧ (judge 0x9000 .loaded 1).launches.map (fun l => (l.id, l.queue, l.supplied)) = [(0, 0, 0)] := by decide +kernel

theorem test_lrec_while_busy_is_dropped : let t := after (.lrec 0 0x9100) (after (.lrec 0 0x9000) small)
    (t.vi 0).lrec = some 0x9000 ∧ (t.vi 0).dropped = true := by decide +kernel

theorem test_killt_ends_the_task : ((after (.killt 0 7) small).hart 0).live = false := by decide +kernel

theorem test_sequencer_alternates : ((after (.vectorSequencerChoice 0 [0]) small).core 0).chosen = some 0 := by decide +kernel

theorem test_choice_starts_a_task : ∃ w, chosen = some w ∧ (w.hart 1).live = true ∧ (w.hart 1).rx 3 = 0 := by
  obtain ⟨w, hw, h⟩ := Option.map_eq_some_iff.mp (by decide +kernel : (chosen.map fun w => (w.hart 1).live && (w.hart 1).rx 3 == 0) = some true)
  exact ⟨w, hw, by simpa using h⟩

/-! ### Outside the core -/

/-- Hart 0 waits for the answer to a request of eight bytes at `loc`. -/
def asking (loc : Loc) : State :=
  { upd small fun h => { h with wait := .answer } with out := [{ id := 6, owner := .hart 0, kind := 0, loc, bytes := 8, value := 0, op := 0 }] }

theorem witness_OutsideEvents_answers : ∀ loc ∈ [Loc.host 3 0x77, .peer 2 0x77], let s := asking loc
    let r : ExtReq := { id := 6, owner := .hart 0, kind := 0, loc, bytes := 8, value := 0, op := 0 }
    s.power.state = .ready ∧ requestOf s r.id = some r ∧ (s.hart 0).live = true ∧ (s.hart 0).wait = .answer := by decide +kernel

theorem witness_OutsideEvents_translation :
    let r : ExtReq := { id := 6, owner := .hart 0, kind := 4, loc := .host 3 0x5000, bytes := 4096, value := 1, op := 0 }
    let s := { upd small fun h => { h with wait := .answer } with out := [r] }
    pageWaiters s 3 0x5000 = [r] ∧ 0x5000 % 4096 = 0 ∧ (∀ size ∈ [12, 30], 12 ≤ size ∧ size ≤ 30) ∧ (s.hart 0).live = true
    ∧ (s.hart 0).wait = .answer ∧ r.op = 0 ∧ r.value.testBit 0 = true := by decide +kernel

/-- Harts 0 and 1 share one request for a page, which an invalidation has discarded or not (R387). -/
def sharedRequest (op : Nat) : State :=
  { twoHarts with
    harts := twoHarts.harts.map fun c => (c.1, { c.2 with wait := .answer })
    out := [{ id := 6, owner := .hart 0, kind := 4, loc := .host 3 0x5000, bytes := 4096, value := 1, op, also := [.hart 1] }], nextReq := 7 }

theorem witness_OutsideEvents_shared : ∀ op ∈ [0, 1], let s := sharedRequest op
    s.power.state = .ready ∧ (pageWaiters s 3 0x5000).map (fun r => (r.op, r.also)) = [(op, [.hart 1])]
    ∧ (∀ n ∈ [0, 1], (s.hart n).live = true ∧ (s.hart n).wait = .answer) := by decide +kernel

theorem test_shared_request_ends_both_waits :
    (after (.atsTranslationCompletion 3 0x5000 12 0x9000 true true) (sharedRequest 0)).harts.map (fun c => c.2.wait) = [.run, .run]
    ∧ (after (.atsTranslationCompletion 3 0x5000 12 0x9000 true true) (sharedRequest 1)).out.map (fun r => (r.id, r.op)) = [(7, 0)]
    ∧ (after (.atsTranslationCompletion 3 0x5000 12 0x9000 true true) (sharedRequest 1)).harts.map (fun c => c.2.wait) = [.answer, .answer] := by
  decide +kernel

/-- The last byte of a stack. -/
theorem witness_OutsideEvents_posted : (∀ k < [(7 : BitVec 8)].length, homeExists {} (64 * 10 ^ 9 - 1 + k) = true) ∧ Quiet small :=
  ⟨by decide +kernel, quiet_of (by decide +kernel)⟩

/-- A window of 256 bytes for package 2. -/
def windowed8 : State := { small with windows := [(3, { base := 0x40000, size := 0x100, perms := 3, mask := [(0, 4)] })] }

/-- The last element of the window, the first that leaves it, and a package that it does not name. -/
theorem witness_OutsideEvents_peer : (∀ c ∈ windowed8.windows, c.2.admits 2 0x400F9 8 true false = false)
    ∧ (∀ c ∈ windowed8.windows, c.2.admits 3 0x40000 8 true false = false)
    ∧ (∃ c ∈ windowed8.windows, c.2.admits 2 0x400F8 8 true false = true) ∧ (∃ c ∈ windowed8.windows, c.2.admits 2 0x400F8 8 true true = true)
    ∧ (∃ c ∈ windowed8.windows, c.2.admits 2 0x400F8 8 false true = true) ∧ (∀ k < 8, homeExists {} (0x400F8 + k) = true)
    ∧ windowed8.mem.poisoned 0x400F8 8 = false ∧ 0x400F8 < 2 ^ 52 := by decide +kernel

/-- Nothing that an invalidation could cover is held: no store, no posted write, no word that a lock wait has still to take. -/
theorem witness_OutsideEvents_unheld : small.saves = [] ∧ small.posted = []
    ∧ ∀ c ∈ small.harts, (small.hart c.1).sb = [] ∧ (small.hart c.1).committing = false
      ∧ ∀ l k b x, (small.hart c.1).wait ≠ .lock l k b x := by
  refine ⟨by decide +kernel, by decide +kernel, fun c hc => ?_⟩
  have h := (by decide +kernel : ∀ c ∈ small.harts, (small.hart c.1).sb = [] ∧ (small.hart c.1).committing = false
    ∧ (small.hart c.1).wait = .run) c hc
  exact ⟨h.1, h.2.1, fun l k b x e => nomatch h.2.2.symm.trans e⟩

theorem witness_OutsideEvents_invalidations : (∀ i ∈ small.invals, i.port ≠ some 3)
    ∧ ((0 : Nat) = 0 ∨ (true = false ∧ 5 = 0)) ∧ ((3 : Nat) = 0 ∨ (false = false ∧ 3 = 3)) ∧ ¬((3 : Nat) = 0 ∨ (false = false ∧ 2 = 3))
    ∧ ¬((3 : Nat) = 0 ∨ (true = false ∧ 3 = 3)) := by decide +kernel

theorem witness_OutsideEvents_complete : ∀ port ∈ [none, some 3],
    let i : Inval := { port, vi := 0, base := 0, size := 4096, whole := false, stage2 := false }
    let s := { small with invals := [i] }
    s.invals[0]? = some i ∧ accessPending s i = false := by decide +kernel

theorem test_answers_reach_the_hart : ((after (.hostPortCompletion 6 (.data 0x1FF)) (asking (.host 3 0x77))).hart 0).answers.map (·.value) = [0x1FF]
    ∧ ((after (.peerTimeout 6) (asking (.peer 2 0x77))).hart 0).answers.map (·.cause) = [Cause.poison] := by decide +kernel

theorem test_windows : (after (.peerAccess 2 9 (.read 8) 0x400F9) windowed8).replies = [.peer 2 9 Cause.pagePerm 0]
    ∧ (after (.peerAccess 2 9 (.write 8 0x55 0xF) 0x400F8) windowed8).mem.read 0x400F8 8 = 5 := by decide +kernel

/-! ### Management -/

/-- READY at 2000 MHz, below every limit for `calm` nanoseconds. -/
def powered (calm : Nat) : State := { small with power := { small.power with plim := 1000, fcur := 2000, fmax := 2400, calm } }

theorem witness_ManagementEvents_tick : let p := (powered 0).power
    p.state = .ready ∧ 599 < p.plim ∧ (∀ j ∈ [(104 : Int)], j < 105) ∧ p.plim < 60000 ∧ (∀ j ∈ [(114 : Int)], j < 115) ∧ (∃ j ∈ [(106 : Int)], 105 < j)
    ∧ (∃ j ∈ [(115 : Int)], 115 ≤ j) := by decide +kernel

/-- At the power limit and at 105 °C, which are neither above nor below. -/
theorem witness_ManagementEvents_at_the_limit : let p := (powered 0).power
    ¬(p.plim < 1000 ∨ ∃ j ∈ [(104 : Int)], 105 < j) ∧ ¬(1000 < p.plim ∧ ∀ j ∈ [(104 : Int)], j < 105)
    ∧ ¬(p.plim < 999 ∨ ∃ j ∈ [(105 : Int)], 105 < j) ∧ ¬(999 < p.plim ∧ ∀ j ∈ [(105 : Int)], j < 105) := by decide +kernel

/-- PWRCFG and POWER reach the machine in one cycle, in either order: PWRCFG decides the limits (R371). -/
theorem witness_ManagementEvents_same_cycle :
    let s := after (.registerWrite .pwrcfg 0x08FC0400) (powered 0)
    s.power.state = .ready ∧ s.power.written = some (s.cycle, 0x400, 0x8FC) ∧ (powered 0).power.written = none := by decide +kernel

theorem test_pwrcfg_wins_the_cycle :
    let s := after (.registerWrite .pwrcfg 0x08FC0400) (powered 0)
    (after (.power (some (800, 2000))) s).power.fmax = 0x8FC ∧ (after (.power (some (800, 2000))) (powered 0)).power.fmax = 2000
    ∧ (after (.power (some (500, 100))) (powered 0)).power.plim = 600
    ∧ (after (.power (some (500, 100))) (powered 0)).power.fmax = 1500 := by decide +kernel

theorem witness_ManagementEvents_clock : 10 ^ 6 ≤ (powered (10 ^ 6)).power.calm
    ∧ (powered 0).power.fcur < (powered 0).power.fmax := by decide +kernel

/-- Bring-ups that succeed and fail: 512 cores that fail are the most, step 4 fails with one more. -/
theorem witness_ManagementEvents_wake : State.reset.power.state = .off ∧ bringUpFailure {} { failCode := none, failedCores := List.range 512 } = none
    ∧ bringUpFailure {} { failCode := none, failedCores := List.range 513 } = some 4 ∧ bringUpFailure {} { failCode := some 1, failedCores := [] } = some 1
    ∧ small.power.state ≠ .off ∧ small.power.hasKeys = true
    ∧ ({ small.power with state := .fault } : Power).state = .fault := by decide +kernel

theorem witness_ManagementEvents_load : small.power.state = .ready ∧ reloads small 0 [] = none ∧ loadStatus small 0 none [] ≠ 0 := by decide +kernel

/-- An object with a task in it, and one that its hashes have refused. -/
theorem witness_ManagementEvents_unload : ∃ o p : Object, coded.power.state = .ready ∧ coded.objects.find? (fun x => x.id == o.id && x.vi == 0) = some o
    ∧ (o.state = .loaded ∧ o.harts coded ≠ [])
    ∧ ¬(p.state = .loaded ∧ ¬(p.harts { coded with objects := [p] } = [] ∧ p.savedAreas { coded with objects := [p] } = []))
    ∧ { coded with objects := [p] }.objects.find? (fun x => x.id == p.id && x.vi == 0) = some p ∧ p.state ≠ .loaded :=
  ⟨coded.objects.head (by decide +kernel), { coded.objects.head (by decide +kernel) with state := .refused }, by decide +kernel, by decide +kernel,
    by decide +kernel, fun h => absurd h.1 (by decide +kernel), by decide +kernel, by decide +kernel⟩

/-- A hart of another object that waits for a fill in a refused one fetches anew when that is unloaded (R43). -/
theorem test_unload_ends_the_wait_for_a_fill :
    let s := { upd coded fun h => { h with wait := .fetch 1 1, pc := 0 } with objects := coded.objects.map fun o => { o with state := .refused } }
    (s.hart 0).wait = .fetch 1 1 ∧ ((after (.unloadObject 0 1) s).hart 0).wait = .run := by decide +kernel

theorem test_clock_steps : (after (.powerManagerTick 60000 [70]) (powered 0)).power.fcur = 1950
    ∧ (after .clockStepUp (powered (10 ^ 6))).power.fcur = 2050 ∧ (after .clockStepUp (powered (10 ^ 6 - 1))).power.fcur = 2000 := by decide +kernel

theorem test_trip_stops_the_package : (after (.powerManagerTick 0 [115]) small).power.state = .fault ∧ ((after .thermalTrip small).hart 0).live = false := by
  decide +kernel

theorem test_wake_from_off : (after (.wakeN { failCode := none, failedCores := [3] }) State.reset).oos = 8
    ∧ (after (.wakeN { failCode := some 5, failedCores := [] }) State.reset).power.code = 5 := by decide +kernel

/-- FIPS 180-4's example: the digest of "abc". -/
theorem test_digest_of_abc : sha384 [0x61, 0x62, 0x63] = toBytes 48 0xcb00753f45a35e8bb5a03d699ac65007272c32ab0eded1631a8b605a43ff5bed8086072ba1e7cc2358baeca134c825a7 := by decide +kernel

theorem test_empty_image_has_status_1 : (after (.loadObject 2 [] []) small).replies = [.load 2 1 0] := by decide +kernel

/-! ### Debugging and registers -/

theorem witness_DebugAndRegisters : small.power.state = .ready ∧ reachedHart small 0 0 = some 0 ∧ (small.hart 0).live = true
    ∧ (small.hart 0).dbg.halted = false ∧ (small.hart 0).dbg.haltReq = false ∧ (small.hart 0).dbg.trace = false ∧ (small.hart 0).wait = .run
    ∧ ((upd small fun h => { h with wait := .command }).hart 0).wait = .command ∧ (small.hart 0).marks.failed = none
    ∧ ((upd small fun h => { h with dbg := { h.dbg with halted := true } }).hart 0).dbg.halted = true
    ∧ reachedHart (upd small fun h => { h with dbg := { h.dbg with halted := true } }) 0 0 = some 0
    ∧ reachedHart (upd small fun h => { h with wait := .command }) 0 0 = some 0 := by decide +kernel

theorem witness_DebugAndRegisters_memory : (∃ l, viewSpots small 0 0x4000 true false = .ok l ∧ ∃ v, readSpots small (small.hart 0).sb (small.hart 0).answers l = .ok v)
    ∧ ∃ l, viewSpots small 0 0x4000 false true = .ok l := by
  refine ⟨⟨_, rfl, ?_⟩, ok_of (by decide +kernel)⟩
  exact ok_of (by decide +kernel)

/-- A stop waits for what is in flight, and a register write of DCTL leaves its bit (R347, R348). -/
theorem witness_DebugAndRegisters_in_flight : let s := upd inFlight fun h => { h with wait := .command }
    reachedHart s 0 0 = some 0 ∧ (s.hart 0).live = true ∧ (s.hart 0).gathers ≠ [] ∧ (s.hart 0).dbg.halted = false
    ∧ (s.hart 0).dbg.haltReq = false ∧ (s.hart 0).wait = .command ∧ ((after (.debugStop 0 0) s).hart 0).dbg.stop = some Cause.debugStop
    ∧ ((after (.debugStop 0 0) s).hart 0).dbg.halted = false := by decide +kernel

theorem test_halt_bit_reads_as_written :
    (after (.debugMemoryViewRead 0 0 .register 0x200) (after (.debugStop 0 0) small)).replies = [.view (some 1)] := by decide +kernel

/-- One doubleword of home memory, whose line a hart has linked: the debugger's write stores it and takes the link. -/
theorem witness_DebugAndRegisters_write : OneHome (viewSpots small 0 0x4008 false true) 0x4008 8 ∧ Quiet small :=
  ⟨oneHome_of (by decide +kernel), quiet_of (by decide +kernel)⟩

theorem test_debug_write : let s := { small with links := [{ agent := 0, vector := false, line := .home 0x4000, place := .home 0x4000, value := 0 }] }
    (after (.debugMemoryViewWrite 0 0 0x4008 7) s).mem.read 0x4008 8 = 7 ∧ (after (.debugMemoryViewWrite 0 0 0x4008 7) s).links = [] := by
  decide +kernel

/-- The last element of the last tile on the last span position; the last doubleword of the last table entry. -/
theorem witness_DebugAndRegisters_bounds : 1 < (small.hart 0).task.start.tiles ∧ 0 < (small.hart 0).span.length ∧ 4095 < 4096 ∧ (small.hart 0).array = []
    ∧ 255 < 256 ∧ 248 < 256 ∧ 248 % 8 = 0 ∧ small.commands = [] ∧ small.copies = [] := by decide +kernel

/-- An idle hart that a stop ends; one array entry in flight, and nothing else; no fault event counted. -/
theorem witness_DebugAndRegisters_tables :
    ((upd small fun h => { h with wait := .idle none false 0 }).hart 0).wait = .idle none false 0
    ∧ (∀ accepted : Bool, let s := queued accepted
      s.power.state = .ready ∧ reachedHart s 0 0 = some 0 ∧ (s.hart 0).live = true ∧ (s.hart 0).array.length = 1 ∧ (s.hart 0).gathers = []
        ∧ (s.hart 0).task.ctab = [])
    ∧ small.events = [] ∧ reachedHart small 0 (small.vi 0).dsel.toNat = some 0 := by decide +kernel

theorem test_in_flight_table : (after (.debugMemoryViewRead 0 0 .table 0) (queued false)).replies = [.view (some 0x1000)]
    ∧ (after (.debugMemoryViewRead 0 0 .table 0x18) (queued true)).replies = [.view (some 0x201)]
    ∧ (after (.debugMemoryViewRead 0 0 .register 0x084) small).replies = [.view (some 0x2000)] := by decide +kernel

theorem test_stop_ends_an_idle_wait : let t := after (.debugStop 0 0) (upd small fun h => { h with wait := .idle none false 0 })
    (t.hart 0).dbg.halted = true ∧ (t.hart 0).wait = .run := by decide +kernel

theorem test_debug_stop_halts_a_waiting_hart : ((after (.debugStop 0 0) (upd small fun h => { h with wait := .command })).hart 0).dbg.halted = true
    ∧ ((after (.debugStop 0 0) small).hart 0).dbg.haltReq = true := by decide +kernel

theorem test_table_write_is_staged : Sparse.get 0 ((after (.interfaceTableWrite 3 0x80 5) small).vi 3).staged 16 = 5
    ∧ Sparse.get 0 ((after (.interfaceTableWrite 3 0x80 5) small).vi 3).table 16 = 0 := by decide +kernel

end Sys2Proof.Tests
end

/-! SUPPORT. The scalar instructions of R59 to R61, R68 and R69, and `sys.svc`, `sys.brk` and `sys.tret` (R73, R74, R76): the values
that they compute, read as numbers, and how each of them ends. -/

namespace Sys2Proof.Machine

open Sys2Proof.Claims

/-! ## Words as numbers -/

/-- A shift left of an integer's word is its product with a power of two. -/
theorem ofInt_shiftLeft (z : Int) (n : Nat) : BitVec.ofInt 64 z <<< n = BitVec.ofInt 64 (z * 2 ^ n) := by
  have h : BitVec.twoPow 64 n = BitVec.ofInt 64 (2 ^ n) := by
    have e : (2 ^ n : Int) = ((2 ^ n : Nat) : Int) := by push_cast; rfl
    rw [e, BitVec.ofInt_natCast]
    exact BitVec.eq_of_toNat_eq (by rw [BitVec.toNat_twoPow, BitVec.toNat_ofNat])
  rw [BitVec.shiftLeft_eq_mul_twoPow, h, ← BitVec.ofInt_mul]

theorem shiftLeft_eq_ofNat_mul (x : Word) (n : Nat) : x <<< n = BitVec.ofNat 64 (x.toNat * 2 ^ n) := by
  apply BitVec.eq_of_toNat_eq
  rw [BitVec.toNat_shiftLeft, BitVec.toNat_ofNat, Nat.shiftLeft_eq]

theorem ushiftRight_eq_ofNat_div (x : Word) (n : Nat) : x >>> n = BitVec.ofNat 64 (x.toNat / 2 ^ n) := by
  rw [← Nat.shiftRight_eq_div_pow, ← BitVec.toNat_ushiftRight, BitVec.ofNat_toNat, BitVec.setWidth_eq]

theorem sshiftRight_eq_ofInt_div (x : Word) (n : Nat) : x.sshiftRight n = BitVec.ofInt 64 (x.toInt / 2 ^ n) := by
  rw [← BitVec.ofInt_toInt (x := x.sshiftRight n), BitVec.toInt_sshiftRight, Int.shiftRight_eq_div_pow]
  push_cast
  rfl

/-- `slt` and `sltu` give the truth of a comparison as a word (R59). -/
theorem bool64_slt (x y : Word) : bool64 (x.slt y) = if x.toInt < y.toInt then 1 else 0 := by
  simp only [bool64, BitVec.slt_iff_toInt_lt]

theorem bool64_ult (x y : Word) : bool64 (x.ult y) = if x.toNat < y.toNat then 1 else 0 := by
  simp only [bool64, BitVec.ult_iff_toNat_lt]

/-- A sign-extended immediate is a word of the same integer (R22). -/
theorem toInt_signExtend_imm (i : BitVec 12) : (i.signExtend 64).toInt = i.toInt := BitVec.toInt_signExtend_of_le (by decide)

/-- A word offset counts words of four bytes (R22, R68). -/
theorem wordTarget_eq {w : Nat} (pc : Word) (i : BitVec w) : wordTarget pc i = pc + BitVec.ofInt 64 (4 * i.toInt) := by
  rw [wordTarget, BitVec.signExtend, ofInt_shiftLeft, Int.mul_comm]
  rfl

/-! ## Instructions that write x[d] -/

/-- An instruction that ends in `writeX` gives what that writes. -/
theorem gives_of_writeX {s : State} {d : BitVec 5} {i : Instr} {u v : Word} (h : exec i s = .next (writeX s d u)) (e : u = v) :
    Gives s d i v :=
  ⟨_, h, e ▸ wrote_writeX s d u⟩

/-! ## Division (R60) -/

theorem divS_zero (a : Word) : divS a 0 = BitVec.allOnes 64 := rfl
theorem remS_zero (a : Word) : remS a 0 = a := rfl
theorem divU_zero (a : Word) : divU a 0 = BitVec.allOnes 64 := rfl
theorem remU_zero (a : Word) : remU a 0 = a := rfl

section
variable {a b : Word} (hb : b ≠ 0)
include hb

theorem divU_eq_udiv : divU a b = a / b := by
  rw [divU, if_neg hb, ← BitVec.toNat_udiv, BitVec.ofNat_toNat, BitVec.setWidth_eq]

theorem remU_eq_umod : remU a b = a % b := by
  rw [remU, if_neg hb, ← BitVec.toNat_umod, BitVec.ofNat_toNat, BitVec.setWidth_eq]

theorem divS_eq_sdiv : divS a b = a.sdiv b := by
  apply BitVec.eq_of_toInt_eq
  rw [divS, if_neg hb, BitVec.toInt_ofInt, BitVec.toInt_sdiv]

theorem remS_eq_srem : remS a b = a.srem b := by
  rw [remS, if_neg hb, ← BitVec.toInt_srem, BitVec.ofInt_toInt]

theorem toInt_remS : (remS a b).toInt = a.toInt.tmod b.toInt := by
  rw [remS_eq_srem hb, BitVec.toInt_srem]

/-- The quotient is a word but where the least integer is divided by -1. -/
theorem toInt_divS (h : ¬(a.toInt = -2 ^ 63 ∧ b.toInt = -1)) : (divS a b).toInt = a.toInt.tdiv b.toInt := by
  have ne : a ≠ BitVec.intMin 64 ∨ b ≠ -1#64 := by
    by_cases ha : a = BitVec.intMin 64
    · exact .inr fun e => h (by subst ha e; decide)
    · exact .inl ha
  rw [divS_eq_sdiv hb, BitVec.toInt_sdiv_of_ne_or_ne _ _ ne]

end

/-- The overflow of R60: the quotient is the dividend and nothing remains. -/
theorem div_overflow {a b : Word} (ha : a.toInt = -2 ^ 63) (hb : b.toInt = -1) : divS a b = a ∧ remS a b = 0 := by
  have ea : a = BitVec.intMin 64 := BitVec.eq_of_toInt_eq (by rw [ha]; decide)
  have eb : b = -1#64 := BitVec.eq_of_toInt_eq (by rw [hb]; decide)
  subst ea eb
  decide

/-- A truncated remainder is zero or has the sign of the dividend. -/
theorem tmod_sign (x y : Int) : x.tmod y = 0 ∨ (0 < x.tmod y ↔ 0 < x) := by
  by_cases h : y ∣ x
  · exact .inl (Int.tmod_eq_zero_of_dvd h)
  · have e : (x.tmod y).sign = x.sign := by rw [Int.sign_tmod, if_neg h]
    exact .inr (by rw [← Int.sign_eq_one_iff_pos, e, Int.sign_eq_one_iff_pos])

theorem natAbs_tmod_lt (x : Int) {y : Int} (h : y ≠ 0) : (x.tmod y).natAbs < y.natAbs := by
  rw [Int.natAbs_tmod]
  exact Nat.mod_lt _ (Int.natAbs_pos.mpr h)

/-! ## Branches and jumps (R68, R69) -/

/-- A branch goes to its target or to the next word, as its condition says. -/
theorem branch_goes (s : State) (a b : BitVec 5) (i : BitVec 12) {cond : Word → Word → Bool} {P : Prop}
    (h : cond (s.h.rx a) (s.h.rx b) = true ↔ P) :
    ∃ t, branch s a b i cond = .next t ∧ (P → Wrote s t 0 0 (s.h.pc + BitVec.ofInt 64 (4 * i.toInt)))
      ∧ (¬P → Wrote s t 0 0 (s.h.pc + 4)) := by
  refine ⟨_, rfl, fun p => ?_, fun p => ?_⟩
  · rw [if_pos (h.mpr p), wordTarget_eq]
    exact wrote_nothing s _
  · rw [if_neg (mt h.mp p)]
    exact wrote_nothing s _

theorem not_slt_iff (x y : Word) : (!x.slt y) = true ↔ y.toInt ≤ x.toInt := by
  rw [Bool.not_eq_true', ← Bool.not_eq_true, BitVec.slt_iff_toInt_lt, Int.not_lt]

theorem not_ult_iff (x y : Word) : (!x.ult y) = true ↔ y.toNat ≤ x.toNat := by
  rw [Bool.not_eq_true', ← Bool.not_eq_true, BitVec.ult_iff_toNat_lt, Nat.not_lt]

theorem execJal_wrote (s : State) (d : BitVec 5) (i : BitVec 21) :
    ∃ t, execJal d i s = .next t ∧ Wrote s t d (s.h.pc + 4) (s.h.pc + BitVec.ofInt 64 (4 * i.toInt)) := by
  rw [← wordTarget_eq]
  exact ⟨_, rfl, wrote_retireTo ..⟩

section
variable {s : State} {a : BitVec 5} {i : BitVec 12} (d : BitVec 5)

theorem execJalr_aligned (h : (s.h.rx a + i.signExtend 64).toNat % 4 = 0) :
    ∃ t, execJalr d a i s = .next t ∧ Wrote s t d (s.h.pc + 4) (s.h.rx a + i.signExtend 64) := by
  refine ⟨_, rfl, ?_⟩
  rw [if_neg (fun n => n h)]
  exact wrote_retireTo ..

theorem execJalr_misaligned (h : (s.h.rx a + i.signExtend 64).toNat % 4 ≠ 0) (c : CanTrap s) :
    ∃ t, execJalr d a i s = .next t ∧ Trapped s t Cause.misaligned s.h.pc s.h.vstart (s.h.rx a + i.signExtend 64) := by
  refine ⟨_, rfl, ?_⟩
  have m := memTrap_trapped s c Cause.misaligned (s.h.rx a + i.signExtend 64).toNat
  rw [BitVec.ofNat_toNat, BitVec.setWidth_eq] at m
  rw [if_pos h]
  exact m

end

/-! ## Open values (log entry 10) -/

/-- An exception may be taken with a drawn value: the draw changes only the supply of open values. -/
theorem trapped_of_draw {s t : State} {cause : BitVec 8} {tpc tvstart tval : Word} (h : Trapped s.draw.2 t cause tpc tvstart tval) :
    Trapped s t cause tpc tvstart tval :=
  { h with rest := congrArg (fun u : State => { u with free := s.free }) h.rest }

theorem trapEntry_draw_trapped {s : State} (c : CanTrap s) (cause : BitVec 8) (tpc tvstart tval : Word) :
    Trapped s (trapEntry s.draw.2 cause tpc tvstart tval) cause tpc tvstart tval :=
  trapped_of_draw (trapEntry_trapped s.draw.2 c cause tpc tvstart tval)

/-! ## Halts (R348) -/

/-- The debug registers of a hart once a stop with the cause is reported. -/
def Debug.reported (d : Debug) (cause : BitVec 8) : Debug :=
  { d with halted := true, haltReq := false, haltElement := none, stepping := false, stepped := false, stop := none, cause }

theorem Hart.quiet_iff {h : Hart} (e : h.array = []) : h.quiet = true ↔ h.gathers = [] ∧ h.marks.checks = [] := by
  simp [Hart.quiet, e]

/-- A hart with an instruction or a check in flight notes the stop and stays where it is. -/
theorem halt_busy {s : State} (q : s.h.quiet = false) (cause : BitVec 8) :
    halt s s.cur cause = s.setH { s.h with dbg := { s.h.dbg with stop := some cause } } := by
  have q' : (s.hart s.cur).quiet = false := q
  rw [halt, q']
  rfl

/-- A quiet hart of no failed interval reports the stop at once. -/
theorem halt_quiet {s : State} (q : s.h.quiet = true) (live : s.h.live = true) (run : s.h.dbg.halted = false)
    (ok : s.h.marks.failed = none) (trace : s.h.dbg.trace = false) (cause : BitVec 8) :
    halt s s.cur cause = s.setH { s.h with dbg := s.h.dbg.reported cause } := by
  have q' : (s.hart s.cur).quiet = true := q
  have live' : (s.hart s.cur).live = true := live
  have run' : (s.hart s.cur).dbg.halted = false := run
  have ok' : (s.hart s.cur).marks.failed = none := ok
  have e : reportHalt s s.cur cause = s.setH { s.h with dbg := s.h.dbg.reported cause } := by
    rw [reportHalt, traceRecord_off trace _ _ _ _ (by decide)]
    rfl
  simp only [halt, q', ok', live', run', e, Bool.not_true, Bool.not_false, Bool.and_self, Bool.false_eq_true, if_false, if_true]

/-- Either way the stop changes the debug registers of the running hart alone. -/
theorem setH_dbg_keeps (s : State) (g : Debug) :
    let t := s.setH { s.h with dbg := g }
    OnlyHart s t ∧ t.h.pc = s.h.pc ∧ t.h.trap = s.h.trap ∧ (∀ r, t.h.rx r = s.h.rx r) ∧ t.h.dbg = g := by
  refine ⟨onlyHart_setH s _, ?_⟩
  rw [State.h_setH]
  exact ⟨rfl, rfl, fun _ => rfl, rfl⟩

/-! ## sys.svc, sys.brk and sys.tret -/

theorem execSysBrk_unclaimed {s : State} (h : s.h.dbg.claim = false) :
    execSysBrk s = .next (trapEntry s.draw.2 Cause.break_ s.h.pc s.h.vstart (BitVec.ofNat 64 s.draw.1)) := by
  rw [execSysBrk, h]
  rfl

theorem execSysBrk_claimed {s : State} (h : s.h.dbg.claim = true) : execSysBrk s = .next (halt s s.cur Cause.break_) := by
  rw [execSysBrk, h]
  rfl

theorem execSysTret_task {s : State} (h : s.h.trap.handler = false) : execSysTret s = .next (wordTrap s Cause.privileged) := by
  rw [execSysTret, if_pos h]

theorem execSysTret_misaligned {s : State} (h : s.h.trap.handler = true) (m : s.h.trap.tpc.toNat % 4 ≠ 0) :
    execSysTret s = .next (memTrap s Cause.misaligned s.h.trap.tpc.toNat) := by
  rw [execSysTret, h, if_neg Bool.noConfusion, if_pos m]

theorem execSysTret_returns {s : State} (h : s.h.trap.handler = true) (m : s.h.trap.tpc.toNat % 4 = 0) :
    execSysTret s = .next (trapReturn s) := by
  rw [execSysTret, h, if_neg Bool.noConfusion, if_neg (fun n => n m)]

/-! ## The statements -/

/-- Settles O9: the quotient and the remainder are those of `Int.tdiv` and `Int.tmod`, but where R60 fixes them. -/
theorem sopDivision : Obligations.SopDivision := by
  unfold Obligations.SopDivision
  intro s d a b x y
  refine ⟨divS x y, remS x y, divU x y, remU x y, gives_of_writeX rfl rfl, gives_of_writeX rfl rfl, gives_of_writeX rfl rfl,
    gives_of_writeX rfl rfl, fun hy => ?_, fun hy => ?_, fun ⟨hx, hy⟩ => div_overflow hx hy, fun ⟨hy, h⟩ => ?_⟩
  · rw [hy]
    exact ⟨divS_zero x, remS_zero x, divU_zero x, remU_zero x⟩
  · rw [divU_eq_udiv hy, remU_eq_umod hy]
    exact ⟨BitVec.toNat_udiv, BitVec.toNat_umod⟩
  · have hy' : y.toInt ≠ 0 := fun e => hy (BitVec.eq_of_toInt_eq e)
    rw [toInt_divS hy h, toInt_remS hy]
    exact ⟨rfl, (Int.tdiv_mul_add_tmod ..).symm, tmod_sign .., natAbs_tmod_lt _ hy'⟩

/-- Settles O10, one function after the other. -/
theorem sopiAndLuiResults : Obligations.SopiAndLuiResults := by
  unfold Obligations.SopiAndLuiResults
  intro s d a i k j x y
  have hy : y.toInt = i.toInt := toInt_signExtend_imm i
  refine ⟨gives_of_writeX rfl rfl, gives_of_writeX rfl rfl, gives_of_writeX rfl rfl, gives_of_writeX rfl rfl,
    gives_of_writeX rfl ?slti, gives_of_writeX rfl (bool64_ult x y), gives_of_writeX rfl ?muli,
    gives_of_writeX rfl (shiftLeft_eq_ofNat_mul x _), gives_of_writeX rfl (ushiftRight_eq_ofNat_div x _),
    gives_of_writeX rfl (sshiftRight_eq_ofInt_div x _), gives_of_writeX rfl (ofInt_shiftLeft j.toInt 11)⟩
  case slti => rw [← hy]; exact bool64_slt x y
  case muli => rw [BitVec.ofInt_mul, BitVec.ofInt_toInt]; rfl

/-- Settles O11: a branch by its condition (`branch_goes`), a jump by its target. -/
theorem controlTransfer : Obligations.ControlTransfer := by
  unfold Obligations.ControlTransfer
  intro s d a b i j x y goes target
  exact ⟨branch_goes s a b i beq_iff_eq, branch_goes s a b i bne_iff_ne, branch_goes s a b i BitVec.slt_iff_toInt_lt,
    branch_goes (cond := fun x y => !x.slt y) s a b i (not_slt_iff x y), branch_goes s a b i BitVec.ult_iff_toNat_lt,
    branch_goes (cond := fun x y => !x.ult y) s a b i (not_ult_iff x y),
    execJal_wrote s d j, execJalr_aligned d, execJalr_misaligned d⟩

/-- A claimed break (R76, R348). -/
theorem sysBrk_claimed {s : State} (c : CanTrap s) (claim : s.h.dbg.claim = true) (live : s.h.live = true)
    (run : s.h.dbg.halted = false) (ok : s.h.marks.failed = none) :
    ∃ t, exec .sysBrk s = .next t ∧ OnlyHart s t ∧ t.h.pc = s.h.pc ∧ t.h.trap = s.h.trap ∧ (∀ r, t.h.rx r = s.h.rx r)
      ∧ (s.h.gathers = [] → s.h.marks.checks = [] → t.h.dbg.halted = true ∧ t.h.dbg.cause = Cause.break_)
      ∧ (¬(s.h.gathers = [] ∧ s.h.marks.checks = []) → t.h.dbg.halted = false ∧ t.h.dbg.stop = some Cause.break_) := by
  obtain ⟨-, -, trace, array⟩ := c
  have quiet := Hart.quiet_iff array
  refine ⟨_, execSysBrk_claimed claim, ?_⟩
  by_cases q : s.h.quiet = true
  · rw [halt_quiet q live run ok trace]
    obtain ⟨only, pc, trap, regs, dbg⟩ := setH_dbg_keeps s (s.h.dbg.reported Cause.break_)
    exact ⟨only, pc, trap, regs, fun _ _ => by rw [dbg]; exact ⟨rfl, rfl⟩, fun n => absurd (quiet.mp q) n⟩
  · rw [halt_busy (Bool.eq_false_iff.mpr q)]
    obtain ⟨only, pc, trap, regs, dbg⟩ := setH_dbg_keeps s { s.h.dbg with stop := some Cause.break_ }
    exact ⟨only, pc, trap, regs, fun g k => absurd (quiet.mpr ⟨g, k⟩) q, fun _ => by rw [dbg]; exact ⟨run, rfl⟩⟩

/-- Settles O15: `sys.svc` and `sys.brk` by the entry to an exception with an open TVAL, a claimed break by the halt, `sys.tret` by its
three cases. -/
theorem serviceBreakAndReturn : Obligations.ServiceBreakAndReturn := by
  unfold Obligations.ServiceBreakAndReturn
  refine ⟨fun s c => ⟨⟨_, _, rfl, trapEntry_draw_trapped c ..⟩, fun claim => ?_, sysBrk_claimed c⟩,
    fun s => ⟨fun h m => ?_, fun h m trace array => ?_, fun c => ?_⟩⟩
  · exact ⟨_, _, execSysBrk_unclaimed claim, trapEntry_draw_trapped c ..⟩
  · refine ⟨_, execSysTret_returns h m, onlyHart_trapReturn s, ?_⟩
    rw [trapReturn_h]
    exact ⟨rfl, rfl, rfl, rfl⟩
  · exact ⟨_, execSysTret_misaligned h m, trapEntry_kills s (.inl h) trace array ..⟩
  · exact ⟨_, execSysTret_task c.1, wordTrap_trapped s c _⟩

end Sys2Proof.Machine

/-! SUPPORT. The functions of `vpred` (R117): they perform every element of [VSTART, VL), whatever the guard holds, and no element
of theirs has a cause (R118). -/

namespace Sys2Proof.Machine

open Sys2Proof.Claims

/-- A predicate function, where nothing stops it, writes what it gives for each element that it performs. -/
theorem predOp_fills {s : State} {n : Instr} {d a b : BitVec 4} {m : BitVec 2} {f : Hart → Vc → Nat → Bool → Bool → Bool}
    {val : Nat → Bool} (r : CompareReady s (s.h.vc m) [] d.toNat) (runs : exec n s = predOp s d a b m f)
    (gives : ∀ i, f s.h (s.h.vc m) i (s.h.pbit (s.h.vc m) a.toNat i) (s.h.pbit (s.h.vc m) b.toNat i) = val i) :
    FillsPred s n (s.h.vc m) (fun _ => true) [] d.toNat val fun _ => 0 := by
  intro quiet
  have run := runElements_ok s (s.h.vc m) (fun _ => true) false
    (fun _ i => Elt.ok (f s.h (s.h.vc m) i (s.h.pbit (s.h.vc m) a.toNat i) (s.h.pbit (s.h.vc m) b.toNat i)) 0)
    val (fun _ => 0) (r.ready.cut _) fun i first last act => ⟨by rw [gives i], quiet i first last act⟩
  obtain ⟨vals, indices⟩ := upTo_vals_spec (s.h.vc m) (fun _ => true) val fun _ => 0
  refine ⟨_, runs, ?_⟩
  rw [vectorGuard_ok r.ready r.guard, claimed_ok _ _ _ _ _ r.slots, run, endRun_ok, ← Strip.after_zero]
  simp only [State.h_setH, State.setH_twice]
  exact (pred_done d.isLt [] [] (s.h.predSlots d.toNat) r.ready _ vals indices
    ((charged_chargeBeats _ _ _).trans (charged_startChecks _ _ _ _ _))).symm

/-- An element is the first set one when it is set and none before it is. -/
theorem isFirst_eq_decide (A : Nat → Bool) (i : Nat) :
    (A i && !(List.range i).any A) = decide (A i = true ∧ ∀ j < i, A j = false) := by
  rw [Bool.eq_iff_iff]
  simp

/-- Settles O33: each function is `predOp` of its Boolean function, and `predOp_fills` says what that writes; `first` looks for a
set bit before the element. -/
theorem predicateLogic : Obligations.PredicateLogic := by
  unfold Obligations.PredicateLogic
  intro s d a b m c A B r gives
  exact ⟨predOp_fills r (show exec _ s = execVpredAnd d a b m s from rfl) fun _ => rfl,
    predOp_fills r (show exec _ s = execVpredOr d a b m s from rfl) fun _ => rfl,
    predOp_fills r (show exec _ s = execVpredXor d a b m s from rfl) fun _ => rfl,
    predOp_fills r (show exec _ s = execVpredAndn d a b m s from rfl) fun _ => rfl,
    predOp_fills r (show exec _ s = execVpredNot d a m s from rfl) fun _ => rfl,
    predOp_fills r (show exec _ s = execVpredSet d m s from rfl) fun _ => rfl,
    predOp_fills r (show exec _ s = execVpredClr d m s from rfl) fun _ => rfl,
    predOp_fills r (show exec _ s = execVpredFirst d a m s from rfl) (isFirst_eq_decide A),
    predOp_fills r (show exec _ s = execVpredCnt d a m s from rfl) fun _ => rfl,
    predOp_fills r (show exec _ s = execVpredMv d a m s from rfl) fun _ => rfl⟩

end Sys2Proof.Machine
